-- ==== Sys2Proof/Word.lean ====
section
/-!
DEFINITION. The word types of the Scaxo X4 model and their plainest readings. The X4's own multi-byte fields are
little-endian (R11); a bit field [high:low] counts bit 0 as the least significant (R10).
-/
namespace Sys2Proof

/-- One byte of memory. -/
abbrev Byte := BitVec 8

/-- A byte travelling with its poison mark (R284): `true` where the codeword it came from is poisoned. -/
abbrev PByte := Byte × Bool

/-- The data of one request, byte 0 first. -/
abbrev Data := List PByte

end Sys2Proof
end

