-- ==== Sys2Proof/Syntax.lean ====
section
/-!
DEFINITION. The commands of the Scaxo X4 block: one constructor of `Instr` for each row of the opcode table, with the
operands that the row's rule gives it. A command is a host command slot reaching the head of its queue, a write to a
register or dictionary object, an instruction of a tile's sequencer, a packet or a pin event, or an event of one of the
X4's own engines. Values that the environment supplies (data of a PCIe read, a received codeword, a sensor reading,
the outcome of an error-correcting decoder on a real error) are operands.
-/
namespace Sys2Proof

/-- Status codes (R373). -/
inductive Status where
  | ok | okNoOp | malformed | unknownOpcode | lengthRange | bufferTooSmall | addressRange | stateConflict
  | versionRetired | accessDenied | dataPoison | uncorrectable | peerUnreachable | linkTimeout | verdictSkipped
  | internal
  deriving DecidableEq, Repr, Inhabited

/-- A command slot: header of 64 bytes and payload of 192 bytes (R360). -/
structure Slot where
  hdr : BitVec 512
  pay : BitVec 1536
  deriving DecidableEq, Repr, Inhabited

/-- A channel of the dictionary server (R398): the BAR0 mailbox, or a source MAC address on the field network. -/
inductive Chan where
  | mailbox
  | fn (mac : BitVec 48)
  deriving DecidableEq, Repr, Inhabited

/-- A VMP message: its 32-byte header (R401) and the data bytes that follow it. -/
structure Vmp where
  hdr  : BitVec 256
  data : List Byte
  deriving DecidableEq, Repr, Inhabited

/-- The Ethernet header of a frame that arrives on the field network (R399), but for its source; it says nothing for the mailbox. -/
structure FnFrame where
  dst       : BitVec 48
  etherType : BitVec 16
  tagged    : Bool
  deriving DecidableEq, Repr, Inhabited

/-- What the FEC decoder of a port makes of an arriving codeword (R306). -/
inductive Fec where
  | clean | corrected | uncorrectable
  deriving DecidableEq, Repr, Inhabited

/-- A VMP message as it arrives, with the header of the frame that brings it (R399, R401). -/
structure VmpRx where
  frame : FnFrame
  msg   : Vmp
  deriving DecidableEq, Repr, Inhabited

/-- A codeword on a Bamek link: its control field and its ten flits (R305). -/
structure Codeword where
  fec   : Fec
  seq   : BitVec 8
  ack   : BitVec 8
  kind  : BitVec 4
  flits : List (BitVec 512)
  deriving DecidableEq, Repr, Inhabited

/-- An error that the controller's decoder meets in one 64 B codeword of a request (R283): confined to one symbol, to
two symbols, or wider. A wider error is either detected or corrected wrongly to `wrong`. -/
inductive EccErr where
  | oneSymbol (word : Nat)
  | twoSymbols (word : Nat)
  | wideDetected (word : Nat)
  | wideWrong (word : Nat) (wrong : List Byte)
  deriving DecidableEq, Repr, Inhabited

/-- How a PCIe read, or a request through the link, ends (R357, R372, R380). -/
inductive HostResult where
  | data (bytes : Data)
  | unsupported
  | timeout
  deriving DecidableEq, Repr, Inhabited

/-- The fetch of a command slot: the slot as read, or a failed fetch (R357). -/
inductive FetchResult where
  | slot (c : Slot)
  | failed
  deriving DecidableEq, Repr, Inhabited

/-- Which routing table a write replaces (R312). -/
inductive RouteTable where
  | groupInject | groupB | groupC | memberInject | memberB | memberC
  deriving DecidableEq, Repr, Inhabited

/-- The clock loops of the module (R427): the root loop, the stack PHY loops, the link PHY loops and the PCIe loop. -/
inductive LoopId where
  | root | memPhy (s : Fin 8) | linkPhy (p : Fin 16) | pcie
  deriving DecidableEq, Repr, Inhabited

/-- The clock domains whose source multiplexers are observed (R428). -/
inductive Domain where
  | control | arith | memCtl
  deriving DecidableEq, Repr, Inhabited

/-- The commands, one constructor for each row of the opcode table, in the table's order. -/
inductive Instr where
  -- 01 the training step
  | stepBegin (sq : Fin 64) (c : Slot)
  | stepEnd (sq : Fin 64) (c : Slot)
  | verdictContribution (step : BitVec 64)
  | commitStart (step : BitVec 64)
  | commitLogWaitEnd (step : BitVec 64)
  | localCommitComplete (step : BitVec 64)
  | stepClose (step : BitVec 64)
  | recordWriteAck (step : BitVec 64) (ok : Bool)
  | earlyRedo (t : Fin 128)
  | ringClear (ch : Chan) (v : List Byte)
  -- 02 the matrix array
  | weavePacketDelivery (src : Fin 174) (dst : Fin 128) (vc : Fin 4)
  | blockCounterIncrement (src : Fin 174) (dst : Fin 128) (vc : Fin 4)
  | weightLoadStart (t : Fin 128)
  | waleFrontStart (t : Fin 128)
  | feederVectorReady (t : Fin 128) (weights : Bool)
  | drainBlockRelease (t : Fin 128)
  | arrayPassComplete (t : Fin 128)
  | zbReplay (t : Fin 128)
  -- 03 tile programs and the vector engine
  | tileRun (sq : Fin 64) (c : Slot)
  | tileProgramStart (t : Fin 128)
  | tileProgramStop (t : Fin 128)
  | stop (t : Fin 128) (imm : BitVec 16)
  | seqNop (t : Fin 128)
  | add (t : Fin 128) (gd ga gb : Fin 32)
  | addi (t : Fin 128) (gd ga : Fin 32) (imm : BitVec 16)
  | sub (t : Fin 128) (gd ga gb : Fin 32)
  | mul (t : Fin 128) (gd ga gb : Fin 32)
  | and (t : Fin 128) (gd ga gb : Fin 32)
  | or (t : Fin 128) (gd ga gb : Fin 32)
  | xor (t : Fin 128) (gd ga gb : Fin 32)
  | shli (t : Fin 128) (gd ga : Fin 32) (imm : BitVec 16)
  | shri (t : Fin 128) (gd ga : Fin 32) (imm : BitVec 16)
  | lui (t : Fin 128) (gd : Fin 32) (imm : BitVec 16)
  | ld (t : Fin 128) (gd ga : Fin 32) (imm : BitVec 16)
  | st (t : Fin 128) (gd ga : Fin 32) (imm : BitVec 16)
  | beq (t : Fin 128) (gd ga : Fin 32) (imm : BitVec 16)
  | bne (t : Fin 128) (gd ga : Fin 32) (imm : BitVec 16)
  | bltu (t : Fin 128) (gd ga : Fin 32) (imm : BitVec 16)
  | jr (t : Fin 128) (ga : Fin 32)
  | sys (t : Fin 128) (gd : Fin 32) (imm : BitVec 16)
  | sysWindowCheck (t : Fin 128) (gd ga : Fin 32)
  | sysWindowClear (t : Fin 128) (gd : Fin 32)
  | pass (t : Fin 128) (ga : Fin 32)
  | move (t : Fin 128) (ga : Fin 32)
  | vloop (t : Fin 128) (ga : Fin 32)
  | bcset (t : Fin 128) (ga : Fin 32) (imm : BitVec 16)
  | bcwait (t : Fin 128) (ga : Fin 32) (imm : BitVec 16)
  | bcwaitResume (t : Fin 128)
  | bcread (t : Fin 128) (gd : Fin 32) (imm : BitVec 16)
  | phase (t : Fin 128) (imm : BitVec 16)
  | fence (t : Fin 128) (imm : BitVec 16)
  | fenceResume (t : Fin 128)
  | redrd (t : Fin 128) (gd : Fin 32) (imm : BitVec 16)
  | redrdResume (t : Fin 128)
  | verd (t : Fin 128) (gd : Fin 32) (imm : BitVec 16)
  | verdResume (t : Fin 128)
  | sharddef (t : Fin 128) (ga gb : Fin 32) (imm : BitVec 16)
  | shardget (t : Fin 128) (gd : Fin 32) (imm : BitVec 16)
  | moverRequestIssue (t : Fin 128)
  | moverRequestDone (t : Fin 128) (idx : Nat)
  | vectorLoopStart (t : Fin 128)
  | vectorBundleIssue (t : Fin 128)
  | vectorLoopEnd (t : Fin 128)
  -- a memory: that of tile 0 to 127, or the row store of engine 0 to 15 as 128 to 143
  | tmemWriteback (m : Fin 144) (word : Nat) (twoBits : Bool)
  | tileFence (ch : Chan) (v : List Byte)
  | tileUnfence (ch : Chan) (v : List Byte)
  -- 04 numerics
  | lossScaleWrite (ch : Chan) (v : List Byte)
  -- 05 row engines: gather
  | tableSet (sq : Fin 64) (c : Slot)
  | gather (sq : Fin 64) (c : Slot)
  | versionRetire (table : Fin 4096)
  | bagDispatch (e : Fin 16)
  | probe (e : Fin 16) (core : Fin 4)
  | waitListRelease (e : Fin 16) (core : Fin 4)
  | rowPieceArrive (e : Fin 16) (core : Fin 4) (idx : Nat)
  | poolPiece (e : Fin 16)
  | bagOutputWrite (e : Fin 16) (core : Fin 4) (thread : Fin 16)
  | prescan (sq : Fin 64) (c : Slot)
  | prescanPosition (e : Fin 16)
  | prescanRowArrive (e : Fin 16) (idx : Nat)
  | emberRefresh (sq : Fin 64) (c : Slot)
  | emberEntryApply (e : Fin 16)
  | emberInstallDone (e : Fin 16)
  | emberSetsWrite (ch : Chan) (v : List Byte)
  -- 06 ownership and updates
  | scatter (sq : Fin 64) (c : Slot)
  | scatterKeysWritten (e : Fin 16)
  | merge (sq : Fin 64) (c : Slot)
  | mergeComplete (e : Fin 16)
  | optimSet (sq : Fin 64) (c : Slot)
  | rowOptimise (sq : Fin 64) (c : Slot)
  | rowOptimiseStart (step : BitVec 64)
  | rowApplyEntry (e : Fin 16)
  | deferDrainBatch (e : Fin 16)
  | deferForward (e : Fin 16) (table : Fin 4096) (row : Nat)
  | deltaMap (sq : Fin 64) (c : Slot)
  | replicaHashCheck (u : Fin 4) (idx : Nat) (rank : Nat)
  | exportCmd (sq : Fin 64) (c : Slot)
  | exportCapture (cmd : Nat)
  | exportCommit (cmd : Nat)
  | importCmd (sq : Fin 64) (c : Slot)
  -- 07 history
  | slotSet (sq : Fin 64) (c : Slot)
  | slotExtend (sq : Fin 64) (c : Slot)
  | histAppend (sq : Fin 64) (c : Slot)
  | appendGroupStart (slot : Fin 256)
  | appendGroupDone (slot : Fin 256)
  | stallExpiry (slot : Fin 256)
  | histWalk (sq : Fin 64) (c : Slot)
  | walkListRead (cmd : Nat)
  | walkPositionWaitEnd (cmd : Nat)
  | forwardedRequestIssue
  | forwardedRequestAck (idx : Nat)
  -- 08 memory tiers
  | memRequest (stack : Fin 8) (channel : Fin 32) (errs : List EccErr)
  | memCeWriteback (stack : Fin 8) (word : Nat)
  | scrubRead (stack : Fin 8) (err : Option EccErr)
  | dieCeCollect (stack : Fin 8) (counts : List Nat)
  | pageWalkStart (quad : Fin 4) (page : Nat)
  | pageWalkDone (quad : Fin 4) (page : Nat)
  | ptInvalidate (ch : Chan) (v : List Byte)
  | ptRootWrite (ch : Chan) (v : List Byte)
  | xlateSpansWrite (ch : Chan) (v : List Byte)
  | farMapWrite (ch : Chan) (v : List Byte)
  | memUeLogClear (ch : Chan) (v : List Byte)
  | farRequestIssue (pair : Fin 8)
  | farRequestDone (pair : Fin 8) (idx : Nat) (r : HostResult)
  -- 09 links and collectives
  | portRetrainTimer (p : Fin 16)
  | portEqualisationDone (p : Fin 16) (reversed : Bool)
  | codewordLock (p : Fin 16)
  | portUp (p : Fin 16)
  | trainingStepTimeout (p : Fin 16)
  | identRx (p : Fin 16)
  | codewordRx (p : Fin 16) (cw : Codeword)
  | nakRx (p : Fin 16) (ack : BitVec 8)
  | replayTimeout (p : Fin 16)
  | ackStallTimeout (p : Fin 16)
  | lockLoss (p : Fin 16)
  | creditRx (p : Fin 16)
  | creditReport (p : Fin 16)
  | packetForward (p : Fin 16) (vc : Fin 4)
  | collDataRx (p : Fin 17)
  | verdictUpRx (p : Fin 17)
  | verdictDownRx (p : Fin 17)
  | pullRx (p : Fin 17)
  | abortRx (p : Fin 17)
  | auditRx (p : Fin 17)
  | refetchRx (p : Fin 17)
  | remoteWriteRx (p : Fin 17)
  | readReqRx (p : Fin 17)
  | readRespRx (p : Fin 17)
  | writeAckRx (p : Fin 17)
  | remoteTimeout (u : Fin 4) (idx : Nat)
  | groupSet (sq : Fin 64) (c : Slot)
  | collective (sq : Fin 64) (c : Slot)
  | collDescriptorStart (u : Fin 4) (idx : Nat)
  | collDescriptorComplete (u : Fin 4) (idx : Nat)
  | collTimeout (u : Fin 4) (idx : Nat)
  | verdictTimeout (step : BitVec 64)
  | permuteReceiveStart (u : Fin 4) (idx : Nat)
  | permuteStageCopy (u : Fin 4) (idx : Nat)
  | nodeIdWrite (ch : Chan) (v : List Byte)
  | linkPortsWrite (ch : Chan) (v : List Byte)
  | portDisableWrite (ch : Chan) (v : List Byte)
  | routingTableWrite (ch : Chan) (which : RouteTable) (v : List Byte)
  -- 10 host interface
  | perstNAssert
  | perstNDeassert
  | hotReset
  | pcieLinkDown
  | functionLevelReset
  | enterHeld
  | hostWatchdogExpiry
  | heartbeat (v : BitVec 64)
  | sqTailDoorbell (q : Fin 64) (v : BitVec 64)
  | cqHeadDoorbell (q : Fin 64) (v : BitVec 64)
  | sqConfigWrite (q : Fin 64) (word : Fin 8) (v : BitVec 64)
  | cqConfigWrite (q : Fin 64) (word : Fin 8) (v : BitVec 64)
  | slotFetch (q : Fin 64) (r : FetchResult)
  | admissionRetry (q : Fin 64)
  | completionRecordWrite
  | cqIrqDelay (q : Fin 64)
  | regionTagAddrWrite (v : BitVec 64)
  | regionHeaderRead (r : HostResult)
  | bar2Read (off : BitVec 36) (len : Nat)
  | bar2Write (off : BitVec 36) (bytes : List Byte) (poisoned : Bool)
  | sessionOpen
  | sessionClose
  | sessionResume
  | sessionRelease
  | sessionReinit
  | reinitTimeout
  | drainEnd
  | nop (sq : Fin 64) (c : Slot)
  | copy (sq : Fin 64) (c : Slot)
  | copyRequestIssue (eng : Fin 16)
  | copyRequestDone (eng : Fin 16) (idx : Nat) (r : HostResult)
  | pcieCompletionTimeout (eng : Fin 16) (idx : Nat)
  | inlineWrite (sq : Fin 64) (c : Slot)
  | fwBlock (sq : Fin 64) (c : Slot)
  -- 11 dictionary
  | mailboxGo
  | vmpRead (ch : Chan) (m : VmpRx)
  | vmpWrite (ch : Chan) (m : VmpRx)
  | vmpDescribe (ch : Chan) (m : VmpRx)
  | memRead (ch : Chan) (m : VmpRx)
  | memWrite (ch : Chan) (m : VmpRx)
  | discover (mac : BitVec 48) (m : VmpRx)
  | unsolicitedOpRx (ch : Chan) (m : VmpRx)
  | fnFrameDiscard (mac : BitVec 48) (m : VmpRx)
  | readLatchExpiry (ch : Chan)
  | writeBufferExpiry (ch : Chan)
  | configStoreCommit
  | cmdActionEnd
  | notifySend
  | plcaBeacon
  | counterSnapshot (ch : Chan) (v : List Byte)
  | counterLive (ch : Chan) (v : List Byte)
  | registerWrite (off : BitVec 24) (bytes : List Byte)
  -- 12 clocks, reset and power
  | lockCheck (l : LoopId) (edges : Nat)
  | rootLockTimeout
  | refLossDetect (edges : Nat)
  | refclkReturn
  | muxSelect (d : Domain) (sel : Bool)
  | muxSwitchDone (d : Domain)
  | clockHangDetect (d : Domain)
  | deviceReset (ch : Chan) (v : List Byte)
  | deviceResetAssert
  | pwrEnRise (vinMv : Nat) (refclk : Bool) (lowMs : Nat)
  | porRelease (slotId : BitVec 5)
  | pwrEnFall
  | vinUndervoltage
  | powerModeWrite (ch : Chan) (v : List Byte)
  | powerModeChangeDone
  | governorSample (mv ma : Nat)
  | parkEnter (ch : Chan) (v : List Byte)
  | parkExit (ch : Chan) (v : List Byte)
  | wakeComplete
  | thermalSample (quads : List Int) (stackTemps : List Int)
  | thermtrip
  | alertClear (ch : Chan) (v : List Byte)
  -- 13 boot, firmware and security
  | bootStart
  | bootHoldExpiry
  | bootHoldWrite (ch : Chan) (v : List Byte)
  | bootContinue (ch : Chan) (v : List Byte)
  | ownerKeyWrite (ch : Chan) (v : List Byte)
  | bootReady
  | bootWatchdogExpiry
  | protInstall (ch : Chan) (v : List Byte)
  | fwReceivePcie (ch : Chan) (v : List Byte)
  | fwReceiveKindle (ch : Chan) (v : List Byte)
  | fwAbort (ch : Chan) (v : List Byte)
  | fwReceiveTimeout
  | kindleBlockTake
  | flashBlockWritten
  | kindlePush (child : Nat)
  | kindleChildDrop (child : Nat)
  | fwImageVerify
  | fwActivate (ch : Chan) (v : List Byte)
  | fwConfirm (ch : Chan) (v : List Byte)
  | measExtend (ch : Chan) (v : List Byte)
  | attestSign (ch : Chan) (v : List Byte)
  | attestSignDone
  -- 14 module
  | tapReset
  | tapExtest
  | tapSamplePreload
  | tapIdcode
  | tapBypass
  -- clocked work
  | arrayBeat (t : Fin 128)
  | codewordTx (p : Fin 16)
  | phaseTimerTick
  | moduleParked
  | deviceFault
  | seqReservedOpcode (t : Fin 128)
  deriving DecidableEq, Repr

end Sys2Proof
end

