-- ==== Sys2Proof/Machine/Bits.lean ====
section
/-!
DEFINITION. Bit fields, little-endian byte strings, saturating counters and small list and vector helpers, which every
unit of the model uses. A field [high:low] counts bit 0 as the least significant (R10); byte strings are little-endian
(R11).
-/
namespace Sys2Proof.Machine

/-- The field [hi:lo] of `x`, as a number (R10). -/
def fld {w : Nat} (x : BitVec w) (hi lo : Nat) : Nat := (x.toNat >>> lo) % 2 ^ (hi + 1 - lo)

/-- Bit `i` of `x` (R10). -/
def bit {w : Nat} (x : BitVec w) (i : Nat) : Bool := x.toNat.testBit i

/-- `x` with the field [hi:lo] replaced by `v`. -/
def setFld {w : Nat} (x : BitVec w) (hi lo v : Nat) : BitVec w :=
  let n := hi + 1 - lo
  let kept := x.toNat - (fld x hi lo) * 2 ^ lo
  BitVec.ofNat w (kept + (v % 2 ^ n) * 2 ^ lo)

/-- A Bool as a number. -/
def b2n (b : Bool) : Nat := if b then 1 else 0

/-- The `n` bytes of `x`, byte 0 first (R11). -/
def leBytes : Nat → Nat → List Byte
  | 0, _ => []
  | n + 1, x => BitVec.ofNat 8 (x % 256) :: leBytes n (x / 256)

/-- The number that a byte string encodes (R11). -/
def leNat : List Byte → Nat
  | [] => 0
  | b :: bs => b.toNat + 256 * leNat bs

/-- The bytes of a word of 8·n bits. -/
def bytesOf {w : Nat} (n : Nat) (x : BitVec w) : List Byte := leBytes n x.toNat

/-- `n` bytes from byte `off` of a byte string; bytes beyond its end read as 0. -/
def slice (bs : List Byte) (off n : Nat) : List Byte :=
  let part := (bs.drop off).take n
  part ++ List.replicate (n - part.length) 0

/-- A number as a signed integer of `w` bits. -/
def toSigned (w x : Nat) : Int := if x % 2 ^ w < 2 ^ (w - 1) then (x % 2 ^ w : Nat) else (x % 2 ^ w : Nat) - (2 ^ w : Nat)

/-- An integer's two's complement of `w` bits. -/
def ofSigned (w : Nat) (x : Int) : Nat := (x % (2 ^ w : Nat)).toNat

/-- The largest value of a 64-bit counter. -/
def u64Max : Nat := 2 ^ 64 - 1

/-- A 64-bit counter after `k` more events; it saturates (R99). -/
def addSat (c k : Nat) : Nat := min (c + k) u64Max

/-- A 32-bit timer after `k` more nanoseconds; it saturates (R52). -/
def addSat32 (c k : Nat) : Nat := min (c + k) (2 ^ 32 - 1)

/-- Element `i` of a counter array after `k` more events. -/
def bump {n : Nat} (v : Vector Nat n) (i : Fin n) (k : Nat) : Vector Nat n := v.set i (addSat v[i] k)

/-- A vector with element `i` changed by `f`. -/
def updAt {α : Type} {n : Nat} (v : Vector α n) (i : Fin n) (f : α → α) : Vector α n := v.set i (f v[i])

/-- A list with every element that `p` selects changed by `f`. -/
def mapIf {α : Type} (p : α → Bool) (f : α → α) (l : List α) : List α := l.map fun x => if p x then f x else x

/-- A list with element `i` changed by `f`. -/
def updIdx {α : Type} (l : List α) (i : Nat) (f : α → α) : List α :=
  match l[i]? with
  | some x => l.set i (f x)
  | none => l

/-- A list without element `i`. -/
def dropIdx {α : Type} (l : List α) (i : Nat) : List α := l.take i ++ l.drop (i + 1)

/-- A list without the first element that `p` selects. -/
def dropFirst {α : Type} (p : α → Bool) : List α → List α
  | [] => []
  | x :: xs => if p x then xs else x :: dropFirst p xs

/-- A number as an index below `n`; a number beyond gives the remainder. -/
def fin {n : Nat} [NeZero n] (x : Nat) : Fin n := Fin.ofNat n x

/-- Whether the two elements of a list are all distinct. -/
def distinct {α : Type} [DecidableEq α] : List α → Bool
  | [] => true
  | x :: xs => !xs.contains x && distinct xs

/-- The number of set bits among the low `n` of `x`. -/
def popcount : Nat → Nat → Nat
  | 0, _ => 0
  | n + 1, x => x % 2 + popcount n (x / 2)

/-- The position of the (k+1)-th set bit among the low `n` bits of `x`, counting from bit 0. -/
def nthSetBit (n x k : Nat) : Option Nat := ((List.range n).filter fun i => x.testBit i)[k]?

/-- The lowest multiple of `a` at or above `x`. -/
def alignUp (x a : Nat) : Nat := (x + (a - 1)) / a * a

/-- x / y rounded up. -/
def ceilDiv (x y : Nat) : Nat := (x + (y - 1)) / y

/-- Whether the ranges [a, a + n) and [b, b + m) share an address. -/
def overlaps (a n b m : Nat) : Bool := decide (a < b + m) && decide (b < a + n) && decide (0 < n) && decide (0 < m)

/-- A list sorted by `key`, with `x` in its place behind equals. -/
def insertBy {α : Type} (key : α → Nat) (x : α) : List α → List α
  | [] => [x]
  | y :: ys => if key x < key y then x :: y :: ys else y :: insertBy key x ys

/-- A list sorted by a key, equals in their order. -/
def sortBy {α : Type} (key : α → Nat) (l : List α) : List α := l.foldl (fun acc x => insertBy key x acc) []

/-- Clean data from bytes. -/
def clean (bs : List Byte) : Data := bs.map fun b => (b, false)

/-- The bytes of data, without their poison marks. -/
def dataBytes (d : Data) : List Byte := d.map Prod.fst

/-- Whether any byte of the data is poisoned. -/
def poisoned (d : Data) : Bool := d.any Prod.snd

/-- Data with every byte marked poisoned when `p` holds. -/
def markAll (p : Bool) (d : Data) : Data := d.map fun b => (b.1, b.2 || p)

/-- `n` bytes of data from byte `off`; bytes beyond the end read as clean zeros. -/
def dslice (d : Data) (off n : Nat) : Data :=
  let part := (d.drop off).take n
  part ++ List.replicate (n - part.length) (0, false)

end Sys2Proof.Machine
end

