-- ==== Sys2Proof/Machine/Float.lean ====
section
/-!
DEFINITION. The number formats of the X4 and exact arithmetic on them (04: R135 to R137, R142, R143). A finite value is held
exactly as sign, magnitude and power of two; each operation is computed exactly and rounded once.
-/
namespace Sys2Proof.Machine

/-- A floating-point format (R135): exponent bits, fraction bits and bias; whether it has infinities. -/
structure Fmt where
  ebits  : Nat
  mbits  : Nat
  bias   : Nat
  hasInf : Bool
  deriving DecidableEq, Repr, Inhabited

/-- E4M3 (R135). -/
def fmtE4M3 : Fmt := { ebits := 4, mbits := 3, bias := 7, hasInf := false }
/-- E5M2 (R135). -/
def fmtE5M2 : Fmt := { ebits := 5, mbits := 2, bias := 15, hasInf := true }
/-- FP16 (R135). -/
def fmtFP16 : Fmt := { ebits := 5, mbits := 10, bias := 15, hasInf := true }
/-- BF16 (R135). -/
def fmtBF16 : Fmt := { ebits := 8, mbits := 7, bias := 127, hasInf := true }
/-- FP32 (R135). -/
def fmtFP32 : Fmt := { ebits := 8, mbits := 23, bias := 127, hasInf := true }

/-- A value: NaN, an infinity, or (-1)^neg × mag × 2^exp (R136). -/
inductive Num where
  | nan (neg : Bool)
  | inf (neg : Bool)
  | fin (neg : Bool) (mag : Nat) (exp : Int)
  deriving DecidableEq, Repr, Inhabited

/-- The largest exponent field of a format. -/
def Fmt.topExp (f : Fmt) : Nat := 2 ^ f.ebits - 1

/-- Exponent of the quantum of subnormals and of the smallest normals. -/
def Fmt.minQ (f : Fmt) : Int := 1 - (f.bias : Int) - (f.mbits : Int)

/-- Bits of a code of the format. -/
def Fmt.width (f : Fmt) : Nat := 1 + f.ebits + f.mbits

/-- The value of a code (R136). In E4M3 only S.1111.111 is NaN. -/
def decodeNum (f : Fmt) (code : Nat) : Num :=
  let m := code % 2 ^ f.mbits
  let e := (code / 2 ^ f.mbits) % 2 ^ f.ebits
  let s := (code / 2 ^ (f.mbits + f.ebits)) % 2 = 1
  if e = f.topExp ∧ f.hasInf then (if m = 0 then .inf s else .nan s)
  else if e = f.topExp ∧ m = 2 ^ f.mbits - 1 then .nan s
  else if e = 0 then .fin s m f.minQ
  else .fin s (2 ^ f.mbits + m) (f.minQ + (e : Int) - 1)

/-- The NaN code the X4 produces, with the given sign (R137). -/
def nanCode (f : Fmt) (neg : Bool) : Nat :=
  let quiet := if f.hasInf then f.topExp * 2 ^ f.mbits + 2 ^ (f.mbits - 1) else f.topExp * 2 ^ f.mbits + 2 ^ f.mbits - 1
  b2n neg * 2 ^ (f.ebits + f.mbits) + quiet

/-- The code of an infinity. -/
def infCode (f : Fmt) (neg : Bool) : Nat := b2n neg * 2 ^ (f.ebits + f.mbits) + f.topExp * 2 ^ f.mbits

/-- The code of the largest finite value, with a sign. -/
def maxCode (f : Fmt) (neg : Bool) : Nat :=
  b2n neg * 2 ^ (f.ebits + f.mbits) + (if f.hasInf then f.topExp * 2 ^ f.mbits - 1 else f.topExp * 2 ^ f.mbits + 2 ^ f.mbits - 2)

/-- How a magnitude between two neighbours is rounded: to nearest with ties to even, up or down in magnitude, or
stochastically with the 24-bit number `u` (R142, R147). -/
inductive Round where
  | nearest | magUp | magDown | stochastic (u : Nat)
  deriving DecidableEq, Repr, Inhabited

/-- Whether the rest `r` of 2^k above the lower neighbour `m` takes the magnitude to the upper one. -/
def roundsUp (mode : Round) (m r k : Nat) : Bool :=
  match mode with
  | .nearest => decide (2 * r > 2 ^ k) || (decide (2 * r = 2 ^ k) && decide (m % 2 = 1))
  | .magUp => decide (r > 0)
  | .magDown => false
  | .stochastic u => decide (u < r * 2 ^ 24 / 2 ^ k)

/-- mag × 2^exp in units of 2^q, rounded. -/
def quantise (mode : Round) (mag : Nat) (exp q : Int) : Nat :=
  if exp ≥ q then mag * 2 ^ (exp - q).toNat
  else
    let k := (q - exp).toNat
    let m := mag / 2 ^ k
    if roundsUp mode m (mag % 2 ^ k) k then m + 1 else m

/-- A magnitude rounded to a format with an unbounded exponent: its units and the quantum's exponent (R143, R147). -/
def roundMag (f : Fmt) (mode : Round) (mag : Nat) (exp : Int) : Nat × Int :=
  let q := max (exp + (Nat.log2 mag : Int) - (f.mbits : Int)) f.minQ
  (quantise mode mag exp q, q)

/-- The code of m × 2^q, if the format has one: `none` on overflow (R143). -/
def packCode (f : Fmt) (neg : Bool) (m : Nat) (q : Int) : Option Nat :=
  let s := b2n neg * 2 ^ (f.ebits + f.mbits)
  if m < 2 ^ f.mbits then some (s + m)
  else
    let big := m = 2 ^ (f.mbits + 1)
    let m' := if big then 2 ^ f.mbits else m
    let q' := if big then q + 1 else q
    let body := (q' - f.minQ + 1).toNat * 2 ^ f.mbits + (m' - 2 ^ f.mbits)
    if body ≤ maxCode f false then some (s + body) else none

/-- A value rounded to FP32 as IEEE 754 prescribes (R124, R143): overflow gives an infinity. -/
def toFP32 (v : Num) : BitVec 32 :=
  match v with
  | .nan s => BitVec.ofNat 32 (nanCode fmtFP32 s)
  | .inf s => BitVec.ofNat 32 (infCode fmtFP32 s)
  | .fin s m e =>
    if m = 0 then BitVec.ofNat 32 (b2n s * 2 ^ 31)
    else
      let r := roundMag fmtFP32 .nearest m e
      BitVec.ofNat 32 ((packCode fmtFP32 s r.1 r.2).getD (infCode fmtFP32 s))

/-- The value of an FP32 code. -/
def num32 (x : BitVec 32) : Num := decodeNum fmtFP32 x.toNat

/-- Whether an FP32 code is NaN. -/
def isNaN32 (x : BitVec 32) : Bool := match num32 x with | .nan _ => true | _ => false

/-- Whether an FP32 code is NaN or infinite. -/
def nonFinite32 (x : BitVec 32) : Bool := match num32 x with | .fin .. => false | _ => true

/-- The signed magnitude of (-1)^s × m × 2^e in units of 2^q, for q at most e. -/
def signedUnits (s : Bool) (m : Nat) (e q : Int) : Int :=
  let u : Int := (m * 2 ^ (e - q).toNat : Nat)
  if s then -u else u

/-- The exact sum of two values. An exact zero sum of nonzero terms, or of zeros of unlike sign, is +0; infinities of
unlike sign give NaN with sign 0 (R137). -/
def numAdd (x y : Num) : Num :=
  match x, y with
  | .nan s, _ => .nan s
  | _, .nan s => .nan s
  | .inf s, .inf t => if s = t then .inf s else .nan false
  | .inf s, _ => .inf s
  | _, .inf s => .inf s
  | .fin s m e, .fin t n g =>
    let q := min e g
    let z := signedUnits s m e q + signedUnits t n g q
    if z = 0 then .fin (m = 0 && n = 0 && s && t) 0 0 else .fin (decide (z < 0)) z.natAbs q

/-- The exact product of two values; zero times infinity gives NaN with sign 0. -/
def numMul (x y : Num) : Num :=
  match x, y with
  | .nan s, _ => .nan s
  | _, .nan s => .nan s
  | .inf s, .inf t => .inf (s != t)
  | .inf s, .fin t n _ => if n = 0 then .nan false else .inf (s != t)
  | .fin s m _, .inf t => if m = 0 then .nan false else .inf (s != t)
  | .fin s m e, .fin t n g => .fin (s != t) (m * n) (e + g)

/-- A value with its sign inverted. -/
def numNeg : Num → Num
  | .nan s => .nan s
  | .inf s => .inf (!s)
  | .fin s m e => .fin (!s) m e

/-- FP32 addition, rounded to nearest even. -/
def fadd (x y : BitVec 32) : BitVec 32 := toFP32 (numAdd (num32 x) (num32 y))
/-- FP32 subtraction, rounded to nearest even. -/
def fsub (x y : BitVec 32) : BitVec 32 := toFP32 (numAdd (num32 x) (numNeg (num32 y)))
/-- FP32 multiplication, rounded to nearest even. -/
def fmul (x y : BitVec 32) : BitVec 32 := toFP32 (numMul (num32 x) (num32 y))
/-- FP32 fused multiply-add x × y + z, rounded once. -/
def ffma (x y z : BitVec 32) : BitVec 32 := toFP32 (numAdd (numMul (num32 x) (num32 y)) (num32 z))

/-- A quotient of magnitudes with enough bits to round to `f`, its lowest bit set when the quotient is inexact. -/
def quotient (f : Fmt) (m n : Nat) (e : Int) : Nat × Int :=
  let k := f.mbits + 4 + Nat.log2 n + 1
  let up := m * 2 ^ k
  (2 * (up / n) + (if up % n = 0 then 0 else 1), e - (k : Int) - 1)

/-- The quotient of two values, ready to be rounded to `f`; 0/0 and ∞/∞ give NaN with sign 0. -/
def numDiv (f : Fmt) (x y : Num) : Num :=
  match x, y with
  | .nan s, _ => .nan s
  | _, .nan s => .nan s
  | .inf _, .inf _ => .nan false
  | .inf s, .fin t _ _ => .inf (s != t)
  | .fin s _ _, .inf t => .fin (s != t) 0 0
  | .fin s m e, .fin t n g =>
    if n = 0 then (if m = 0 then .nan false else .inf (s != t))
    else
      let r := quotient f m n (e - g)
      .fin (s != t) r.1 r.2

/-- FP32 division, rounded to nearest even. -/
def fdiv (x y : BitVec 32) : BitVec 32 := toFP32 (numDiv fmtFP32 (num32 x) (num32 y))

/-- The integer square root of `n` by `k` steps of bisection below 2^k. -/
def isqrt : Nat → Nat → Nat → Nat
  | 0, _, acc => acc
  | k + 1, n, acc => let t := acc + 2 ^ k; isqrt k n (if t * t ≤ n then t else acc)

/-- The square root of a value, ready to be rounded; a negative value other than -0 gives NaN with sign 0. -/
def numSqrt (x : Num) : Num :=
  match x with
  | .nan s => .nan s
  | .inf s => if s then .nan false else .inf false
  | .fin s m e =>
    if m = 0 then .fin s 0 0
    else if s then .nan false
    else
      let odd := e % 2 ≠ 0
      let up := m * 2 ^ (64 + (if odd then 1 else 0))
      let e' := e - 64 - (if odd then 1 else 0)
      let r := isqrt (Nat.log2 up / 2 + 1) up 0
      .fin false (2 * r + (if r * r = up then 0 else 1)) (e' / 2 - 1)

/-- FP32 square root, rounded to nearest even. -/
def fsqrt (x : BitVec 32) : BitVec 32 := toFP32 (numSqrt (num32 x))

/-- Whether x < y, as numbers; false with a NaN. -/
def numLt (x y : Num) : Bool :=
  match x, y with
  | .nan _, _ => false
  | _, .nan _ => false
  | .inf s, .inf t => s && !t
  | .inf s, .fin .. => s
  | .fin .., .inf t => !t
  | .fin s m e, .fin t n g => decide (signedUnits s m e (min e g) < signedUnits t n g (min e g))

/-- Whether x = y, as numbers; false with a NaN. -/
def numEq (x y : Num) : Bool :=
  match x, y with
  | .nan _, _ => false
  | _, .nan _ => false
  | .inf s, .inf t => s == t
  | .fin s m e, .fin t n g => decide (signedUnits s m e (min e g) = signedUnits t n g (min e g))
  | _, _ => false

/-- FP32 x < y; false with a NaN. -/
def flt (x y : BitVec 32) : Bool := numLt (num32 x) (num32 y)
/-- FP32 x = y; false with a NaN. -/
def feq (x y : BitVec 32) : Bool := numEq (num32 x) (num32 y)
/-- FP32 x ≤ y; false with a NaN. -/
def fle (x y : BitVec 32) : Bool := flt x y || feq x y

/-- FP32 1.0. -/
def one32 : BitVec 32 := 0x3F800000

/-- Whether an FP32 code is positive and finite. -/
def posFinite (x : BitVec 32) : Bool :=
  match num32 x with
  | .fin s m _ => !s && decide (m ≠ 0)
  | _ => false

/-- Whether an FP32 code is finite. -/
def finite32 (x : BitVec 32) : Bool := !nonFinite32 x

end Sys2Proof.Machine
end

