-- ==== Sys2Proof/Machine/Convert.lean ====
section
/-!
DEFINITION. Conversion between formats (R142 to R144), the stochastic generator (R145 to R147), row records and their
re-encoding (R139 to R141, R158 to R160).
-/
namespace Sys2Proof.Machine

/-- What a narrow conversion gives: the code, and whether it counts as a saturation or as a NaN conversion (R143). -/
structure Conv where
  code : Nat
  sat  : Bool
  nan  : Bool
  deriving DecidableEq, Repr, Inhabited

/-- A conversion that counts nothing. -/
def plainConv (c : Nat) : Conv := { code := c, sat := false, nan := false }

/-- Conversion to a narrow floating-point format (R143). -/
def toNarrow (f : Fmt) (mode : Round) (v : Num) : Conv :=
  match v with
  | .nan s => plainConv (nanCode f s)
  | .inf s => if f.hasInf then plainConv (infCode f s) else { code := maxCode f s, sat := true, nan := false }
  | .fin s m e =>
    if m = 0 then plainConv (b2n s * 2 ^ (f.ebits + f.mbits))
    else
      let r := roundMag f mode m e
      match packCode f s r.1 r.2 with
      | some c => plainConv c
      | none => { code := maxCode f s, sat := true, nan := false }

/-- A value rounded to an integer (R142, R147). -/
def roundInt (mode : Round) (s : Bool) (m : Nat) (e : Int) : Int :=
  let u : Int := (quantise mode m e 0 : Nat)
  if s then -u else u

/-- Conversion to a two's-complement integer of `w` bits, as its code (R143). -/
def toInteger (w : Nat) (mode : Round) (v : Num) : Conv :=
  let hi : Int := (2 ^ (w - 1) - 1 : Nat)
  let lo : Int := -hi - 1
  match v with
  | .nan _ => { code := 0, sat := false, nan := true }
  | .inf s => { code := ofSigned w (if s then lo else hi), sat := true, nan := false }
  | .fin s m e =>
    let z := roundInt mode s m e
    if z > hi then { code := ofSigned w hi, sat := true, nan := false }
    else if z < lo then { code := ofSigned w lo, sat := true, nan := false }
    else plainConv (ofSigned w z)

/-- One round of Philox-4x32 on (c0, c1, c2, c3) with key (k0, k1) (R145). -/
def philoxRound (c : Nat × Nat × Nat × Nat) (k0 k1 : Nat) : Nat × Nat × Nat × Nat :=
  let p0 := 0xD2511F53 * c.1
  let p1 := 0xCD9E8D57 * c.2.2.1
  ((p1 / 2 ^ 32) ^^^ c.2.1 ^^^ k0, p1 % 2 ^ 32, (p0 / 2 ^ 32) ^^^ c.2.2.2 ^^^ k1, p0 % 2 ^ 32)

/-- `n` further rounds, the key advancing before each (R145). -/
def philoxRounds : Nat → Nat × Nat × Nat × Nat → Nat → Nat → Nat × Nat × Nat × Nat
  | 0, c, _, _ => c
  | n + 1, c, k0, k1 =>
    let k0' := (k0 + 0x9E3779B9) % 2 ^ 32
    let k1' := (k1 + 0xBB67AE85) % 2 ^ 32
    philoxRounds n (philoxRound c k0' k1') k0' k1'

/-- Philox-4x32 with 10 rounds: output word `w` (R145). -/
def philox (seed : BitVec 64) (c0 c1 c2 c3 w : Nat) : Nat :=
  let k0 := seed.toNat % 2 ^ 32
  let k1 := seed.toNat / 2 ^ 32
  let x := philoxRounds 9 (philoxRound (c0, c1, c2, c3) k0 k1) k0 k1
  match w % 4 with
  | 0 => x.1
  | 1 => x.2.1
  | 2 => x.2.2.1
  | _ => x.2.2.2

/-- Rounding mode of element `idx` of a tensor: domain 0 for tiles, 3 for collective units (R146). -/
def tensorRound (seed : BitVec 64) (domain tensor idx step : Nat) : Round :=
  .stochastic (philox seed (idx / 4 % 2 ^ 32) (domain * 2 ^ 28 + tensor % 2 ^ 16) (step % 2 ^ 32) (step / 2 ^ 32) (idx % 4) / 2 ^ 8)

/-- Rounding mode of element `e` of a row: domain 1 for codes and residuals, 2 for optimiser state (R146). -/
def rowRound (seed : BitVec 64) (domain table row e step : Nat) : Round :=
  .stochastic (philox seed (row % 2 ^ 32) (domain * 2 ^ 28 + (row / 2 ^ 32 % 2 ^ 8) * 2 ^ 20 + (table % 2 ^ 12) * 2 ^ 8 + e / 4 % 2 ^ 8)
    (step % 2 ^ 32) (step / 2 ^ 32) (e % 4) / 2 ^ 8)

/-- Type codes of R76 that name a floating-point format: 0 E4M3, 1 E5M2, 4 BF16, 5 FP16, 6 FP32. -/
def typeFmt : Nat → Option Fmt
  | 0 => some fmtE4M3
  | 1 => some fmtE5M2
  | 4 => some fmtBF16
  | 5 => some fmtFP16
  | 6 => some fmtFP32
  | _ => none

/-- Bytes of a row of residuals (R140). `u8` selects U8 tables. -/
def residualBytes (u8 : Bool) (d : Nat) : Nat := if u8 then 32 * ceilDiv d 32 else 32 * ceilDiv d 64

/-- Bytes of a row record (R139). -/
def recordBytes (u8 : Bool) (d : Nat) : Nat := if u8 then 32 * ceilDiv (4 + d) 32 else 32 * ceilDiv (4 + d / 2) 32

/-- Code `e` of a packed string of codes: a byte each, or a nibble each, low nibble first (R138). -/
def codeAt (u8 : Bool) (bs : List Byte) (e : Nat) : Nat :=
  if u8 then (bs.getD e 0).toNat
  else if e % 2 = 0 then (bs.getD (e / 2) 0).toNat % 16 else (bs.getD (e / 2) 0).toNat / 16

/-- Codes packed into bytes (R138). -/
def packCodes (u8 : Bool) (cs : List Nat) : List Byte :=
  if u8 then cs.map fun c => BitVec.ofNat 8 c
  else (List.range (ceilDiv cs.length 2)).map fun i => BitVec.ofNat 8 (cs.getD (2 * i) 0 % 16 + 16 * (cs.getD (2 * i + 1) 0 % 16))

/-- SCALE of a record, as a value (R139). -/
def recScale (rec : List Byte) : Num := decodeNum fmtFP16 (leNat (rec.take 2))
/-- OFFSET of a record, as a value (R139). -/
def recOffset (rec : List Byte) : Num := decodeNum fmtFP16 (leNat ((rec.drop 2).take 2))

/-- Whether SCALE and OFFSET of a record keep to R139: SCALE +0 or positive finite, OFFSET finite. -/
def recLegal (rec : List Byte) : Bool :=
  (match recScale rec with | .fin s _ _ => !s | _ => false) && (match recOffset rec with | .fin .. => true | _ => false)

/-- The gathered value of element `e` (R141). -/
def gatheredValue (u8 : Bool) (rec : List Byte) (e : Nat) : BitVec 32 :=
  let scale := recScale rec
  let offset := recOffset rec
  match scale with
  | .fin false 0 _ => toFP32 offset
  | _ => toFP32 (numAdd (numMul scale (.fin false (codeAt u8 (rec.drop 4) e) 0)) offset)

/-- The master value of element `e`, with its residual (R141). -/
def masterValue (u8 : Bool) (rec res : List Byte) (e : Nat) : BitVec 32 :=
  let k := if u8 then 8 else 4
  let scale := recScale rec
  let offset := recOffset rec
  match scale with
  | .fin false 0 _ => toFP32 offset
  | _ =>
    let r := toSigned k (codeAt u8 res e)
    let q : Int := (codeAt u8 (rec.drop 4) e * 2 ^ k : Nat) + r
    let scaled := numMul scale (.fin false 1 (-(k : Int)))
    toFP32 (numAdd (numMul scaled (.fin (decide (q < 0)) q.natAbs 0)) offset)

/-- FP16 rounding towards -∞ (`up` false) or +∞ (`up` true) of a finite value in range. -/
def fp16Directed (up : Bool) (v : Num) : Nat :=
  match v with
  | .fin s m e =>
    if m = 0 then b2n s * 2 ^ 15
    else
      let r := roundMag fmtFP16 (if s = up then .magDown else .magUp) m e
      (packCode fmtFP16 s r.1 r.2).getD (infCode fmtFP16 s)
  | .inf s => infCode fmtFP16 s
  | .nan s => nanCode fmtFP16 s

/-- FP32 rounding towards +∞ of a finite positive value. -/
def fp32Up (v : Num) : Num :=
  match v with
  | .fin s m e =>
    if m = 0 then v
    else
      let r := roundMag fmtFP32 (if s then .magDown else .magUp) m e
      .fin s r.1 r.2
  | _ => v

/-- What a re-encoding did: the record and residual row (unless the row stays as it was), and the counts of R158. -/
structure Reencoded where
  record    : List Byte
  res       : List Byte
  sat       : Nat
  flat      : Bool
  nonfinite : Bool
  deriving DecidableEq, Repr, Inhabited

/-- The largest or smallest of a list of FP32 values. -/
def extreme (largest : Bool) : List (BitVec 32) → BitVec 32
  | [] => 0
  | [x] => x
  | x :: xs => let y := extreme largest xs; if (if largest then flt y x else flt x y) then x else y

/-- A value clamped to the finite range of FP16 (R158). -/
def clampFP16 (x : BitVec 32) : BitVec 32 :=
  if flt 0x477FE000 x then 0x477FE000 else if flt x 0xC77FE000 then 0xC77FE000 else x

/-- Whether the clamp of R158 changes a value. -/
def clamps (x : BitVec 32) : Bool := flt 0x477FE000 x || flt x 0xC77FE000

/-- Code and residual of one element (R158): (code, residual, saturated). -/
def encodeElem (u8 : Bool) (offset inv : BitVec 32) (mode : Round) (v : BitVec 32) : Nat × Nat × Bool :=
  let k := if u8 then 8 else 4
  let c := if u8 then 255 else 15
  let x := fmul (fsub v offset) inv
  let q : Int := match num32 x with
    | .fin s m e => roundInt mode s m e
    | .inf s => if s then -1 else (c * 2 ^ k : Nat) + 1
    | .nan _ => 0
  let top : Int := (c * 2 ^ k : Nat)
  let q' := if q > top then top else if q < 0 then 0 else q
  let code := ((q' + (2 ^ (k - 1) : Nat)) / (2 ^ k : Nat)).toNat
  let res := q' - (code * 2 ^ k : Nat)
  (code, ofSigned k res, decide (q > top) || decide (q < 0))

/-- The in-engine min/max pass (R158 to R160): a row of new master values into record and residuals. `round e` is the
rounding of element `e` in domain 1. -/
def reencode (u8 : Bool) (vs : List (BitVec 32)) (round : Nat → Round) : Reencoded :=
  let d := vs.length
  let size := recordBytes u8 d
  let pad (bs : List Byte) (n : Nat) : List Byte := bs ++ List.replicate (n - bs.length) 0
  if vs.any nonFinite32 then { record := [], res := [], sat := 0, flat := false, nonfinite := true }
  else
    let lo0 := extreme false vs
    let hi0 := extreme true vs
    let lo := clampFP16 lo0
    let hi := clampFP16 hi0
    let cs := vs.map clampFP16
    let clampCount := b2n (clamps lo0) + b2n (clamps hi0)
    if feq lo hi then
      let off := (toNarrow fmtFP16 .nearest (num32 lo)).code
      { record := pad (leBytes 2 0 ++ leBytes 2 off) size, res := List.replicate (residualBytes u8 d) 0, sat := clampCount,
        flat := true, nonfinite := false }
    else
      let offCode := fp16Directed false (num32 lo)
      let offN := decodeNum fmtFP16 offCode
      let range := fp32Up (numAdd (num32 hi) (numNeg offN))
      let c : Num := .fin false (if u8 then 255 else 15) 0
      let scaleCode := fp16Directed true (numDiv fmtFP16 range c)
      let inv := toFP32 (numDiv fmtFP32 (.fin false 1 (if u8 then 8 else 4)) (decodeNum fmtFP16 scaleCode))
      let es := (cs.zip (List.range d)).map fun p => encodeElem u8 (toFP32 offN) inv (round p.2) p.1
      let sats := (es.filter fun x => x.2.2).length
      { record := pad (leBytes 2 scaleCode ++ leBytes 2 offCode ++ packCodes u8 (es.map fun x => x.1)) size,
        res := pad (packCodes u8 (es.map fun x => x.2.1)) (residualBytes u8 d), sat := clampCount + sats,
        flat := false, nonfinite := false }

end Sys2Proof.Machine
end

