-- ==== Sys2Proof/Machine/Hash.lean ====
section
/-!
DEFINITION. The check codes of the X4: CRC-32C (R308, R241), SHA-256 (R238, R241, R380, R473) and the Philox generator of
stochastic rounding (R145).
-/
namespace Sys2Proof.Machine

/-- Eight steps of the reflected CRC-32C polynomial 0x82F6_3B78. -/
def crcStep : Nat → Nat → Nat
  | 0, c => c
  | n + 1, c => crcStep n (if c % 2 = 1 then (c / 2) ^^^ 0x82F63B78 else c / 2)

/-- CRC-32C of a byte string (Castagnoli polynomial, reflected, initial value and final XOR all ones). -/
def crc32c (bs : List Byte) : BitVec 32 :=
  BitVec.ofNat 32 ((bs.foldl (fun c b => crcStep 8 (c ^^^ b.toNat)) 0xFFFFFFFF) ^^^ 0xFFFFFFFF)

/-- Whether `d` or one of the `n` numbers after it divides `p` evenly. -/
def hasFactor (p : Nat) : Nat → Nat → Bool
  | 0, _ => false
  | n + 1, d => p % d == 0 || hasFactor p n (d + 1)

/-- The primes among the `n` numbers from `p` on, smallest first (below 324 a composite number has a factor up to 17). -/
def primesFrom : Nat → Nat → List Nat
  | 0, _ => []
  | n + 1, p => if hasFactor p (min 16 (p - 2)) 2 then primesFrom n (p + 1) else p :: primesFrom n (p + 1)

/-- The greatest `x`, built bit by bit from bit `n - 1` down on top of `x`, whose power `k` is at most `goal`. -/
def rootBits (k goal : Nat) : Nat → Nat → Nat
  | 0, x => x
  | n + 1, x => rootBits k goal n (if (x + 2 ^ n) ^ k ≤ goal then x + 2 ^ n else x)

/-- The first 32 bits after the binary point of the root of degree `k` of `p`, from which SHA-256 takes its constants. -/
def rootFraction (k p : Nat) : BitVec 32 := BitVec.ofNat 32 (rootBits k (p * 2 ^ (32 * k)) 37 0)

/-- The constants of the 64 rounds: cube roots of the 64 primes below 312. -/
def roundConstants : List (BitVec 32) := (primesFrom 310 2).map (rootFraction 3)

/-- The chaining value of SHA-256 as two queues of four words, newest first: `up` holds the words FIPS 180-4 calls a to d and
`low` those it calls e to h. -/
structure Digest where
  up  : List (BitVec 32)
  low : List (BitVec 32)
  deriving DecidableEq, Repr, Inhabited

/-- The chaining value before the first block: square roots of the first eight primes. -/
def Digest.start : Digest :=
  { up := (primesFrom 6 2).map (rootFraction 2), low := (primesFrom 9 11).map (rootFraction 2) }

/-- The exclusive or of `x` turned right by each of `ns` places. -/
def turned (x : BitVec 32) (ns : List Nat) : BitVec 32 := ns.foldl (fun acc n => acc ^^^ x.rotateRight n) 0

/-- The bits of `y` where `x` has ones and those of `z` where it has zeros. -/
def chosen (x y z : BitVec 32) : BitVec 32 := z ^^^ (x &&& (y ^^^ z))

/-- The bits that at least two of three words have. -/
def agreed (x y z : BitVec 32) : BitVec 32 := (x &&& y) ||| (z &&& (x ||| y))

/-- One round over the two queues, `add` being its constant plus its message word: a new word enters each queue and the oldest
leaves it. -/
def Digest.turn (q : Digest) (add : BitVec 32) : Digest :=
  match q.up, q.low with
  | [u0, u1, u2, u3], [l0, l1, l2, l3] =>
    let mix := l3 + add + turned l0 [6, 11, 25] + chosen l0 l1 l2
    { up := [mix + turned u0 [2, 13, 22] + agreed u0 u1 u2, u0, u1, u2], low := [u3 + mix, l0, l1, l2] }
  | _, _ => q

/-- `n` further message words in front of `ws`, the words so far with the newest first. -/
def moreWords : Nat → List (BitVec 32) → List (BitVec 32)
  | 0, ws => ws
  | n + 1, ws =>
    let near := ws.getD 1 0
    let far := ws.getD 14 0
    let word := turned near [17, 19] ^^^ (near >>> 10)
    moreWords n ((ws.getD 15 0 + ws.getD 6 0 + word + (turned far [7, 18] ^^^ (far >>> 3))) :: ws)

/-- The `n` big-endian words at the start of `bs`, in front of `acc`, the last one first. -/
def blockWords : Nat → List Byte → List (BitVec 32) → List (BitVec 32)
  | 0, _, acc => acc
  | n + 1, bs, acc => blockWords n (bs.drop 4) (BitVec.ofNat 32 (leNat (bs.take 4).reverse) :: acc)

/-- One 64-byte block taken into the chaining value. -/
def Digest.absorb (q : Digest) (block : List Byte) : Digest :=
  let adds := roundConstants.zipWith (· + ·) (moreWords 48 (blockWords 16 block [])).reverse
  let r := adds.foldl Digest.turn q
  { up := q.up.zipWith (· + ·) r.up, low := q.low.zipWith (· + ·) r.low }

/-- `n` blocks taken in, one after the other. -/
def Digest.absorbAll : Nat → List Byte → Digest → Digest
  | 0, _, q => q
  | n + 1, bs, q => Digest.absorbAll n (bs.drop 64) (q.absorb (bs.take 64))

/-- A message with the closing bytes of SHA-256: a one bit, zeros, and its length in bits as a big-endian 64-bit number. -/
def closedMessage (bs : List Byte) : List Byte :=
  bs ++ 0x80 :: List.replicate ((119 - bs.length % 64) % 64) 0 ++ (leBytes 8 (8 * bs.length)).reverse

/-- SHA-256 of a byte string, as its 32 bytes. -/
def sha256 (bs : List Byte) : List Byte :=
  let message := closedMessage bs
  let q := Digest.absorbAll (message.length / 64) message .start
  (q.up ++ q.low).flatMap fun w => (leBytes 4 w.toNat).reverse

/-- SHA-256 as a 256-bit value whose byte 0 is the first byte of the hash. -/
def sha256Word (bs : List Byte) : BitVec 256 := BitVec.ofNat 256 (leNat (sha256 bs))

end Sys2Proof.Machine
end

