-- ==== Sys2Proof/Config.lean ====
section
/-!
DEFINITION. What one unit or one implementation fixes, and the free values: constants without a body, so that nothing can
be proved of them beyond what holds for every value.
-/
namespace Sys2Proof.Config

/-- A fresh open value: the k-th number that the spec leaves open (log entry 3). -/
opaque freeNat : Nat → Nat

/-- A byte of a memory whose contents are lost, by the loss and the address (R430, log entry 3). -/
opaque lostByte : Nat → Nat → Byte

/-- The unit's serial number, 16 bytes (R421). -/
opaque unitSerial : Nat
/-- SILICON_STEP (R421). -/
opaque siliconStep : BitVec 8
/-- BOOT_ROM_VERSION (R421). -/
opaque bootRomVersion : BitVec 32

/-- ARITH_CLOCK_KHZ in BALANCED: 6 GHz / 7, whose rounding to whole kHz the spec leaves open (R440, R450). -/
opaque balancedKhz : Nat

/-- IMAGE_KEY: the fused key that verifies images and the factory protection blob (R453). -/
opaque imageKey : List Byte
/-- IDENTITY_KEY: the public part of the identity key (R453). -/
opaque identityKey : List Byte
/-- IDENTITY_CERT (R476). -/
opaque identityCert : List Byte
/-- The image that bank A holds as manufactured (R454). -/
opaque shippedImage : List Byte
/-- The factory protection blob as bytes (R462). -/
opaque factoryBlob : List Byte
/-- COOLANT_IN at a time, in thousandths of a degree (R495). -/
opaque coolantIn : Nat → BitVec 32
/-- COOLANT_OUT at a time (R495). -/
opaque coolantOut : Nat → BitVec 32
/-- CONVERTER_TEMP at a time (R495). -/
opaque converterTemp : Nat → BitVec 32

/-- The results of the class T operations (R124): EXP of a finite FP32 code, held to 2 units in the last place by `expOp`, and likewise the
next three. -/
opaque expOpen : BitVec 32 → BitVec 32
/-- LOG of a positive finite FP32 code (R124). -/
opaque logOpen : BitVec 32 → BitVec 32
/-- TANH of a finite FP32 code (R124). -/
opaque tanhOpen : BitVec 32 → BitVec 32
/-- SIGMOID of a finite FP32 code (R124). -/
opaque sigmoidOpen : BitVec 32 → BitVec 32
/-- How far RECIP, RSQRT and SQRT of a code lie from the rounded exact value, in units of the last place (R124). -/
opaque transUlp : Nat → BitVec 32 → Nat
/-- Which of two zeros of unlike sign MAX (true) or MIN takes: the first (R123, R128). -/
opaque zeroTie : Bool → Nat → Nat → Bool
/-- The reduction of elements that are no floating values (R128), by op, elements (none where disabled) and the value before. -/
opaque redOpen : Nat → List (Option Nat) → BitVec 32 → BitVec 32
/-- What such a reduction adds to the non-finite count (R128). -/
opaque redOpenCount : Nat → List (Option Nat) → Nat
/-- The bits above the target's code in an element that CVT gives (R123), by target and operands. -/
opaque cvtHigh : Nat → Nat → Nat → Nat
/-- The reduced value of an element under TREE, by group, sequence number and element: what a member that holds only the converted result
does not know of it (R332). -/
opaque treeSum : Nat → Nat → Nat → BitVec 32
/-- The completion timeout in nanoseconds at a code other than the default (R350). -/
opaque completionTimeout : BitVec 4 → Nat
/-- Whether an SLH-DSA signature over a message verifies under a key. -/
opaque slhVerify : List Byte → List Byte → List Byte → Bool
/-- The SLH-DSA signature of a message by the unit's identity key. -/
opaque slhSign : List Byte → List Byte

end Sys2Proof.Config
end

