-- ==== Sys2Proof/Machine/State/Mem.lean ====
section
/-!
DEFINITION. State of the memory system (08): the bytes of each memory with its poison marks, the stack controllers,
the requests under way, the translation caches and walks, the spans and the far map.
-/
namespace Sys2Proof.Machine

/-- One byte-addressed memory. `cells` lists strictly rising addresses and no byte equal to 0, which is what an
unlisted address reads as (T1: R435; the SRAMs: a design choice). `poison` lists, strictly rising, the numbers of the
poisoned 64-byte words (codewords of T1, R284; words of tile memory and of the row stores). Where `lost` holds a key, an unlisted
address reads as the free byte `Config.lostByte` of the key and the address instead (R430), and `cells` lists the differences to it. -/
structure Mem where
  cells  : List Host.Cell
  poison : List Nat
  lost   : Option Nat
  deriving DecidableEq, Repr, Inhabited

/-- A memory with nothing listed. -/
def Mem.empty : Mem := { cells := [], poison := [], lost := none }

/-- How far a memory request has come. -/
inductive ReqState where
  /-- waiting in a channel queue, for a copy-engine slot or for a Remote entry -/
  | waiting
  /-- sent on the PCIe link or on a Bamek link -/
  | sent
  /-- ended, with its status and the data read -/
  | ended (st : Status) (data : Data)
  deriving DecidableEq, Repr, Inhabited

/-- A translation: physical address, tier, rights and node (R293, R297). -/
structure XEntry where
  pa       : Nat
  tier     : Fin 4
  write    : Bool
  runahead : Bool
  node     : Nat
  deriving DecidableEq, Repr, Inhabited

/-- A piece of an access of a unit's operation that is under way (see `ioMany`): who makes it, the operation's key, whether it writes,
its device virtual address and length, and its request. -/
structure IoPiece where
  who   : Nat
  key   : Nat
  write : Bool
  dva   : Nat
  len   : Nat
  req   : Nat
  deriving DecidableEq, Repr, Inhabited

/-- What the end of a request does that is not kept for its requester. -/
inductive ReqAct where
  /-- nothing: nobody waits for it -/
  | nobody
  /-- a Remote request that this module serves is answered to a node, with its FLOW and TAG (R318) -/
  | remote (node flow tag : Nat)
  /-- one of the `parts` pieces of the BAR2 read `group`, which is answered once all have ended (R355) -/
  | bar2 (group parts : Nat)
  /-- a phase record: one that could not be written is counted (R54) -/
  | record
  /-- a run-ahead fetch that is no longer wanted; one that fails is counted as dropped (R299) -/
  | ahead
  /-- a part of the forwarded request with this number (R248) -/
  | forward (key : Nat)
  deriving DecidableEq, Repr, Inhabited

/-- A request of a unit to a memory tier. `who` names the requester (see `whoTile` and its like), `pa` is the physical address, `node`
the target module of a Remote request, `act` what its end does where it is not kept for the requester. -/
structure MReq where
  id    : Nat
  who   : Nat
  write : Bool
  tier  : Fin 4
  pa    : Nat
  node  : Nat
  len   : Nat
  data  : Data
  act   : Option ReqAct
  state : ReqState
  deriving DecidableEq, Repr, Inhabited

/-- An entry of a controller's channel queue (R273, R276): a request within one DRAM page. `part` marks a write that
covers part of a codeword (R275). `taken` says that it stands among the queue's 64, where a write has taken effect (R277); `data` is then
what a read found in memory, and before that what a write brings. -/
structure ChanEntry where
  id      : Nat
  pa      : Nat
  len     : Nat
  write   : Bool
  part    : Bool
  arrived : Nat
  taken   : Bool
  data    : Data
  deriving DecidableEq, Repr, Inhabited

/-- The open DRAM page of one bank, and when a bank last opened a page (R276). -/
structure BankPage where
  stack   : Nat
  channel : Nat
  bank    : Nat
  row     : Nat
  isOpen  : Bool
  opened  : Nat
  deriving DecidableEq, Repr, Inhabited

/-- A corrected codeword waiting to be written back (R283, R286). -/
structure WriteBack where
  word  : Nat
  scrub : Bool
  deriving DecidableEq, Repr, Inhabited

/-- A cached page entry (R295): its page number (DVA bits [47:21]), the entry, and its place in the order in which
entries were cached (R299). -/
structure CachedPage where
  page  : Nat
  entry : BitVec 64
  since : Nat
  deriving DecidableEq, Repr, Inhabited

/-- A request that waits for a walk (R296): its cache and page, who makes it, and the operation and address that tell it from the
requester's others. -/
structure XWaiter where
  quad : Fin 4
  page : Nat
  who  : Nat
  key  : Nat
  dva  : Nat
  deriving DecidableEq, Repr, Inhabited

/-- A walk in progress (R296). `reads` are the entries of its T1 reads; `stale` marks a walk whose result an invalidation discards
(R298). -/
structure Walk where
  quad  : Fin 4
  page  : Nat
  start : Nat
  reads : List Nat
  stale : Bool
  deriving DecidableEq, Repr, Inhabited

/-- What a walk gave a waiting request: an entry, or the status with which the request fails. -/
structure XResult where
  waiter : XWaiter
  entry : Option (BitVec 64)
  fails : Status
  deriving DecidableEq, Repr, Inhabited

/-- The counters of R302. -/
structure MemCounters where
  rdBursts    : Vector Nat 8
  wrBursts    : Vector Nat 8
  activates   : Vector Nat 8
  pageHits    : Vector Nat 8
  busy        : Vector Nat 8
  memCe       : Vector Nat 8
  memUe       : Vector Nat 8
  poisonReads : Vector Nat 8
  dieCe       : Vector Nat 8
  scrubCe     : Vector Nat 8
  xlateHits   : Vector Nat 4
  xlateMisses : Vector Nat 4
  xlateWalkNs : Vector Nat 4
  runaheadDrop : Vector Nat 4
  farRequests : Vector Nat 8
  farBytes    : Vector Nat 8
  farSlotFull : Vector Nat 8
  deriving DecidableEq, Repr, Inhabited

/-- The stack controllers (R273 to R287). -/
structure Stacks where
  queue       : List ChanEntry
  pages       : List BankPage
  writeBacks  : List WriteBack
  scrubPos    : Vector Nat 8
  scrubPeriod : BitVec 16
  ueLog       : List (BitVec 128)
  deriving DecidableEq, Repr, Inhabited

/-- Translation (R292 to R299). `order` counts the entries cached since reset. -/
structure Xlate where
  ptRoot  : BitVec 64
  spans   : List (BitVec 256)
  caches  : Vector (List CachedPage) 4
  waiters : List XWaiter
  walks   : List Walk
  results : List XResult
  order   : Nat
  deriving DecidableEq, Repr, Inhabited

/-- A write that a unit has posted and that waits for its translation (R296). -/
structure PostedWrite where
  who  : Nat
  key  : Nat
  dva  : Nat
  data : Data
  deriving DecidableEq, Repr, Inhabited

/-- The memory system. `t1` holds the stacks' bytes by physical address, `rowStore` those of the engines' row stores by
offset. `requests` are the requests of units that have not been consumed. -/
structure MemSys where
  t1       : Mem
  rowStore : Vector Mem 16
  requests : List MReq
  io       : List IoPiece
  posted   : List PostedWrite
  nextId   : Nat
  stackCtl : Stacks
  xlate    : Xlate
  farMap   : Vector (BitVec 128) 64
  runaheadEnable : BitVec 8
  counters : MemCounters
  deriving DecidableEq, Repr, Inhabited

/-- The counters after reset (R302). -/
def MemCounters.zero : MemCounters :=
  { rdBursts := .replicate 8 0, wrBursts := .replicate 8 0, activates := .replicate 8 0, pageHits := .replicate 8 0,
    busy := .replicate 8 0, memCe := .replicate 8 0, memUe := .replicate 8 0, poisonReads := .replicate 8 0,
    dieCe := .replicate 8 0, scrubCe := .replicate 8 0, xlateHits := .replicate 4 0, xlateMisses := .replicate 4 0,
    xlateWalkNs := .replicate 4 0, runaheadDrop := .replicate 4 0, farRequests := .replicate 8 0,
    farBytes := .replicate 8 0, farSlotFull := .replicate 8 0 }

/-- The memory system after reset (R301, R435). -/
def MemSys.reset : MemSys :=
  { t1 := .empty, rowStore := .replicate 16 .empty, requests := [], io := [], posted := [], nextId := 0,
    stackCtl := { queue := [], pages := [], writeBacks := [], scrubPos := .replicate 8 0, scrubPeriod := 24, ueLog := [] },
    xlate := { ptRoot := 0, spans := [], caches := .replicate 4 [], waiters := [], walks := [], results := [], order := 0 },
    farMap := .replicate 64 0, runaheadEnable := 1, counters := .zero }

end Sys2Proof.Machine
end

