-- ==== Sys2Proof/Machine/MemCells.lean ====
section
/-!
DEFINITION. Byte-addressed memory with poison: the operations on one `Mem`, in the canonical form that `memWf` states. A
64-byte word is poisoned, made clean or left as it stands by the rules of R284.
-/
namespace Sys2Proof.Machine

/-- The byte at address `a`; an unlisted byte reads as 0. -/
def cellsGet : List Host.Cell → Nat → Byte
  | [], _ => 0
  | c :: cs, a => if c.1 = a then c.2 else cellsGet cs a

/-- The cells with byte `v` at address `a`, in canonical form. -/
def cellsSet : List Host.Cell → Nat → Byte → List Host.Cell
  | [], a, v => if v = 0 then [] else [(a, v)]
  | c :: cs, a, v =>
    if a < c.1 then (if v = 0 then c :: cs else (a, v) :: c :: cs)
    else if a = c.1 then (if v = 0 then cs else (a, v) :: cs)
    else c :: cellsSet cs a v

/-- The cells with the bytes `bs` from address `a`. -/
def cellsSetAll : List Host.Cell → Nat → List Byte → List Host.Cell
  | cs, _, [] => cs
  | cs, a, b :: bs => cellsSetAll (cellsSet cs a b) (a + 1) bs

/-- A strictly rising list with `x` added. -/
def setAdd : List Nat → Nat → List Nat
  | [], x => [x]
  | y :: ys, x => if x < y then x :: y :: ys else if x = y then y :: ys else y :: setAdd ys x

/-- A strictly rising list with `x` removed. -/
def setDel : List Nat → Nat → List Nat
  | [], _ => []
  | y :: ys, x => if x = y then ys else y :: setDel ys x

/-- Whether addresses rise strictly from above `lo` and no listed byte is 0. -/
def cellsWf : List Host.Cell → Bool
  | [] => true
  | [c] => decide (c.2 ≠ 0)
  | c :: d :: cs => decide (c.2 ≠ 0) && decide (c.1 < d.1) && cellsWf (d :: cs)

/-- Whether a list rises strictly. -/
def rising : List Nat → Bool
  | [] => true
  | [_] => true
  | x :: y :: ys => decide (x < y) && rising (y :: ys)

/-- The canonical form of a memory. -/
def memWf (m : Mem) : Bool := cellsWf m.cells && rising m.poison

/-- What an unlisted address reads as: 0, or, once the contents are lost, a free byte (R430, R435). -/
def memBase (m : Mem) (a : Nat) : Byte := match m.lost with | none => 0 | some k => Config.lostByte k a

/-- The byte at address `a`. -/
def memByte (m : Mem) (a : Nat) : Byte := cellsGet m.cells a + memBase m a

/-- Whether the 64-byte word that holds address `a` is poisoned. -/
def memPoisoned (m : Mem) (a : Nat) : Bool := m.poison.contains (a / 64)

/-- `n` bytes from address `a`, each with the poison of its word (R284). -/
def memRead (m : Mem) (a n : Nat) : Data :=
  (List.range n).map fun i => (memByte m (a + i), memPoisoned m (a + i))

/-- The words from `w`, `k` of them, after a write of `d` at `a` (R284): poisoned data poisons, a whole clean word
clears, and a part leaves the mark as it was. -/
def poisonAfter : Nat → Nat → Nat → Data → List Nat → List Nat
  | 0, _, _, _, p => p
  | k + 1, w, a, d, p =>
    let first := 64 * w - a
    let last := min (64 * w + 64 - a) d.length
    let part := (d.drop first).take (last - first)
    let p' := if poisoned part then setAdd p w else if part.length = 64 then setDel p w else p
    poisonAfter k (w + 1) a d p'

/-- Bytes written from address `a`, as differences to what unlisted addresses read as. -/
def fromBase (m : Mem) : Nat → List Byte → List Byte
  | _, [] => []
  | a, b :: bs => (b - memBase m a) :: fromBase m (a + 1) bs

/-- The memory after a write of `d` at address `a`. -/
def memWrite (m : Mem) (a : Nat) (d : Data) : Mem :=
  if d.isEmpty then m
  else
    { m with
      cells := cellsSetAll m.cells a (fromBase m a (dataBytes d)),
      poison := poisonAfter ((a + d.length - 1) / 64 - a / 64 + 1) (a / 64) a d m.poison }

/-- The memory with the word that holds `a` poisoned. -/
def memPoison (m : Mem) (a : Nat) : Mem := { m with poison := setAdd m.poison (a / 64) }

/-- A memory whose contents are lost: every byte is free from now on (R430). -/
def memLose (key : Nat) : Mem := { cells := [], poison := [], lost := some key }

/-- `n` bytes of a memory as a number, byte 0 least significant (R11). -/
def memNat (m : Mem) (a n : Nat) : Nat := leNat (dataBytes (memRead m a n))

end Sys2Proof.Machine
end

