-- ==== Sys2Proof/Machine/State/Boot.lean ====
section
/-!
DEFINITION. State of boot, protection, firmware update, measurement and attestation (13).
-/
namespace Sys2Proof.Machine

/-- A valid boot record (R455); bank states by their codes. -/
structure BootRec where
  generation : BitVec 32
  stateA    : BitVec 8
  stateB    : BitVec 8
  confirmed : Bool
  trial     : Bool
  tries     : Bool
  versionA  : BitVec 32
  versionB  : BitVec 32
  epochA    : BitVec 16
  epochB    : BitVec 16
  deriving DecidableEq, Repr, Inhabited

/-- A committed record of the config store (R456). -/
structure StoreRec where
  format : BitVec 16
  index  : Nat
  sub    : Nat
  value  : List Byte
  deriving DecidableEq, Repr, Inhabited

/-- A bank: as manufactured, with the image whose bytes are `Config.shippedImage`, or as written since. -/
inductive BankData where
  | shipped
  | written (m : Mem)
  deriving DecidableEq, Repr, Inhabited

/-- The flash (R454): the two copies of the boot record where valid, the config store's counting records, the owner protection
slots where committed, and the two banks. -/
structure Flash where
  rec0  : Option BootRec
  rec1  : Option BootRec
  store : List StoreRec
  owner : Vector (Option (List Byte)) 2
  banks : Vector BankData 2
  deriving DecidableEq, Repr, Inhabited

/-- How far boot has come (R457). -/
inductive BootPhase where
  | rom | hold | training | done | stopped
  deriving DecidableEq, Repr, Inhabited

/-- A child of the kindle chain during a reception (R470): blocks pushed and acknowledged, when it last acknowledged, and whether
it was dropped. -/
structure Child where
  pushed  : Nat
  acked   : Nat
  lastAck : Nat
  dropped : Bool
  deriving DecidableEq, Repr, Inhabited

/-- A reception (R468): its source (1 PCIe, 2 kindle), the state it came from, the channel of its write, BLOCKS (0 before block 0),
the next expected block, the blocks in flash, those acknowledged to the parent, when the last block came, and the children. -/
structure Recv where
  source  : Nat
  back    : Nat
  blocks  : Nat
  next    : Nat
  inFlash : Nat
  told    : Nat
  last    : Nat
  children : List Child
  deriving DecidableEq, Repr, Inhabited

/-- FW_PROGRESS after a reception has ended (R476). -/
structure Progress where
  blocks  : Nat
  next    : Nat
  inFlash : Nat
  source  : Nat
  status  : Nat
  dropped : Nat
  deriving DecidableEq, Repr, Inhabited

/-- The kindle counters (R477). -/
structure KindleCounters where
  blocksIn  : Nat
  blocksOut : Nat
  crcErr    : Nat
  dropped   : Nat
  deriving DecidableEq, Repr, Inhabited

/-- Boot and firmware. `bank` is the bank running (`true`: B), `failedBanks` those that the boot watchdog counts as failed, `reason`
the code of the failed bank's reason in BOOT_REPORT. `began` is when boot began; during the hold it is the time that boot had taken
before (R459). `imageVersion` and `settings` are VERSION and SETTINGS_FORMAT of the image
running. `holdEnd` is when the boot hold ends unless `bootHold` extends it. `blob` is the protection blob in force, none for CLOSED. -/
structure Boot where
  flash    : Flash
  ownerKey : List Byte
  fusedEpoch : BitVec 16
  phase    : BootPhase
  began    : Nat
  bank     : Bool
  trialBoot : Bool
  fallback : Bool
  watchdog : Bool
  failedBanks : List Bool
  reason   : Nat
  readyMs  : Nat
  imageVersion : BitVec 32
  settings : BitVec 16
  holdEnd  : Nat
  bootHold : Bool
  windows  : List (BitVec 256)
  nextWindows : List (BitVec 256)
  blob     : Option (List Byte)
  protLock : Bool
  protSource : BitVec 8
  protVersion : BitVec 32
  meas     : Vector (List Byte) 8
  nonce    : List Byte
  signing  : Option (List Byte)
  report   : Option (List Byte)
  recv     : Option Recv
  progress : Progress
  kindleParent : BitVec 16
  kindleChildren : List (BitVec 16)
  kindleArea : BitVec 64
  counters : KindleCounters
  deriving DecidableEq, Repr, Inhabited

/-- No reception yet (R476). -/
def Progress.zero : Progress := { blocks := 0, next := 0, inFlash := 0, source := 0, status := 0, dropped := 0 }

/-- The boot record of a module whose bank A holds the confirmed image (design choice: what a module ships with). -/
def BootRec.shipped : BootRec :=
  { generation := 0, stateA := 4, stateB := 0, confirmed := false, trial := false, tries := false, versionA := 0, versionB := 0,
    epochA := 0, epochB := 0 }

/-- The flash of a module with an empty config store and an empty bank B (design choice). -/
def Flash.shipped : Flash :=
  { rec0 := some .shipped, rec1 := none, store := [], owner := .replicate 2 none, banks := #v[.shipped, .written .empty] }

/-- Boot right after a device reset (R453, R457, R473, R476). -/
def Boot.reset : Boot :=
  { flash := .shipped, ownerKey := .replicate 32 0, fusedEpoch := 0, phase := .rom, began := 0, bank := false, trialBoot := false,
    fallback := false, watchdog := false, failedBanks := [], reason := 0, readyMs := 0, imageVersion := 0, settings := 0, holdEnd := 0,
    bootHold := false, windows := [], nextWindows := [], blob := none, protLock := false, protSource := 0, protVersion := 0,
    meas := .replicate 8 (.replicate 32 0), nonce := .replicate 32 0, signing := none, report := none, recv := none, progress := .zero,
    kindleParent := 0xFFFF, kindleChildren := [], kindleArea := 0, counters := { blocksIn := 0, blocksOut := 0, crcErr := 0, dropped := 0 } }

end Sys2Proof.Machine
end

