-- ==== Sys2Proof/Machine/State/Clocks.lean ====
section
/-!
DEFINITION. State of clocks, resets, power, temperature and alerts (12), the module's pins and the test access port (14).
-/
namespace Sys2Proof.Machine

/-- A clock loop (R427): enabled since a time, its consecutive passes, whether it is locked, and its failed attempts. -/
structure Loop where
  enabled : Bool
  since   : Nat
  passes  : Nat
  locked  : Bool
  fails   : Nat
  deriving DecidableEq, Repr, Inhabited

/-- A source multiplexer (R428): whether it passes the loop's clock, the select under way, and whether the clock monitor found its
domain hung (R432). -/
structure Mux where
  onLoop : Bool
  target : Option Bool
  hung   : Bool
  deriving DecidableEq, Repr, Inhabited

/-- The parked condition (R443 to R445). -/
inductive ParkState where
  | awake | parking | parked | waking
  deriving DecidableEq, Repr, Inhabited

/-- The power rails (R437 to R439). -/
inductive Rails where
  | off | ramping | up
  deriving DecidableEq, Repr, Inhabited

/-- The clock and power counters (R452). -/
structure PowerCounters where
  skippedCycles : Nat
  throttleNs    : Nat
  thermThrottleNs : Nat
  parkEntries   : Nat
  parkedNs      : Nat
  energyMj      : Nat
  refLostEvents : Nat
  lockRetries   : Nat
  deriving DecidableEq, Repr, Inhabited

/-- The sensors (R450, R494): the last hundred samples of input voltage in mV and current in mA, newest first, and the last averages
of the temperatures. -/
structure Sensors where
  samples   : List (Nat × Nat)
  tjQuad    : Vector Int 4
  stackTemp : Vector Int 8
  deriving DecidableEq, Repr, Inhabited

/-- The test access port (R488): its instruction register, the boundary register over PWR_EN, PERST_N, SLOT_ID[4:0], ALERT_N and
THERMTRIP_N, bit 0 to bit 8, and what the register that the instruction selects has captured. -/
structure Tap where
  ir       : BitVec 8
  boundary : BitVec 9
  dr       : BitVec 32
  deriving DecidableEq, Repr, Inhabited

/-- Clocks, resets, power and pins. `control`, `memCtl` and `arith` are the source multiplexers. `mode` is POWER_MODE, `modeNow` the mode in
force, `changing` that a change runs, `modeCeiling` the ceiling of the mode in watts. `throttled` is the thermal throttle, `coolSince`
since when TJ_MAX is below 100 °C. `resetDue` is a scheduled device reset, its time and cause. `alerts` is ALERT_STATUS, `holding` the
conditions of VIN and of the temperatures that hold now, `lastSkip` when the governor last skipped cycles, `energyRest` the part of a
millijoule not yet counted, in units of 10 pJ. `refclk` is false from the moment that REFCLK is declared lost or known absent. -/
structure Clocks where
  root    : Loop
  memPhy  : Vector Loop 8
  linkPhy : Vector Loop 16
  pciePhy : Loop
  control : Mux
  memCtl  : Mux
  arith   : Mux
  refclk  : Bool
  coasting : Bool
  div     : Nat
  mode    : BitVec 8
  modeNow : BitVec 8
  changing : Bool
  modeCeiling : Nat
  throttled : Bool
  coolSince : Option Nat
  park    : ParkState
  resetCause : BitVec 8
  resetCount : Nat
  resetDue : Option (Nat × BitVec 8)
  pwrEn   : Bool
  rails   : Rails
  thermtrip : Bool
  slotId  : BitVec 5
  alerts  : BitVec 16
  alertMask : BitVec 16
  holding : BitVec 16
  lastSkip : Option Nat
  energyRest : Nat
  sensors : Sensors
  tap     : Tap
  counters : PowerCounters
  deriving DecidableEq, Repr, Inhabited

/-- A loop just enabled. -/
def Loop.start (now : Nat) : Loop := { enabled := true, since := now, passes := 0, locked := false, fails := 0 }

/-- A loop not enabled. -/
def Loop.off : Loop := { enabled := false, since := 0, passes := 0, locked := false, fails := 0 }

/-- A multiplexer in bypass (R429). -/
def Mux.bypass : Mux := { onLoop := false, target := none, hung := false }

/-- The counters after reset (R452). -/
def PowerCounters.zero : PowerCounters :=
  { skippedCycles := 0, throttleNs := 0, thermThrottleNs := 0, parkEntries := 0, parkedNs := 0, energyMj := 0, refLostEvents := 0,
    lockRetries := 0 }

/-- The sensors before their first sample (design choice: zero). -/
def Sensors.zero : Sensors := { samples := [], tjQuad := .replicate 4 0, stackTemp := .replicate 8 0 }

/-- The test access port after Test-Logic-Reset (R488). -/
def Tap.reset : Tap := { ir := 0x01, boundary := 0, dr := 0x10451B47 }

/-- Clocks and power right after a device reset of a powered module (R429, R433, R437, R450). -/
def Clocks.reset : Clocks :=
  { root := .start 0, memPhy := .replicate 8 .off, linkPhy := .replicate 16 .off, pciePhy := .start 0, control := .bypass,
    memCtl := .bypass, arith := .bypass, refclk := true, coasting := false, div := 6, mode := 0, modeNow := 0, changing := false,
    modeCeiling := 2000, throttled := false, coolSince := none, park := .awake, resetCause := 0, resetCount := 0, resetDue := none,
    pwrEn := true, rails := .up, thermtrip := false, slotId := 0, alerts := 0, alertMask := 0xFF, holding := 0,
    lastSkip := none, energyRest := 0, sensors := .zero, tap := .reset, counters := .zero }

end Sys2Proof.Machine
end

