-- ==== Sys2Proof/Machine/State/Dict.lean ====
section
/-!
DEFINITION. State of the dictionary server and the field network (11): channels, waiting writes, the mailbox registers and
the settings of the port.
-/
namespace Sys2Proof.Machine

/-- The latch of a segmented read (R403). -/
structure ReadLatch where
  index : Nat
  sub   : Nat
  value : List Byte
  taken : Nat
  deriving DecidableEq, Repr, Inhabited

/-- The buffer of a segmented write (R403). -/
structure WriteBuf where
  index : Nat
  sub   : Nat
  total : Nat
  value : List Byte
  last  : Nat
  deriving DecidableEq, Repr, Inhabited

/-- A counter object as a snapshot latched it (R413). -/
structure Snapped where
  index : Nat
  sub   : Nat
  value : List Byte
  deriving DecidableEq, Repr, Inhabited

/-- A request whose response a channel keeps (R404): its header and the response. -/
structure KeptResponse where
  request  : BitVec 256
  response : Vmp
  deriving DecidableEq, Repr, Inhabited

/-- A channel of the server (R398). `lost` is a write buffer that was discarded because it was idle: its next segment finds it gone
(R403). -/
structure ChanState where
  ch    : Chan
  latch : Option ReadLatch
  wbuf  : Option WriteBuf
  lost  : Option WriteBuf
  snap  : Option (List Snapped)
  snapNs : Nat
  kept  : List KeptResponse
  deriving DecidableEq, Repr, Inhabited

/-- A write that waits for its action or for the config store (R396, R398). `req` is the header of the VMP request it
came in, if it came in one. -/
structure WaitingWrite where
  ch    : Chan
  req   : Option (BitVec 256)
  index : Nat
  sub   : Nat
  value : List Byte
  store : Bool
  deriving DecidableEq, Repr, Inhabited

/-- The status of the last action of a CMD object that has ended (R13). -/
structure CmdStatus where
  index  : Nat
  sub    : Nat
  status : Status
  deriving DecidableEq, Repr, Inhabited

/-- A request that waits to be served (R404). -/
structure WaitingRequest where
  ch  : Chan
  msg : Vmp
  deriving DecidableEq, Repr, Inhabited

/-- The memory operation that the server is serving (R406): its request, and the number of the access that it waits for. -/
structure Serving where
  ch  : Chan
  msg : Vmp
  req : Nat
  deriving DecidableEq, Repr, Inhabited

/-- The mailbox registers (R409). -/
structure Mailbox where
  busy     : Bool
  done     : Bool
  vector   : BitVec 8
  irq      : Bool
  request  : List Host.Cell
  response : List Byte
  /-- requests that were in progress at a front-end reset: their responses are discarded (R410) -/
  orphans  : Nat
  deriving DecidableEq, Repr, Inhabited

/-- The PLCA settings (R400). -/
structure Plca where
  id    : BitVec 8
  count : BitVec 8
  timer : BitVec 8
  burst : BitVec 8
  deriving DecidableEq, Repr, Inhabited

/-- A listed object: the value last notified, or that it had when it was listed, and when it was last notified (R407). -/
structure Notified where
  index : Nat
  sub   : Nat
  value : List Byte
  at_   : Option Nat
  deriving DecidableEq, Repr, Inhabited

/-- The persistent objects of R396, as the device uses them; the config store in flash holds a copy. -/
structure Persistent where
  nodeId      : BitVec 16
  tilesFenced : BitVec 128
  fenceGen    : BitVec 32
  unfencePending : BitVec 128
  roles       : BitVec 8
  fnMac       : BitVec 48
  plca        : Plca
  deriving DecidableEq, Repr, Inhabited

/-- The management counters (R422). -/
structure MgmtCounters where
  rxFrames   : Nat
  txFrames   : Nat
  rxDropped  : Nat
  rxBad      : Nat
  duplicates : Nat
  notifySent : Nat
  mbOps      : Nat
  deriving DecidableEq, Repr, Inhabited

/-- The dictionary server. `plcaSet` are the settings whose writes have been answered, and `plcaNow` those in force (R400). `channels` is
in order of use, latest first. `queue` holds the requests that wait behind the memory operation `serving`. -/
structure Dict where
  channels  : List ChanState
  queue     : List WaitingRequest
  serving   : Option Serving
  waiting   : List WaitingWrite
  running   : List (Nat × Nat)
  statuses  : List CmdStatus
  mailbox   : Mailbox
  keep      : Persistent
  plcaSet   : Plca
  plcaNow   : Plca
  notifyMac : BitVec 48
  notifyList : List (BitVec 32)
  notified  : List Notified
  notifySeq : BitVec 16
  counters  : MgmtCounters
  deriving DecidableEq, Repr, Inhabited

/-- Field-network settings of a module in slot 0 whose config store is empty (R421). -/
def Plca.default : Plca := { id := 1, count := 16, timer := 32, burst := 0 }

/-- The persistent objects of an empty config store (R348, R418, R421). -/
def Persistent.default : Persistent :=
  { nodeId := 0, tilesFenced := 0, fenceGen := 0, unfencePending := 0, roles := 6, fnMac := 0x024853000000,
    plca := .default }

/-- The mailbox registers after reset (R409). -/
def Mailbox.reset : Mailbox :=
  { busy := false, done := false, vector := 0, irq := false, request := [], response := [], orphans := 0 }

/-- The management counters after reset (R422). -/
def MgmtCounters.zero : MgmtCounters :=
  { rxFrames := 0, txFrames := 0, rxDropped := 0, rxBad := 0, duplicates := 0, notifySent := 0, mbOps := 0 }

/-- The dictionary server after reset, with the persistent objects at their defaults. -/
def Dict.reset : Dict :=
  { channels := [], queue := [], serving := none, waiting := [], running := [], statuses := [], mailbox := .reset, keep := .default,
    plcaSet := .default, plcaNow := .default, notifyMac := 0, notifyList := [], notified := [], notifySeq := 0, counters := .zero }

end Sys2Proof.Machine
end

