-- ==== Sys2Proof/Machine/State/History.lean ====
section
/-!
DEFINITION. State of the history walker and the sequence slots (07).
-/
namespace Sys2Proof.Machine

/-- A mark of a step that appended to a slot (R266, R271). -/
structure SlotMark where
  step : BitVec 64
  tail : Nat
  deriving DecidableEq, Repr, Inhabited

/-- An ACTIVE sequence slot (R246, R252, R271): its descriptor with current PAGES, GCOUNT and GLIST_DVA, the positions
complete, when an append of it stalled, its two marks, and the page-list entries that the walker keeps, by index (R250). -/
structure HistSlot where
  desc   : BitVec 512
  length : Nat
  stall  : Option Nat
  mark0  : Option SlotMark
  mark1  : Option SlotMark
  kept   : List (Nat × Nat)
  deriving DecidableEq, Repr, Inhabited

/-- A request that the walker still has to issue (R257, R264): rows of a head's keys or values copied, zero rows, or the walk's
position list. `row` is the row of the walk or the position within the append, `pos` the slot position. -/
inductive WalkItem where
  | rows (head : Nat) (value : Bool) (row pos n : Nat)
  | zero (head : Nat) (value : Bool) (row n : Nat)
  | list
  deriving DecidableEq, Repr, Inhabited

/-- An append (R255, R257): the positions taken, how many are complete, the positions of the group under way (0: none), and what is
left of it to issue. -/
structure AppendRun where
  cmd    : Nat
  cmdStep : Option (BitVec 64)
  slot   : Fin 256
  pay    : Slot
  first  : Nat
  done   : Nat
  group  : Nat
  todo   : List WalkItem
  stop   : Option Status
  deriving DecidableEq, Repr, Inhabited

/-- A walk (R261 to R265): its slot's descriptor and bound length at admission, the slot positions it delivers once its lists are
read, what is left to issue, whether it waits for a position, the length beyond which a failed append leaves it no position (R259), and
the groups signalled. -/
structure WalkRun where
  cmd    : Nat
  cmdStep : Option (BitVec 64)
  slot   : Fin 256
  pay    : Slot
  desc   : BitVec 512
  bound  : Nat
  read   : Bool
  deliver : List Nat
  todo   : List WalkItem
  waits  : Bool
  cap    : Option Nat
  signalled : Nat
  stop   : Option Status
  deriving DecidableEq, Repr, Inhabited

/-- A command of the walker, in admission order. -/
inductive WalkerCmd where
  | append (a : AppendRun) (running : Bool)
  | walk (w : WalkRun) (running : Bool)
  deriving DecidableEq, Repr, Inhabited

/-- Where a forwarded request delivers rows (R248): a tile, the first row's address, the bytes of a source row and of a destination row. -/
structure FwdDst where
  tile   : Fin 128
  addr   : Nat
  rowIn  : Nat
  rowOut : Nat
  deriving DecidableEq, Repr, Inhabited

/-- How far a forwarded request has come. -/
inductive FwdState where
  /-- at a stack, which reads the rows or writes them -/
  | stack
  /-- its rows travel to a tile in this packet -/
  | sent (packet : Nat)
  /-- over, with the stack's answer -/
  | over (st : Status)
  deriving DecidableEq, Repr, Inhabited

/-- An outstanding forwarded request (R248): its number, its command, the first row that it writes, where its rows go if that is a tile,
and its parts at the stack. -/
structure FwdReq where
  key    : Nat
  cmd    : Nat
  row    : Nat
  dst    : Option FwdDst
  parts  : Nat
  state  : FwdState
  deriving DecidableEq, Repr, Inhabited

/-- The history counters (R272). -/
structure HistCounters where
  appends   : Nat
  appendPos : Nat
  walks     : Nat
  walkPos   : Nat
  bytes     : Nat
  requests  : Nat
  stalls    : Nat
  stallNs   : Nat
  stallFails : Nat
  walkWaitNs : Nat
  deriving DecidableEq, Repr, Inhabited

/-- The history walker: slots, admitted commands, outstanding forwarded requests (at most 256), and whose turn it is. -/
structure History where
  slots  : Vector (Option HistSlot) 256
  cmds   : List WalkerCmd
  fwd    : List FwdReq
  turn   : Nat
  select : BitVec 8
  counters : HistCounters
  deriving DecidableEq, Repr, Inhabited

/-- The history walker after reset (R246, R270, R272). -/
def History.reset : History :=
  { slots := .replicate 256 none, cmds := [], fwd := [], turn := 0, select := 0,
    counters := { appends := 0, appendPos := 0, walks := 0, walkPos := 0, bytes := 0, requests := 0, stalls := 0,
                  stallNs := 0, stallFails := 0, walkWaitNs := 0 } }

end Sys2Proof.Machine
end

