-- ==== Sys2Proof/Machine/State/HostIf.lean ====
section
/-!
DEFINITION. State of the host interface (10): BAR0 registers, queues, commands in flight, completions, copy engines,
the device state and the session.
-/
namespace Sys2Proof.Machine

/-- Device states (R375). -/
inductive DevState where
  | off | booting | ready | running | held | draining | faulted | updating
  deriving DecidableEq, Repr, Inhabited

/-- A command in flight between its admission and its completion (R358, R363). `step` is the number of the open step
it belongs to, `xorder` the translation order at admission (R299), `info` what its check-time reads gave (R364). `redo` marks the
re-execution of an early command (R36): it stands here until it has ended, takes no place in its queue and has no completion record. -/
structure Cmd where
  id      : Nat
  sq      : Fin 64
  slot    : Slot
  step    : Option (BitVec 64)
  started : Bool
  xorder  : Nat
  info    : List Nat
  redo    : Bool
  deriving DecidableEq, Repr, Inhabited

/-- A completed command whose record has not been written (R359, R361). -/
structure Completion where
  sq       : Fin 64
  tag      : BitVec 12
  opcode   : BitVec 8
  status   : Status
  detail   : BitVec 64
  user     : BitVec 64
  admitted : Bool
  deriving DecidableEq, Repr, Inhabited

/-- A submission queue (R356): its configuration, HEAD and TAIL, whether its TAIL doorbell has been written since the last front-end
reset, the slot waiting at its head, and the tag that fenced it (R366). -/
structure SQueue where
  base     : BitVec 64
  sizeLog2 : BitVec 4
  cq       : BitVec 6
  weight   : BitVec 4
  enable   : Bool
  head     : BitVec 16
  tail     : BitVec 16
  rung     : Bool
  waiting  : Option Slot
  fence    : Option (BitVec 12)
  deriving DecidableEq, Repr, Inhabited

/-- A completion queue (R356): its configuration, TAIL, PHASE, the HEAD its doorbell gave, and the records written since
the last interrupt with the time of the oldest (R359). -/
structure CQueue where
  base     : BitVec 64
  sizeLog2 : BitVec 4
  vector   : BitVec 8
  enable   : Bool
  irqCount : BitVec 16
  irqDelay : BitVec 16
  tail     : BitVec 16
  phase    : Bool
  head     : BitVec 16
  news     : Nat
  oldest   : Nat
  deriving DecidableEq, Repr, Inhabited

/-- The session operation in progress (R378). -/
inductive SessOp where
  | release | reinit (started : Nat) (afterClose : Bool)
  deriving DecidableEq, Repr, Inhabited

/-- What a registered region is (R380): its hash in the session record and, in HELD, what the comparison gave. -/
structure Region where
  hash     : Option (BitVec 256)
  verified : Bool
  mismatch : Bool
  deriving DecidableEq, Repr, Inhabited

/-- The session (R378 to R385). `recSq` and `recCq` are the session record's copies of the queues, `held` its held
completions, oldest first. -/
structure Session where
  id       : BitVec 32
  live     : Bool
  op       : Option SessOp
  result   : Status
  regions  : Vector Region 192
  select   : BitVec 8
  tagAddr  : BitVec 64
  reading  : Option (Fin 192)
  recSq    : Vector SQueue 64
  recCq    : Vector CQueue 64
  held     : List Completion
  deriving DecidableEq, Repr, Inhabited

/-- A request of a running COPY that a slot of an engine holds, with the physical pieces (address, length) of its device side and, for
outbound data, the requests that read them, or a device-initiated T2 request (R290, R371); each with the time when it took the slot. -/
inductive CopySlot where
  | copy (cmd row len hostAddr : Nat) (pieces : List (Nat × Nat)) (reqs : List Nat) (since : Nat)
  | far (req since : Nat)
  deriving DecidableEq, Repr, Inhabited

/-- A COPY that an engine runs (R371): next row and offset to issue, the pieces of the next request that are translated already, bytes
moved, the writes not yet acknowledged (the requests and bytes of each inbound request), why it stopped, and the lowest row that held
poisoned data (R372). -/
structure CopyRun where
  cmd    : Nat
  row    : Nat
  off    : Nat
  issued : Bool
  xlated : List (Nat × Nat)
  acks   : List (List Nat × Nat)
  moved  : Nat
  stop   : Option Status
  poison : Option Nat
  deriving DecidableEq, Repr, Inhabited

/-- A copy engine: its queue (at most 32), its request slots (at most 64), the T2 requests waiting for a slot, and whose
turn the next slot is (R290, R371). -/
structure CopyEngine where
  queue   : List CopyRun
  slots   : List CopySlot
  waiting : List Nat
  farTurn : Bool
  deriving DecidableEq, Repr, Inhabited

/-- BAR0 global registers that hold a value of their own (R354), the MSI-X table and pending bits (R350, R353). -/
structure Bar0 where
  events      : BitVec 4
  eventVector : BitVec 8
  eventEnable : BitVec 4
  bar2Enable  : Bool
  bar2Base    : BitVec 18
  msix        : Vector (BitVec 128) 256
  pba         : BitVec 256
  deriving DecidableEq, Repr, Inhabited

/-- The PCIe link: whether it is up and PERST_N asserted, and configuration space's completion timeout code and power state (R350). No
command of the table is a configuration request, so these two keep their defaults. -/
structure Pcie where
  perst  : Bool
  linkUp : Bool
  cto    : BitVec 4
  d3hot  : Bool
  deriving DecidableEq, Repr, Inhabited

/-- The counters of R390. -/
structure HostCounters where
  admitted  : Vector Nat 64
  refused   : Vector Nat 64
  fenced    : Vector Nat 64
  cqFullNs  : Vector Nat 64
  copyBytes : Vector Nat 16
  frontEndResets : Nat
  heldEntries : Nat
  sessionsResumed : Nat
  sessionsReleased : Nat
  reinits : Nat
  heldCqDropped : Nat
  bar2Denied : Nat
  deriving DecidableEq, Repr, Inhabited

/-- The host interface. `cmds` lists the commands admitted and not completed in admission order, `done` the completions
in completion order. `arb` is the queue whose turn it is and `arbUsed` what it has admitted in this turn (R358).
`heldDue` marks a front-end reset whose entry into HELD is still to come (R382). -/
structure HostIf where
  dev     : DevState
  sqs     : Vector SQueue 64
  cqs     : Vector CQueue 64
  cmds    : List Cmd
  nextCmd : Nat
  done    : List Completion
  arb     : Fin 64
  arbUsed : Nat
  bar0    : Bar0
  pcie    : Pcie
  session : Session
  sessionArea : BitVec 64
  watchdogMs : BitVec 32
  lastBeat : Nat
  heldDue : Bool
  engines : Vector CopyEngine 16
  counters : HostCounters
  deriving DecidableEq, Repr, Inhabited

/-- A submission queue after reset (R356). -/
def SQueue.reset : SQueue :=
  { base := 0, sizeLog2 := 0, cq := 0, weight := 0, enable := false, head := 0, tail := 0, rung := false, waiting := none,
    fence := none }

/-- A completion queue after reset (R356). -/
def CQueue.reset : CQueue :=
  { base := 0, sizeLog2 := 0, vector := 0, enable := false, irqCount := 0, irqDelay := 0, tail := 0, phase := true,
    head := 0, news := 0, oldest := 0 }

/-- BAR0 after a front-end reset (R351, R354). -/
def Bar0.reset : Bar0 :=
  { events := 0, eventVector := 0, eventEnable := 0, bar2Enable := false, bar2Base := 0, msix := .replicate 256 0, pba := 0 }

/-- A region without registration (R380). -/
def Region.none : Region := { hash := Option.none, verified := false, mismatch := false }

/-- No session (R354). -/
def Session.reset : Session :=
  { id := 0, live := false, op := none, result := .ok, regions := .replicate 192 .none, select := 0,
    tagAddr := 0, reading := none, recSq := .replicate 64 .reset, recCq := .replicate 64 .reset, held := [] }

/-- The host counters after reset (R390). -/
def HostCounters.zero : HostCounters :=
  { admitted := .replicate 64 0, refused := .replicate 64 0, fenced := .replicate 64 0, cqFullNs := .replicate 64 0,
    copyBytes := .replicate 16 0, frontEndResets := 0, heldEntries := 0, sessionsResumed := 0, sessionsReleased := 0,
    reinits := 0, heldCqDropped := 0, bar2Denied := 0 }

/-- The host interface after reset (R354, R356, R376, R389). -/
def HostIf.reset : HostIf :=
  { dev := .booting, sqs := .replicate 64 .reset, cqs := .replicate 64 .reset, cmds := [], nextCmd := 0, done := [],
    arb := 0, arbUsed := 0, bar0 := .reset, pcie := { perst := true, linkUp := false, cto := 0, d3hot := false }, session := .reset,
    sessionArea := 0, watchdogMs := 0, lastBeat := 0, heldDue := false,
    engines := .replicate 16 { queue := [], slots := [], waiting := [], farTurn := false }, counters := .zero }

end Sys2Proof.Machine
end

