-- ==== Sys2Proof/Machine/State/Train.lean ====
section
/-!
DEFINITION. State of the training step (01): the open steps, the phase-timer ring, the step objects and counters, and the
loss scale (04).
-/
namespace Sys2Proof.Machine

/-- States of a step (R27). -/
inductive StepState where
  | stOpen | decidedCommit | decidedSkip | committing | publishing | aborting | closed
  deriving DecidableEq, Repr, Inhabited

/-- Outcomes of a step (R41). -/
inductive StepOutcome where
  | stillOpen | committed | skipped | aborted | held | torn
  deriving DecidableEq, Repr, Inhabited

/-- The decision of a VERDICT exchange (R32): skip flag, skip-cause mask, norm and clip factor (FP32 codes). -/
structure Decision where
  skip  : Bool
  cause : BitVec 8
  norm  : BitVec 32
  clip  : BitVec 32
  deriving DecidableEq, Repr, Inhabited

/-- A sum of squares with its non-finite flag (R31). -/
structure NormTerm where
  sumsq     : BitVec 32
  nonfinite : Bool
  deriving DecidableEq, Repr, Inhabited

/-- An early-eligible command that started before its step's decision (R35, R36): its slot and what its check-time reads gave; of a TILE_RUN
also the tiles it has started on, those it must run on again, and those where the re-execution runs. `counted` says that its re-execution
has begun. -/
structure EarlyRun where
  cmd     : Nat
  sq      : Fin 64
  slot    : Slot
  info    : List Nat
  ran     : List (Fin 128)
  redo    : List (Fin 128)
  running : List (Fin 128)
  counted : Bool
  deriving DecidableEq, Repr, Inhabited

/-- A FUSE_NORM partial of the step's descriptors, by admission order (R332). -/
structure NormPart where
  order : Nat
  term  : Option NormTerm
  deriving DecidableEq, Repr, Inhabited

/-- Where the local commit sequence stands (R39): item 1 with a wait for log room, item 2, or done. -/
inductive CommitItem where
  | item1 | item2 | done
  deriving DecidableEq, Repr, Inhabited

/-- A step between its STEP_BEGIN and the moment it stops being open (R20 to R27). -/
structure Step where
  num       : BitVec 64
  ring      : BitVec 64
  profile   : BitVec 8
  early     : Bool
  record    : Bool
  recordDva : BitVec 48
  group     : BitVec 16
  state     : StepState
  /-- sealed by STEP_END, by entry into HELD or by REINIT (R26) -/
  closedToWork : Bool
  endCmd    : Option Nat
  forceSkip : Bool
  /-- a command of the step failed before the vote was sent (R31) -/
  errSkip   : Bool
  voteSent  : Bool
  /-- why the step aborted (R45): its status, and whether the outcome is HELD -/
  abort     : Option Status
  abortHeld : Bool
  /-- the exchange itself failed: nothing further is sent (R45) -/
  exchDead  : Bool
  decision  : Option Decision
  lossScale : BitVec 32
  norms     : List NormPart
  earlies   : List EarlyRun
  item      : CommitItem
  torn      : Option Status
  publishFail : Option Status
  outcome   : StepOutcome
  /-- closed, with the write to RECORD_DVA not yet acknowledged (R54) -/
  recordWait : Option Nat
  deriving DecidableEq, Repr, Inhabited

/-- What stays known of a closed step while programs of it run on (R111, R167): its decision and its loss scale. -/
structure PastStep where
  num       : BitVec 64
  decision  : Option Decision
  lossScale : BitVec 32
  deriving DecidableEq, Repr, Inhabited

/-- A phase record (R55). -/
structure PhaseRec where
  step      : BitVec 64
  startNs   : Nat
  wallNs    : Nat
  idleNs    : Nat
  outcome   : StepOutcome
  profile   : BitVec 8
  saturated : Bool
  earlyUsed : Bool
  publishFailed : Bool
  forced    : Bool
  skipCause : BitVec 8
  earlyRedos : Nat
  phaseNs   : Vector Nat 16
  norm      : BitVec 32
  clip      : BitVec 32
  deriving DecidableEq, Repr, Inhabited

/-- The training step as a whole (R56, R170). -/
structure Train where
  profile       : BitVec 8
  earlyOptimise : BitVec 8
  lastCommitted : BitVec 64
  steps         : List Step
  past          : List PastStep
  ring          : Vector PhaseRec 1024
  ringHead      : BitVec 64
  ringSelect    : BitVec 64
  stepsCommitted : Nat
  stepsSkipped  : Nat
  stepsAborted  : Nat
  stepsTorn     : Nat
  earlyRedo     : Nat
  commitLogWaitNs : Nat
  recordWriteFail : Nat
  deriving DecidableEq, Repr, Inhabited

/-- A phase record with every field 0 (R55, R56). -/
def PhaseRec.zero : PhaseRec :=
  { step := 0, startNs := 0, wallNs := 0, idleNs := 0, outcome := .stillOpen, profile := 0, saturated := false,
    earlyUsed := false, publishFailed := false, forced := false, skipCause := 0, earlyRedos := 0,
    phaseNs := .replicate 16 0, norm := 0, clip := 0 }

/-- The training step after reset (R56). -/
def Train.reset : Train :=
  { profile := 0, earlyOptimise := 1, lastCommitted := 0, steps := [], past := [], ring := .replicate 1024 .zero, ringHead := 0,
    ringSelect := 0, stepsCommitted := 0, stepsSkipped := 0, stepsAborted := 0, stepsTorn := 0, earlyRedo := 0,
    commitLogWaitNs := 0, recordWriteFail := 0 }

end Sys2Proof.Machine
end

