-- ==== Sys2Proof/Machine/State/Links.lean ====
section
/-!
DEFINITION. State of the Bamek ports, the collective units, the groups and the VERDICT exchanges (09).
-/
namespace Sys2Proof.Machine

/-- Port states (R315). -/
inductive PortState where
  | disabled | down | training | up | active
  deriving DecidableEq, Repr, Inhabited

/-- A packet: its header flit and payload flits (R308). -/
structure Packet where
  hdr : BitVec 512
  pay : List (BitVec 512)
  deriving DecidableEq, Repr, Inhabited

/-- The port sets of the routing tables (R312). -/
inductive PortSet where
  | inject | b | c
  deriving DecidableEq, Repr, Inhabited

/-- A Bamek port. `since` is when the port entered its state or training step (R316). `txSeq` is the SEQ of the last DATA
codeword sent and `rxSeq` of the last one received in order (R305). `replay` holds the unacknowledged codewords, oldest
first, the last `resend` of which are still to be sent again (R306); `ackAt` is when ACK last advanced and `replayAt` when it did or
a replay began. `trained` is that the port has left TRAINING once (R457). `credits` are held for sending and `freed` not yet
reported, per virtual channel (R310). `rx` holds the packets received and not yet taken, `partial_` the flits of one
not yet whole. `txq` holds the packets to send with the set that routed them, `sending` the flits of a packet under way,
`linkq` link flits. -/
structure Port where
  state    : PortState
  since    : Nat
  step     : Nat
  reversed : Bool
  trained  : Bool
  peerNode : BitVec 15
  peerPort : BitVec 4
  txSeq    : BitVec 8
  rxSeq    : BitVec 8
  replay   : List Codeword
  resend   : Nat
  ackAt    : Nat
  replayAt : Nat
  nakCount : Nat
  nakSeq   : BitVec 8
  nakDue   : Bool
  sinceMarker : Nat
  credits  : Vector Nat 4
  freed    : Vector Nat 4
  freedAt  : Nat
  rx       : List Packet
  partial_ : List (BitVec 512)
  txq      : List (PortSet × Packet)
  sending  : List (BitVec 512)
  linkq    : List (BitVec 512)
  deriving DecidableEq, Repr, Inhabited

/-- Port counters (R349). -/
structure PortCounters where
  txFlits   : Vector Nat 16
  rxFlits   : Vector Nat 16
  fecCorrected : Vector Nat 16
  fecUncorrected : Vector Nat 16
  replays   : Vector Nat 16
  downs     : Vector Nat 16
  stalls    : Vector Nat 16
  fwd       : Vector Nat 16
  protoErr  : Vector Nat 16
  routeDrop : Nat
  hopDrop   : Nat
  e2eCrc    : Nat
  foreign   : Nat
  remoteDenied : Nat
  exchanges : Nat
  verdictTimeouts : Nat
  deriving DecidableEq, Repr, Inhabited

/-- Unit counters (R349). -/
structure CollCounters where
  descriptors : Vector Nat 4
  txBytes  : Vector Nat 4
  rxBytes  : Vector Nat 4
  sat      : Vector Nat 4
  timeout  : Vector Nat 4
  mismatch : Vector Nat 4
  holdNs   : Vector Nat 4
  staged   : Vector Nat 4
  remoteReads  : Vector Nat 4
  remoteWrites : Vector Nat 4
  deriving DecidableEq, Repr, Inhabited

/-- A collective group (R321, R322): node IDs in rank order, this module's rank, and the next sequence number. -/
structure Group where
  id      : BitVec 12
  members : List Nat
  rank    : Nat
  seq     : BitVec 32
  deriving DecidableEq, Repr, Inhabited

/-- A piece of a peer's stream as received: its offset, its data and its place in the order of arrival. -/
structure RxPart where
  off   : Nat
  data  : Data
  stamp : Nat
  deriving DecidableEq, Repr, Inhabited

/-- What has come from one peer of a descriptor (R327). -/
structure PeerIn where
  rank  : Nat
  parts : List RxPart
  deriving DecidableEq, Repr, Inhabited

/-- How many segments of its stream have been sent to one peer of a descriptor. -/
structure PeerOut where
  rank  : Nat
  sent  : Nat
  deriving DecidableEq, Repr, Inhabited

/-- How far a PERMUTE receive entry has come (R341); a staged shard that is copied into its range is first read, and then written. -/
inductive RecvState where
  | idle | direct | staged (half : Fin 2) | stagedFull (half : Fin 2) | copying (half : Fin 2) (data : Option Data) | done
  deriving DecidableEq, Repr, Inhabited

/-- A plan entry of a PERMUTE (R339, R341): `state` of a receive entry, the bytes received and written so far, `asked` (its PULL has come
and its shard is being read) and `pulled` of a send entry. -/
structure PlanEntry where
  peer  : Nat
  recv  : Bool
  shard : Nat
  bytes : Nat
  dva   : Nat
  state : RecvState
  asked : Bool
  pulled : Bool
  got   : Nat
  deriving DecidableEq, Repr, Inhabited

/-- Received data of a shard that are being written: the sender, the shard, their offset in it. -/
structure ShardWrite where
  peer  : Nat
  shard : Nat
  off   : Nat
  data  : Data
  deriving DecidableEq, Repr, Inhabited

/-- The audit of one shard of a descriptor on this member (R238, R338): the rank that owns it, whether this member's copy matched
(`none`: not decided), the refetches asked for, the ranks that have reported it to its owner, and whether every member is known to have
reported it. -/
structure AuditShard where
  owner  : Nat
  ok     : Option Bool
  tries  : Nat
  reports : List Nat
  closed : Bool
  deriving DecidableEq, Repr, Inhabited

/-- A COLLECTIVE that has not completed (R323, R328). `cmd` is also its place in admission order. `started` is that its WAIT is over
and its source is read, `running` that its exchange has started, `src` its own source as read, `norm` its norm terms, `scratch` that phase 1
lies in the phase buffer, `result` what is being written to its destination, `written` that its destination is written, `writes` the shard
data being written, `refetches` the shards to be sent again (rank and try), `poison` the status that poison gives it (R345). -/
structure Coll where
  cmd     : Nat
  slot    : Slot
  group   : BitVec 12
  seq     : BitVec 32
  step    : Option (BitVec 64)
  started : Bool
  running : Bool
  lastRx  : Nat
  src     : Data
  ins     : List PeerIn
  outs    : List PeerOut
  plan    : List PlanEntry
  norm    : Option NormTerm
  scratch : Bool
  result  : Option Data
  written : Bool
  writes  : List ShardWrite
  refetches : List (Nat × Nat)
  poison  : Option Status
  audited : Bool
  audits  : List AuditShard
  deriving DecidableEq, Repr, Inhabited

/-- A Remote request outstanding at a unit (R319). -/
structure RemoteReq where
  tag    : BitVec 16
  req    : Nat
  sentAt : Nat
  deriving DecidableEq, Repr, Inhabited

/-- A collective unit (R323): its descriptors (at most 64, of which 8 run), Remote requests outstanding (at most
256), those waiting for an entry, and the next tag. -/
structure CollUnit where
  queue   : List Coll
  remote  : List RemoteReq
  waiting : List Nat
  nextTag : BitVec 16
  deriving DecidableEq, Repr, Inhabited

/-- A VERDICT message received and not yet used (R334). -/
structure VerdictMsg where
  group : BitVec 16
  tag   : BitVec 16
  node  : BitVec 15
  down  : Bool
  sumsq : BitVec 32
  nonfinite : Bool
  vote  : Bool
  deriving DecidableEq, Repr, Inhabited

/-- The VERDICT exchange of a step on this member (R333 to R335): the member's own contribution once due and the time
it became due, and whether VERDICT_UP was sent and VERDICT_DOWN handled. -/
structure Exchange where
  step   : BitVec 64
  group  : BitVec 16
  own    : Option NormTerm
  vote   : Bool
  dueAt  : Nat
  upSent : Bool
  done   : Bool
  deriving DecidableEq, Repr, Inhabited

/-- Entries of the routing tables (R312). -/
structure Routes where
  groupInject  : Vector (BitVec 32) 128
  groupB       : Vector (BitVec 32) 128
  groupC       : Vector (BitVec 32) 128
  memberInject : Vector (BitVec 32) 256
  memberB      : Vector (BitVec 32) 256
  memberC      : Vector (BitVec 32) 256
  deriving DecidableEq, Repr, Inhabited

/-- A write of a routing table under way (R312): the object, the new entries, and the next of them to be written. -/
structure RouteWrite where
  index  : Nat
  sub    : Nat
  values : List (BitVec 32)
  next   : Nat
  deriving DecidableEq, Repr, Inhabited

/-- The links and collective units. `own` holds packets for this module that never leave it. NODE_ID lies with the
persistent objects. -/
structure Links where
  ports     : Vector Port 16
  routes    : Routes
  routeWrites : List RouteWrite
  linkPorts : BitVec 8
  portDisable : BitVec 16
  hopLimit  : BitVec 8
  own       : List Packet
  units     : Vector CollUnit 4
  groups    : List Group
  groupSelect : BitVec 16
  collTimeoutMs : BitVec 32
  remoteTimeoutUs : BitVec 32
  deterministic : BitVec 8
  exchanges : List Exchange
  msgs      : List VerdictMsg
  counters  : PortCounters
  unitCounters : CollCounters
  deriving DecidableEq, Repr, Inhabited

/-- Buffer of a port's receiver per virtual channel, in flits (R310). -/
def vcFlits : Vector Nat 4 := #v[512, 64, 128, 512]

/-- A port before its first training (R315): DISABLED, as PORT_STATUS after reset says (R348). -/
def Port.reset : Port :=
  { state := .disabled, since := 0, step := 0, reversed := false, trained := false, peerNode := 0, peerPort := 0, txSeq := 0, rxSeq := 0,
    replay := [], resend := 0, ackAt := 0, replayAt := 0, nakCount := 0, nakSeq := 0, nakDue := false, sinceMarker := 0,
    credits := .replicate 4 0, freed := .replicate 4 0, freedAt := 0, rx := [], partial_ := [], txq := [],
    sending := [], linkq := [] }

/-- Port counters after reset (R349). -/
def PortCounters.zero : PortCounters :=
  { txFlits := .replicate 16 0, rxFlits := .replicate 16 0, fecCorrected := .replicate 16 0,
    fecUncorrected := .replicate 16 0, replays := .replicate 16 0, downs := .replicate 16 0, stalls := .replicate 16 0,
    fwd := .replicate 16 0, protoErr := .replicate 16 0, routeDrop := 0, hopDrop := 0, e2eCrc := 0, foreign := 0,
    remoteDenied := 0, exchanges := 0, verdictTimeouts := 0 }

/-- Unit counters after reset (R349). -/
def CollCounters.zero : CollCounters :=
  { descriptors := .replicate 4 0, txBytes := .replicate 4 0, rxBytes := .replicate 4 0, sat := .replicate 4 0,
    timeout := .replicate 4 0, mismatch := .replicate 4 0, holdNs := .replicate 4 0, staged := .replicate 4 0,
    remoteReads := .replicate 4 0, remoteWrites := .replicate 4 0 }

/-- The links after reset (R348). -/
def Links.reset : Links :=
  { ports := .replicate 16 .reset,
    routes := {
      groupInject := .replicate 128 0, groupB := .replicate 128 0, groupC := .replicate 128 0,
      memberInject := .replicate 256 0, memberB := .replicate 256 0, memberC := .replicate 256 0 },
    routeWrites := [], linkPorts := 16, portDisable := 0, hopLimit := 32, own := [],
    units := .replicate 4 { queue := [], remote := [], waiting := [], nextTag := 0 }, groups := [], groupSelect := 0,
    collTimeoutMs := 2000, remoteTimeoutUs := 1000, deterministic := 0, exchanges := [], msgs := [],
    counters := .zero, unitCounters := .zero }

end Sys2Proof.Machine
end

