-- ==== Sys2Proof/Machine/State/Numerics.lean ====
section
/-!
DEFINITION. State of the numerics objects and counters that belong to no unit (04: R170, R171).
-/
namespace Sys2Proof.Machine

/-- The numerics objects and step counters (R170, R171); F32 values as their codes. -/
structure Numerics where
  srSeed      : BitVec 64
  lossMode    : BitVec 8
  lossScale   : BitVec 32
  lossFactor  : BitVec 32
  lossInterval : BitVec 32
  lossClean   : BitVec 32
  maxNorm     : BitVec 32
  normAbsurd  : BitVec 32
  wideReplayEnable : BitVec 8
  lossUp      : Nat
  lossDown    : Nat
  verdNonfinite : Nat
  verdAbsurd  : Nat
  verdClipped : Nat
  deriving DecidableEq, Repr, Inhabited

/-- The numerics objects after reset (R170). -/
def Numerics.reset : Numerics :=
  { srSeed := 0, lossMode := 0, lossScale := 0x47800000, lossFactor := 0x40000000, lossInterval := 2000, lossClean := 0,
    maxNorm := 0, normAbsurd := 0x49742400, wideReplayEnable := 1, lossUp := 0, lossDown := 0, verdNonfinite := 0,
    verdAbsurd := 0, verdClipped := 0 }

end Sys2Proof.Machine
end

