-- ==== Sys2Proof/Machine/State/Out.lean ====
section
/-!
DEFINITION. What the module sends to the outside: the record of it that State keeps, in the order of sending.
-/
namespace Sys2Proof.Machine

/-- One thing that leaves the module. -/
inductive Out where
  /-- a write to host memory; `relaxed` is Relaxed Ordering (R371) -/
  | hostWrite (addr : Nat) (data : Data) (relaxed : Bool)
  /-- a read request to host memory -/
  | hostRead (addr len : Nat)
  /-- an MSI-X message (R350) -/
  | msix (addr : BitVec 64) (data : BitVec 32)
  /-- the completion of a BAR2 read (R355) -/
  | bar2Data (data : Data)
  /-- a frame on the field network (R401) -/
  | fnFrame (dst : BitVec 48) (m : Vmp)
  /-- the answer to a dictionary write that came as a whole value -/
  | answer (ch : Chan) (index sub : Nat) (st : Status)
  /-- a codeword on a port, and what its eight lanes carry of it (R305) -/
  | codeword (p : Fin 16) (cw : Codeword) (lanes : List (List (BitVec 10)))
  /-- a beacon of this module as the PLCA coordinator, and the transmit opportunities of its cycle (R400) -/
  | beacon (opportunities : Nat)
  /-- a module that is shut down loses its output drivers (R438, R439) -/
  | railsOff
  deriving DecidableEq, Repr, Inhabited

end Sys2Proof.Machine
end

