-- ==== Sys2Proof/Machine/State/Rows.lean ====
section
/-!
DEFINITION. State of the row engines, the table directory, the update and deferred logs and the export and import commands
(05 and 06).
-/
namespace Sys2Proof.Machine

/-- A version of a table: its descriptor and number (R175, R177). -/
structure TabVer where
  desc    : BitVec 512
  version : Nat
  deriving DecidableEq, Repr, Inhabited

/-- An admitted broadcast that writes into a replica (R180). -/
structure Bcast where
  cmd  : Nat
  step : Option (BitVec 64)
  deriving DecidableEq, Repr, Inhabited

/-- A table of the directory (R177 to R180), with the optimiser bound to it (R219) and its key plane (R235). A table is
listed from its first TABLE_SET on. -/
structure Table where
  id     : Nat
  cur    : TabVer
  prev   : Option TabVer
  stale  : Bool
  bcasts : List Bcast
  optim  : Option (BitVec 512)
  keyDva : Option Nat
  deriving DecidableEq, Repr, Inhabited

/-- A gather batch (R178): of a step, or of one NO_STEP command. -/
structure Batch where
  table   : Nat
  step    : Option (BitVec 64)
  cmd     : Nat
  version : Nat
  deriving DecidableEq, Repr, Inhabited

/-- A GATHER in an engine's queue (R181, R187): its payload, the bound descriptors, the positions P0 and P1, the next bag to
dispatch, the bags that have ended, how many outputs from the first on are written and which ones beyond, the groups
signalled, how it stopped or failed, and what it took on at its admission: the translation order (R299), whether lists are read ahead
(RUNAHEAD_ENABLE) and the sampling objects (R204). -/
structure GatherRun where
  cmd    : Nat
  slot   : Slot
  step   : Option (BitVec 64)
  desc   : TabVer
  delta  : Option TabVer
  keyDva : Option Nat
  p0     : Nat
  p1     : Nat
  next   : Nat
  ended  : Nat
  outputs : Nat
  beyond : List Nat
  signalled : Nat
  stop   : Option Status
  unwritten : Option Nat
  failed : Option (Nat × Status)
  xorder : Nat
  ahead  : Bool
  hitShift  : BitVec 8
  missShift : BitVec 8
  ringDva   : BitVec 64
  ringEntries : BitVec 32
  deriving DecidableEq, Repr, Inhabited

/-- How far a window of a list has come (R172). -/
inductive LineState where
  /-- asked for by this request, ahead of the threads or not -/
  | asked (req : Nat) (ahead : Bool)
  | here (d : Data)
  /-- its run-ahead fetch has been dropped (R299) -/
  | dropped
  deriving DecidableEq, Repr, Inhabited

/-- A 256-byte window of a list of a GATHER, by its address, in the list reader (R172). -/
structure ListLine where
  cmd   : Nat
  base  : Nat
  state : LineState
  deriving DecidableEq, Repr, Inhabited

/-- An INSTALL under way (R197); `again` says that its row was updated meanwhile. -/
structure Install where
  entry   : Nat
  table   : Nat
  row     : Nat
  way     : Nat
  unit    : Nat
  version : Nat
  dva     : Nat
  len     : Nat
  again   : Bool
  deriving DecidableEq, Repr, Inhabited

/-- An EMBER_REFRESH in an engine's queue (R196): the next entry, its installs in flight, and the lowest entry that
failed. -/
structure RefreshRun where
  cmd     : Nat
  slot    : Slot
  step    : Option (BitVec 64)
  next    : Nat
  installs : List Install
  failed  : Option (Nat × Status)
  deriving DecidableEq, Repr, Inhabited

/-- A command of an engine's command queue (R188). -/
inductive EngineCmd where
  | gather (g : GatherRun)
  | refresh (r : RefreshRun)
  deriving DecidableEq, Repr, Inhabited

/-- A row of a bag that has been probed and not yet pooled (R189, R190): its position, whether it is the delta row, the
record so far, the pieces not yet requested as (offset, length), how many have not arrived, the weight, its place in the
order of becoming poolable, and the pieces that the pool unit has taken. A zero row has no record; a zero delta row says that
the position has none. `bucket` marks the bucket of a (variant, row), which is read before the delta row is known (R236); `again` says
that the row was updated while its pieces were read, so that all of them are read again (R203). -/
structure PendRow where
  id      : Nat
  pos     : Nat
  delta   : Bool
  zero    : Bool
  bucket  : Option (Nat × Nat)
  again   : Bool
  desc    : BitVec 512
  dva     : Nat
  record  : Data
  toIssue : List (Nat × Nat)
  missing : Nat
  weight  : BitVec 32
  order   : Option Nat
  taken   : Nat
  deriving DecidableEq, Repr, Inhabited

/-- A thread that runs a bag (R188, R190): the parts of positions still to probe, of which `retry` come first (a part is a
position and whether its delta row is meant), the parts that wait until the deferred update of a row (table, row) has been applied
(R231), the slots of delta rows found in their buckets (R236), the rows probed, the part that the pool unit takes next, the base value that
waits for its delta row, the accumulator or the finished outputs, and when it became ready. `noRange` marks a bag without an
output range. Once the output is sent, `packets` are those that carry it. -/
structure BagThread where
  cmd     : Nat
  bag     : Nat
  first   : Nat
  last    : Nat
  next    : Nat × Bool
  retry   : List (Nat × Bool)
  held    : List ((Nat × Bool) × Nat × Nat)
  found   : List (Nat × Nat)
  rows    : List PendRow
  pool    : Nat × Bool
  base    : List (BitVec 32)
  acc     : List (BitVec 32)
  outs    : List (Nat × List (BitVec 32))
  fail    : Option Status
  noRange : Bool
  parked  : Bool
  ready   : Nat
  written : Bool
  packets : List Nat
  deriving DecidableEq, Repr, Inhabited

/-- A memory request of a core or of the pre-scanner (R191, R193, R200): the row it serves, the piece, its place, the bank
and whether it leaves the engine's own stack, which the caps count. `req` is its number once it has left. -/
structure RowReq where
  row     : Nat
  off     : Nat
  len     : Nat
  entry   : XEntry
  bank    : Option (Nat × Nat × Nat)
  outside : Bool
  req     : Option Nat
  deriving DecidableEq, Repr, Inhabited

/-- A lookup core (R172, R189): its threads, the thread that holds the stage and its shadow probes left after a miss, the
request slots, the wait list and the ember hits counted for sampling (R198). -/
structure Core where
  threads : Vector (Option BagThread) 16
  stage   : Option (Fin 16)
  shadow  : Option Nat
  slots   : List RowReq
  waits   : List RowReq
  hits    : Nat
  deriving DecidableEq, Repr, Inhabited

/-- A row that the pre-scanner fetches (R200): the record so far and the pieces that have not arrived. `again` says that the
row was updated meanwhile, `dropped` that it will not be staged. -/
structure PreFetch where
  row   : Nat
  unit  : Nat
  record : Data
  reqs  : List RowReq
  again : Bool
  dropped : Bool
  deriving DecidableEq, Repr, Inhabited

/-- A PRESCAN (R199 to R202): its payload, table version, generation, the translation order at admission, the bag under way
with its next position and its end once known, and its fetches. `stop` is that it takes no more positions. -/
structure PreRun where
  cmd     : Nat
  slot    : Slot
  step    : Option (BitVec 64)
  table   : TabVer
  gen     : Bool
  xorder  : Nat
  bag     : Nat
  range   : Option (Nat × Nat)
  fetches : List PreFetch
  stop    : Bool
  deriving DecidableEq, Repr, Inhabited

/-- Units of the staging data that a generation holds (R200). -/
structure StageAlloc where
  unit : Nat
  n    : Nat
  gen  : Bool
  deriving DecidableEq, Repr, Inhabited

/-- A scatter key as its 32 bytes (R213), and where it lies in T1. -/
structure SortKey where
  word : BitVec 256
  dva  : Nat
  deriving DecidableEq, Repr, Inhabited

/-- An entry of the update log or the deferred log (R217, R228): its header, its body, where it lies, how many bytes it occupies,
and the table version and key plane it applies to (R226). `unwritten` says that its new values have not been written to its log yet. -/
structure LogEntry where
  hdr    : BitVec 256
  body   : List Byte
  dva    : Nat
  size   : Nat
  table  : TabVer
  keyDva : Nat
  unwritten : Bool
  deriving DecidableEq, Repr, Inhabited

/-- The keys of a bag (R213): the keys with their places, the positions without one, and the position after the bag's last. -/
structure BagKeyList where
  keys    : List SortKey
  missing : Nat
  upTo    : Nat
  deriving DecidableEq, Repr, Inhabited

/-- A SCATTER that has not written its keys (R210, R213): the next bag, the first position that no earlier bag has taken, the keys of the
bag that are being written, the lowest bag that failed, and why it stopped. -/
structure ScatterRun where
  cmd    : Nat
  slot   : Slot
  table  : TabVer
  keyDva : Option Nat
  seq    : Nat
  p0     : Nat
  p1     : Nat
  next   : Nat
  pos    : Nat
  ready  : Option BagKeyList
  failed : Option (Nat × Status)
  stop   : Option Status
  deriving DecidableEq, Repr, Inhabited

/-- What an engine keeps for an open step (R213 to R217): the tables of its SCATTERs, the SCATTERs, keys and log entries, whether
it is sealed and merged, its row sum of squares, and how many entries the commit sequence has applied. `formed` says that the merge has
formed its entries and writes them, and whether one found no room. -/
structure EngineStep where
  step     : BitVec 64
  nextSeq  : Nat
  tables   : List Nat
  scatters : List ScatterRun
  keys     : List SortKey
  sealed   : Bool
  formed   : Option Bool
  merged   : Bool
  norm     : BitVec 32
  nonfinite : Bool
  entries  : List LogEntry
  applied  : Nat
  deriving DecidableEq, Repr, Inhabited

/-- The counters of one engine (R206, R245, R171). -/
structure EngineCounters where
  gatherBags : Nat
  rowsPooled : Nat
  emberHits  : Nat
  stagingHits : Nat
  rowMisses  : Nat
  missingRows : Nat
  deltaRows  : Nat
  bagFail    : Nat
  poolBusy   : Nat
  poolIdle   : Nat
  threadYield : Nat
  probeRetry : Nat
  bankSaturation : Nat
  waitlistFull : Nat
  prescanRows : Nat
  prescanFull : Nat
  emberInstalls : Nat
  missSampleDrop : Nat
  rstoreCe   : Nat
  rstoreUe   : Nat
  scatterKeys : Nat
  scatterMissing : Nat
  mergedRows : Nat
  updateRows : Nat
  updateBursts : Nat
  writeThroughs : Nat
  deferEntries : Nat
  deferApplied : Nat
  deferForwards : Nat
  deltaInserts : Nat
  deltaOverflow : Nat
  rowSat     : Nat
  rowFlat    : Nat
  rowNonfinite : Nat
  deriving DecidableEq, Repr, Inhabited

/-- A drain of deferred entries under way (R229, R231, R242): its number (0 is the background drain's batch), the entries it takes, in the
order in which it applies them, the windows of row data that it reads at once, and whether it has read them: its entries then hold the new
values. -/
structure Drain where
  n       : Nat
  entries : List LogEntry
  windows : List (Nat × Nat)
  read    : Bool
  deriving DecidableEq, Repr, Inhabited

/-- A row engine (R172). `missCount` counts row misses for sampling and `missHead` the samples (R198). `keyPos` and `logPos`
are where the next key and entry go in their regions. `lines` is the list reader. `drains` are the drains of deferred entries
under way. `forwards` are the rows that probes want applied (R231). -/
structure Engine where
  queue    : List EngineCmd
  prescans : List PreRun
  lines    : List ListLine
  lastGen  : Bool
  allocs   : List StageAlloc
  nextUnit : Nat
  cores    : Vector Core 4
  nextRow  : Nat
  nextOrder : Nat
  nextReady : Nat
  missCount : Nat
  missHead : Nat
  steps    : List EngineStep
  keyPos   : Nat
  logPos   : Nat
  deferred : List LogEntry
  deferPos : Nat
  drains   : List Drain
  forwards : List (Nat × Nat)
  counters : EngineCounters
  deriving DecidableEq, Repr, Inhabited

/-- A MERGE that has not completed (R214). -/
structure MergeCmd where
  cmd    : Nat
  step   : BitVec 64
  left   : List (Fin 16)
  failed : Option Status
  deriving DecidableEq, Repr, Inhabited

/-- A ROW_OPTIMISE that has not completed (R222): the engines it names, and whether it has found an entry. -/
structure OptCmd where
  cmd   : Nat
  step  : BitVec 64
  mask  : BitVec 16
  found : Bool
  deriving DecidableEq, Repr, Inhabited

/-- An EXPORT that has not completed (R240 to R242): its payload, the data once captured, whether the record but its last byte is
written. -/
structure ExportRun where
  cmd     : Nat
  slot    : Slot
  step    : Option (BitVec 64)
  table   : Option TabVer
  data    : Option Data
  written : Bool
  deriving DecidableEq, Repr, Inhabited

/-- An IMPORT that writes its rows (R243): the next row of the record and how many have been written. -/
structure ImportRun where
  cmd     : Nat
  row     : Nat
  written : Nat
  deriving DecidableEq, Repr, Inhabited

/-- The objects of R204 and R244 and the module counters of R245. -/
structure RowObjects where
  emberSets  : Nat
  hitShift   : BitVec 8
  missShift  : BitVec 8
  ringDva    : BitVec 64
  ringEntries : BitVec 32
  prescanEnable : BitVec 8
  replicateMax : BitVec 64
  tableSelect : BitVec 16
  keyDva     : Vector (BitVec 64) 16
  keyBytes   : Vector (BitVec 64) 16
  logDva     : Vector (BitVec 64) 16
  logBytes   : Vector (BitVec 64) 16
  deferDva   : Vector (BitVec 64) 16
  deferBytes : Vector (BitVec 64) 16
  deferDelay : BitVec 8
  deferForward : BitVec 8
  deferBatch : BitVec 32
  replicaAudit : BitVec 8
  refetchLimit : BitVec 8
  restoreRequired : Bool
  boundWaitNs : Nat
  deferLost  : Nat
  replicaMismatch : Nat
  replicaRefetch : Nat
  deriving DecidableEq, Repr, Inhabited

/-- A stop of the drain (R229): the tables that an import has to restore first, and the failure of a step that would have to wait for the
drain. -/
structure DrainStop where
  tables : List Nat
  st     : Status
  deriving DecidableEq, Repr, Inhabited

/-- The row engines with the table directory and the commands that several engines run. `drainStopped` is the stop of the
drain after a TORN outcome or a failure (R229). -/
structure Rows where
  engines  : Vector Engine 16
  tables   : List Table
  batches  : List Batch
  merges   : List MergeCmd
  optimises : List OptCmd
  exports  : List ExportRun
  imports  : List ImportRun
  drainStopped : Option DrainStop
  obj      : RowObjects
  deriving DecidableEq, Repr, Inhabited

/-- The counters of an engine after reset. -/
def EngineCounters.zero : EngineCounters :=
  { gatherBags := 0, rowsPooled := 0, emberHits := 0, stagingHits := 0, rowMisses := 0, missingRows := 0, deltaRows := 0,
    bagFail := 0, poolBusy := 0, poolIdle := 0, threadYield := 0, probeRetry := 0, bankSaturation := 0, waitlistFull := 0,
    prescanRows := 0, prescanFull := 0, emberInstalls := 0, missSampleDrop := 0, rstoreCe := 0, rstoreUe := 0,
    scatterKeys := 0, scatterMissing := 0, mergedRows := 0, updateRows := 0, updateBursts := 0, writeThroughs := 0,
    deferEntries := 0, deferApplied := 0, deferForwards := 0, deltaInserts := 0, deltaOverflow := 0, rowSat := 0,
    rowFlat := 0, rowNonfinite := 0 }

/-- A core after reset. -/
def Core.reset : Core := { threads := .replicate 16 none, stage := none, shadow := none, slots := [], waits := [], hits := 0 }

/-- A row engine after reset. -/
def Engine.reset : Engine :=
  { queue := [], prescans := [], lines := [], lastGen := false, allocs := [], nextUnit := 0, cores := .replicate 4 .reset, nextRow := 0,
    nextOrder := 0, nextReady := 0, missCount := 0, missHead := 0, steps := [], keyPos := 0, logPos := 0, deferred := [],
    deferPos := 0, drains := [], forwards := [], counters := .zero }

/-- The objects after reset (R204, R244). -/
def RowObjects.reset : RowObjects :=
  { emberSets := 65536, hitShift := 4, missShift := 6, ringDva := 0, ringEntries := 0, prescanEnable := 1,
    replicateMax := 67108864, tableSelect := 0, keyDva := .replicate 16 0, keyBytes := .replicate 16 0,
    logDva := .replicate 16 0, logBytes := .replicate 16 0, deferDva := .replicate 16 0, deferBytes := .replicate 16 0,
    deferDelay := 2, deferForward := 0, deferBatch := 4096, replicaAudit := 0, refetchLimit := 3, restoreRequired := false,
    boundWaitNs := 0, deferLost := 0, replicaMismatch := 0, replicaRefetch := 0 }

/-- The row engines after reset. -/
def Rows.reset : Rows :=
  { engines := .replicate 16 .reset, tables := [], batches := [], merges := [], optimises := [], exports := [], imports := [],
    drainStopped := none, obj := .reset }

end Sys2Proof.Machine
end

