-- ==== Sys2Proof/Machine/State/Array.lean ====
section
/-!
DEFINITION. State of a tile's matrix array (02): the pass queue, the chain and the active weights, the feeders, the vectors
in the array, the accumulators, the accumulation groups and the output queue.
-/
namespace Sys2Proof.Machine

/-- A block of weights: the descriptor of the pass that loaded it, its 128 rows of codes (INT4 expanded to INT8), whether it holds a NaN
or infinity (R92), and whether a poisoned word was among its words. -/
structure Block where
  load      : BitVec 512
  rows      : List (List Nat)
  nonfinite : Bool
  poison    : Bool
  deriving DecidableEq, Repr, Inhabited

/-- A pass in the array's queue (R78). `step` is the step number of the rounding key (R75); `group` the accumulation group
(R93); `predict` whether prediction is on, once feeding has started; `nextVec` the next vector the feeder takes;
`entered` the vectors that have entered; `started` whether vector 0 may enter; `fed` whether the feeder has taken them
all. -/
structure ArrPass where
  id      : Nat
  desc    : BitVec 512
  step    : Nat
  group   : Nat
  predict : Option Bool
  nextVec : Nat
  entered : Nat
  started : Bool
  fed     : Bool
  deriving DecidableEq, Repr, Inhabited

/-- A vector in a feeder queue, or the mark of a skipped block of `count` vectors, with whether its bit was predicted non-zero (R83,
R91, R92). -/
structure FeedItem where
  pass   : Nat
  vec    : Nat
  elems  : List Nat
  count  : Nat
  late   : Bool
  poison : Bool
  deriving DecidableEq, Repr, Inhabited

/-- A vector on its way through the array, or the mark of a skipped block of `count` vectors: its age in beats and what
will reach the drain (R72, R73). -/
structure Flight where
  pass   : Nat
  vec    : Nat
  age    : Nat
  result : List (BitVec 32)
  count  : Nat
  poison : Bool
  deriving DecidableEq, Repr, Inhabited

/-- A pass of an accumulation group (R93, R94): its descriptor, the descriptor of the pass that loaded its block, and the rounding
step. -/
structure GroupPass where
  pass : Nat
  desc : BitVec 512
  load : BitVec 512
  step : Nat
  deriving DecidableEq, Repr, Inhabited

/-- An accumulation group (R93, R94): its passes, whether it begins with ACC_MODE 0, the blocks skipped by prediction as (pass, block), the
zero-point correction summed over its passes (R70), whether its release pass is queued, the vectors of that pass completed, the next
block to release, and whether all are released. -/
structure AccGroup where
  id       : Nat
  passes   : List GroupPass
  wellBegun : Bool
  skips    : List (Nat × Nat)
  corr     : List Int
  closed   : Bool
  complete : Nat
  nextBlock : Nat
  released : Bool
  deriving DecidableEq, Repr, Inhabited

/-- The chain registers (R67, R79): the pass whose block is in them, `none` while the chain is free, how many of its rows have been
injected, and what the registers hold, row 0 first. -/
structure Chain where
  pass : Option Nat
  rows : Nat
  block : Block
  deriving DecidableEq, Repr, Inhabited

/-- A weight row read by the loader and not yet injected (R79). -/
structure WRow where
  pass   : Nat
  codes  : List Nat
  poison : Bool
  deriving DecidableEq, Repr, Inhabited

/-- Released vectors in the output queue: bytes still to leave and whether they go to another tile (R85). -/
structure OutVec where
  bytes  : Nat
  remote : Bool
  deriving DecidableEq, Repr, Inhabited

/-- The array counters of a tile (R99). -/
structure ArrCounters where
  active   : Nat
  snuff    : Nat
  west     : Nat
  north    : Nat
  drain    : Nat
  bubble   : Nat
  vectors  : Nat
  passes   : Nat
  wloads   : Nat
  accSat   : Nat
  zbSkip   : Nat
  zbLate   : Nat
  zbReplay : Nat
  zbReplayCycles : Nat
  zbLimit  : Nat
  deriving DecidableEq, Repr, Inhabited

/-- A tile's matrix array with its feeders and drain. `active` is what the active registers hold, `loaded` whether weights have been
loaded since device reset (R67, R77). -/
structure ArrayUnit where
  queue    : List ArrPass
  nextPass : Nat
  openGroup : Option Nat
  groups   : List AccGroup
  feed     : List FeedItem
  rowq     : List WRow
  chain    : Chain
  active   : Block
  loaded   : Bool
  flights  : List Flight
  acc      : Vector (Vector (BitVec 32) 128) 2048
  outq     : List OutVec
  poison   : Bool
  counters : ArrCounters
  deriving DecidableEq, Repr, Inhabited

/-- Array counters after reset (R99). -/
def ArrCounters.zero : ArrCounters :=
  { active := 0, snuff := 0, west := 0, north := 0, drain := 0, bubble := 0, vectors := 0, passes := 0, wloads := 0,
    accSat := 0, zbSkip := 0, zbLate := 0, zbReplay := 0, zbReplayCycles := 0, zbLimit := 0 }

/-- A block of zeros, which the registers hold after reset. -/
def Block.zero : Block := { load := 0, rows := List.replicate 128 (List.replicate 128 0), nonfinite := false, poison := false }

/-- The array after reset: nothing queued, no weights loaded. The weight registers and the accumulators, whose reset values the spec does
not give (R59, R67), hold 0 (DESIGN CHOICE). -/
def ArrayUnit.reset : ArrayUnit :=
  { queue := [], nextPass := 0, openGroup := none, groups := [], feed := [], rowq := [], chain := { pass := none, rows := 0, block := .zero },
    active := .zero, loaded := false, flights := [], acc := .replicate 2048 (.replicate 128 0), outq := [], poison := false, counters := .zero }

end Sys2Proof.Machine
end

