-- ==== Sys2Proof/Machine/State/Tile.lean ====
section
/-!
DEFINITION. State of the compute tiles (03) and of the Weave (02): programs, sequencer, shard table, mover, vector engine,
tile memory, packets in flight, and the TILE_RUN commands that have not completed.
-/
namespace Sys2Proof.Machine

/-- A program admitted to a tile (R106); `redo` marks a re-execution under R36. -/
structure Prog where
  cmd  : Nat
  slot : Slot
  step : Option (BitVec 64)
  redo : Bool
  deriving DecidableEq, Repr, Inhabited

/-- What a sequencer waits for (R109, R111). -/
inductive SeqWait where
  | none
  | unitFull
  | bc (i : Fin 32) (least : BitVec 32)
  | fence (units : BitVec 3)
  | redrd (gd : Fin 32) (imm : BitVec 16)
  | verd (gd : Fin 32) (imm : BitVec 16)
  deriving DecidableEq, Repr, Inhabited

/-- The running program of a tile (R108): the program counter, the phase, the cycles since its start, when each scalar
register's LD delivers (R109), what it waits for, the status it is stopping with and whether that is an error of an
instruction or unit (R110), and the parts of tile memory, as address and length, that it has itself written. -/
structure Run where
  prog   : Prog
  pc     : Nat
  phase  : Nat
  cycles : Nat
  ready  : Vector Nat 32
  wait   : SeqWait
  stopping : Option Status
  failed : Bool
  stored : List (Nat × Nat)
  deriving DecidableEq, Repr, Inhabited

/-- A shard entry (R112). -/
structure Shard where
  defined : Bool
  a       : BitVec 64
  b       : BitVec 64
  sel     : Bool
  marks   : List (BitVec 64)
  deriving DecidableEq, Repr, Inhabited

/-- A mover descriptor in the queue (R115): next row and offset to issue, rows signalled, the translation order at its admission (R299),
whether it stopped on an error, and the lowest row of which a request failed. -/
structure MoveRun where
  id     : Nat
  desc   : BitVec 512
  row    : Nat
  off    : Nat
  signalled : Nat
  xorder : Nat
  ahead  : Bool
  stop   : Bool
  bad    : Option Nat
  deriving DecidableEq, Repr, Inhabited

/-- What an outstanding mover request waits for. -/
inductive MovePhase where
  /-- its source read in another memory, request `req` -/
  | reading (req : Nat)
  /-- its data is here -/
  | have_ (data : Data)
  /-- its write through the Weave, packet `pkt` -/
  | packet (pkt : Nat)
  /-- its write to another memory, request `req` -/
  | writing (req : Nat)
  deriving DecidableEq, Repr, Inhabited

/-- An outstanding mover request (R115). -/
structure MoveReq where
  move  : Nat
  row   : Nat
  off   : Nat
  len   : Nat
  phase : MovePhase
  deriving DecidableEq, Repr, Inhabited

/-- A granule of the read-ahead buffer, and the descriptor that read it (R118). -/
structure AheadLine where
  owner : Nat
  dva   : Nat
  data  : Data
  deriving DecidableEq, Repr, Inhabited

/-- A run-ahead fetch under way (R118): the descriptor that made it, its address and request, and whether its data are still wanted. -/
structure AheadFetch where
  owner : Nat
  dva   : Nat
  req   : Nat
  keep  : Bool
  deriving DecidableEq, Repr, Inhabited

/-- The tile mover (R113 to R118). -/
structure Mover where
  queue   : List MoveRun
  nextId  : Nat
  reqs    : List MoveReq
  ahead   : List AheadLine
  fetches : List AheadFetch
  deriving DecidableEq, Repr, Inhabited

/-- An address register of the vector engine: 25-bit offset and signed stride (R119, R120). -/
structure AReg where
  base   : BitVec 25
  stride : BitVec 24
  deriving DecidableEq, Repr, Inhabited

/-- A reduction result register (R119). -/
structure QReg where
  value : BitVec 32
  nonfinite : BitVec 32
  deriving DecidableEq, Repr, Inhabited

/-- A result on its way to a register, visible from engine cycle `at_` (R126): enabled half-lanes of a vector register,
or a whole mask register. -/
inductive VPend where
  | vec (at_ : Nat) (reg : Fin 32) (halves : BitVec 128) (value : BitVec 2048)
  | mask (at_ : Nat) (reg : Fin 8) (value : BitVec 128)
  deriving DecidableEq, Repr, Inhabited

/-- A vector loop (R120): its descriptor and body as handed over, and where it stands: iteration, bundle and the number
of SR conversions so far (R127). -/
structure VLoopRun where
  desc    : BitVec 1024
  body    : List (BitVec 128)
  step    : Nat
  started : Bool
  iter    : Nat
  bundle  : Nat
  convs   : Nat
  deriving DecidableEq, Repr, Inhabited

/-- The vector engine and the reduction unit (R119 to R128). `cycle` is the cycle in which the next bundle issues. -/
structure VecUnit where
  v      : Vector (BitVec 2048) 32
  m      : Vector (BitVec 128) 8
  a      : Vector AReg 8
  q      : Vector QReg 8
  pend   : List VPend
  cycle  : Nat
  queue  : List VLoopRun
  deriving DecidableEq, Repr, Inhabited

/-- A line of the instruction buffer (R108). -/
structure ILine where
  addr  : Nat
  bytes : Data
  deriving DecidableEq, Repr, Inhabited

/-- The sequencer, mover, vector and tile-memory counters of a tile (R134, R171) and the Weave's (R99). -/
structure TileCounters where
  seqInstr : Nat
  seqWait  : Nat
  vecBundles : Nat
  vecBusy  : Nat
  vecTrans : Nat
  redElems : Nat
  moveBytes : Nat
  moveFull : Nat
  tmemConflict : Nat
  tmemCe   : Nat
  tmemUe   : Nat
  tileFault : Nat
  satCount : Nat
  nanConvert : Nat
  wideReplay : Nat
  weaveFlits : Nat
  weaveStall : Nat
  deriving DecidableEq, Repr, Inhabited

/-- A compute tile (R58). `window` is the saturation window (R154). -/
structure Tile where
  mem      : Mem
  bc       : Vector (BitVec 32) 32
  g        : Vector (BitVec 64) 32
  progs    : List Prog
  run      : Option Run
  shards   : Vector Shard 64
  ibuf     : List ILine
  mover    : Mover
  vec      : VecUnit
  arr      : ArrayUnit
  window   : BitVec 32
  counters : TileCounters
  deriving DecidableEq, Repr, Inhabited

/-- What a Weave packet brings to its destination tile (R65, R85). -/
inductive WBody where
  | data (addr : Nat) (d : Data)
  /-- rows at a distance, whose remaining bytes the tile writes as 0 (R248) -/
  | rows (addr stride : Nat) (rs : List Data)
  | bit (addr pos : Nat) (value : Bool)
  | signal (bc : Fin 32)
  deriving DecidableEq, Repr, Inhabited

/-- A packet on the Weave. `drain` marks the packets of a tile's drain. -/
structure WPacket where
  id    : Nat
  src   : Fin 174
  dst   : Fin 128
  vc    : Fin 4
  drain : Bool
  body  : WBody
  deriving DecidableEq, Repr, Inhabited

/-- The Weave: the packets in flight, oldest first. -/
structure Weave where
  packets : List WPacket
  nextId  : Nat
  deriving DecidableEq, Repr, Inhabited

/-- A TILE_RUN that has not completed (R107): the tiles that have not stopped, and the lowest tile that failed. -/
structure TileCmd where
  cmd    : Nat
  left   : List (Fin 128)
  failed : Option (Nat × Status)
  deriving DecidableEq, Repr, Inhabited

/-- The tiles, their commands, the Weave and the prediction objects (R98). -/
structure TileSys where
  tiles    : Vector Tile 128
  cmds     : List TileCmd
  weave    : Weave
  zbPredict : BitVec 8
  zbOff    : List (BitVec 16)
  deriving DecidableEq, Repr, Inhabited

/-- Tile counters after reset (R99, R134). -/
def TileCounters.zero : TileCounters :=
  { seqInstr := 0, seqWait := 0, vecBundles := 0, vecBusy := 0, vecTrans := 0, redElems := 0, moveBytes := 0,
    moveFull := 0, tmemConflict := 0, tmemCe := 0, tmemUe := 0, tileFault := 0, satCount := 0, nanConvert := 0,
    wideReplay := 0, weaveFlits := 0, weaveStall := 0 }

/-- The vector engine after reset. -/
def VecUnit.reset : VecUnit :=
  { v := .replicate 32 0, m := .replicate 8 0, a := .replicate 8 { base := 0, stride := 0 },
    q := .replicate 8 { value := 0, nonfinite := 0 }, pend := [], cycle := 0, queue := [] }

/-- A tile after reset (R59, R108, R112, R154). -/
def Tile.reset : Tile :=
  { mem := .empty, bc := .replicate 32 0, g := .replicate 32 0, progs := [], run := none,
    shards := .replicate 64 { defined := false, a := 0, b := 0, sel := false, marks := [] }, ibuf := [],
    mover := { queue := [], nextId := 0, reqs := [], ahead := [], fetches := [] }, vec := .reset, arr := .reset, window := 0,
    counters := .zero }

/-- The tiles after reset (R98). -/
def TileSys.reset : TileSys :=
  { tiles := .replicate 128 .reset, cmds := [], weave := { packets := [], nextId := 0 }, zbPredict := 1, zbOff := [] }

end Sys2Proof.Machine
end

