-- ==== Sys2Proof/Machine/State.lean ====
section
/-!
DEFINITION. The state of the Scaxo X4 block, its faults and refusals, and the state after reset.
-/
namespace Sys2Proof.Machine

/-- Why the block stops with a fault. -/
inductive Fault where
  /-- PWR_EN rises outside the power-up conditions of R436 while the environment breaks R9, where the behaviour of the X4 is
  not defined. Raised by PWR_EN_RISE. Safe: nothing is claimed of the module beyond that point. -/
  | outsideSpecification
  deriving DecidableEq, Repr, Inhabited

/-- Why the block refuses a command. -/
inductive Refusal where
  /-- The command has no meaning in this model yet. Raised by the dispatch alone. Safe: nothing is claimed of it. -/
  | notModelled (mnemonic : String)
  deriving DecidableEq, Repr, Inhabited

/-- The state of the block: the commands waiting, the time in nanoseconds since device reset (R55), the count of free values
taken, and the state of each part of the module. -/
structure State where
  pending : List Instr
  now     : Nat
  free    : Nat
  train   : Train
  num     : Numerics
  host    : HostIf
  dict    : Dict
  mem     : MemSys
  tile    : TileSys
  links   : Links
  rows    : Rows
  hist    : History
  clk     : Clocks
  boot    : Boot
  out     : List Out
  deriving DecidableEq, Repr

/-- The module right after device reset. -/
def State.reset : State :=
  { pending := [], now := 0, free := 0, train := .reset, num := .reset, host := .reset, dict := .reset, mem := .reset,
    tile := .reset, links := .reset, rows := .reset, hist := .reset, clk := .reset, boot := .reset, out := [] }

end Sys2Proof.Machine
end

