-- ==== Sys2Proof/Machine/Ops.lean ====
section
/-!
DEFINITION. Shared operations over State: the requesters' numbers, outputs, free values, alerts of the host, interrupts, the
open steps, tiles and signals.
-/
namespace Sys2Proof.Machine

/-- An outcome that goes on. -/
def go (s : State) : Host.Outcome State Fault Refusal := .next s

/-- The number of a tile as a requester. -/
def whoTile (t : Fin 128) : Nat := t.val
/-- The number of a row engine as a requester. -/
def whoEngine (e : Fin 16) : Nat := 128 + e.val
/-- The number of a copy engine as a requester; inbound engines are 0 to 7, outbound 8 to 15. -/
def whoCopy (k : Fin 16) : Nat := 144 + k.val
/-- The command front end as a requester. -/
def whoFront : Nat := 160
/-- The history walker as a requester. -/
def whoWalker : Nat := 161
/-- A collective unit as a requester. -/
def whoUnit (u : Fin 4) : Nat := 162 + u.val

/-- The number of the hub of stack `st` as a source of packets (R248). -/
def whoHub (st : Fin 8) : Nat := 166 + st.val

/-- The quadrant of a tile (R2). -/
def tileQuad (t : Nat) : Fin 4 := fin ((if t / 16 ≥ 4 then 2 else 0) + (if t % 16 ≥ 8 then 1 else 0))

/-- The quadrant whose translation cache, and whose collective unit, a requester uses (R295, R318). -/
def whoQuad (who : Nat) : Fin 4 :=
  if who < 128 then tileQuad who
  else if who < 144 then fin ((who - 128) / 4)
  else if who < 162 then 0
  else fin (who - 162)

/-- Something leaves the module. -/
def emit (o : Out) (s : State) : State := { s with out := s.out ++ [o] }

/-- A fresh free value. -/
def takeFree (s : State) : State × Nat := ({ s with free := s.free + 1 }, Config.freeNat s.free)

/-- The tile memory's size (R100). -/
def tmemSize : Nat := 0x1800000

/-- Whether a tile is fenced (R132). -/
def fenced (s : State) (t : Nat) : Bool := s.dict.keep.tilesFenced.toNat.testBit t

/-- This module's node ID (R311). -/
def nodeId (s : State) : Nat := s.dict.keep.nodeId.toNat

/-- Tile `t` changed by `f`. -/
def updTile (t : Fin 128) (f : Tile → Tile) (s : State) : State :=
  { s with tile := { s.tile with tiles := updAt s.tile.tiles t f } }

/-- Tile `t`. -/
def getTile (s : State) (t : Fin 128) : Tile := s.tile.tiles[t]

/-- The open step with number `n`. -/
def findStep (s : State) (n : BitVec 64) : Option Step := s.train.steps.find? fun p => p.num == n

/-- The open step whose number's low 16 bits are `tag` (R17, R22). -/
def tagStep (s : State) (tag : Nat) : Option Step := s.train.steps.find? fun p => p.num.toNat % 65536 == tag

/-- The steps with step `n` changed by `f`. -/
def updStep (n : BitVec 64) (f : Step → Step) (s : State) : State :=
  { s with train := { s.train with steps := mapIf (fun p => p.num == n) f s.train.steps } }

/-- Whether any step is open (R20). -/
def stepOpen (s : State) : Bool := !s.train.steps.isEmpty

/-- An MSI-X vector is raised (R350): its message goes out, or its pending bit is set while its entry is masked. -/
def raiseVector (v : BitVec 8) (s : State) : State :=
  let e := s.host.bar0.msix[v.toFin]
  if bit e 96 then
    { s with host := { s.host with bar0 := { s.host.bar0 with pba := s.host.bar0.pba ||| (1#256 <<< v.toNat) } } }
  else emit (.msix (BitVec.ofNat 64 (fld e 63 0)) (BitVec.ofNat 32 (fld e 95 64))) s

/-- Event bit `k` is set (R354); the event vector is raised where EVENT_ENABLE has the bit. -/
def setEvent (k : Nat) (s : State) : State :=
  let b := s.host.bar0
  let s := { s with host := { s.host with bar0 := { b with events := b.events ||| (1#4 <<< k) } } }
  if bit b.eventEnable k then raiseVector b.eventVector s else s

/-- The device state changes (R376): EV_STATE is set. -/
def setDev (d : DevState) (s : State) : State :=
  if s.host.dev = d then s else setEvent 0 { s with host := { s.host with dev := d } }

/-- A packet enters the Weave (R65). -/
def weaveSend (src : Fin 174) (dst : Fin 128) (vc : Fin 4) (drain : Bool) (body : WBody) (s : State) : State :=
  let w := s.tile.weave
  let p : WPacket := { id := w.nextId, src := src, dst := dst, vc := vc, drain := drain, body := body }
  { s with tile := { s.tile with weave := { packets := w.packets ++ [p], nextId := w.nextId + 1 } } }

/-- Block counter `i` of a tile. -/
def bcOf (s : State) (t : Fin 128) (i : Fin 32) : BitVec 32 := (getTile s t).bc[i]

/-- The host counters changed by `f`. -/
def hostCount (f : HostCounters → HostCounters) (s : State) : State :=
  { s with host := { s.host with counters := f s.host.counters } }

/-- The memory counters changed by `f`. -/
def memCount (f : MemCounters → MemCounters) (s : State) : State :=
  { s with mem := { s.mem with counters := f s.mem.counters } }

/-- The port counters changed by `f`. -/
def linkCount (f : PortCounters → PortCounters) (s : State) : State :=
  { s with links := { s.links with counters := f s.links.counters } }

/-- The unit counters changed by `f`. -/
def collCount (f : CollCounters → CollCounters) (s : State) : State :=
  { s with links := { s.links with unitCounters := f s.links.unitCounters } }

/-- The tile counters of tile `t` changed by `f`. -/
def tileCount (t : Fin 128) (f : TileCounters → TileCounters) (s : State) : State :=
  updTile t (fun x => { x with counters := f x.counters }) s

/-- A program has itself written parts of its tile's memory (R108). -/
def ownStores (ranges : List (Nat × Nat)) (r : Run) : Run := { r with stored := r.stored ++ ranges }

/-- The program of tile `t` has itself written [a, a + n) of its memory. -/
def ownWrite (t : Fin 128) (a n : Nat) (s : State) : State := updTile t (fun x => { x with run := x.run.map (ownStores [(a, n)]) }) s

/-- Port `p` changed by `f`. -/
def updPort (p : Fin 16) (f : Port → Port) (s : State) : State :=
  { s with links := { s.links with ports := updAt s.links.ports p f } }

/-- Collective unit `u` changed by `f`. -/
def updUnit (u : Fin 4) (f : CollUnit → CollUnit) (s : State) : State :=
  { s with links := { s.links with units := updAt s.links.units u f } }

/-- Copy engine `k` changed by `f`. -/
def updEngine (k : Fin 16) (f : CopyEngine → CopyEngine) (s : State) : State :=
  { s with host := { s.host with engines := updAt s.host.engines k f } }

/-- Whether the module reaches host memory: neither off, nor booting, held or faulted, and not between a front-end reset and HELD. -/
def hostReachable (s : State) : Bool :=
  !s.host.heldDue && match s.host.dev with
  | .running | .draining | .updating | .ready => true
  | _ => false

end Sys2Proof.Machine
end

