-- ==== Sys2Proof/Machine/Weave.lean ====
section
/-!
DEFINITION. The mesh of the Weave (02: R60, R62 to R64, R66): where the units join it, the routers that a packet passes, its virtual
channel, and the count of the flits that the routers send.
-/
namespace Sys2Proof.Machine

/-- A place where the mesh is entered and left: its router, whether it is a port on the grid's edge, and whether that edge is the
north or the south one, from which packets travel along their column first (R62). -/
structure MeshPort where
  router : Nat
  edge   : Bool
  north  : Bool
  deriving DecidableEq, Repr, Inhabited

/-- A tile's own port. -/
def tilePort (t : Nat) : MeshPort := { router := t, edge := false, north := false }

/-- A port of the hub of stack `s`, by bits [12:11] of an address (R63, R64). -/
def hubPort (s a : Nat) : MeshPort := { router := (if s < 4 then 4 * s else 112 + 4 * (s - 4)) + a / 2 ^ 11 % 4, edge := true, north := true }

/-- A port of collective unit `u`: west for the even units, east for the odd ones, rows 0 to 3 or 4 to 7 (R63). Which of its four rows a
packet uses the spec leaves open (DESIGN CHOICE: bits [12:11] of its address, as for a hub). -/
def unitPort (u a : Nat) : MeshPort :=
  { router := 16 * ((if u < 2 then 0 else 4) + a / 2 ^ 11 % 4) + (if u % 2 = 0 then 0 else 15), edge := true, north := false }

/-- A port of the PCIe front end and the control space: rows 3 and 4 of the west edge (R63). Which of the two a packet uses, and that
the copy engines, the command front end and the history walker send through them, the spec leaves open (DESIGN CHOICE: bit 11 of its
address). -/
def hostPort (a : Nat) : MeshPort := { router := 16 * (3 + a / 2 ^ 11 % 2), edge := true, north := false }

/-- Where a requester, or a stack hub as a source, joins the mesh for an access to address `a`. -/
def whoPort (who a : Nat) : MeshPort :=
  if who < 128 then tilePort who
  else if who < 144 then hubPort ((who - 128) / 2) a
  else if who < 162 then hostPort a
  else if who < 166 then unitPort (who - 162) a
  else hubPort (who - 166) a

/-- The next router from `r` towards `dst`: along the row first, or along the column first (R62). -/
def meshNext (columnFirst : Bool) (r dst : Nat) : Nat :=
  let along := if r % 16 < dst % 16 then r + 1 else r - 1
  let down := if r / 16 < dst / 16 then r + 16 else r - 16
  if columnFirst then (if r / 16 = dst / 16 then along else down) else (if r % 16 = dst % 16 then down else along)

/-- The routers from `r` on that send a packet on to the next on its way to `dst`, at most `n` of them. -/
def meshHops (columnFirst : Bool) : Nat → Nat → Nat → List Nat
  | 0, _, _ => []
  | n + 1, r, dst => if r = dst then [] else r :: meshHops columnFirst n (meshNext columnFirst r dst) dst

/-- The routers that send a packet's flits on one of their mesh outputs, the output to an edge port included (R62, R63). What would leave
where it entered stays outside the mesh. -/
def meshPath (src dst : MeshPort) : List Nat :=
  if src = dst then [] else meshHops src.north 22 src.router dst.router ++ if dst.edge then [dst.router] else []

/-- Payload flits of `n` bytes (R60). -/
def meshFlits (n : Nat) : Nat := ceilDiv n 256

/-- The virtual channel of a packet (R62): XY or YX traffic, requests or responses. Their numbers are a DESIGN CHOICE. -/
def meshVc (src : MeshPort) (response : Bool) : Fin 4 := fin ((if src.north then 2 else 0) + if response then 1 else 0)

/-- A packet with `n` bytes of payload is counted at the routers that send it on (R99); a fenced tile's counters stay (R132). -/
def countMesh (src dst : MeshPort) (n : Nat) (s : State) : State :=
  (meshPath src dst).foldl (fun s r =>
    if fenced s r then s else tileCount (fin r) (fun c => { c with weaveFlits := addSat c.weaveFlits (meshFlits n) }) s) s

/-- A packet to a tile enters the Weave (R65): a write, in the virtual channel of its way. -/
def sendTile (src : Nat) (dst : Fin 128) (addr : Nat) (drain : Bool) (body : WBody) (s : State) : State :=
  weaveSend (fin src) dst (meshVc (whoPort src addr) false) drain body s

/-- A signal to block counter `bc` of tile `dst`, behind the data that its source sent before (R85, R116). -/
def sendSignal (src : Nat) (dst : Fin 128) (bc : Nat) (s : State) : State := sendTile src dst 0 false (.signal (fin bc)) s

end Sys2Proof.Machine
end

