-- ==== Sys2Proof/Machine/Route.lean ====
section
/-!
DEFINITION. Packets of the Bamek links: their fields (R308), routing (R313) and queueing at a port.
-/
namespace Sys2Proof.Machine

/-- TYPE of a header flit (R308). -/
def pkType (p : Packet) : Nat := fld p.hdr 3 0
/-- Virtual channel of a header flit. -/
def pkVc (p : Packet) : Fin 4 := fin (fld p.hdr 5 4)
/-- FLITS of a header flit. -/
def pkFlits (h : BitVec 512) : Nat := fld h 11 6
/-- POISON of a header flit. -/
def pkPoison (p : Packet) : Bool := bit p.hdr 12
/-- DST_NODE of a header flit. -/
def pkDst (p : Packet) : Nat := fld p.hdr 30 16
/-- SRC_NODE of a header flit. -/
def pkSrc (p : Packet) : Nat := fld p.hdr 46 32
/-- HOPS of a header flit. -/
def pkHops (p : Packet) : Nat := fld p.hdr 55 48
/-- FLOW of a header flit. -/
def pkFlow (p : Packet) : Nat := fld p.hdr 63 56
/-- ADDR of a header flit. -/
def pkAddr (p : Packet) : Nat := fld p.hdr 111 64
/-- TAG of a header flit. -/
def pkTag (p : Packet) : Nat := fld p.hdr 127 112
/-- GROUP of a header flit. -/
def pkGroup (p : Packet) : Nat := fld p.hdr 143 128
/-- SEQ of a header flit. -/
def pkSeq (p : Packet) : Nat := fld p.hdr 175 144
/-- STATUS of a header flit. -/
def pkStatus (p : Packet) : Nat := fld p.hdr 183 176
/-- KIND of a header flit. -/
def pkKind (p : Packet) : Nat := fld p.hdr 191 184
/-- AUX of a header flit. -/
def pkAux (p : Packet) : Nat := fld p.hdr 255 224
/-- The field [hi:lo] of BODY's part of a header flit. -/
def pkBody (p : Packet) (hi lo : Nat) : Nat := fld p.hdr hi lo

/-- The payload bytes of a packet, byte 0 first. -/
def pkBytes (p : Packet) : List Byte := p.pay.flatMap (bytesOf 64)

/-- The payload as data, all of it poisoned where the packet carries POISON. -/
def pkData (p : Packet) (n : Nat) : Data := (slice (pkBytes p) 0 n).map fun b => (b, pkPoison p)

/-- Whether PAYLOAD_CRC matches the payload (R308). -/
def pkCrcOk (p : Packet) : Bool :=
  if p.pay.isEmpty then fld p.hdr 223 192 == 0 else fld p.hdr 223 192 == (crc32c (pkBytes p)).toNat

/-- The number of a status code (R373). -/
def statusCode : Status → Nat
  | .ok => 0x00 | .okNoOp => 0x01 | .malformed => 0x10 | .unknownOpcode => 0x11 | .lengthRange => 0x20
  | .bufferTooSmall => 0x21 | .addressRange => 0x22 | .stateConflict => 0x30 | .versionRetired => 0x31
  | .accessDenied => 0x40 | .dataPoison => 0x50 | .uncorrectable => 0x51 | .peerUnreachable => 0x60
  | .linkTimeout => 0x61 | .verdictSkipped => 0x70 | .internal => 0x7F

/-- The status with a code, if the registry has it (R373). -/
def statusOf (c : Nat) : Option Status :=
  [.ok, .okNoOp, .malformed, .unknownOpcode, .lengthRange, .bufferTooSmall, .addressRange, .stateConflict,
   .versionRetired, .accessDenied, .dataPoison, .uncorrectable, .peerUnreachable, .linkTimeout, .verdictSkipped,
   .internal].find? fun s => statusCode s == c

/-- Whether a status is OK or OK_NO_OP. -/
def fine (s : Status) : Bool := s == .ok || s == .okNoOp

/-- The first error of two statuses. -/
def firstError (a b : Status) : Status := if fine a then b else a

/-- Payload data cut into flits. -/
def toFlits : Nat → List Byte → List (BitVec 512)
  | 0, _ => []
  | n + 1, bs => BitVec.ofNat 512 (leNat (slice bs 0 64)) :: toFlits n (bs.drop 64)

/-- What a sender puts into a header flit (R308). -/
structure HdrSpec where
  type   : Nat
  vc     : Nat
  dst    : Nat
  flow   : Nat
  addr   : Nat := 0
  tag    : Nat := 0
  group  : Nat := 0
  seq    : Nat := 0
  status : Nat := 0
  kind   : Nat := 0
  aux    : Nat := 0
  body   : Nat := 0
  deriving DecidableEq, Repr

/-- A packet that this module injects (R308): HOPS from HOP_LIMIT, the CRC over its payload. `body` is BODY's bits from
256 on. -/
def mkPacket (s : State) (h : HdrSpec) (payload : Data) : Packet :=
  let n := ceilDiv payload.length 64
  let pay := toFlits n (dataBytes payload)
  let crc := if n = 0 then 0 else (crc32c (pay.flatMap (bytesOf 64))).toNat
  { hdr := BitVec.ofNat 512 (h.type + h.vc * 2 ^ 4 + n * 2 ^ 6 + b2n (poisoned payload) * 2 ^ 12 + h.dst * 2 ^ 16 +
      nodeId s * 2 ^ 32 + s.links.hopLimit.toNat * 2 ^ 48 + (h.flow % 256) * 2 ^ 56 + h.addr * 2 ^ 64 + h.tag * 2 ^ 112 +
      h.group * 2 ^ 128 + h.seq * 2 ^ 144 + h.status * 2 ^ 176 + h.kind * 2 ^ 184 + crc * 2 ^ 192 + h.aux * 2 ^ 224 +
      h.body * 2 ^ 256),
    pay := pay }

/-- The entry a lookup takes (R313). -/
def routeEntry (s : State) (set : PortSet) (d : Nat) : BitVec 32 :=
  let r := s.links.routes
  let far := d / 256 % 128 ≠ nodeId s / 256 % 128
  match set with
  | .inject => if far then r.groupInject[(fin (d / 256) : Fin 128)] else r.memberInject[(fin d : Fin 256)]
  | .b => if far then r.groupB[(fin (d / 256) : Fin 128)] else r.memberB[(fin d : Fin 256)]
  | .c => if far then r.groupC[(fin (d / 256) : Fin 128)] else r.memberC[(fin d : Fin 256)]

/-- The ACTIVE ports as a mask. -/
def activePorts (s : State) : Nat :=
  ((List.finRange 16).map fun p => if s.links.ports[p].state = .active then 2 ^ p.val else 0).sum

/-- The port for node `d` and a FLOW in a port set (R313); `none` if unroutable. -/
def routePort (s : State) (set : PortSet) (d flow : Nat) : Option (Fin 16) :=
  let e := routeEntry s set d
  let m := if bit e 16 then (fld e 15 0) &&& activePorts s else 0
  if m = 0 then none else (nthSetBit 16 m (flow % popcount 16 m)).map fin

/-- A packet is queued at the port its destination and FLOW select, or kept for this module; `none` if unroutable. -/
def sendPacket (set : PortSet) (p : Packet) (s : State) : Option State :=
  if pkDst p = nodeId s then some { s with links := { s.links with own := s.links.own ++ [p] } }
  else (routePort s set (pkDst p) (pkFlow p)).map fun q => updPort q (fun x => { x with txq := x.txq ++ [(set, p)] }) s

/-- A response that a target injects: discarded and counted where unroutable (R314, R318). -/
def sendOrDrop (p : Packet) (s : State) : State :=
  match sendPacket .inject p s with
  | some s' => s'
  | none => linkCount (fun c => { c with routeDrop := addSat c.routeDrop 1 }) s

end Sys2Proof.Machine
end

