-- ==== Sys2Proof/Machine/Slots.lean ====
section
/-!
DEFINITION. What the walker's queue says of a sequence slot (07): its appends, its TAIL, and how far a walk of it may read; and the end of an
append that fails (R259).
-/
namespace Sys2Proof.Machine

/-- A slot. -/
def getSlot (s : State) (i : Fin 256) : Option HistSlot := s.hist.slots[i]

/-- A slot changed by `f`. -/
def updSlot (i : Fin 256) (f : HistSlot → HistSlot) (s : State) : State :=
  { s with hist := { s.hist with slots := updAt s.hist.slots i fun x => x.map f } }

/-- The walker changed by `f`. -/
def updHist (f : History → History) (s : State) : State := { s with hist := f s.hist }

/-- The history counters changed by `f`. -/
def histCount (f : HistCounters → HistCounters) (s : State) : State := updHist (fun h => { h with counters := f h.counters }) s

/-- The number of a walker command. -/
def wcmdId : WalkerCmd → Nat
  | .append a _ => a.cmd
  | .walk w _ => w.cmd

/-- The slot of a walker command. -/
def wcmdSlot : WalkerCmd → Fin 256
  | .append a _ => a.slot
  | .walk w _ => w.slot

/-- Whether a walker command runs. -/
def wcmdRuns : WalkerCmd → Bool
  | .append _ r => r
  | .walk _ r => r

/-- COUNT of a HIST_APPEND. -/
def haCount (c : Slot) : Nat := fld c.pay 18 8

/-- The append that a walker command is. -/
def asAppend : WalkerCmd → Option AppendRun
  | .append a _ => some a
  | .walk .. => none

/-- The walk that a walker command is. -/
def asWalk : WalkerCmd → Option WalkRun
  | .walk w _ => some w
  | .append .. => none

/-- The appends queued on a slot, in admission order. -/
def appendsOn (s : State) (i : Fin 256) : List AppendRun := (s.hist.cmds.filterMap asAppend).filter fun a => a.slot == i

/-- The walks of a slot. -/
def walksOn (s : State) (i : Fin 256) : List WalkRun := (s.hist.cmds.filterMap asWalk).filter fun w => w.slot == i

/-- A walk. -/
def findWalk (s : State) (cmd : Nat) : Option WalkRun := (s.hist.cmds.filterMap asWalk).find? fun w => w.cmd == cmd

/-- LENGTH of a slot. -/
def slotLength (s : State) (i : Fin 256) : Nat := ((getSlot s i).map fun x => x.length).getD 0

/-- TAIL of a slot (R256). -/
def slotTail (s : State) (i : Fin 256) : Nat := slotLength s i + ((appendsOn s i).map fun a => haCount a.pay - a.done).sum

/-- A walker command changed by `f`. -/
def updWcmd (cmd : Nat) (f : WalkerCmd → WalkerCmd) (s : State) : State :=
  updHist (fun h => { h with cmds := mapIf (fun x => wcmdId x == cmd) f h.cmds }) s

/-- A walker command leaves. -/
def dropWcmd (cmd : Nat) (s : State) : State := updHist (fun h => { h with cmds := h.cmds.filter fun x => wcmdId x != cmd }) s

/-- Whether a command has forwarded requests outstanding. -/
def outstanding (s : State) (cmd : Nat) : Bool := s.hist.fwd.any fun f => f.cmd == cmd

/-- Whether an item can be issued: its first position lies below LENGTH (R263). -/
def issuable (length : Nat) : WalkItem → Bool
  | .rows _ _ _ pos _ => decide (pos < length)
  | _ => true

/-- LENGTH for a walk: what a failed append has taken from it does not come back (R259, R263). -/
def walkLength (s : State) (w : WalkRun) : Nat := min (slotLength s w.slot) (w.cap.getD (slotLength s w.slot))

/-- Whether a walk waits for a position: rows are left, and none of them lies below LENGTH (R263). -/
def walkStuck (s : State) (w : WalkRun) : Bool := w.read && w.stop.isNone && !w.todo.isEmpty && !(w.todo.any (issuable (walkLength s w)))

/-- Whether an append that a walk may wait for is still queued on its slot: one admitted before it. -/
def earlierAppend (s : State) (w : WalkRun) : Bool := (appendsOn s w.slot).any fun a => decide (a.cmd < w.cmd)

/-- Whether a walk waits for a position that no append will write (R259). -/
def walkLost (s : State) (w : WalkRun) : Bool := walkStuck s w && !earlierAppend s w

/-- A command that ends: its status and DETAIL, and whether it has not started, so that it leaves the units' queues too. -/
structure Ending where
  cmd    : Nat
  st     : Status
  detail : Nat
  drop   : Bool
  deriving DecidableEq, Repr

/-- A walk that has lost a position it waits for stops, and ends once it has no request outstanding (R259, R265). -/
def loseWalk (w : WalkRun) (s : State) : State × Option Ending :=
  let f (x : WalkerCmd) : WalkerCmd := match x with
    | .walk w r => .walk { w with stop := some .lengthRange, todo := [], waits := false } r
    | .append .. => x
  if outstanding s w.cmd then (updWcmd w.cmd f s, none)
  else (dropWcmd w.cmd s, some { cmd := w.cmd, st := .lengthRange, detail := w.signalled, drop := false })

/-- An append leaves its slot with a failure (R259): the appends behind it end with STATE_CONFLICT, TAIL returns to where the failed one
stood, and walks that wait for a position beyond end with LENGTH_RANGE. A stall of it is over. -/
def failAppendOn (a : AppendRun) (s : State) : State × List Ending :=
  let behind := (appendsOn s a.slot).filter fun b => decide (a.cmd < b.cmd)
  let first := (appendsOn s a.slot).head?.any fun b => b.cmd == a.cmd
  let gone (x : WalkerCmd) : Bool := (asAppend x).any fun b => b.cmd == a.cmd || behind.any fun y => y.cmd == b.cmd
  let cut (x : WalkerCmd) : WalkerCmd := match x with
    | .walk w r => if w.slot = a.slot then .walk { w with cap := some (min (w.cap.getD (a.first + a.done)) (a.first + a.done)) } r else x
    | .append .. => x
  let s := updHist (fun h => { h with cmds := (h.cmds.filter fun x => !gone x).map cut }) s
  let s := if first then updSlot a.slot (fun x => { x with stall := none }) s else s
  let lost := (walksOn s a.slot).filter (walkLost s)
  let ends := behind.map fun b => { cmd := b.cmd, st := .stateConflict, detail := 0, drop := true : Ending }
  lost.foldl (fun acc w => let r := loseWalk w acc.1; (r.1, acc.2 ++ r.2.toList)) (s, ends)

/-- A command that has failed leaves the walker's queue. -/
def leaveWalker (cmd : Nat) (s : State) : State × List Ending :=
  match (s.hist.cmds.filterMap asAppend).find? fun a => a.cmd == cmd with
  | some a => failAppendOn a s
  | none => (dropWcmd cmd s, [])

end Sys2Proof.Machine
end

