-- ==== Sys2Proof/Machine/MemAccess.lean ====
section
/-!
DEFINITION. Access to memory (08): the physical map, protection, the far map, translation with its caches, walks and spans,
and the requests of units to the four tiers.
-/
namespace Sys2Proof.Machine

/-- Where a physical address lies (R280). -/
inductive Place where
  | stack (addr : Nat)
  | tileMem (t : Fin 128) (off : Nat)
  | row (e : Fin 16) (off : Nat)
  | control
  | far (addr : Nat)
  | nowhere
  deriving DecidableEq, Repr, Inhabited

/-- The physical address map (R280); an unpopulated part of a tile window is nowhere (R281). -/
def place (a : Nat) : Place :=
  if a < 0x8000000000 then .stack a
  else if a < 0x10000000000 then .nowhere
  else if a < 0x10100000000 then
    let off := a % 0x2000000
    if off < tmemSize then .tileMem (fin ((a - 0x10000000000) / 0x2000000)) off else .nowhere
  else if a < 0x18000000000 then .nowhere
  else if a < 0x18040000000 then .row (fin ((a - 0x18000000000) / 0x4000000)) (a % 0x4000000)
  else if a < 0x1C000000000 then .nowhere
  else if a < 0x1C010000000 then .control
  else if a < 0x100000000000 then .nowhere
  else if a < 0x200000000000 then .far a
  else .nowhere

/-- Classes of access under protection (R460, R461): the bit of a window entry that names the class. -/
inductive AccClass where
  | bar2R | bar2W | fieldR | fieldW
  | remoteR (node : Nat) | remoteW (node : Nat)
  | cmd
  /-- the X4's own work, to which protection does not apply -/
  | own
  deriving DecidableEq, Repr, Inhabited

/-- Whether a window opens [a, a + n) to a class (R461). -/
def windowAllows (w : BitVec 256) (c : AccClass) (a n : Nat) : Bool :=
  let base := fld w 111 64
  let inside := decide (base ≤ a) && decide (a + n ≤ base + fld w 191 128)
  let node (k : Nat) : Bool := decide (fld w 22 8 ≤ k) && decide (k ≤ fld w 38 24)
  bit w 0 && inside && match c with
    | .bar2R => bit w 1
    | .bar2W => bit w 2
    | .fieldR => bit w 3
    | .fieldW => bit w 4
    | .remoteR k => bit w 5 && node k
    | .remoteW k => bit w 6 && node k
    | .cmd => bit w 7
    | .own => true

/-- Whether protection allows an access (R461). -/
def protAllows (s : State) (c : AccClass) (a n : Nat) : Bool :=
  match c with
  | .own => true
  | _ => s.boot.windows.any fun w => windowAllows w c a n

/-- The far-map segment of a far address (R289). -/
def farSegment (s : State) (a : Nat) : BitVec 128 := s.mem.farMap[(fin ((a - 0x100000000000) / 0x4000000000) : Fin 64)]

/-- Why a far access fails (R289), if it does. -/
def farFails (s : State) (a n : Nat) (write : Bool) : Option Status :=
  let e := farSegment s a
  if !bit e 0 || decide (fld e 127 64 < a % 0x4000000000 + n) then some .addressRange
  else if write && !bit e 1 then some .accessDenied
  else none

/-- The bus address of a far address (R289). -/
def farBus (s : State) (a : Nat) : Nat := fld (farSegment s a) 63 12 * 4096 + a % 0x4000000000

/-- The copy-engine pair that a far address names (R289). -/
def farPair (s : State) (a : Nat) : Nat := fld (farSegment s a) 4 2

/-- Whether a part of a row store is closed to writes: the tag regions and the staging data (R173). -/
def rowClosed (s : State) (off n : Nat) : Bool := decide (off < s.rows.obj.emberSets * 64) || decide (0x3000000 < off + n)

/-- Why an access within one 2 KiB granule fails at the requester (R281, R104, R173, R289, R461), if it does. -/
def accessFails (s : State) (c : AccClass) (a n : Nat) (write : Bool) : Option Status :=
  match place a, place (a + n - 1) with
  | .nowhere, _ => some .addressRange
  | _, .nowhere => some .addressRange
  | .control, _ => some .accessDenied
  | .tileMem t _, _ =>
    if fenced s t.val then some .addressRange else if protAllows s c a n then none else some .accessDenied
  | .far f, _ => if protAllows s c a n then farFails s f n write else some .accessDenied
  | .row _ off, _ => if (write && rowClosed s off n) || !protAllows s c a n then some .accessDenied else none
  | _, _ => if protAllows s c a n then none else some .accessDenied

/-- The stack of a T1 address (R274). -/
def stackOf (a : Nat) : Fin 8 := fin (a / 0x1000000000)
/-- The channel of a T1 address (R274). -/
def channelOf (a : Nat) : Nat := a / 2 ^ 11 % 32
/-- The bank index of a T1 address (R274). -/
def bankOf (a : Nat) : Nat := (a / 2 ^ 16 % 16) ^^^ (a / 2 ^ 20 % 16)
/-- The DRAM row of a T1 address (R274). -/
def dramRow (a : Nat) : Nat := a / 2 ^ 20 % 65536

/-- The stack state changed by `f`. -/
def updStacks (f : Stacks → Stacks) (s : State) : State := { s with mem := { s.mem with stackCtl := f s.mem.stackCtl } }

/-- A write to a codeword cancels the scrub write-backs that wait for it (R286). -/
def cancelScrub (a n : Nat) (s : State) : State :=
  let keep (w : WriteBack) : Bool := !(w.scrub && overlaps (64 * w.word) 64 a n)
  updStacks (fun x => { x with writeBacks := x.writeBacks.filter keep }) s

/-- Data at a place of this module, as it stands. -/
def placeRead (s : State) (a n : Nat) : Data :=
  match place a with
  | .stack b => memRead s.mem.t1 b n
  | .tileMem t off => memRead (getTile s t).mem off n
  | .row e off => memRead s.mem.rowStore[e] off n
  | _ => []

/-- Data written at a place of this module (R102, R277, R284). -/
def placeWrite (a : Nat) (d : Data) (s : State) : State :=
  match place a with
  | .stack b => cancelScrub b d.length { s with mem := { s.mem with t1 := memWrite s.mem.t1 b d } }
  | .tileMem t off => updTile t (fun x => { x with mem := memWrite x.mem off d }) s
  | .row e off => { s with mem := { s.mem with rowStore := updAt s.mem.rowStore e fun m => memWrite m off d } }
  | _ => s

/-- Where a place joins the mesh (R63, R64); `none` for a place that no packet reaches. -/
def placePort (a : Nat) : Option MeshPort :=
  match place a with
  | .stack b => some (hubPort (stackOf b).val b)
  | .tileMem t _ => some (tilePort t.val)
  | .row e off => some (hubPort (e.val / 2) off)
  | .far f => some (hostPort f)
  | .control => some (hostPort a)
  | .nowhere => none

/-- Whether requester and place share a hub, so that an access does not cross the Weave (R64). -/
def ownHub (who a : Nat) : Bool :=
  let hub := if 128 ≤ who ∧ who < 144 then some ((who - 128) / 2) else if 166 ≤ who then some (who - 166) else none
  match place a with
  | .stack b => some (stackOf b).val == hub
  | .row e _ => some (e.val / 2) == hub
  | _ => false

/-- The payload of an access to a tier crosses the Weave (R64, R99): to its place, or from there to the requester; Remote memory is
reached at the collective unit of the requester's quadrant (R318). -/
def crossWeave (who tier a n : Nat) (write : Bool) (s : State) : State :=
  if ownHub who a && tier != 3 then s
  else match (if tier = 3 then some (unitPort (whoQuad who).val a) else placePort a) with
    | some q => if write then countMesh (whoPort who a) q n s else countMesh q (whoPort who a) n s
    | none => s

/-- A fresh request number. -/
def freshId (s : State) : State × Nat := ({ s with mem := { s.mem with nextId := s.mem.nextId + 1 } }, s.mem.nextId)

/-- The request with a number. -/
def findReq (s : State) (id : Nat) : Option MReq := s.mem.requests.find? fun r => r.id == id

/-- A request changed by `f`. -/
def updReq (id : Nat) (f : MReq → MReq) (s : State) : State :=
  { s with mem := { s.mem with requests := mapIf (fun r => r.id == id) f s.mem.requests } }

/-- What a request ended with, if it has. -/
def reqEnded (s : State) (id : Nat) : Option (Status × Data) :=
  match findReq s id with
  | some r => match r.state with | .ended st d => some (st, d) | _ => none
  | none => none

/-- A request that its requester has used is forgotten. -/
def forgetReq (id : Nat) (s : State) : State :=
  { s with mem := { s.mem with requests := s.mem.requests.filter fun r => r.id ≠ id } }

/-- The pieces of a BAR2 read that have been asked for, in address order. -/
def bar2Pieces (s : State) (group parts : Nat) : List MReq := s.mem.requests.filter fun r => r.act == some (.bar2 group parts)

/-- The data that an ended piece of a BAR2 read brings: all ones where it failed (R355). -/
def bar2Part (r : MReq) : Option Data :=
  match r.state with
  | .ended st d => some (if fine st then d else List.replicate r.len (0xFF, false))
  | _ => none

/-- A BAR2 read is answered once all its pieces have ended (R355). -/
def answerBar2 (group parts : Nat) (s : State) : State :=
  let ps := bar2Pieces s group parts
  match ps.mapM bar2Part with
  | some ds =>
    if ds.length < parts then s
    else emit (.bar2Data ds.flatten) { s with mem := { s.mem with requests := s.mem.requests.filter fun r => r.act != some (.bar2 group parts) } }
  | none => s

/-- The response to a Remote request that this module has served (R318). -/
def remoteAnswer (r : MReq) (node flow tag : Nat) (st : Status) (d : Data) (s : State) : Packet :=
  if r.write then mkPacket s { type := 6, vc := 3, dst := node, flow := flow, tag := tag, status := statusCode st } []
  else mkPacket s { type := 5, vc := 3, dst := node, flow := flow, tag := tag, status := statusCode st, body := r.len % 4096 } d

/-- A forwarded request changed by `f`. -/
def updFwd (key : Nat) (f : FwdReq → FwdReq) (s : State) : State :=
  updHist (fun h => { h with fwd := mapIf (fun x => x.key == key) f h.fwd }) s

/-- A forwarded request goes on once the stack has served all its parts (R248): rows that were read travel from the hub to their tile. -/
def forwardOn (key hub : Nat) (s : State) : State :=
  let ps := s.mem.requests.filter fun r => r.act == some (.forward key)
  match s.hist.fwd.find? fun f => f.key == key && f.parts == ps.length, ps.mapM fun r => match r.state with | .ended st d => some (st, d) | _ => none with
  | some f, some es =>
    let s := { s with mem := { s.mem with requests := s.mem.requests.filter fun r => r.act != some (.forward key) } }
    let st := es.foldl (fun st e => firstError st e.1) .ok
    match f.dst with
    | some d =>
      if fine st then
        let data := (es.map fun e => e.2).flatten
        let rows := (List.range (data.length / d.rowIn)).map fun i => dslice data (i * d.rowIn) d.rowIn
        sendTile hub d.tile d.addr false (.rows d.addr d.rowOut rows) (updFwd key (fun f => { f with state := .sent s.tile.weave.nextId }) s)
      else updFwd key (fun f => { f with state := .over st }) s
    | none => updFwd key (fun f => { f with state := .over st }) s
  | _, _ => s

/-- A dropped run-ahead fetch is counted (R299). -/
def countDrop (who : Nat) (s : State) : State :=
  memCount (fun c => { c with runaheadDrop := bump c.runaheadDrop (whoQuad who) 1 }) s

/-- A phase record that could not be written is counted (R54). -/
def countRecordFail (s : State) : State :=
  { s with train := { s.train with recordWriteFail := addSat s.train.recordWriteFail 1 } }

/-- What follows the end of a request that is not kept for its requester. -/
def runAct (r : MReq) (act : ReqAct) (st : Status) (d : Data) (s : State) : State :=
  match act with
  | .nobody => forgetReq r.id s
  | .remote node flow tag => let s := forgetReq r.id s; sendOrDrop (remoteAnswer r node flow tag st d s) s
  | .bar2 group parts => answerBar2 group parts s
  | .forward key => forwardOn key r.who s
  | .ahead => let s := forgetReq r.id s; if fine st && !poisoned d then s else countDrop r.who s
  | .record =>
    let s := forgetReq r.id s
    if fine st then s else countRecordFail s

/-- A request ends: the data of a read cross the Weave to its requester, and what nobody waits for is over with that. -/
def endReq (id : Nat) (st : Status) (d : Data) (s : State) : State :=
  match findReq s id with
  | none => s
  | some r =>
    let s := updReq id (fun r => { r with state := .ended st d }) s
    let s := if !r.write && fine st then crossWeave r.who r.tier r.pa r.len false s else s
    match r.act with
    | some a => runAct r a st d s
    | none => s

/-- A request that its requester waits for no longer; `act` says what its end still does. -/
def orphanReq (act : ReqAct) (id : Nat) (s : State) : State :=
  match findReq s id with
  | none => s
  | some r => match r.state with
    | .ended st d => runAct r act st d s
    | _ => updReq id (fun r => { r with act := some act }) s

/-- Whether two T1 addresses lie in one channel of one stack. -/
def sameChannel (a b : Nat) : Bool := stackOf a == stackOf b && channelOf a == channelOf b

/-- The entries that stand in the queue of an address's channel, which holds 64, oldest first (R273). -/
def channelEntries (s : State) (a : Nat) : List ChanEntry := (s.mem.stackCtl.queue.filter fun e => sameChannel e.pa a).take 64

/-- Whether an access meets the session record, which lies at SESSION_AREA while a session exists (R379). -/
def meetsRecord (s : State) (a n : Nat) : Bool := s.host.session.live && overlaps a n s.host.sessionArea.toNat (2 ^ 20)

/-- What a read of T1 finds. What it finds of the session record is a free value: the X4 keeps the record, and its format is internal
(R379). -/
def readStack (a n : Nat) (s : State) : State × Data :=
  let d := memRead s.mem.t1 a n
  if !meetsRecord s a n then (s, d)
  else
    let one (i : Nat) (b : Byte × Bool) : Byte × Bool := if meetsRecord s (a + i) 1 then (Config.lostByte s.free (a + i), b.2) else b
    ({ s with free := s.free + 1 }, d.mapIdx one)

/-- An entry takes its place in its queue (R277): a write takes effect and is acknowledged, and a read sees what the codewords hold. -/
def takeEntry (e : ChanEntry) (s : State) : State :=
  let mark (d : Data) (s : State) : State :=
    updStacks (fun x => { x with queue := mapIf (fun y => y.id == e.id) (fun y => { y with taken := true, data := d }) x.queue }) s
  if e.write then
    let s := { s with mem := { s.mem with t1 := memWrite s.mem.t1 e.pa e.data } }
    endReq e.id .ok [] (cancelScrub e.pa e.len (mark [] s))
  else let r := readStack e.pa e.len s; mark r.2 r.1

/-- The oldest request that finds room in the queue of an address's channel takes its place there. -/
def takeNext (a : Nat) (s : State) : State :=
  match (channelEntries s a).find? fun e => !e.taken with
  | some e => takeEntry e s
  | none => s

/-- A request reaches its channel (R276, R277). -/
def postStack (id a n : Nat) (write : Bool) (d : Data) (s : State) : State :=
  let part := write && (decide (a % 64 ≠ 0) || decide (n % 64 ≠ 0))
  let e : ChanEntry := { id := id, pa := a, len := n, write := write, part := part, arrived := s.now, taken := false, data := d }
  takeNext a (updStacks (fun x => { x with queue := x.queue ++ [e] }) s)

/-- A read of T1 that only its controller sees: its entry in the channel queue, with its number. -/
def noteRead (a n : Nat) (s : State) : State × Nat := let f := freshId s; (postStack f.2 a n false [] f.1, f.2)

/-- Pieces of [a, a + n) that lie within one 2 KiB granule each, ascending. -/
def granules : Nat → Nat → Nat → List (Nat × Nat)
  | 0, _, _ => []
  | k + 1, a, n => if n = 0 then [] else let m := min n (2048 - a % 2048); (a, m) :: granules k (a + m) (n - m)

/-- The granule pieces of an access. -/
def pieces (a n : Nat) : List (Nat × Nat) := granules (n / 2048 + 2) a n

/-- Whether a tier code agrees with a physical range (R288). -/
def tierAgrees (tier a n : Nat) : Bool :=
  match tier with
  | 0 => (decide (0x10000000000 ≤ a) && decide (a + n ≤ 0x10100000000)) || (decide (0x18000000000 ≤ a) && decide (a + n ≤ 0x18040000000))
  | 1 => decide (a + n ≤ 0x8000000000)
  | 2 => decide (0x100000000000 ≤ a) && decide (a + n ≤ 0x200000000000)
  | _ => decide (a + n ≤ 0x8000000000)

/-- Size of a page (R292). -/
def pageSize : Nat := 0x200000

/-- Whether a page entry is a valid translation (R293, R294). -/
def pteValid (s : State) (e : BitVec 64) : Bool :=
  let tier := fld e 4 3
  let node := fld e 62 48
  bit e 0 && fld e 20 5 == 0 && !bit e 63 && tierAgrees tier (fld e 47 21 * pageSize) pageSize &&
    (if tier = 3 then node != nodeId s else node == 0)

/-- The translation that a page entry gives an address (R293). -/
def pteEntry (e : BitVec 64) (dva : Nat) : XEntry :=
  { pa := fld e 47 21 * pageSize + dva % pageSize, tier := fin (fld e 4 3), write := bit e 1, runahead := bit e 2,
    node := fld e 62 48 }

/-- Whether a span translates an address (R297). -/
def spanHas (sp : BitVec 256) (dva : Nat) : Bool :=
  bit sp 0 && decide (fld sp 111 64 ≤ dva) && decide (dva < fld sp 111 64 + fld sp 223 192 * pageSize)

/-- The translation that the spans give an address (R297). -/
def spanEntry (s : State) (dva : Nat) : Option XEntry :=
  (s.mem.xlate.spans.find? fun sp => spanHas sp dva).map fun sp =>
    { pa := fld sp 175 128 + (dva - fld sp 111 64), tier := fin (fld sp 4 3), write := bit sp 1, runahead := bit sp 2, node := 0 }

/-- What a walk of a page finds (R292, R294, R296): a valid entry, or the status with which its requests fail. -/
def walkPage (s : State) (page : Nat) : Except Status (BitVec 64) :=
  let root := s.mem.xlate.ptRoot.toNat
  if root = 0 then .error .addressRange
  else
    let da := root + 8 * (page / 32768)
    if memPoisoned s.mem.t1 da then .error .uncorrectable
    else
      let d := BitVec.ofNat 64 (memNat s.mem.t1 da 8)
      let leaf := fld d 47 18 * 2 ^ 18
      if !bit d 0 || fld d 17 1 != 0 || fld d 63 48 != 0 || !tierAgrees 1 leaf (2 ^ 18) then .error .addressRange
      else
        let pa := leaf + 8 * (page % 32768)
        if memPoisoned s.mem.t1 pa then .error .uncorrectable
        else
          let e := BitVec.ofNat 64 (memNat s.mem.t1 pa 8)
          if pteValid s e then .ok e else .error .addressRange

/-- The T1 reads of a walk (R296): 64 B for the directory entry and, where that is valid, 64 B for the page entry; with the numbers of
their entries. -/
def noteWalk (page : Nat) (s : State) : State × List Nat :=
  let root := s.mem.xlate.ptRoot.toNat
  if root = 0 then (s, [])
  else
    let da := root + 8 * (page / 32768)
    let d := BitVec.ofNat 64 (memNat s.mem.t1 da 8)
    let r := noteRead (da / 64 * 64) 64 s
    if memPoisoned s.mem.t1 da || !bit d 0 then (r.1, [r.2])
    else let q := noteRead ((fld d 47 18 * 2 ^ 18 + 8 * (page % 32768)) / 64 * 64) 64 r.1; (q.1, [r.2, q.2])

/-- A cache with an entry put first, the least recently used of a full set leaving (R295). -/
def cacheInsert (c : List CachedPage) (x : CachedPage) : List CachedPage :=
  let rest := c.filter fun y => y.page ≠ x.page
  let same := rest.filter fun y => y.page % 512 = x.page % 512
  let drop := if same.length ≥ 8 then (same.getLast?.map fun y => y.page) else none
  x :: rest.filter fun y => some y.page ≠ drop

/-- The cached entry of a page. -/
def cacheFind (s : State) (q : Fin 4) (page : Nat) : Option CachedPage := s.mem.xlate.caches[q].find? fun x => x.page == page

/-- The translation state changed by `f`. -/
def updXlate (f : Xlate → Xlate) (s : State) : State := { s with mem := { s.mem with xlate := f s.mem.xlate } }

/-- A page's entry is cached. -/
def cachePage (q : Fin 4) (page : Nat) (e : BitVec 64) (s : State) : State :=
  updXlate (fun x => { x with
    caches := updAt x.caches q fun c => cacheInsert c { page := page, entry := e, since := x.order }, order := x.order + 1 }) s

/-- A cached entry becomes the most recently used. -/
def touchPage (q : Fin 4) (x : CachedPage) (s : State) : State :=
  updXlate (fun t => { t with caches := updAt t.caches q fun c => cacheInsert c x }) s

/-- A lookup is counted (R295). -/
def countLookup (q : Fin 4) (hit : Bool) (s : State) : State :=
  memCount (fun c => if hit then { c with xlateHits := bump c.xlateHits q 1 } else { c with xlateMisses := bump c.xlateMisses q 1 }) s

/-- The translation that an access would get now, without making it. -/
def xlatePeek (who dva : Nat) (s : State) : Except Status XEntry :=
  match spanEntry s dva with
  | some e => .ok e
  | none =>
    match cacheFind s (whoQuad who) (dva / pageSize) with
    | some x => .ok (pteEntry x.entry dva)
    | none => (walkPage s (dva / pageSize)).map fun e => pteEntry e dva

/-- What an attempt to translate gives a unit: a translation, a failure, or a wait for a walk. -/
inductive XTry where
  | hit (e : XEntry)
  | fail (st : Status)
  | wait
  deriving DecidableEq, Repr, Inhabited

/-- A translation by a unit that waits for walks (R295, R296). `key` and the address tell the request from others of the same requester;
a result that a walk left for it is used up. -/
def xlateTry (who key dva : Nat) (s : State) : State × XTry :=
  let q := whoQuad who
  let page := dva / pageSize
  let w : XWaiter := { quad := q, page := page, who := who, key := key, dva := dva }
  match spanEntry s dva with
  | some e => (countLookup q true (updXlate (fun x => { x with waiters := x.waiters.filter fun y => y ≠ w }) s), .hit e)
  | none =>
    match s.mem.xlate.results.find? fun r => r.waiter == w with
    | some r =>
      let s := updXlate (fun x => { x with results := dropFirst (fun r => r.waiter == w) x.results }) s
      (s, match r.entry with | some e => .hit (pteEntry e dva) | none => .fail r.fails)
    | none =>
      if s.mem.xlate.waiters.contains w then (s, .wait)
      else
        match cacheFind s q page with
        | some x => (countLookup q true (touchPage q x s), .hit (pteEntry x.entry dva))
        | none => (countLookup q false (updXlate (fun x => { x with waiters := x.waiters ++ [w] }) s), .wait)

/-- A translation for a run-ahead fetch (R299), a lookup like any other (R295): present in the cache or a span, VALID with RUNAHEAD, and
for T2 not cached after `since`. -/
def xlateAhead (who dva since : Nat) (s : State) : State × Option XEntry :=
  let q := whoQuad who
  let allowed (x : XEntry) (c : Nat) : Option XEntry := if x.runahead && x.tier != 3 && (x.tier != 2 || decide (c ≤ since)) then some x else none
  match spanEntry s dva with
  | some e => (countLookup q true s, allowed e 0)
  | none => match cacheFind s q (dva / pageSize) with
    | some x => (countLookup q true (touchPage q x s), allowed (pteEntry x.entry dva) (x.since + 1))
    | none => (countLookup q false s, none)

/-- The tier of an address, as far as the requester's cache and the spans say. -/
def tierKnown (who dva : Nat) (s : State) : Option (Fin 4) :=
  ((spanEntry s dva).orElse fun _ => (cacheFind s (whoQuad who) (dva / pageSize)).map fun x => pteEntry x.entry dva).map fun e => e.tier

/-- A Remote request goes out as a packet (R318), or fails as unroutable (R319). The unit's number stands in the top bits of its
TAGs. -/
def sendRemote (u : Fin 4) (r : MReq) (s : State) : State :=
  let tag : BitVec 16 := BitVec.ofNat 16 (u.val * 2 ^ 14 + s.links.units[u].nextTag.toNat % 2 ^ 14)
  let spec : HdrSpec :=
    { type := if r.write then 3 else 4, vc := 2, dst := r.node, flow := r.pa / 2 ^ 11, addr := r.pa, tag := tag.toNat, body := r.len % 4096 }
  match sendPacket .inject (mkPacket s spec (if r.write then r.data else [])) s with
  | none => endReq r.id .peerUnreachable [] s
  | some s =>
    let e : RemoteReq := { tag := tag, req := r.id, sentAt := s.now }
    updUnit u (fun x => { x with remote := x.remote ++ [e], nextTag := x.nextTag + 1 }) (updReq r.id (fun r => { r with state := .sent }) s)

/-- Waiting Remote requests take free entries of their unit (R319). -/
def pumpRemote (u : Fin 4) (s : State) : State :=
  let x := s.links.units[u]
  let n := 256 - x.remote.length
  let now := x.waiting.take n
  let s := updUnit u (fun y => { y with waiting := y.waiting.drop n }) s
  now.foldl (fun s id => match findReq s id with | some r => sendRemote u r s | none => s) s

/-- A tile's own write of its memory through its physical address (R108). -/
def noteOwn (who a n : Nat) (s : State) : State :=
  match place a with
  | .tileMem t off => if t.val = who then ownWrite t off n s else s
  | _ => s

/-- A unit's request to a tier, with what its end does where it is not kept for the requester. T0 is served at once; T1 waits in its
channel's queue, a write until it has room there (R277); T2 waits for a slot of its copy engine (R290); Remote goes to the requester's
unit (R318). The payload of a write crosses the Weave. -/
def postFor (act : Option ReqAct) (c : AccClass) (who : Nat) (write : Bool) (e : XEntry) (n : Nat) (d : Data) (s : State) : State × Nat :=
  let f := freshId s
  let id := f.2
  let r : MReq :=
    { id := id, who := who, write := write, tier := e.tier, pa := e.pa, node := e.node, len := n, data := d, act := act, state := .waiting }
  let s := { f.1 with mem := { f.1.mem with requests := f.1.mem.requests ++ [r] } }
  let fails :=
    if e.tier = 3 then none
    else if e.tier = 2 ∧ !hostReachable s then some Status.addressRange
    else accessFails s c e.pa n write
  match fails with
  | some st => (endReq id st [] s, id)
  | none =>
    let s := if write then crossWeave who e.tier e.pa n true s else s
    match e.tier with
    | 0 => if write then (endReq id .ok [] (noteOwn who e.pa n (placeWrite e.pa d s)), id) else (endReq id .ok (placeRead s e.pa n) s, id)
    | 1 => (postStack id e.pa n write d s, id)
    | 2 =>
      let pair := farPair s e.pa
      let k : Fin 16 := fin (pair + if write then 8 else 0)
      let s := memCount (fun m => { m with farRequests := bump m.farRequests (fin pair) 1, farBytes := bump m.farBytes (fin pair) n }) s
      (updEngine k (fun g => { g with waiting := g.waiting ++ [id] }) s, id)
    | 3 => (pumpRemote (whoQuad who) (updUnit (whoQuad who) (fun u => { u with waiting := u.waiting ++ [id] }) s), id)

/-- A unit's request that is kept for it. -/
def postReq (c : AccClass) (who : Nat) (write : Bool) (e : XEntry) (n : Nat) (d : Data) (s : State) : State × Nat :=
  postFor none c who write e n d s

/-- A request that has failed before it was made. -/
def postFailed (who : Nat) (st : Status) (s : State) : State × Nat :=
  let f := freshId s
  let r : MReq := { id := f.2, who := who, write := false, tier := 0, pa := 0, node := 0, len := 0, data := [], act := none, state := .ended st [] }
  ({ f.1 with mem := { f.1.mem with requests := f.1.mem.requests ++ [r] } }, f.2)

/-- The tier through which a physical address of this module is reached. -/
def physTier (a : Nat) : Fin 4 := match place a with | .stack _ => 1 | .far _ => 2 | _ => 0

/-- An access at physical addresses, piece by piece, each with what its end does. -/
def postPhys (act : ReqAct) (c : AccClass) (who : Nat) (write : Bool) (a n : Nat) (d : Data) (s : State) : State :=
  (pieces a n).foldl (fun s p =>
    let e : XEntry := { pa := p.1, tier := physTier p.1, write := true, runahead := false, node := 0 }
    (postFor (some act) c who write e p.2 (dslice d (p.1 - a) p.2) s).1) s

/-- One access of a unit's operation: a read of `len` bytes, or a write of `data`; only through tiers `lo` to `hi`, and as one request if
`whole` says so. -/
structure IoOp where
  write : Bool
  dva   : Nat
  len   : Nat
  data  : Data
  lo    : Nat
  hi    : Nat
  whole : Bool
  deriving DecidableEq, Repr, Inhabited

/-- A read. -/
def ioRead (dva n : Nat) : IoOp := { write := false, dva := dva, len := n, data := [], lo := 0, hi := 3, whole := false }
/-- A write. -/
def ioWrite (dva : Nat) (d : Data) : IoOp := { write := true, dva := dva, len := d.length, data := d, lo := 0, hi := 3, whole := false }
/-- An access in one request: to T2, of 4 KiB at most (R290). -/
def IoOp.one (o : IoOp) : IoOp := { o with whole := true }
/-- An access to this module's own T0 and T1. -/
def IoOp.own (o : IoOp) : IoOp := { o with hi := 1 }
/-- An access to this module's T1. -/
def IoOp.stack (o : IoOp) : IoOp := { o with lo := 1, hi := 1 }

/-- The key of operation `n` of a kind: what tells it from the others of its requester. -/
def opKey (kind n : Nat) : Nat := kind + 64 * n

/-- Kinds of operations of the command front end: the checks of a slot, a command's work, the record of a step. -/
def kCheck : Nat := 0
/-- A command's work. -/
def kCmd : Nat := 1
/-- A step's record. -/
def kRecord : Nat := 2
/-- Kinds of operations of a row engine: a window of a list. -/
def kList : Nat := 3
/-- A piece of a row. -/
def kRow : Nat := 4
/-- A bag's outputs. -/
def kOutput : Nat := 5
/-- An entry of a refresh list. -/
def kEntry : Nat := 6
/-- The record of an install. -/
def kInstall : Nat := 7
/-- A sample of the misses. -/
def kSample : Nat := 8
/-- An entry of a list that the pre-scanner reads. -/
def kScan : Nat := 9
/-- The keys of a scatter. -/
def kKeys : Nat := 10
/-- A merge. -/
def kMerge : Nat := 11
/-- An optimiser. -/
def kOptim : Nat := 12
/-- The drain of the deferred log. -/
def kDrain : Nat := 13

/-- How far an operation's accesses have come: some wait, one failed, or the data of the reads. -/
inductive IoRes where
  | wait
  | fail (st : Status)
  | done (data : List Data)
  deriving DecidableEq, Repr, Inhabited

/-- Two parts of an operation: a part that waits makes the whole wait, and otherwise the first failure stands. -/
def IoRes.join (a b : IoRes) : IoRes :=
  match a, b with
  | .wait, _ => .wait
  | _, .wait => .wait
  | .fail st, _ => .fail st
  | _, .fail st => .fail st
  | .done x, .done y => .done (x ++ y)

/-- The entry of a piece under way. -/
def ioFind (s : State) (who key : Nat) (write : Bool) (a n : Nat) : Option IoPiece :=
  s.mem.io.find? fun p => p.who == who && p.key == key && p.write == write && p.dva == a && p.len == n

/-- Whether an operation is under way. -/
def ioBusy (s : State) (who key : Nat) : Bool :=
  (s.mem.io.any fun p => p.who == who && p.key == key) || s.mem.xlate.waiters.any fun w => w.who == who && w.key == key

/-- How far a request has come, as a part of an operation. -/
def reqRes (s : State) (id : Nat) : IoRes :=
  match reqEnded s id with
  | none => .wait
  | some (st, x) => if fine st then .done [x] else .fail st

/-- A piece's request is remembered, and with it how far it has come. -/
def ioHold (who key : Nat) (write : Bool) (a n : Nat) (p : State × Nat) : State × IoRes :=
  ({ p.1 with mem := { p.1.mem with io := p.1.mem.io ++ [{ who := who, key := key, write := write, dva := a, len := n, req := p.2 }] } },
   reqRes p.1 p.2)

/-- One piece of an operation, within one granule: translated, and then a request that the piece waits for. -/
def ioPiece (c : AccClass) (who key : Nat) (op : IoOp) (a n : Nat) (d : Data) (s : State) : State × IoRes :=
  match ioFind s who key op.write a n with
  | some p => (s, reqRes s p.req)
  | none =>
    let x := xlateTry who key a s
    let hold (p : State × Nat) : State × IoRes := ioHold who key op.write a n p
    match x.2 with
    | .wait => (x.1, .wait)
    | .fail st => hold (postFailed who st x.1)
    | .hit e =>
      if e.tier.val < op.lo || op.hi < e.tier.val then hold (postFailed who .addressRange x.1)
      else if op.write && !e.write then hold (postFailed who .accessDenied x.1)
      else hold (postReq c who op.write e n d x.1)

/-- One access of an operation, piece by piece. -/
def ioAccess (c : AccClass) (who key : Nat) (op : IoOp) (s : State) : State × IoRes :=
  let ps := if op.whole then [(op.dva, op.len)] else pieces op.dva op.len
  let r := ps.foldl (fun (acc : State × IoRes) p =>
    let x := ioPiece c who key op p.1 p.2 (dslice op.data (p.1 - op.dva) p.2) acc.1
    (x.1, acc.2.join x.2)) (s, .done [])
  (r.1, match r.2 with | .done ds => .done [ds.flatten] | x => x)

/-- An operation is over: its pieces and their requests are forgotten, and what it waited for in translation. -/
def ioForget (who key : Nat) (s : State) : State :=
  let mine (p : IoPiece) : Bool := p.who == who && p.key == key
  let s := (s.mem.io.filter mine).foldl (fun s p => orphanReq .nobody p.req s) s
  let other (w : XWaiter) : Bool := !(w.who == who && w.key == key)
  { s with mem := { s.mem with
    io := s.mem.io.filter fun p => !mine p,
    xlate := { s.mem.xlate with waiters := s.mem.xlate.waiters.filter other, results := s.mem.xlate.results.filter fun r => other r.waiter } } }

/-- All the accesses of an operation, which `key` tells from the requester's others: while one waits the operation waits, and is tried
again. -/
def ioMany (c : AccClass) (who key : Nat) (ops : List IoOp) (s : State) : State × IoRes :=
  let r := ops.foldl (fun (acc : State × IoRes) op => let x := ioAccess c who key op acc.1; (x.1, acc.2.join x.2)) (s, .done [])
  match r.2 with
  | .wait => r
  | x => (ioForget who key r.1, x)

/-- One read of an operation. -/
def ioReadOne (c : AccClass) (who key dva n : Nat) (s : State) : State × IoRes := ioMany c who key [ioRead dva n] s

/-- Whether an access of a requester writes a phase record (R54). -/
def ofRecord (who key : Nat) : Bool := who == whoFront && key % 64 == kRecord

/-- A posted write that cannot be made: a sample of an engine's misses is dropped (R198), and a record that is not written counted (R54). -/
def dropPosted (who key : Nat) (s : State) : State :=
  if ofRecord who key then countRecordFail s
  else if 128 ≤ who ∧ who < 144 then
    { s with rows := { s.rows with engines := updAt s.rows.engines (fin (who - 128)) fun g =>
        { g with counters := { g.counters with missSampleDrop := addSat g.counters.missSampleDrop 1 } } } }
  else s

/-- A write that nobody waits for: made, dropped, or kept while its page is walked (R296). -/
def postWrite (who key dva : Nat) (d : Data) (s : State) : State :=
  let x := xlateTry who key dva s
  match x.2 with
  | .wait => { x.1 with mem := { x.1.mem with posted := x.1.mem.posted ++ [{ who := who, key := key, dva := dva, data := d }] } }
  | .fail _ => dropPosted who key x.1
  | .hit e =>
    if !e.write || (e.tier.val < 2 && (accessFails x.1 .cmd e.pa d.length true).isSome) || (ofRecord who key && decide (e.tier.val = 3)) then
      dropPosted who key x.1
    else (postFor (some (if ofRecord who key then .record else .nobody)) .cmd who true e d.length d x.1).1

/-- The posted writes that waited for a walk are tried again. -/
def retryPosted (s : State) : State :=
  s.mem.posted.foldl (fun s w => postWrite w.who w.key w.dva w.data s) { s with mem := { s.mem with posted := [] } }

/-- The data of a read that is done. -/
def IoRes.data : IoRes → Data
  | .done (d :: _) => d
  | _ => []

end Sys2Proof.Machine
end

