-- ==== Sys2Proof/Machine/Commands.lean ====
section
/-!
DEFINITION. Commands of the host (10): the header's fields, the step rules, completion with its effects on queue and step,
and the admission order (R363).
-/
namespace Sys2Proof.Machine

/-- OPCODE of a slot (R360). -/
def slotOpcode (c : Slot) : Nat := fld c.hdr 7 0
/-- TAG of a slot. -/
def slotTag (c : Slot) : BitVec 12 := BitVec.ofNat 12 (fld c.hdr 19 8)
/-- PHASE of a slot. -/
def slotPhase (c : Slot) : Nat := fld c.hdr 23 20
/-- NO_STEP of a slot. -/
def slotNoStep (c : Slot) : Bool := bit c.hdr 24
/-- EARLY of a slot. -/
def slotEarly (c : Slot) : Bool := bit c.hdr 25
/-- STEP_TAG of a slot. -/
def slotStepTag (c : Slot) : Nat := fld c.hdr 47 32
/-- PAYLOAD_BYTES of a slot. -/
def slotBytes (c : Slot) : Nat := fld c.hdr 55 48
/-- USER of a slot. -/
def slotUser (c : Slot) : BitVec 64 := BitVec.ofNat 64 (fld c.hdr 127 64)
/-- ARG of a slot. -/
def slotArg (c : Slot) : Nat := fld c.hdr 191 128

/-- Payload bytes of each opcode (R367), as a test of PAYLOAD_BYTES; `none` for an opcode not in the list. -/
def opcodeSize (op : Nat) (n : Nat) : Option Bool :=
  let eq (k : Nat) : Option Bool := some (n == k)
  match op with
  | 0x00 => eq 0 | 0x01 => eq 24 | 0x02 => eq 16 | 0x10 => eq 96 | 0x18 => eq 64
  | 0x19 => some (decide (32 ≤ n) && decide (n ≤ 192) && n % 32 == 0)
  | 0x20 => eq 64 | 0x21 => eq 96 | 0x22 => eq 32 | 0x23 => eq 32 | 0x28 => eq 96 | 0x29 => eq 16 | 0x2A => eq 64
  | 0x2B => eq 16 | 0x2C => eq 32 | 0x30 => eq 64 | 0x31 => eq 64 | 0x38 => eq 64 | 0x39 => eq 16 | 0x3A => eq 64
  | 0x3B => eq 96 | 0x40 => eq 32 | 0x41 => eq 128 | 0x50 => eq 32
  | _ => none

/-- Whether a command fails the step rules (R22). -/
def stepRuleFails (s : State) (c : Slot) : Bool :=
  !slotNoStep c && match tagStep s (slotStepTag c) with
    | none => true
    | some p => p.closedToWork || p.state == .aborting

/-- The step rules as a check of an opcode. -/
def stepRules (s : State) (c : Slot) : Bool × Status := (stepRuleFails s c, .stateConflict)

/-- The step that a command belongs to (R31): the open step of its tag, unless it carries NO_STEP. -/
def slotStep (s : State) (c : Slot) : Option (BitVec 64) :=
  if slotNoStep c then none else (tagStep s (slotStepTag c)).map fun p => p.num

/-- The command with a number. -/
def findCmd (s : State) (id : Nat) : Option Cmd := s.host.cmds.find? fun c => c.id == id

/-- Whether a command that starts now is an early optimiser before the decision (R35, R36). -/
def startsEarly (s : State) (slot : Slot) (step : Option (BitVec 64)) : Bool :=
  slotEarly slot && slotPhase slot == 9 && (step.bind (findStep s)).any fun p => p.state == .stOpen

/-- A step remembers an early command that has started, for its re-execution (R36) and its phase record (R55): a TILE_RUN with the tiles
on which it has. -/
def noteEarly (c : Cmd) (tiles : List (Fin 128)) (s : State) : State :=
  match c.step with
  | none => s
  | some n =>
    let fresh : EarlyRun := { cmd := c.id, sq := c.sq, slot := c.slot, info := c.info, ran := tiles, redo := [], running := [], counted := false }
    updStep n (fun p => { p with
      earlies := if p.earlies.any fun e => e.cmd == c.id then mapIf (fun e => e.cmd == c.id) (fun e => { e with ran := e.ran ++ tiles }) p.earlies
        else p.earlies ++ [fresh] }) s

/-- A command starts (R28, R30, R497). An early one is remembered for its re-execution; a TILE_RUN is where its program starts (R36). -/
def startCmd (id : Nat) (s : State) : State :=
  let t := { s with host := { s.host with cmds := mapIf (fun c => c.id == id) (fun c => { c with started := true }) s.host.cmds } }
  match findCmd s id with
  | some c => if !c.started && !c.redo && slotOpcode c.slot != 0x10 && startsEarly s c.slot c.step then noteEarly c [] t else t
  | none => t

/-- A command leaves an engine's queues. -/
def dropEngineCmd (id : Nat) (g : Engine) : Engine :=
  { g with
    queue := g.queue.filter fun (x : EngineCmd) => match x with | .gather r => r.cmd != id | .refresh r => r.cmd != id,
    prescans := g.prescans.filter fun r => r.cmd != id,
    steps := g.steps.map fun x => { x with scatters := x.scatters.filter fun r => r.cmd != id } }

/-- A broadcast that ends without its records leaves the replica that waits for it: pending no longer, and stale (R180, R337). -/
def loseBroadcast (id : Nat) (t : Table) : Table :=
  if t.bcasts.any fun b => b.cmd == id then { t with bcasts := t.bcasts.filter fun b => b.cmd != id, stale := true } else t

/-- A command leaves the queues of the row engines and what several engines run. -/
def dropRowCmd (id : Nat) (r : Rows) : Rows :=
  { r with
    engines := r.engines.map (dropEngineCmd id), merges := r.merges.filter fun m => m.cmd != id,
    optimises := r.optimises.filter fun o => o.cmd != id, exports := r.exports.filter fun x => x.cmd != id,
    imports := r.imports.filter fun x => x.cmd != id, tables := r.tables.map (loseBroadcast id),
    batches := r.batches.filter fun b => !(b.step.isNone && b.cmd == id) }

/-- A command leaves the queues of the units (R497). -/
def dropCmd (id : Nat) (s : State) : State :=
  { s with
    tile := { s.tile with
      tiles := s.tile.tiles.map (fun t => { t with progs := t.progs.filter fun p => p.cmd ≠ id || p.redo }),
      cmds := s.tile.cmds.filter fun c => c.cmd ≠ id },
    host := { s.host with engines := s.host.engines.map fun e => { e with queue := e.queue.filter fun r => r.cmd ≠ id } },
    links := { s.links with units := s.links.units.map fun u => { u with queue := u.queue.filter fun c => c.cmd ≠ id } },
    rows := dropRowCmd id s.rows,
    train := { s.train with steps := s.train.steps.map fun p => { p with norms := p.norms.filter fun x => x.order != id } } }

/-- The completion of a command joins those whose records are to be written (R359). A command carrying FENCE_ON_ERROR that
fails fences its queue, unless the queue is fenced already (R366). -/
def pushCompletion (q : Fin 64) (c : Slot) (admitted : Bool) (st : Status) (detail : BitVec 64) (s : State) : State :=
  let r : Completion :=
    { sq := q, tag := slotTag c, opcode := BitVec.ofNat 8 (slotOpcode c), status := st, detail := detail,
      user := slotUser c, admitted := admitted }
  let fence (x : SQueue) : SQueue := if bit c.hdr 26 && !fine st && x.fence.isNone then { x with fence := some (slotTag c) } else x
  { s with host := { s.host with done := s.host.done ++ [r], sqs := updAt s.host.sqs q fence } }

/-- A command that is over completes; the re-execution of one has no record of its own (R36). -/
def retire (c : Cmd) (st : Status) (detail : Nat) (s : State) : State :=
  if c.redo then s else pushCompletion c.sq c.slot true st (BitVec.ofNat 64 detail) s

/-- The commands of step `n` that have not started, as they end when it aborts (R497). -/
def unstartedOf (n : BitVec 64) (s : State) : List Ending :=
  (s.host.cmds.filter fun c => c.step == some n && !c.started).map fun c => { cmd := c.id, st := .stateConflict, detail := 0, drop := true }

/-- Step `n` goes to ABORTING where it is in OPEN or DECIDED_COMMIT, and with it end its commands that have not started (R45, R46, R497). -/
def markAbort (n : BitVec 64) (st : Status) (held : Bool) (s : State) : State × List Ending :=
  match findStep s n with
  | none => (s, [])
  | some p =>
    if p.state = .stOpen ∨ p.state = .decidedCommit then
      (updStep n (fun p => { p with state := .aborting, abort := some st, abortHeld := held }) s, unstartedOf n s)
    else (s, [])

/-- What a failure of a command does to its step (R31, R45, R46), with the commands that end of it. `phase` is the command's phase tag. -/
def markFailure (n : BitVec 64) (phase : Nat) (st : Status) (s : State) : State × List Ending :=
  if fine st then (s, [])
  else
    match findStep s n with
    | none => (s, [])
    | some p =>
      match p.state with
      | .stOpen =>
        if st = .uncorrectable ∨ p.voteSent then markAbort n st false s
        else (updStep n (fun p => { p with errSkip := true }) s, [])
      | .decidedCommit => markAbort n st false s
      | .publishing =>
        if phase = 10 then (updStep n (fun p => { p with publishFail := p.publishFail.orElse fun _ => some st }) s, []) else (s, [])
      | _ => (s, [])

/-- Whether a slot is a command of the history walker. -/
def ofWalker (c : Slot) : Bool := slotOpcode c == 0x3A || slotOpcode c == 0x3B

/-- One command ends (R359): its record, what a failure takes from the walker's queue (R259), and what it does to its step; with the
commands that end because of it. -/
def endOne (e : Ending) (s : State) : State × List Ending :=
  match findCmd s e.cmd with
  | none => (s, [])
  | some c =>
    let s := retire c e.st e.detail { s with host := { s.host with cmds := s.host.cmds.filter fun x => x.id ≠ e.cmd } }
    let s := if e.drop then dropCmd e.cmd s else s
    let w := if fine e.st || !ofWalker c.slot then (s, []) else leaveWalker e.cmd s
    match c.step with
    | none => w
    | some n => let f := markFailure n (slotPhase c.slot) e.st w.1; (f.1, w.2 ++ f.2)

/-- Endings are joined, each command once. -/
def joinEndings (es fs : List Ending) : List Ending := fs.foldl (fun es f => if es.any fun e => e.cmd == f.cmd then es else es ++ [f]) es

/-- Commands end, one after another, and those that end because of them. -/
def endAll : Nat → List Ending → State → State
  | 0, _, s => s
  | _ + 1, [], s => s
  | k + 1, e :: es, s => let r := endOne e s; endAll k (joinEndings es r.2) r.1

/-- Commands end with all that follows: each command in flight ends once at most. -/
def endCmds (es : List Ending) (s : State) : State := endAll (s.host.cmds.length + es.length) es s

/-- Every command of step `n` that has not started completes with STATE_CONFLICT (R497). -/
def endUnstartedOf (n : BitVec 64) (s : State) : State := endCmds (unstartedOf n s) s

/-- A step in OPEN or DECIDED_COMMIT goes to ABORTING (R45, R46, R497). -/
def abortStep (n : BitVec 64) (st : Status) (held : Bool) (s : State) : State := let r := markAbort n st held s; endCmds r.2 r.1

/-- What a failure of a command does to its step (R31, R45, R46). -/
def stepFailure (n : BitVec 64) (phase : Nat) (st : Status) (s : State) : State := let r := markFailure n phase st s; endCmds r.2 r.1

/-- A command completes with a status (R359), with what that does to its queue and its step. -/
def completeCmd (id : Nat) (st : Status) (detail : Nat) (s : State) : State :=
  endCmds [{ cmd := id, st := st, detail := detail, drop := false }] s

/-- What the checks of an opcode decide. -/
inductive Adm where
  /-- a check failed -/
  | refuse (st : Status) (detail : Nat)
  /-- a count or length of zero (R364) -/
  | noOp
  /-- wait at the head of the queue for room in a unit -/
  | wait
  | accept
  /-- admitted, with what the check-time reads gave -/
  | admitWith (info : List Nat)
  deriving DecidableEq, Repr, Inhabited

/-- The first check that fails, in the order given. -/
def firstFail (cs : List (Bool × Status)) : Option Status := (cs.find? fun c => c.1).map fun c => c.2

/-- A list of checks as an admission decision; OK_NO_OP ends it as an operation with nothing to do. -/
def checks (cs : List (Bool × Status)) : Adm :=
  match firstFail cs with
  | none => .accept
  | some .okNoOp => .noOp
  | some st => .refuse st 0

/-- The commands in flight (R358). -/
def inFlight (s : State) : Nat := (s.host.cmds.filter fun c => !c.redo).length + (s.host.done.filter fun c => c.admitted).length

/-- Whether a TAG is in use in its queue (R362). -/
def tagInUse (s : State) (q : Fin 64) (t : BitVec 12) : Bool :=
  (s.host.cmds.any fun c => !c.redo && c.sq == q && slotTag c.slot == t) || (s.host.done.any fun c => c.admitted && c.sq == q && c.tag == t)

/-- Whether a slot breaks its encoding (R363, item 4). -/
def slotMalformed (s : State) (q : Fin 64) (c : Slot) : Bool :=
  fld c.hdr 31 29 != 0 || fld c.hdr 63 56 != 0 || fld c.hdr 511 192 != 0 ||
  decide (c.pay.toNat ≥ 2 ^ (8 * slotBytes c)) || (opcodeSize (slotOpcode c) (slotBytes c) == some false) ||
  slotPhase c == 13 || (slotEarly c && (slotPhase c != 9 || slotNoStep c)) || (slotNoStep c && slotStepTag c != 0) ||
  (slotArg c != 0 && slotOpcode c != 0x19) || tagInUse s q (slotTag c)

/-- Whether the device state forbids an opcode that reaches the head of its queue (R377). -/
def stateForbids (s : State) (op : Nat) : Bool :=
  match s.host.dev with
  | .running => false
  | .updating => op == 0x01
  | _ => true

/-- The slots of a queue (R356). -/
def queueSize (log2 : BitVec 4) : Nat := 2 ^ log2.toNat

/-- The slot at a queue's head is consumed: HEAD advances (R357). -/
def advanceHead (q : Fin 64) (s : State) : State :=
  let f (x : SQueue) : SQueue :=
    { x with head := BitVec.ofNat 16 ((x.head.toNat + 1) % queueSize x.sizeLog2), waiting := none }
  { s with host := { s.host with sqs := updAt s.host.sqs q f } }

/-- A command completes at admission with a failing status (R363): no side effect but the record, the counters, the fence
and the step's vote (R31). -/
def refuseSlot (q : Fin 64) (c : Slot) (st : Status) (detail : Nat) (s : State) : State :=
  let n := (slotStep s c).bind fun n => (findStep s n).bind fun p => if p.closedToWork ∨ p.state = .aborting then none else some n
  let s := advanceHead q s
  let s := hostCount (fun k => { k with refused := bump k.refused q 1 }) s
  let s := pushCompletion q c false st (BitVec.ofNat 64 detail) s
  match n with
  | none => s
  | some n => stepFailure n (slotPhase c) st s

/-- The opcodes that a parked module serves without waking (R444, R445): NOP, COPY and INLINE_WRITE. -/
def runsParked (op : Nat) : Bool := op == 0x00 || op == 0x18 || op == 0x19

/-- A command that a parked module has admitted writes PARK 0 (R445). -/
def wakeFor (op : Nat) (s : State) : State :=
  if s.clk.park = .parked ∧ !runsParked op then { s with clk := { s.clk with park := .waking } } else s

/-- A command is admitted (R363, R358): it is in flight from now on, under the number `nextCmd`. -/
def enterCmd (info : List Nat) (q : Fin 64) (c : Slot) (s : State) : State × Cmd :=
  let k : Cmd :=
    { info := info, id := s.host.nextCmd, sq := q, slot := c, step := if slotOpcode c = 1 ∨ slotOpcode c = 2 then none else slotStep s c,
      started := false, xorder := s.mem.xlate.order, redo := false }
  let s := advanceHead q (wakeFor (slotOpcode c) s)
  let s := hostCount (fun n => { n with admitted := bump n.admitted q 1 }) s
  ({ s with host := { s.host with cmds := s.host.cmds ++ [k], nextCmd := s.host.nextCmd + 1 } }, k)

/-- A slot waits at the head of its queue (R363). -/
def waitAtHead (q : Fin 64) (c : Slot) (s : State) : State :=
  { s with host := { s.host with sqs := updAt s.host.sqs q fun x => { x with waiting := some c } } }

/-- The checks and effect of one opcode. `check` makes the opcode's own checks, with the reads they make; `effect` is
what admission does. -/
structure OpRule where
  check  : Fin 64 → Slot → State → State × Adm
  effect : Cmd → State → State

/-- Whether a command is one that a skip decision has already ended (R28): tagged OPTIMISE or COMMIT, of a step in
DECIDED_SKIP. -/
def skippedByVerdict (s : State) (k : Cmd) : Bool :=
  (slotPhase k.slot == 9 || slotPhase k.slot == 10) && match k.step.bind (findStep s) with
    | some p => p.state == .decidedSkip
    | none => false

/-- A slot is admitted and its opcode's effect begins. -/
def admitNow (r : OpRule) (info : List Nat) (q : Fin 64) (c : Slot) (s : State) : State :=
  let e := enterCmd info q c s
  if skippedByVerdict e.1 e.2 then completeCmd e.2.id .verdictSkipped 0 e.1 else r.effect e.2 e.1

/-- A slot that has passed the checks of R363 up to item 5 goes through its opcode's own checks and is admitted. One with nothing to do
completes there (R364), before it is admitted (DEDUCED from R363: a command that passes every check is admitted). -/
def admitChecked (r : OpRule) (q : Fin 64) (c : Slot) (s : State) : State :=
  let k := r.check q c s
  match k.2 with
  | .refuse st d => refuseSlot q c st d k.1
  | .noOp => pushCompletion q c false .okNoOp 0 (advanceHead q k.1)
  | .wait => waitAtHead q c k.1
  | .accept => admitNow r [] q c k.1
  | .admitWith info => admitNow r info q c k.1

/-- The admission order of R363 for a slot at the head of queue `q`. -/
def admitSlot (r : OpRule) (q : Fin 64) (c : Slot) (s : State) : State :=
  let waits := (bit c.hdr 28 && s.host.cmds.any fun x => !x.redo && x.sq == q) || decide (inFlight s ≥ 4096)
  if waits then waitAtHead q c s
  else
    let clear (x : SQueue) : SQueue := if bit c.hdr 27 then { x with fence := none } else x
    let s := { s with host := { s.host with sqs := updAt s.host.sqs q clear } }
    match s.host.sqs[q].fence with
    | some t => refuseSlot q c .stateConflict t.toNat (hostCount (fun k => { k with fenced := bump k.fenced q 1 }) s)
    | none =>
      if (opcodeSize (slotOpcode c) (slotBytes c)).isNone then refuseSlot q c .unknownOpcode 0 s
      else if slotMalformed s q c then refuseSlot q c .malformed 0 s
      else if stateForbids s (slotOpcode c) then refuseSlot q c .stateConflict 0 s
      else admitChecked r q c s

/-- Whether a new slot may reach the head of queue `q`: the device fetches (R377), the queue is enabled and holds a
command, and none waits at its head. -/
def headFree (s : State) (q : Fin 64) : Bool :=
  let x := s.host.sqs[q]
  (s.host.dev == .running || s.host.dev == .updating) && x.enable && x.head != x.tail && x.waiting.isNone &&
    s.host.session.op.isNone && !s.host.heldDue

/-- The queue whose turn it is among those that `ready` names (R358): the one that has the turn while it has admissions left, and otherwise
the next in ascending order. -/
def turnOf (s : State) (ready : Fin 64 → Bool) : Option (Fin 64) :=
  if ready s.host.arb && decide (s.host.arbUsed ≤ s.host.sqs[s.host.arb].weight.toNat) then some s.host.arb
  else ((List.range 64).map fun i => (fin (s.host.arb.val + 1 + i) : Fin 64)).find? ready

/-- Whether it is the turn of queue `q`, at whose head no slot waits (R358). -/
def mayAdmit (s : State) (q : Fin 64) : Bool := turnOf s (headFree s) == some q

/-- Whether the slot that waits at the head of queue `q` may be tried again: its turn comes like that of the queues whose heads are free. -/
def mayRetry (s : State) (q : Fin 64) : Bool := turnOf s (fun k => k == q || headFree s k) == some q

/-- Queue `q` has used one admission of its turn; one whose head waits gives its turn up (R358). -/
def useTurn (q : Fin 64) (s : State) : State :=
  let used := if q = s.host.arb ∧ s.host.arbUsed ≤ s.host.sqs[q].weight.toNat then s.host.arbUsed + 1 else 1
  let waits := s.host.sqs[q].waiting.isSome
  { s with host := { s.host with arb := q, arbUsed := if waits then 16 else used } }

/-- A command of opcode `op` reaches the head of queue `q`, whose turn it is. -/
def commandAtHead (op : Nat) (r : OpRule) (q : Fin 64) (c : Slot) (s : State) : State :=
  if mayAdmit s q then useTurn q (admitSlot r q { c with hdr := setFld c.hdr 7 0 op } s) else s

/-- Whether a command may start in its step's state (R29, R30, R35), and while the module is not parked (R445). -/
def mayBegin (s : State) (slot : Slot) (step : Option (BitVec 64)) : Bool :=
  (s.clk.park == .awake || runsParked (slotOpcode slot)) && match step.bind (findStep s) with
  | none => true
  | some p =>
    if slotPhase slot = 10 then p.state == .publishing
    else if slotPhase slot = 9 then
      (slotEarly slot && p.early && p.state == .stOpen) || p.state == .decidedCommit || p.state == .committing || p.state == .publishing
    else true

/-- A command whose work is done at once, on admission or when its step lets it start (R29, R30): it completes with the status and DETAIL
that `effect` answers. Where that waits for memory it stays, started, and is tried again (`runHeld`). -/
def runAtOnce (effect : Cmd → State → State × Option (Status × Nat)) (k : Cmd) (s : State) : State :=
  if !mayBegin s k.slot k.step then s
  else
    let r := effect k (startCmd k.id s)
    match r.2 with
    | some x => completeCmd k.id x.1 x.2 r.1
    | none => r.1

/-- A command whose checks are pure and whose work is done at once. -/
def instantRule (check : Slot → State → Adm) (effect : Slot → State → State) : OpRule :=
  { check := fun _ c s => (s, check c s), effect := runAtOnce fun k s => (effect k.slot s, some (.ok, 0)) }

/-- The device enters HELD (R376, R382, R390). -/
def enterHeldNow (s : State) : State :=
  hostCount (fun c => { c with heldEntries := addSat c.heldEntries 1 }) (setDev .held { s with host := { s.host with heldDue := false } })

/-- NOP (R367). -/
def nopRule : OpRule := instantRule (fun c s => checks [stepRules s c]) (fun _ s => s)

end Sys2Proof.Machine
end

