-- ==== Sys2Proof/Machine/Ports.lean ====
section
/-!
DEFINITION. The Bamek ports (09: R303 to R317): training, codewords and retry, flits and packets, credits, forwarding.
-/
namespace Sys2Proof.Machine

/-- Port `p`. -/
def getPort (s : State) (p : Fin 16) : Port := s.links.ports[p]

/-- Whether a port belongs to the population (R317). -/
def portEnabled (s : State) (p : Fin 16) : Bool :=
  !s.links.portDisable.toNat.testBit p.val && !(s.links.linkPorts == 12 && decide (p.val ≥ 12))

/-- A port's packets that wait to be sent are routed again over the entries that routed them (R314). -/
def rerouteAll (xs : List (PortSet × Packet)) (s : State) : State :=
  xs.foldl (fun s x => match sendPacket x.1 x.2 s with
    | some s => s
    | none => linkCount (fun c => { c with routeDrop := addSat c.routeDrop 1 }) s) s

/-- A port without a link: codeword, retry and credit state are gone (R307, R433). -/
def clearPort (st : PortState) (now : Nat) (x : Port) : Port :=
  { Port.reset with state := st, since := now, trained := x.trained || x.state == .training, rx := x.rx, peerNode := x.peerNode, peerPort := x.peerPort }

/-- A port leaves its state for DOWN or DISABLED (R307, R314, R315). -/
def dropPort (st : PortState) (p : Fin 16) (s : State) : State :=
  let x := getPort s p
  let s := if st = .down ∧ (x.state = .up ∨ x.state = .active) then linkCount (fun c => { c with downs := bump c.downs p 1 }) s else s
  rerouteAll x.txq (updPort p (clearPort st s.now) s)

/-- A port goes DOWN (R307). -/
def portDown (p : Fin 16) (s : State) : State :=
  if (getPort s p).state = .disabled ∨ (getPort s p).state = .down then s else dropPort .down p s

/-- A PHY loop that is needed is enabled, unless it has failed for good (R427, R437). -/
def wantLoop (now : Nat) (l : Loop) : Loop := if l.enabled || decide (3 ≤ l.fails) then l else .start now

/-- A port starts TRAINING (R316); its PHY loop is enabled (R437). -/
def trainPort (p : Fin 16) (s : State) : State :=
  let s := { s with clk := { s.clk with linkPhy := updAt s.clk.linkPhy p (wantLoop s.now) } }
  updPort p (fun x => { clearPort .down s.now x with state := .training, step := 1 }) s

/-- PORT_RETRAIN_TIMER (R316). -/
def execPortRetrainTimer (p : Fin 16) (s : State) : Host.Outcome State Fault Refusal :=
  let x := getPort s p
  let booted := s.boot.phase == .training || s.boot.phase == .done
  go (if x.state = .down ∧ portEnabled s p ∧ booted ∧ x.since + 100000000 ≤ s.now then trainPort p s else s)

/-- PORT_EQUALISATION_DONE (R316); lane reversal is found and corrected (R304). The port's PHY loop has locked (R427). -/
def execPortEqualisationDone (p : Fin 16) (reversed : Bool) (s : State) : Host.Outcome State Fault Refusal :=
  let x := getPort s p
  go (if x.state = .training ∧ x.step = 1 ∧ s.clk.linkPhy[p].locked then
    updPort p (fun x => { x with step := 2, since := s.now, reversed := reversed }) s else s)

/-- CODEWORD_LOCK (R316). -/
def execCodewordLock (p : Fin 16) (s : State) : Host.Outcome State Fault Refusal :=
  let x := getPort s p
  go (if x.state = .training ∧ x.step = 2 then updPort p (fun x => { x with step := 3, since := s.now }) s else s)

/-- An IDENT link flit of this module (R308). -/
def identFlit (s : State) (p : Fin 16) : BitVec 512 :=
  BitVec.ofNat 512 (2 * 2 ^ 184 + nodeId s * 2 ^ 256 + p.val * 2 ^ 272 + s.links.linkPorts.toNat * 2 ^ 276)

/-- A port sends its IDENT and waits for its peer's (R316). -/
def sendIdent (p : Fin 16) (s : State) : State :=
  updPort p (fun x => { x with state := .up, step := 4, since := s.now, linkq := x.linkq ++ [identFlit s p] }) s

/-- PORT_UP (R316): SEQ and ACK start at 0 and the credits are the peer's buffers. -/
def execPortUp (p : Fin 16) (s : State) : Host.Outcome State Fault Refusal :=
  let x := getPort s p
  go (if x.state = .training ∧ x.step = 3 then
    sendIdent p (updPort p (fun x => { x with trained := true, txSeq := 0, rxSeq := 0, replay := [], resend := 0, ackAt := s.now, replayAt := s.now,
                                              credits := vcFlits, freed := .replicate 4 0, freedAt := s.now }) s)
  else s)

/-- The limit of a training step in nanoseconds (R316). -/
def trainLimit (step : Nat) : Nat :=
  match step with | 1 => 500000000 | 2 => 2000000 | 3 => 10000 | _ => 10000

/-- TRAINING_STEP_TIMEOUT (R316). -/
def execTrainingStepTimeout (p : Fin 16) (s : State) : Host.Outcome State Fault Refusal :=
  let x := getPort s p
  go (if (x.state = .training ∨ (x.state = .up ∧ x.step = 4)) ∧ x.since + trainLimit x.step < s.now then portDown p s else s)

/-- The first packet in a port's receiver that `f` selects, with the port's state without it; its flits are free again (R310). -/
def takeRx (p : Fin 16) (f : Packet → Bool) (s : State) : Option (Packet × State) :=
  match (getPort s p).rx.find? f with
  | none => none
  | some k =>
    let free (x : Port) : Port :=
      let n := x.freed.map id
      let quiet := (List.finRange 4).all fun i => x.freed[i] == 0
      if pkType k = 0 then { x with rx := dropFirst f x.rx }
      else { x with rx := dropFirst f x.rx, freed := n.set (pkVc k) (n[pkVc k] + 1 + k.pay.length), freedAt := if quiet then s.now else x.freedAt }
    some (k, updPort p free s)

/-- Whether a packet is a link flit of a KIND. -/
def isLink (kind : Nat) (k : Packet) : Bool := pkType k == 0 && pkKind k == kind

/-- IDENT_RX (R316). A port that is ACTIVE already answers with its own IDENT, so that the peer can repeat the exchange (R311). -/
def execIdentRx (p : Fin 16) (s : State) : Host.Outcome State Fault Refusal :=
  go (match takeRx p (isLink 2) s with
    | none => s
    | some (k, s') =>
      let node := fld k.hdr 270 256
      let x := getPort s' p
      let s := updPort p (fun x => { x with peerNode := BitVec.ofNat 15 node, peerPort := BitVec.ofNat 4 (fld k.hdr 275 272) }) s'
      if x.state = .up then
        if node ≠ nodeId s then updPort p (fun x => { x with state := .active, since := s.now }) s
        else updPort p (fun x => { x with step := 5 }) s
      else if x.state = .active then updPort p (fun x => { x with linkq := x.linkq ++ [identFlit s p] }) s
      else s)

/-- The peer has acknowledged the codewords up to `ack` (R306). -/
def ackCodewords (p : Fin 16) (ack : BitVec 8) (s : State) : State :=
  let x := getPort s p
  match x.replay.findIdx? fun c => c.seq == ack with
  | none => s
  | some i =>
    updPort p (fun x => { x with replay := x.replay.drop (i + 1), resend := min x.resend (x.replay.length - (i + 1)), ackAt := s.now,
                                 replayAt := s.now, nakCount := 0 }) s

/-- A replay begins (R306). -/
def startReplay (p : Fin 16) (s : State) : State :=
  linkCount (fun c => { c with replays := bump c.replays p 1 }) (updPort p (fun x => { x with resend := x.replay.length, replayAt := s.now }) s)

/-- A NAK arrives (R306, R307). -/
def nakIn (p : Fin 16) (ack : BitVec 8) (s : State) : State :=
  let x := getPort s p
  if x.state = .up ∨ x.state = .active then
    let s := ackCodewords p ack s
    let x := getPort s p
    let n := if x.nakCount ≠ 0 ∧ x.nakSeq = ack + 1 then x.nakCount + 1 else 1
    let s := updPort p (fun x => { x with nakCount := n, nakSeq := ack + 1 }) s
    if n ≥ 16 then portDown p s else if (getPort s p).replay.isEmpty then s else startReplay p s
  else s

/-- Whether a header flit carries a reserved encoding (R309). -/
def reservedHeader (h : BitVec 512) : Bool :=
  let t := fld h 3 0
  decide (t ≥ 7) || (t == 0 && decide (fld h 191 184 > 2)) || (t == 2 && decide (fld h 191 184 > 5))

/-- Whether a header flit has a reserved field that is not 0 (R308, R309). -/
def reservedFields (h : BitVec 512) : Bool := fld h 15 13 != 0 || bit h 31 || bit h 47

/-- A header flit of a defined TYPE and KIND whose reserved fields are not 0 is counted, and taken as if they were (R309). -/
def countReserved (p : Fin 16) (h : BitVec 512) (s : State) : State :=
  if reservedFields h && !reservedHeader h && decide (pkFlits h ≤ 32) then linkCount (fun c => { c with protoErr := bump c.protoErr p 1 }) s else s

/-- A packet is whole: it joins the receiver's buffer, or, with a reserved encoding, is discarded and its flits are free (R309). -/
def packetIn (p : Fin 16) (fs : List (BitVec 512)) (s : State) : State :=
  match fs with
  | [] => s
  | h :: pay =>
    let k : Packet := { hdr := h, pay := pay }
    let s := updPort p (fun x => { x with rx := x.rx ++ [k] }) s
    let s := if pkType k = 0 then s else linkCount (fun c => { c with rxFlits := bump c.rxFlits p fs.length }) s
    if reservedHeader h then
      let s := linkCount (fun c => { c with protoErr := bump c.protoErr p 1 }) s
      match takeRx p (fun y => y == k) s with | some r => r.2 | none => s
    else s

/-- One flit of a DATA codeword (R308, R309). -/
def flitIn (p : Fin 16) (s : State) (f : BitVec 512) : State :=
  let x := getPort s p
  if x.state ≠ .up ∧ x.state ≠ .active then s
  else
    match x.partial_ with
    | [] =>
      let s := countReserved p f s
      if pkFlits f > 32 then portDown p (linkCount (fun c => { c with protoErr := bump c.protoErr p 1 }) s)
      else if fld f 3 0 = 0 ∧ fld f 191 184 = 0 then s
      else if (fld f 3 0 = 0 ∧ !reservedHeader f) ∨ pkFlits f = 0 then packetIn p [f] s
      else updPort p (fun x => { x with partial_ := [f] }) s
    | h :: _ =>
      let fs := x.partial_ ++ [f]
      if fs.length > pkFlits h then packetIn p fs (updPort p (fun x => { x with partial_ := [] }) s)
      else updPort p (fun x => { x with partial_ := fs }) s

/-- A codeword arrives (R306, R309). -/
def codewordIn (p : Fin 16) (cw : Codeword) (s : State) : State :=
  let up := (getPort s p).state == .up || (getPort s p).state == .active
  let nak := updPort p fun x => { x with nakDue := up }
  match cw.fec with
  | .uncorrectable => nak (linkCount (fun c => { c with fecUncorrected := bump c.fecUncorrected p 1 }) s)
  | f =>
    let s := if f = .corrected then linkCount (fun c => { c with fecCorrected := bump c.fecCorrected p 1 }) s else s
    if cw.kind.toNat ≥ 3 ∧ cw.kind ≠ 15 then nak (linkCount (fun c => { c with protoErr := bump c.protoErr p 1 }) s)
    else if !up ∨ cw.kind = 15 then s
    else if cw.kind = 2 then nakIn p cw.ack s
    else
      let s := ackCodewords p cw.ack s
      if cw.kind = 1 then s
      else if cw.seq = (getPort s p).rxSeq + 1 then (cw.flits.take 10).foldl (flitIn p) (updPort p (fun x => { x with rxSeq := cw.seq }) s)
      else updPort p (fun x => { x with nakDue := true }) s

/-- Whether a port receives codewords at all. -/
def receives (s : State) (p : Fin 16) : Bool :=
  let x := getPort s p
  x.state == .up || x.state == .active || (x.state == .training && decide (x.step ≥ 2))

/-- CODEWORD_RX (R306). -/
def execCodewordRx (p : Fin 16) (cw : Codeword) (s : State) : Host.Outcome State Fault Refusal :=
  go (if receives s p then codewordIn p cw s else s)

/-- NAK_RX (R306). -/
def execNakRx (p : Fin 16) (ack : BitVec 8) (s : State) : Host.Outcome State Fault Refusal := go (nakIn p ack s)

/-- REPLAY_TIMEOUT (R306). -/
def execReplayTimeout (p : Fin 16) (s : State) : Host.Outcome State Fault Refusal :=
  let x := getPort s p
  go (if !x.replay.isEmpty ∧ x.replayAt + 2000 ≤ s.now then startReplay p s else s)

/-- ACK_STALL_TIMEOUT (R307). -/
def execAckStallTimeout (p : Fin 16) (s : State) : Host.Outcome State Fault Refusal :=
  let x := getPort s p
  go (if !x.replay.isEmpty ∧ x.ackAt + 100000 ≤ s.now then portDown p s else s)

/-- LOCK_LOSS (R307). -/
def execLockLoss (p : Fin 16) (s : State) : Host.Outcome State Fault Refusal := go (if receives s p then portDown p s else s)

/-- CREDIT_RX (R310). -/
def execCreditRx (p : Fin 16) (s : State) : Host.Outcome State Fault Refusal :=
  go (match takeRx p (isLink 1) s with
    | none => s
    | some (k, s') => updPort p (fun x => { x with credits := Vector.ofFn fun i => x.credits[i] + fld k.hdr (16 * i.val + 271) (16 * i.val + 256) }) s')

/-- A CREDIT link flit (R308). -/
def creditFlit (v : Vector Nat 4) : BitVec 512 :=
  BitVec.ofNat 512 (2 ^ 184 + ((List.finRange 4).map fun i => (v[i] % 65536) * 2 ^ (16 * i.val + 256)).sum)

/-- CREDIT_REPORT (R310). -/
def execCreditReport (p : Fin 16) (s : State) : Host.Outcome State Fault Refusal :=
  let x := getPort s p
  let many := (List.finRange 4).any fun i => decide (x.freed[i] ≥ 64)
  let any := (List.finRange 4).any fun i => x.freed[i] != 0
  go (if (x.state = .up ∨ x.state = .active) ∧ (many ∨ (any ∧ x.freedAt + 1000 ≤ s.now)) then
    updPort p (fun x => { x with freed := .replicate 4 0, freedAt := s.now, linkq := x.linkq ++ [creditFlit x.freed] }) s
  else s)

/-- Whether a packet on a virtual channel is to be forwarded. -/
def forForward (s : State) (vc : Fin 4) (k : Packet) : Bool := pkType k != 0 && pkVc k == vc && pkDst k != nodeId s

/-- PACKET_FORWARD (R314). -/
def execPacketForward (p : Fin 16) (vc : Fin 4) (s : State) : Host.Outcome State Fault Refusal :=
  let set : PortSet := if p.val < 8 then .b else .c
  go (match takeRx p (forForward s vc) s with
    | none => s
    | some (k, s') =>
      if pkHops k = 0 then linkCount (fun c => { c with hopDrop := addSat c.hopDrop 1 }) s'
      else
        match routePort s' set (pkDst k) (pkFlow k) with
        | none => linkCount (fun c => { c with routeDrop := addSat c.routeDrop 1 }) s'
        | some q =>
          let k' : Packet := { k with hdr := setFld k.hdr 55 48 (pkHops k - 1) }
          linkCount (fun c => { c with fwd := bump c.fwd q 1 }) (updPort q (fun x => { x with txq := x.txq ++ [(set, k')] }) s'))

/-- The first packet that a port may start sending: one whose credits it holds, behind no waiting packet of its channel (R310). -/
def nextToSend (x : Port) : Option (PortSet × Packet) :=
  if x.state ≠ .active then none
  else x.txq.find? fun y =>
    ((x.txq.find? fun z => pkVc z.2 == pkVc y.2) == some y) && decide (1 + y.2.pay.length ≤ x.credits[pkVc y.2])

/-- The next `n` flits that a port sends, and the port behind them (R308). -/
def fillFlits : Nat → Port → List (BitVec 512) × Port
  | 0, x => ([], x)
  | n + 1, x =>
    match x.sending, x.linkq with
    | f :: fs, _ => let r := fillFlits n { x with sending := fs }; (f :: r.1, r.2)
    | [], f :: fs => let r := fillFlits n { x with linkq := fs }; (f :: r.1, r.2)
    | [], [] =>
      match nextToSend x with
      | none => ([], x)
      | some y =>
        let k := y.2
        let v := pkVc k
        let r := fillFlits n { x with txq := dropFirst (fun z => z == y) x.txq, sending := k.pay, credits := x.credits.set v (x.credits[v] - (1 + k.pay.length)) }
        (k.hdr :: r.1, r.2)

/-- How many of the flits are of packets. -/
def packetFlits (linkFlits : Nat) (fs : List (BitVec 512)) : Nat := fs.length - linkFlits

/-- The 5,140 data bits of a codeword: the control field, and ten flits (R305). -/
def codewordBits (c : Codeword) : Nat :=
  c.seq.toNat + c.ack.toNat * 2 ^ 8 + c.kind.toNat * 2 ^ 16 + ((List.range 10).map fun k => (c.flits.getD k 0).toNat * 2 ^ (512 * k + 20)).sum

/-- What symbol `i` of a codeword holds (R305): ten of its data bits, or, of a marker, the symbol's lane number and 0b1010101. -/
def codewordSymbol (c : Codeword) (i : Nat) : BitVec 10 :=
  BitVec.ofNat 10 (if c.kind = 15 then i % 8 + 0b1010101 * 2 ^ 3 else codewordBits c / 2 ^ (10 * i))

/-- The symbols of a codeword on its eight lanes, symbol `i` on lane `i` mod 8 (R305): the data symbols, and all 544 of a marker. The 30
parity symbols of other codewords are the FEC's of IEEE 802.3 (R303), and are left out. -/
def codewordLanes (c : Codeword) : List (List (BitVec 10)) :=
  (List.range 8).map fun l => ((List.range (if c.kind = 15 then 544 else 514)).filter fun i => i % 8 == l).map (codewordSymbol c)

/-- A codeword leaves (R305). -/
def sendCodeword (p : Fin 16) (kind : BitVec 4) (seq : BitVec 8) (fs : List (BitVec 512)) (s : State) : State :=
  let c : Codeword := { fec := .clean, seq := seq, ack := if kind = 15 then 0 else (getPort s p).rxSeq, kind := kind, flits := fs }
  emit (.codeword p c (codewordLanes c)) s

/-- CODEWORD_TX (R305): one codeword in 16,384 is a marker; a NAK goes first, then replayed codewords, then new flits. -/
def execCodewordTx (p : Fin 16) (s : State) : Host.Outcome State Fault Refusal :=
  let x := getPort s p
  go (if !receives s p then s
    else if x.sinceMarker ≥ 16383 then sendCodeword p 15 0 [] (updPort p (fun x => { x with sinceMarker := 0 }) s)
    else
      let s := updPort p (fun x => { x with sinceMarker := x.sinceMarker + 1 }) s
      let x := getPort s p
      if x.state = .training then sendCodeword p 1 0 [] s
      else if x.nakDue then sendCodeword p 2 0 [] (updPort p (fun x => { x with nakDue := false }) s)
      else if x.resend ≠ 0 then
        match x.replay[x.replay.length - x.resend]? with
        | some c => sendCodeword p 0 c.seq c.flits (updPort p (fun x => { x with resend := x.resend - 1 }) s)
        | none => s
      else if x.replay.length ≥ 128 then sendCodeword p 1 0 [] s
      else
        let r := fillFlits 10 x
        if r.1.isEmpty then sendCodeword p 1 0 [] s
        else
          let flits := r.1 ++ List.replicate (10 - r.1.length) 0
          let seq := x.txSeq + 1
          let cw : Codeword := { fec := .clean, seq := seq, ack := 0, kind := 0, flits := flits }
          let y := r.2
          let y : Port := { y with txSeq := seq, replay := y.replay ++ [cw], ackAt := if x.replay.isEmpty then s.now else y.ackAt,
                                   replayAt := if x.replay.isEmpty then s.now else y.replayAt }
          let s := linkCount (fun c => { c with txFlits := bump c.txFlits p (packetFlits (x.linkq.length - r.2.linkq.length) r.1) }) (updPort p (fun _ => y) s)
          sendCodeword p 0 seq flits s)

end Sys2Proof.Machine
end

