-- ==== Sys2Proof/Machine/Remote.lean ====
section
/-!
DEFINITION. Taking packets for this module, and Remote memory (09: R318, R319).
-/
namespace Sys2Proof.Machine

/-- A packet taken from a port's receiver, or, for number 16, from the packets that this module sent to itself. -/
def takePacket (p : Fin 17) (f : Packet → Bool) (s : State) : Option (Packet × State) :=
  if h : p.val < 16 then takeRx ⟨p.val, h⟩ (fun k => f k && pkDst k == nodeId s) s
  else (s.links.own.find? f).map fun k => (k, { s with links := { s.links with own := dropFirst f s.links.own } })

/-- A packet taken at its destination: one whose payload fails PAYLOAD_CRC is discarded and counted (R308). -/
def arrive (p : Fin 17) (f : Packet → Bool) (act : Packet → State → State) (s : State) : State :=
  match takePacket p f s with
  | none => s
  | some (k, s) => if pkCrcOk k then act k s else linkCount (fun c => { c with e2eCrc := addSat c.e2eCrc 1 }) s

/-- The unit that owns a port (R318). -/
def portUnit (p : Fin 17) : Fin 4 := fin (p.val / 4)

/-- Whether a Remote request breaks its encoding (R318, item 1). -/
def remoteMalformed (k : Packet) (write : Bool) : Bool :=
  let n := pkBody k 267 256
  pkAddr k % 32 != 0 || n % 32 != 0 || decide (n < 32) || decide (n > 2048) || (write && decide (n > 64 * k.pay.length)) ||
  decide (pkAddr k % 2048 + n > 2048)

/-- The checks of a Remote request at its target (R318); the control space is forbidden to it whatever windows are in force (R281). -/
def remoteCheck (s : State) (k : Packet) (write : Bool) : Status :=
  let n := pkBody k 267 256
  let c : AccClass := if write then .remoteW (pkSrc k) else .remoteR (pkSrc k)
  if remoteMalformed k write then .malformed
  else if place (pkAddr k) = .control then .accessDenied
  else if pkAddr k + n > 0x8000000000 then .addressRange
  else if protAllows s c (pkAddr k) n then .ok
  else .accessDenied

/-- A denial is counted (R318). -/
def countDenied (st : Status) (s : State) : State :=
  if st = .accessDenied then linkCount (fun c => { c with remoteDenied := addSat c.remoteDenied 1 }) s else s

/-- A Remote request at its target (R318): checked, counted, and made at this module's T1, whose controller's answer the response waits
for; one that fails its checks is answered at once. -/
def serveRemote (write : Bool) (u : Fin 4) (k : Packet) (s : State) : State :=
  let n := pkBody k 267 256
  let st := remoteCheck s k write
  let s := countDenied st s
  if st ≠ .ok then
    let type := if write then 6 else 5
    let body := if write then 0 else n % 4096
    sendOrDrop (mkPacket s
      { type := type, vc := 3, dst := pkSrc k, flow := pkFlow k, tag := pkTag k, status := statusCode st, body := body } []) s
  else
    let s := collCount (fun c =>
      if write then { c with remoteWrites := bump c.remoteWrites u 1 } else { c with remoteReads := bump c.remoteReads u 1 }) s
    let e : XEntry := { pa := pkAddr k, tier := 1, write := true, runahead := false, node := 0 }
    (postFor (some (.remote (pkSrc k) (pkFlow k) (pkTag k))) .own (whoUnit u) write e n (if write then pkData k n else []) s).1

/-- The packets that wait at a receiver, or that this module sent to itself, oldest first. -/
def waitingAt (s : State) (p : Fin 17) : List Packet := if h : p.val < 16 then (getPort s ⟨p.val, h⟩).rx else s.links.own

/-- Whether a packet is a Remote request to this module that no earlier one of its source and FLOW precedes (R313, R320). -/
def nextRemote (s : State) (p : Fin 17) (type : Nat) (k : Packet) : Bool :=
  let request (y : Packet) : Bool := (pkType y == 3 || pkType y == 4) && pkSrc y == pkSrc k && pkFlow y == pkFlow k && pkDst y == nodeId s
  pkType k == type && (waitingAt s p).find? request == some k

/-- REMOTE_WRITE_RX (R318). -/
def execRemoteWriteRx (p : Fin 17) (s : State) : Host.Outcome State Fault Refusal :=
  go (arrive p (nextRemote s p 3) (serveRemote true (portUnit p)) s)

/-- READ_REQ_RX (R318). -/
def execReadReqRx (p : Fin 17) (s : State) : Host.Outcome State Fault Refusal :=
  go (arrive p (nextRemote s p 4) (serveRemote false (portUnit p)) s)

/-- The outstanding Remote request that a TAG names, with its unit. -/
def remoteByTag (s : State) (tag : Nat) : Option (Fin 4 × RemoteReq) :=
  (List.finRange 4).findSome? fun u => (s.links.units[u].remote.find? fun r => r.tag.toNat == tag).map fun r => (u, r)

/-- A Remote request ends and frees its entry (R319). -/
def endRemote (u : Fin 4) (r : RemoteReq) (st : Status) (d : Data) (s : State) : State :=
  pumpRemote u (endReq r.req st d (updUnit u (fun x => { x with remote := x.remote.filter fun y => y.tag != r.tag }) s))

/-- A response ends the request that its TAG names (R319); one that names none is discarded. -/
def remoteResponse (write : Bool) (k : Packet) (s : State) : State :=
  match remoteByTag s (pkTag k) with
  | none => s
  | some (u, r) =>
    match findReq s r.req with
    | none => s
    | some q =>
      if q.write ≠ write then s
      else
        let st := (statusOf (pkStatus k)).getD .internal
        endRemote u r st (if st = .ok ∧ !write then pkData k q.len else []) s

/-- READ_RESP_RX (R319). -/
def execReadRespRx (p : Fin 17) (s : State) : Host.Outcome State Fault Refusal :=
  go (arrive p (fun k => pkType k == 5) (remoteResponse false) s)

/-- WRITE_ACK_RX (R319). -/
def execWriteAckRx (p : Fin 17) (s : State) : Host.Outcome State Fault Refusal :=
  go (arrive p (fun k => pkType k == 6) (remoteResponse true) s)

/-- REMOTE_TIMEOUT (R319). -/
def execRemoteTimeout (u : Fin 4) (idx : Nat) (s : State) : Host.Outcome State Fault Refusal :=
  go (match s.links.units[u].remote[idx]? with
    | none => s
    | some r => if r.sentAt + 1000 * s.links.remoteTimeoutUs.toNat ≤ s.now then endRemote u r .linkTimeout [] s else s)

end Sys2Proof.Machine
end

