-- ==== Sys2Proof/Machine/RowOps.lean ====
section
/-!
DEFINITION. What the gather and update sides of the row engines share (05 and 06): table descriptors and versions, gather
batches, index lists, row-store tags, write-through, delta buckets, and the deferred entries of a row.
-/
namespace Sys2Proof.Machine

/-- ROW_TYPE of a table descriptor (R175). -/
def tdType (d : BitVec 512) : Nat := fld d 17 16
/-- FROZEN. -/
def tdFrozen (d : BitVec 512) : Bool := bit d 18
/-- REPLICA. -/
def tdReplica (d : BitVec 512) : Bool := bit d 19
/-- MISS_POLICY is FAIL. -/
def tdFail (d : BitVec 512) : Bool := bit d 20
/-- DELTA. -/
def tdDelta (d : BitVec 512) : Bool := bit d 21
/-- DROP. -/
def tdDrop (d : BitVec 512) : Bool := bit d 12
/-- TABLE_ID. -/
def tdId (d : BitVec 512) : Nat := fld d 11 0
/-- D, the elements of a row. -/
def tdDim (d : BitVec 512) : Nat := 16 * (fld d 37 32 + 1)
/-- ROWS. -/
def tdRows (d : BitVec 512) : Nat := fld d 127 64
/-- BASE_DVA. -/
def tdBase (d : BitVec 512) : Nat := fld d 175 128
/-- RESIDUAL_DVA. -/
def tdResidual (d : BitVec 512) : Nat := fld d 239 192
/-- ROW_BASE. -/
def tdRowBase (d : BitVec 512) : Nat := fld d 295 256
/-- ROW_STEP. -/
def tdRowStep (d : BitVec 512) : Nat := fld d 351 320
/-- OWNER_NODE. -/
def tdOwner (d : BitVec 512) : Nat := fld d 366 352

/-- Record size of a table (R139, R176). -/
def recSize (d : BitVec 512) : Nat :=
  match tdType d with
  | 0 => recordBytes true (tdDim d)
  | 1 => recordBytes false (tdDim d)
  | 2 => 2 * tdDim d
  | _ => 4 * tdDim d

/-- Residual row size of a table (R140, R176). -/
def resSize (d : BitVec 512) : Nat :=
  match tdType d with
  | 0 => residualBytes true (tdDim d)
  | 1 => residualBytes false (tdDim d)
  | _ => 0

/-- The record of local row `r` (R175). -/
def recAddr (d : BitVec 512) (r : Nat) : Nat := (tdBase d + r * recSize d) % 2 ^ 48
/-- The residual row of local row `r` (R140). -/
def resAddr (d : BitVec 512) (r : Nat) : Nat := (tdResidual d + r * resSize d) % 2 ^ 48

/-- A table of the directory. -/
def findTable (s : State) (id : Nat) : Option Table := s.rows.tables.find? fun t => t.id == id

/-- A table changed by `f`. -/
def updTable (id : Nat) (f : Table → Table) (s : State) : State :=
  { s with rows := { s.rows with tables := mapIf (fun t => t.id == id) f s.rows.tables } }

/-- Engine `e` changed by `f`. -/
def updEng (e : Fin 16) (f : Engine → Engine) (s : State) : State :=
  { s with rows := { s.rows with engines := updAt s.rows.engines e f } }

/-- Engine `e`. -/
def getEng (s : State) (e : Fin 16) : Engine := s.rows.engines[e]

/-- The counters of engine `e` changed by `f`. -/
def engCount (e : Fin 16) (f : EngineCounters → EngineCounters) (s : State) : State :=
  updEng e (fun g => { g with counters := f g.counters }) s

/-- The row objects changed by `f`. -/
def updRowObj (f : RowObjects → RowObjects) (s : State) : State := { s with rows := { s.rows with obj := f s.rows.obj } }

/-- Whether a table is defined: its current version is not DROP. -/
def tableDefined (s : State) (id : Nat) : Bool :=
  match findTable s id with
  | some t => !tdDrop t.cur.desc
  | none => false

/-- The descriptor of a live version. -/
def versionOf (t : Table) (v : Nat) : Option TabVer :=
  if t.cur.version = v then some t.cur else t.prev.bind fun p => if p.version = v then some p else none

/-- The version to which the batch of a step is bound (R178). -/
def boundVersion (s : State) (table : Nat) (step : Option (BitVec 64)) : Option Nat :=
  match step with
  | none => none
  | some n => (s.rows.batches.find? fun b => b.table == table && b.step == some n).map fun b => b.version

/-- Batches bound to a version (R179). -/
def batchesOn (s : State) (table v : Nat) : Nat := (s.rows.batches.filter fun b => b.table == table && b.version == v).length

/-- Whether a version can still be bound (R179): it is current, or previous with a bound batch. -/
def versionLive (s : State) (t : Table) (v : Nat) : Bool :=
  t.cur.version == v || ((t.prev.map fun p => p.version) == some v && decide (0 < batchesOn s t.id v))

/-- The descriptor against which a command is checked (R178): that of its batch's version, of the live version it names, or
the current one. -/
def checkedVersion (s : State) (t : Table) (step : Option (BitVec 64)) (named : Nat) : TabVer :=
  let v := match boundVersion s t.id step with
    | some v => v
    | none => if named ≠ 0 ∧ versionLive s t named then named else t.cur.version
  (versionOf t v).getD t.cur

/-- Why the VERSION field of a GATHER fails (R179), if it does. -/
def versionFails (s : State) (t : Table) (step : Option (BitVec 64)) (named : Nat) : Option Status :=
  if named = 0 then none
  else if named > t.cur.version then some .addressRange
  else if !versionLive s t named then some .versionRetired
  else match boundVersion s t.id step with
    | some v => if v = named then none else some .stateConflict
    | none => none

/-- A command joins its batch, or binds one (R178). -/
def joinBatch (table : Nat) (step : Option (BitVec 64)) (cmd version : Nat) (s : State) : State :=
  if (boundVersion s table step).isSome then s
  else { s with rows := { s.rows with batches := s.rows.batches ++ [{ table := table, step := step, cmd := cmd, version := version }] } }

/-- The batch of a NO_STEP command retires with it (R178). -/
def leaveBatch (cmd : Nat) (s : State) : State :=
  { s with rows := { s.rows with batches := s.rows.batches.filter fun b => !(b.step.isNone && b.cmd == cmd) } }

/-- The index lists of a GATHER, SCATTER or PRESCAN (R181, R182): bags, bag length, the buffers with their extents, the bytes
of a weight (0: none) and whether there are variants. -/
structure Lists where
  count    : Nat
  len      : Nat
  index    : Nat
  indexExt : Nat
  offs     : Nat
  offsExt  : Nat
  wgt      : Nat
  wgtExt   : Nat
  wgtSize  : Nat
  vars     : Nat
  varsExt  : Nat
  delta    : Bool
  deriving DecidableEq, Repr

/-- The lists of a GATHER or SCATTER payload; `wsel` is the bit of WGT_TYPE and `dsel` that of DELTA_EN. -/
def listsOf (p : BitVec 1536) (wsel dsel : Nat) : Lists :=
  { count := fld p 47 32, len := fld p 58 48, index := fld p 175 128, indexExt := fld p 223 192, offs := fld p 303 256,
    offsExt := fld p 255 224, wgt := fld p 431 384, wgtExt := fld p 351 320,
    wgtSize := if fld p 5 4 = 3 then (if bit p wsel then 2 else 4) else 0, vars := fld p 495 448, varsExt := fld p 383 352,
    delta := bit p dsel }

/-- The lists of a GATHER (R181). -/
def gatherLists (p : BitVec 1536) : Lists := listsOf p 11 12
/-- The lists of a SCATTER (R210). -/
def scatterLists (p : BitVec 1536) : Lists := listsOf p 8 9
/-- The lists of a PRESCAN (R199). -/
def prescanLists (p : BitVec 1536) : Lists :=
  { count := fld p 47 32, len := fld p 58 48, index := fld p 111 64, indexExt := fld p 159 128, offs := fld p 239 192,
    offsExt := fld p 191 160, wgt := 0, wgtExt := 0, wgtSize := 0, vars := 0, varsExt := 0, delta := false }

/-- Whether the lists of a GATHER or SCATTER break their encoding (R183, R212): reserved bits between them, unused fields,
alignment. -/
def listsMalformed (p : BitVec 1536) (l : Lists) : Bool :=
  fld p 31 28 != 0 || fld p 63 59 != 0 || fld p 191 176 != 0 || fld p 319 304 != 0 || fld p 447 432 != 0 ||
  fld p 511 496 != 0 || (l.len != 0 && (l.offs != 0 || l.offsExt != 0)) ||
  (l.wgtSize == 0 && (l.wgt != 0 || l.wgtExt != 0)) || (!l.delta && (l.vars != 0 || l.varsExt != 0)) ||
  l.index % 4 != 0 || l.offs % 4 != 0 || (l.wgtSize != 0 && l.wgt % l.wgtSize != 0)

/-- What the list checks give: a wait for a read, a failure, or P0 and P1 (R182). -/
inductive ListRes where
  | wait
  | fail (st : Status)
  | ok (p0 p1 : Nat)
  deriving DecidableEq, Repr, Inhabited

/-- The list extent checks (R183, item 6), with the check-time reads of R364 for the slot at the head of queue `q`. -/
def listCheck (q : Fin 64) (l : Lists) (s : State) : State × ListRes :=
  let after (p0 p1 : Nat) : ListRes :=
    if p0 > p1 ∨ p1 * 4 > l.indexExt ∨ (l.wgtSize ≠ 0 ∧ p1 * l.wgtSize > l.wgtExt) ∨ (l.delta ∧ l.count > l.varsExt) then .fail .lengthRange
    else .ok p0 p1
  if l.len > 1024 then (s, .fail .lengthRange)
  else if l.len ≠ 0 then (s, after 0 (l.count * l.len))
  else if (l.count + 1) * 4 > l.offsExt then (s, .fail .lengthRange)
  else
    let r := ioMany .cmd whoFront (opKey kCheck q.val) [ioRead l.offs 4, ioRead ((l.offs + 4 * l.count) % 2 ^ 48) 4] s
    (r.1, match r.2 with
      | .wait => .wait
      | .fail st => .fail st
      | .done [a, b] => if poisoned a || poisoned b then .fail .dataPoison else after (leNat (dataBytes a)) (leNat (dataBytes b))
      | .done _ => .fail .internal)

/-- The checks before a list check and those after it, as an admission: a failure before, OK_NO_OP among them included, ends
it; the checks after see P0 and P1. -/
def listAdmission (q : Fin 64) (before : List (Bool × Status)) (l : Lists) (after : Nat → Nat → List (Bool × Status)) (full : Bool) (s : State) :
    State × Adm :=
  match checks before with
  | .accept =>
    let r := listCheck q l s
    (r.1, match r.2 with
      | .wait => .wait
      | .fail st => .refuse st 0
      | .ok p0 p1 => match firstFail (after p0 p1) with
        | some st => .refuse st 0
        | none => if full then .wait else .admitWith [p0, p1])
  | x => (s, x)

/-- The hash of R195 and R236. -/
def rowHash (hi row : Nat) : Nat := ((hi * 2 ^ 32 + row) * 0x9E3779B97F4A7C15) % 2 ^ 64 / 2 ^ 32

/-- The ember set of a row, as an offset in the row store (R194, R195). -/
def emberSet (s : State) (table row : Nat) : Nat := 64 * (rowHash table row % s.rows.obj.emberSets)
/-- The staging set of a row, as an offset in the row store. -/
def stagingSet (table row : Nat) : Nat := 0x3000000 + 64 * (rowHash table row % 16384)

/-- The tag of way `w` of a set: 0 for a set whose word is poisoned (R195). -/
def tagAt (m : Mem) (set w : Nat) : BitVec 128 :=
  if memPoisoned m set then 0 else BitVec.ofNat 128 (memNat m (set + 16 * w) 16)

/-- VALID of a tag (R194). -/
def tagValid (t : BitVec 128) : Bool := bit t 45
/-- GEN of a tag. -/
def tagGen (t : BitVec 128) : Bool := bit t 46
/-- UNIT of a tag. -/
def tagUnit (t : BitVec 128) : Nat := fld t 83 64

/-- Whether a tag is a valid copy of a row (R195). -/
def tagHits (t : BitVec 128) (table row version : Nat) : Bool :=
  tagValid t && fld t 31 0 == row && fld t 43 32 == table && b2n (bit t 44) == version % 2

/-- The lowest way of a set that holds a row. -/
def findWay (m : Mem) (set table row version : Nat) : Option Nat :=
  (List.range 4).find? fun w => tagHits (tagAt m set w) table row version

/-- A set's tags with way `w` replaced, written whole (R173). -/
def setTag (set w : Nat) (t : BitVec 128) (m : Mem) : Mem :=
  memWrite m set (clean ((List.range 4).flatMap fun i => bytesOf 16 (if i = w then t else tagAt m set i)))

/-- Engine `e`'s row store changed by `f`. -/
def updStore (e : Fin 16) (f : Mem → Mem) (s : State) : State :=
  { s with mem := { s.mem with rowStore := updAt s.mem.rowStore e f } }

/-- The data of ember unit or staging unit `u`, as an offset. -/
def emberData (u : Nat) : Nat := 64 * u
/-- The offset of staging unit `u` (R194). -/
def stagingData (u : Nat) : Nat := 0x3100000 + 64 * u

/-- VALID cleared in every tag of [lo, hi) that `p` selects, a tag being judged by its first eight bytes. Only a byte with
VALID can be meant, so only listed bytes are looked at. -/
def clearTags (lo hi : Nat) (p : BitVec 64 → Bool) (m : Mem) : Mem :=
  let mine (c : Host.Cell) : Bool :=
    decide (lo ≤ c.1) && decide (c.1 < hi) && c.1 % 16 == 5 && bit c.2 5 && p (BitVec.ofNat 64 (memNat m (c.1 - 5) 8))
  let cells := m.cells.map fun c => if mine c then (c.1, c.2 &&& 0xDF#8) else c
  { m with cells := cells.filter fun c => decide (c.2 ≠ 0) }

/-- The ember tags' region (R173). -/
def emberTagEnd (s : State) : Nat := 64 * s.rows.obj.emberSets

/-- Every valid copy of a row in one row store, as offsets of its data (R194). -/
def copiesIn (s : State) (m : Mem) (table row version : Nat) : List Nat :=
  let es := (List.range 4).filterMap fun w =>
    let t := tagAt m (emberSet s table row) w
    if tagHits t table row version then some (emberData (tagUnit t)) else none
  let ss := (List.range 4).filterMap fun w =>
    let t := tagAt m (stagingSet table row) w
    if tagHits t table row version then some (stagingData (tagUnit t)) else none
  es ++ ss

/-- A row of a thread that is still being read, in more than one piece, is read again after an update of it (R203). -/
def rereadRow (table version row : Nat) (r : PendRow) : PendRow :=
  let same := r.bucket.isNone && tdId r.desc == table && fld r.desc 399 368 == version && r.dva == recAddr r.desc row
  if same && decide (r.missing ≠ 0 ∧ 1 < (r.dva % 256 + r.record.length + 255) / 256) then { r with again := true } else r

/-- The rows of an engine's threads, changed by `f`. -/
def mapPending (f : PendRow → PendRow) (g : Engine) : Engine :=
  { g with cores := g.cores.map fun c => { c with threads := c.threads.map fun t => t.map fun t => { t with rows := t.rows.map f } } }

/-- The installs of a refresh, changed by `f`. -/
def mapInstalls (f : Install → Install) (g : Engine) : Engine :=
  { g with queue := g.queue.map fun (x : EngineCmd) => match x with | .refresh r => .refresh { r with installs := r.installs.map f } | .gather _ => x }

/-- Write-through (R225): a row's record goes to every valid copy in all sixteen row stores. What reads the row in memory meanwhile, a
pre-scan fetch, an install or the pieces of a gathered row, reads it again (R233, R48, R203). -/
def writeThrough (table row version : Nat) (record : Data) (s : State) : State :=
  let one (s : State) (e : Fin 16) : State :=
    let cs := copiesIn s s.mem.rowStore[e] table row version
    let s := updStore e (fun m => cs.foldl (fun m off => memWrite m off record) m) s
    let s := engCount e (fun c => { c with writeThroughs := addSat c.writeThroughs cs.length }) s
    let again (p : PreRun) : PreRun :=
      if tdId p.table.desc = table ∧ p.table.version = version then
        { p with fetches := mapIf (fun f => f.row == row) (fun f => { f with again := true }) p.fetches }
      else p
    let install (i : Install) : Install := if i.table = table ∧ i.row = row ∧ i.version = version then { i with again := true } else i
    updEng e (fun g => mapPending (rereadRow table version row) (mapInstalls install { g with prescans := g.prescans.map again })) s
  (List.finRange 16).foldl one s

/-- The bucket of (variant, base row) in a delta table, as the number of its first slot (R236). -/
def deltaBucket (d : BitVec 512) (variant row : Nat) : Nat := 8 * (rowHash variant row % (tdRows d / 8))

/-- The way of a bucket that holds a delta key (R236). -/
def deltaWay (bucket : List Byte) (variant row : Nat) : Option Nat :=
  (List.range 8).find? fun w =>
    let k := BitVec.ofNat 64 (leNat (slice bucket (8 * w) 8))
    bit k 40 && fld k 31 0 == row && fld k 39 32 == variant

/-- The engines whose deferred log holds entries of a row (R231). -/
def deferredOn (s : State) (table row : Nat) : List (Fin 16) :=
  (List.finRange 16).filter fun e => (getEng s e).deferred.any fun x => fld x.hdr 31 0 == row && fld x.hdr 43 32 == table

/-- Whether a drain under way holds a row (R233). -/
def inBatch (s : State) (table row : Nat) : Bool :=
  (List.finRange 16).any fun e => (getEng s e).drains.any fun d => d.entries.any fun x => fld x.hdr 31 0 == row && fld x.hdr 43 32 == table

/-- Whether a table is a pending replica for a step (R180): a broadcast of an earlier step writes into it. A NO_STEP program
does not wait. -/
def pendingFor (t : Table) (step : Option (BitVec 64)) : Bool :=
  match step with
  | none => false
  | some n => t.bcasts.any fun b => match b.step with | some m => m.toNat < n.toNat | none => false

/-- Whether an earlier step may still apply rows (R40). -/
def earlierMayApply (s : State) (step : Option (BitVec 64)) : Bool :=
  match step with
  | none => false
  | some n => s.train.steps.any fun p =>
      decide (p.num.toNat < n.toNat) && (p.state == .stOpen || p.state == .decidedCommit || p.state == .committing)

/-- Widened elements of a plain record (R176, R184). -/
def plainValue (type : Nat) (r : List Byte) (e : Nat) : BitVec 32 :=
  if type = 2 then BitVec.ofNat 32 (leNat (slice r (2 * e) 2) * 65536) else BitVec.ofNat 32 (leNat (slice r (4 * e) 4))

/-- The row value u of a record (R184). `free` stands for the values that R139 leaves undefined in a record with a SCALE or
OFFSET that it does not allow. -/
def rowValue (d : BitVec 512) (r : List Byte) (free : Nat) : List (BitVec 32) :=
  (List.range (tdDim d)).map fun e =>
    if tdType d ≥ 2 then plainValue (tdType d) r e
    else if recLegal r then gatheredValue (tdType d == 0) r e
    else BitVec.ofNat 32 (free >>> (32 * e))

/-- 1/n in FP32, rounded to nearest even (R185). -/
def recip32 (n : Nat) : BitVec 32 := toFP32 (numDiv fmtFP32 (.fin false 1 0) (.fin false n 0))

/-- A weight of a list, widened exactly. -/
def weightValue (bs : List Byte) : BitVec 32 := if bs.length = 2 then BitVec.ofNat 32 (leNat bs * 65536) else BitVec.ofNat 32 (leNat bs)

end Sys2Proof.Machine
end

