-- ==== Sys2Proof/Machine/Groups.lean ====
section
/-!
DEFINITION. Collective groups and the fields and checks of the COLLECTIVE command (09: R321 to R326, R337, R339, R340).
-/
namespace Sys2Proof.Machine

/-- The group with an ID (R321). -/
def findGroup (s : State) (id : Nat) : Option Group := s.links.groups.find? fun g => g.id.toNat == id

/-- Whether a descriptor naming a group has not completed. -/
def groupInUse (s : State) (id : Nat) : Bool := (List.finRange 4).any fun u => s.links.units[u].queue.any fun c => c.group.toNat == id

/-- The checks of a GROUP_SET before its list is read (R322, items 1 to 4). -/
def groupSetFirst (s : State) (c : Slot) : List (Bool × Status) :=
  let p := c.pay
  let n := fld p 31 16
  let id := fld p 11 0
  let others := ((s.links.groups.filter fun g => g.id.toNat != id).map fun g => g.members.length).sum
  [(fld p 15 12 != 0 || fld p 63 47 != 0 || fld p 127 112 != 0 || fld p 255 160 != 0 || fld p 111 64 % 2 != 0 ||
      (n == 0 && (fld p 46 32 != 0 || fld p 111 64 != 0 || fld p 159 128 != 0)), .malformed),
   stepRules s c, (stepOpen s || groupInUse s id, .stateConflict),
   (n != 0 && (decide (n > 32768) || decide (fld p 46 32 ≥ n) || decide (2 * n > fld p 159 128)), .lengthRange),
   (decide (others + n > 131072), .bufferTooSmall)]

/-- The checks of a GROUP_SET's list as read (R322, item 5). -/
def groupListBad (s : State) (rank : Nat) (l : List Nat) : Bool :=
  l.any (fun x => decide (x > 32767)) || !distinct l || l[rank]? != some (nodeId s)

/-- Entries of `w` bytes in data. -/
def entries (w n : Nat) (d : Data) : List Nat := (List.range n).map fun i => leNat (dataBytes (dslice d (w * i) w))

/-- The checks of a GROUP_SET (R322), its list read through the Q0 cache (R364). -/
def groupSetCheck (q : Fin 64) (c : Slot) (s : State) : State × Adm :=
  match checks (groupSetFirst s c) with
  | .accept =>
    let n := fld c.pay 31 16
    if n = 0 then (s, .admitWith [])
    else
      let r := ioReadOne .cmd whoFront (opKey kCheck q.val) (fld c.pay 111 64) (2 * n) s
      (r.1, match r.2 with
        | .wait => .wait
        | .fail st => .refuse st 0
        | .done ds =>
          let l := entries 2 n ds.flatten
          if poisoned ds.flatten then .refuse .dataPoison 0 else if groupListBad s (fld c.pay 46 32) l then .refuse .malformed 0 else .admitWith l)
  | x => (s, x)

/-- A group is replaced or undefined (R321, R322). -/
def setGroup (p : BitVec 1536) (members : List Nat) (s : State) : State :=
  let id := fld p 11 0
  let rest := s.links.groups.filter fun g => g.id.toNat != id
  let g : Group := { id := BitVec.ofNat 12 id, members := members, rank := fld p 46 32, seq := 0 }
  { s with links := { s.links with groups := if members.isEmpty then rest else rest ++ [g] } }

/-- GROUP_SET (R321, R322). -/
def groupSetRule : OpRule :=
  { check := groupSetCheck, effect := runAtOnce fun k s => (setGroup k.slot.pay k.info s, some (.ok, 0)) }

/-- GROUP_SET (R322). -/
def execGroupSet (sq : Fin 64) (c : Slot) (s : State) : Host.Outcome State Fault Refusal := go (commandAtHead 0x40 groupSetRule sq c s)

/-- OP of a COLLECTIVE (R324). -/
def kOp (p : BitVec 1536) : Nat := fld p 3 0
/-- ALGO. -/
def kAlgo (p : BitVec 1536) : Nat := fld p 5 4
/-- FUSE_NORM. -/
def kFuse (p : BitVec 1536) : Bool := bit p 6
/-- SR. -/
def kSr (p : BitVec 1536) : Bool := bit p 7
/-- SRC_TYPE. -/
def kSrcType (p : BitVec 1536) : Nat := fld p 10 8
/-- DST_TYPE. -/
def kDstType (p : BitVec 1536) : Nat := fld p 13 11
/-- OWNER_MOVE. -/
def kOwner (p : BitVec 1536) : Bool := bit p 14
/-- REPLICA. -/
def kReplica (p : BitVec 1536) : Bool := bit p 15
/-- UNIT. -/
def kUnit (p : BitVec 1536) : Fin 4 := fin (fld p 17 16)
/-- TABLE_ID. -/
def kTable (p : BitVec 1536) : Nat := fld p 31 20
/-- GROUP. -/
def kGroup (p : BitVec 1536) : Nat := fld p 47 32
/-- COUNT. -/
def kCount (p : BitVec 1536) : Nat := fld p 95 64
/-- ELEM_BASE. -/
def kElem (p : BitVec 1536) : Nat := fld p 127 96
/-- SRC_DVA. -/
def kSrc (p : BitVec 1536) : Nat := fld p 175 128
/-- DST_DVA. -/
def kDst (p : BitVec 1536) : Nat := fld p 239 192
/-- IN_SCALE. -/
def kIn (p : BitVec 1536) : BitVec 32 := BitVec.ofNat 32 (fld p 351 320)
/-- OUT_MULT. -/
def kOut (p : BitVec 1536) : BitVec 32 := BitVec.ofNat 32 (fld p 383 352)
/-- ROOT. -/
def kRoot (p : BitVec 1536) : Nat := fld p 398 384
/-- DIM_X. -/
def kDim (p : BitVec 1536) : Nat := fld p 414 400
/-- SCRATCH_DVA. -/
def kScratch (p : BitVec 1536) : Nat := fld p 623 576

/-- Bytes of an element of a type (R76). -/
def collTypeBytes (t : Nat) : Nat := match t with | 4 => 2 | 5 => 2 | 6 => 4 | _ => 1

/-- Whether the descriptor reduces. -/
def reduces (p : BitVec 1536) : Bool := kOp p ≤ 1

/-- Whether a type may be reduced (R325). -/
def floatType (t : Nat) : Bool := t == 0 || t == 1 || t == 4 || t == 5 || t == 6

/-- Whether the types and ALGO are legal for OP (R325). -/
def collTypesOk (p : BitVec 1536) : Bool :=
  let a := kAlgo p
  let both := floatType (kSrcType p) && floatType (kDstType p)
  let gather := both || (kSrcType p == 2 && kDstType p == 2)
  match kOp p with
  | 0 => both && a != 3
  | 1 => both && a != 3
  | 2 => gather && (a == 0 || a == 2)
  | 3 => gather && a == 0
  | 4 => kSrcType p == 0 && kDstType p == 0 && a == 0
  | 5 => gather && a != 3
  | _ => false

/-- Whether a field that OP does not use is not 0 (R324, R326). -/
def collUnused (p : BitVec 1536) : Bool :=
  let permute := kOp p == 4
  let twoD := kAlgo p == 2
  (!permute && (kOwner p || fld p 463 416 != 0 || fld p 495 480 != 0)) ||
  (permute && (kCount p != 0 || kElem p != 0 || fld p 63 48 != 0 || kSr p || kSrc p != 0 || fld p 287 256 != 0 || fld p 383 320 != 0)) ||
  (kOp p != 5 && (kReplica p || kRoot p != 0)) || (!kReplica p && kTable p != 0) || (!twoD && kDim p != 0) ||
  (!(twoD && reduces p) && (kScratch p != 0 || fld p 671 640 != 0))

/-- Whether a reserved field is not 0 (R324). -/
def collReserved (p : BitVec 1536) : Bool :=
  fld p 191 176 != 0 || fld p 255 240 != 0 || bit p 399 || bit p 415 || fld p 479 464 != 0 || fld p 511 496 != 0 || bit p 519 ||
  fld p 527 525 != 0 || bit p 535 || fld p 543 541 != 0 || fld p 639 624 != 0 || fld p 1023 672 != 0

/-- Item 1 of R326, without the plan of a PERMUTE. -/
def collMalformed (s : State) (c : Slot) : Bool :=
  let p := c.pay
  let n := ((findGroup s (kGroup p)).map fun g => g.members.length).getD 0
  collReserved p || collUnused p || !collTypesOk p || (kSr p && kDstType p == 6) || kSrc p % 64 != 0 || kDst p % 64 != 0 ||
  fld p 463 416 % 32 != 0 || kScratch p % 64 != 0 || (kOp p != 4 && (!posFinite (kIn p) || !posFinite (kOut p))) ||
  (kFuse p && (!reduces p || slotNoStep c)) || (kAlgo p == 2 && (decide (kDim p < 2) || n % kDim p != 0)) || slotEarly c ||
  (kReplica p && (kSrcType p != 2 || kDstType p != 2 || kIn p != one32 || kOut p != one32))

/-- Whether a BROADCAST's table does not fit (R326, item 2; R337): at ROOT the owner's own table, elsewhere a replica whose records hold
the destination. -/
def replicaWrong (s : State) (g : Group) (p : BitVec 1536) : Bool :=
  match findTable s (kTable p) with
  | none => true
  | some t =>
    let d := t.cur.desc
    tdDrop d ||
    let off := kDst p - tdBase d
    if kRoot p = g.rank then tdReplica d || tdOwner d != nodeId s
    else !tdReplica d || decide (kDst p < tdBase d) || off % recSize d != 0 || decide (off ≥ tdRows d * recSize d)

/-- A plan entry (R339). -/
def planEntry (e : Nat) : PlanEntry :=
  let b : BitVec 256 := BitVec.ofNat 256 e
  { peer := fld b 14 0, recv := bit b 15, shard := fld b 31 16, bytes := fld b 63 32, dva := fld b 111 64, state := .idle, asked := false, pulled := false, got := 0 }

/-- Whether two entries of a plan exclude each other (R340). -/
def planClash (a b : PlanEntry) : Bool :=
  (a.peer == b.peer && a.recv == b.recv && a.shard == b.shard) || (a.recv && b.recv && overlaps a.dva a.bytes b.dva b.bytes)

/-- Whether any two elements of a list are related. -/
def anyPair {α : Type} (r : α → α → Bool) : List α → Bool
  | [] => false
  | x :: xs => xs.any (r x) || anyPair r xs

/-- Whether a plan breaks its encoding (R340). -/
def planMalformed (raw : List Nat) : Bool :=
  raw.any (fun e => decide (e ≥ 2 ^ 112)) ||
  (raw.map planEntry).any (fun x => x.bytes % 64 != 0 || x.bytes == 0 || x.dva % 64 != 0) || anyPair planClash (raw.map planEntry)

/-- Whether a receive entry's range overlaps a send range of the plan. -/
def overlapsSend (plan : List PlanEntry) (e : PlanEntry) : Bool := plan.any fun x => !x.recv && overlaps x.dva x.bytes e.dva e.bytes

/-- Bytes of the staging buffer that a plan needs (R340). -/
def stagingNeeded (plan : List PlanEntry) : Nat := 2 * ((plan.filter fun e => e.recv && overlapsSend plan e).map fun e => e.bytes).foldl max 0

/-- Elements of the source and of the destination (R325). -/
def collExtents (p : BitVec 1536) (members : Nat) : Nat × Nat :=
  let n := kCount p
  match kOp p with
  | 0 => (members * n, members * n)
  | 1 => (members * n, n)
  | 2 => (n, members * n)
  | 3 => (members * n, members * n)
  | _ => (n, n)

/-- Items 2 to 6 of R326. -/
def collAfter (s : State) (c : Slot) (plan : List PlanEntry) : List (Bool × Status) :=
  let p := c.pay
  match findGroup s (kGroup p) with
  | none => [(true, .addressRange)]
  | some g =>
    let m := g.members.length
    let x := collExtents p m
    let src := kOp p == 5 && g.rank != kRoot p
    [(decide (kRoot p ≥ m) || (bit p 18 && fenced s (fld p 518 512)) || (bit p 19 && fenced s (fld p 534 528)) ||
        (kReplica p && replicaWrong s g p) || plan.any (fun e => decide (e.peer ≥ m)), .addressRange),
     stepRules s c, (kOwner p && stepOpen s, .stateConflict),
     (if kOp p = 4 then plan.isEmpty else kCount p == 0, .okNoOp),
     (decide (kElem p + m * kCount p > 2 ^ 32), .lengthRange),
     (kReplica p && kCount p % recSize (((findTable s (kTable p)).map fun t => t.cur.desc).getD 0) != 0, .lengthRange),
     (kOp p != 4 && ((!src && decide (fld p 287 256 < x.1 * collTypeBytes (kSrcType p))) || decide (fld p 319 288 < x.2 * collTypeBytes (kDstType p))), .bufferTooSmall),
     (kAlgo p == 2 && reduces p && decide (fld p 671 640 < m / kDim p * kCount p * 4), .bufferTooSmall),
     (kOp p == 4 && decide (fld p 319 288 < stagingNeeded plan), .bufferTooSmall)]

/-- The checks of a COLLECTIVE (R326), with the plan of a PERMUTE read at the first item (R340, R364). A full queue makes it wait
(R323). -/
def collectiveCheck (q : Fin 64) (c : Slot) (s : State) : State × Adm :=
  let p := c.pay
  let finish (s : State) (raw : List Nat) : Adm :=
    match checks (collAfter s c (raw.map planEntry)) with
    | .accept => if s.links.units[kUnit p].queue.length ≥ 64 then .wait else .admitWith raw
    | x => x
  if collMalformed s c then (s, .refuse .malformed 0)
  else
    let n := fld p 495 480
    if kOp p ≠ 4 ∨ n = 0 then (s, finish s [])
    else
      let r := ioReadOne .cmd whoFront (opKey kCheck q.val) (fld p 463 416) (32 * n) s
      (r.1, match r.2 with
        | .wait => .wait
        | .fail st => .refuse st 0
        | .done ds =>
          let raw := entries 32 n ds.flatten
          if poisoned ds.flatten then .refuse .dataPoison 0 else if planMalformed raw then .refuse .malformed 0 else finish r.1 raw)

end Sys2Proof.Machine
end

