-- ==== Sys2Proof/Machine/CollMath.lean ====
section
/-!
DEFINITION. What the members of a collective send each other and what each computes from it (09: R325, R329 to R332, R345). The
stream from one member to another is a list of segments; each segment starts at a multiple of 64 bytes of the stream.
-/
namespace Sys2Proof.Machine

/-- An element of FP32 with its poison mark. -/
abbrev Elem := BitVec 32 × Bool

/-- Element `i` of a type in data, widened exactly (R329). -/
def widenVal (type : Nat) (d : Data) (i : Nat) : Elem :=
  let w := collTypeBytes type
  let x := dslice d (w * i) w
  let code := leNat (dataBytes x)
  let v := match typeFmt type with
    | some f => if type = 6 then BitVec.ofNat 32 code else toFP32 (decodeNum f code)
    | none => let z := toSigned 8 code; toFP32 (.fin (decide (z < 0)) z.natAbs 0)
  (v, poisoned x)

/-- `n` elements of a type, widened and multiplied by IN_SCALE (R329). -/
def scaled (p : BitVec 1536) (d : Data) (n : Nat) : List Elem :=
  (List.range n).map fun i => let x := widenVal (kSrcType p) d i; (fmul x.1 (kIn p), x.2)

/-- Elements as FP32 bytes. -/
def fp32Data (xs : List Elem) : Data := xs.flatMap fun x => (leBytes 4 x.1.toNat).map fun b => (b, x.2)

/-- FP32 bytes as elements. -/
def fp32Elems (d : Data) (n : Nat) : List Elem := (List.range n).map fun i => widenVal 6 d i

/-- Sums of two lists of contributions (R329). -/
def addElems (xs ys : List Elem) : List Elem := (xs.zip ys).map fun z => (fadd z.1.1 z.2.1, z.1.2 || z.2.2)

/-- The conversion of a result to DST_TYPE (R329, R143): its code, and whether it saturates. -/
def convertElem (s : State) (p : BitVec 1536) (step idx : Nat) (y : BitVec 32) : Conv :=
  let z := fmul y (kOut p)
  let mode := if kSr p then tensorRound s.num.srSeed 3 (fld p 63 48) (kElem p + idx) step else .nearest
  match kDstType p, typeFmt (kDstType p) with
  | 6, _ => plainConv z.toNat
  | _, some f => toNarrow f mode (num32 z)
  | _, none => toInteger 8 mode (num32 z)

/-- Results converted to DST_TYPE, from position `base` of the layout on, with the saturations counted at unit `u` (R329). -/
def convertAll (u : Fin 4) (p : BitVec 1536) (step base : Nat) (ys : List Elem) (s : State) : State × Data :=
  let cs := (ys.zip (List.range ys.length)).map fun y => (convertElem s p step (base + y.2) y.1.1, y.1.2)
  (collCount (fun c => { c with sat := bump c.sat u (cs.filter fun c => c.1.sat).length }) s,
   cs.flatMap fun c => (leBytes (collTypeBytes (kDstType p)) c.1.code).map fun b => (b, c.2))

/-- Whether data move unchanged (R329). -/
def rawMove (p : BitVec 1536) : Bool := kSrcType p == kDstType p && kIn p == one32 && kOut p == one32

/-- A gathered block as its receiver stores it (R329). -/
def storeBlock (u : Fin 4) (p : BitVec 1536) (step base : Nat) (d : Data) (s : State) : State × Data :=
  if rawMove p then (s, d) else convertAll u p step base (scaled p d (kCount p)) s

/-- The members of a row, of a column (R330). -/
def rowOf (p : BitVec 1536) (r : Nat) : Nat := r / kDim p
/-- The column of a rank (R330). -/
def colOf (p : BitVec 1536) (r : Nat) : Nat := r % kDim p

/-- A rank relative to a BROADCAST's ROOT. -/
def relRank (p : BitVec 1536) (m r : Nat) : Nat := (r + m - kRoot p % m) % m

/-- Bytes of a block that a gather moves. -/
def blockBytes (p : BitVec 1536) : Nat := kCount p * (if reduces p then collTypeBytes (kDstType p) else collTypeBytes (kSrcType p))

/-- The blocks, by their rank, that a gather moves from rank `a` to rank `b`, in order (R330). -/
def gatherRanks (p : BitVec 1536) (m a b : Nat) : List Nat :=
  if a = b ∨ m ≤ 1 then []
  else match kOp p, kAlgo p with
  | 5, 0 => if relRank p m b = relRank p m a + 1 then [kRoot p] else []
  | 5, 1 => if relRank p m b ≠ 0 ∧ (relRank p m b - 1) / 2 = relRank p m a then [kRoot p] else []
  | 5, _ =>
    if (a = kRoot p ∧ rowOf p a = rowOf p b) ∨ (rowOf p a = rowOf p (kRoot p) ∧ colOf p a = colOf p b) then [kRoot p] else []
  | 3, _ => []
  | 4, _ => []
  | 1, _ => []
  | _, 0 => if b = (a + 1) % m then (List.range (m - 1)).map fun j => (a + m - j) % m else []
  | _, 2 => if rowOf p a = rowOf p b then [a] else if colOf p a = colOf p b then (List.range (kDim p)).map fun i => rowOf p a * kDim p + i else []
  | _, _ => []

/-- Lengths of the reduction's segments from rank `a` to rank `b`, and of the blocks sent directly (R330). -/
def firstLens (p : BitVec 1536) (m a b : Nat) : List Nat :=
  let n := kCount p
  let es := collTypeBytes (kSrcType p)
  if a = b ∨ m ≤ 1 then []
  else if kOp p = 3 then [n * es]
  else if !reduces p then []
  else match kAlgo p with
  | 0 => if b = (a + 1) % m then [n * es] ++ List.replicate (m - 2) (4 * n) else []
  | 1 => if a ≠ 0 ∧ (a - 1) / 2 = b then [4 * m * n] else if b ≠ 0 ∧ (b - 1) / 2 = a then [m * n * collTypeBytes (kDstType p)] else []
  | _ => if rowOf p a = rowOf p b then [m / kDim p * n * es] else if colOf p a = colOf p b then [4 * n] else []

/-- Whether a descriptor gathers after it reduces. -/
def gathers (p : BitVec 1536) : Bool := kOp p == 2 || kOp p == 5 || (kOp p == 0 && kAlgo p != 1)

/-- Lengths of all segments from rank `a` to rank `b`; under the audit each block is followed by its hash (R338). -/
def streamLens (p : BitVec 1536) (audited : Bool) (m a b : Nat) : List Nat :=
  firstLens p m a b ++
    if gathers p then (gatherRanks p m a b).flatMap fun _ => if audited then [blockBytes p, 32] else [blockBytes p] else []

/-- Where segment `k` of a stream starts. -/
def segStart (lens : List Nat) (k : Nat) : Nat := ((lens.take k).map fun n => alignUp n 64).sum

/-- The flit of a peer's stream at an offset, with its place in the order of arrival. -/
def flitAt (i : PeerIn) (off : Nat) : Option (Data × Nat) :=
  (i.parts.find? fun x => decide (x.off ≤ off) && decide (off < x.off + x.data.length)).map fun x => (dslice x.data (off - x.off) 64, x.stamp)

/-- Data of a range of a peer's stream, once all of it has come, with the arrival of its last part. -/
def rangeIn (i : PeerIn) (off n : Nat) : Option (Data × Nat) :=
  let fs := (List.range (ceilDiv n 64)).map fun k => flitAt i (off + 64 * k)
  if fs.all Option.isSome then
    let xs := fs.filterMap id
    some ((xs.flatMap Prod.fst).take n, (xs.map Prod.snd).foldl max 0)
  else none

/-- What a collective's member knows: its payload, whether the audit runs, the number of members, its own rank, its source, what has come,
and whether phase 1 lies in the phase buffer. -/
structure View where
  p       : BitVec 1536
  audited : Bool
  m       : Nat
  r       : Nat
  src     : Data
  ins     : List PeerIn
  det     : Bool
  scr     : Bool
  refetched : List (Nat × Nat)
  deriving DecidableEq, Repr

/-- Segment `k` of the stream from rank `a`, with the arrival of its last part. -/
def inSeg (v : View) (a k : Nat) : Option (Data × Nat) :=
  let lens := streamLens v.p v.audited v.m a v.r
  match v.ins.find? fun i => i.rank == a with
  | some i => rangeIn i (segStart lens k) (lens.getD k 0)
  | none => if lens.getD k 0 = 0 ∧ k < lens.length then some ([], 0) else none

/-- The member's own contribution to `n` elements from element `i` on. -/
def ownShare (v : View) (i n : Nat) : List Elem :=
  let w := collTypeBytes (kSrcType v.p)
  scaled v.p (dslice v.src (w * i) (w * n)) n

/-- The partial of RING's segment `k`: the share that starts with this member, or the one received with this member's contribution
added (R330). -/
def ringPartial (v : View) (k : Nat) : Option (List Elem) :=
  let n := kCount v.p
  let q := (v.r + v.m + v.m - 1 - k) % v.m
  if k = 0 then some (ownShare v (q * n) n)
  else
    (inSeg v ((v.r + v.m - 1) % v.m) (k - 1)).map fun d =>
      let got := if k = 1 then scaled v.p d.1 n else fp32Elems d.1 n
      addElems got (ownShare v (q * n) n)

/-- Contributions to a list of elements, each with a key for every element. -/
structure Contribution where
  elems : List Elem
  keys  : List Nat
  deriving DecidableEq, Repr

/-- Contributions added, each element's in the order of its keys (R330, R331). -/
def addByKey (n : Nat) (cs : List Contribution) : List Elem :=
  (List.range n).map fun i =>
    match sortBy Prod.fst (cs.map fun c => (c.keys.getD i 0, c.elems.getD i (0, false))) with
    | [] => (0, false)
    | x :: rest => rest.foldl (fun acc y => (fadd acc.1 y.2.1, acc.2 || y.2.2)) x.2

/-- The arrival of each of `n` elements of `w` bytes in segment 0 of the stream from rank `a`: the place of the part that brought it. -/
def arrivals (v : View) (a w n : Nat) : List Nat :=
  match v.ins.find? fun i => i.rank == a with
  | none => []
  | some i => (List.range n).map fun j => ((flitAt i (w * j / 64 * 64)).map Prod.snd).getD 0

/-- The contribution of rank `a` that has come: in ascending rank in deterministic mode, and otherwise element by element in the order of
arrival (R330). -/
def peerShare (v : View) (a w n : Nat) (f : Data → List Elem) : Option Contribution :=
  (inSeg v a 0).map fun d => { elems := f d.1, keys := if v.det then List.replicate n (a + 1) else (arrivals v a w n).map (· + 1) }

/-- This member's own contribution, with one key for all its elements. -/
def mineAt (key n : Nat) (xs : List Elem) : Contribution := { elems := xs, keys := List.replicate n key }

/-- The children of a rank in the tree of `m` members (R330). -/
def treeKids (m r : Nat) : List Nat := [2 * r + 1, 2 * r + 2].filter fun c => decide (c < m)

/-- This member's peers in its row, in its column (R330). -/
def rowPeers (v : View) : List Nat := ((List.range (kDim v.p)).map fun i => rowOf v.p v.r * kDim v.p + i).filter fun a => a != v.r
/-- This member's peers in its column. -/
def colPeers (v : View) : List Nat :=
  ((List.range (v.m / kDim v.p)).map fun y => y * kDim v.p + colOf v.p v.r).filter fun a => a != v.r

/-- All of a list of options, or none. -/
def allSome {α : Type} (xs : List (Option α)) : Option (List α) := if xs.all Option.isSome then some (xs.filterMap id) else none

/-- TREE's partial at this member: its own contribution, then its children's, in ascending rank or in the order they came (R330,
R331). -/
def treePartial (v : View) : Option (List Elem) :=
  let n := v.m * kCount v.p
  (allSome ((treeKids v.m v.r).map fun c => peerShare v c 4 n fun d => fp32Elems d n)).map fun xs =>
    addByKey n (mineAt 0 n (ownShare v 0 n) :: xs)

/-- Phase 1 of TWO_D at this member: the shares of its column, row by row (R330). -/
def phase1 (v : View) : Option (List Elem) :=
  let n := kCount v.p
  let rows := v.m / kDim v.p
  let mine := (List.range rows).flatMap fun y => ownShare v ((y * kDim v.p + colOf v.p v.r) * n) n
  (allSome ((rowPeers v).map fun a => peerShare v a (collTypeBytes (kSrcType v.p)) (rows * n) fun d => scaled v.p d (rows * n))).map fun xs =>
    addByKey (rows * n) (mineAt (if v.det then v.r + 1 else 0) (rows * n) mine :: xs)

/-- Part of a list. -/
def part {α : Type} (xs : List α) (i n : Nat) : List α := (xs.drop i).take n

/-- Phase 2 of TWO_D: this member's share, once phase 1 lies in the phase buffer (R330). -/
def phase2 (v : View) : Option (List Elem) :=
  let n := kCount v.p
  match if v.scr then phase1 v else none with
  | none => none
  | some all =>
    let mine := mineAt (if v.det then v.r + 1 else 0) n (part all (rowOf v.p v.r * n) n)
    (allSome ((colPeers v).map fun a => peerShare v a 4 n fun d => fp32Elems d n)).map fun xs => addByKey n (mine :: xs)

/-- Whether a partial from one of `ps` is held back, because a lower-ranked contribution of the same element has not been added: one of
`ps`, or this member's own where `own` says that it is missing (R331). -/
def heldAmong (v : View) (ps : List Nat) (own : Bool) : Bool :=
  let has (a off : Nat) : Bool := (v.ins.find? fun i => i.rank == a).any fun i => (flitAt i off).isSome
  ps.any fun b => (v.ins.find? fun i => i.rank == b).any fun i =>
    i.parts.any fun x => decide (x.off < ((streamLens v.p v.audited v.m b v.r).headD 0)) &&
      ((own && decide (v.r < b)) || ps.any fun a => decide (a < b) && !has a x.off)

/-- Whether this member holds partials back (R331). -/
def holdsBack (v : View) : Bool :=
  v.det && reduces v.p && decide (1 < v.m) && match kAlgo v.p with
    | 1 => heldAmong v (treeKids v.m v.r) false
    | 2 => heldAmong v (rowPeers v) false || heldAmong v (colPeers v) (!v.scr)
    | _ => false

/-- The reduced values that this member holds: its share, or with TREE at the root all of them (R330). -/
def reduced (v : View) : Option (List Elem) :=
  if v.m ≤ 1 then some (ownShare v 0 (kCount v.p))
  else match kAlgo v.p with
  | 0 => ringPartial v (v.m - 1)
  | 1 => if v.r = 0 then treePartial v else none
  | _ => phase2 v

/-- The reduced values of this member's own share, where it holds them (R332). -/
def ownReduced (v : View) : Option (List Elem) :=
  if kAlgo v.p = 1 ∧ v.m > 1 then (reduced v).map fun xs => part xs (v.r * kCount v.p) (kCount v.p) else reduced v

/-- The norm terms over a share (R332). -/
def normTerm (ys : List Elem) : NormTerm :=
  { sumsq := ys.foldl (fun acc y => ffma y.1 y.1 acc) 0, nonfinite := ys.any fun y => nonFinite32 y.1 }

/-- Block of rank `q` that a gather moves: this member's own, or as it came; a shard refetched under the audit comes from its owner at
the offset of that try (R338). `own` is this member's block. -/
def gBlock (v : View) (own : Option Data) (q : Nat) : Option Data :=
  if q = v.r then own
  else
    match v.refetched.find? fun x => x.1 == q with
    | some (_, t) => (v.ins.find? fun i => i.rank == q).bind fun i => (rangeIn i (t * 2 ^ 40) (blockBytes v.p)).map Prod.fst
    | none =>
      (List.range v.m).findSome? fun a =>
        let base := (firstLens v.p v.m a v.r).length
        match (gatherRanks v.p v.m a v.r).findIdx? fun x => x == q with
        | some j => (inSeg v a (base + if v.audited then 2 * j else j)).map Prod.fst
        | none => none

/-- The owner's hash of block `q` as it came (R238). -/
def gHash (v : View) (own : Option Data) (q : Nat) : Option Data :=
  if q = v.r then own.map fun d => clean (sha256 (dataBytes d))
  else
    match v.refetched.find? fun x => x.1 == q with
    | some (_, t) => (v.ins.find? fun i => i.rank == q).bind fun i => (rangeIn i (t * 2 ^ 40 + alignUp (blockBytes v.p) 64) 32).map Prod.fst
    | none =>
      (List.range v.m).findSome? fun a =>
        let base := (firstLens v.p v.m a v.r).length
        match (gatherRanks v.p v.m a v.r).findIdx? fun x => x == q with
        | some j => (inSeg v a (base + 2 * j + 1)).map Prod.fst
        | none => none

/-- What TREE sends down at this member: the root's converted result, as formed or as it came from the parent (R330). -/
def treeDown (v : View) (own : Option Data) : Option Data := if v.r = 0 then own else (inSeg v ((v.r - 1) / 2) 0).map Prod.fst

/-- Segments of the reduction, or the direct block, that this member sends to rank `b`, as far as they can be had. `down` is TREE's
converted result. -/
def firstSegs (v : View) (down : Option Data) (b : Nat) : List (Option Data) :=
  let n := kCount v.p
  let es := collTypeBytes (kSrcType v.p)
  if (firstLens v.p v.m v.r b).isEmpty then []
  else if kOp v.p = 3 then [some (dslice v.src (b * n * es) (n * es))]
  else match kAlgo v.p with
  | 0 => (List.range (v.m - 1)).map fun k =>
      if k = 0 then some (dslice v.src (((v.r + v.m - 1) % v.m) * n * es) (n * es)) else (ringPartial v k).map fp32Data
  | 1 => if v.r ≠ 0 ∧ (v.r - 1) / 2 = b then [(treePartial v).map fp32Data] else [down]
  | _ =>
    if rowOf v.p v.r = rowOf v.p b then
      [some ((List.range (v.m / kDim v.p)).flatMap fun y => dslice v.src ((y * kDim v.p + colOf v.p b) * n * es) (n * es))]
    else [if v.scr then (phase1 v).map fun all => fp32Data (part all (rowOf v.p b * n) n) else none]

/-- All segments that this member sends to rank `b`, as far as they can be had. -/
def outSegs (v : View) (down own : Option Data) (b : Nat) : List (Option Data) :=
  firstSegs v down b ++
    if gathers v.p then (gatherRanks v.p v.m v.r b).flatMap fun q => if v.audited then [gBlock v own q, gHash v own q] else [gBlock v own q] else []

/-- The ranks that this member sends to, and those it receives from. -/
def outPeers (v : View) : List Nat := (List.range v.m).filter fun b => !(streamLens v.p v.audited v.m v.r b).isEmpty
/-- The ranks that this member receives from. -/
def inPeers (v : View) : List Nat := (List.range v.m).filter fun a => !(streamLens v.p v.audited v.m a v.r).isEmpty

/-- Whether all of the stream from rank `a` has come. -/
def streamWhole (v : View) (a : Nat) : Bool :=
  (List.range (streamLens v.p v.audited v.m a v.r).length).all fun k => (inSeg v a k).isSome

end Sys2Proof.Machine
end

