-- ==== Sys2Proof/Machine/Collective.lean ====
section
/-!
DEFINITION. The collective units (09: R323, R327, R328, R337 to R345; 06: R238, R239): descriptors from admission to completion, PERMUTE
and the audit of published shards.
-/
namespace Sys2Proof.Machine

/-- The descriptor of a command at a unit. -/
def findColl (s : State) (u : Fin 4) (cmd : Nat) : Option Coll := s.links.units[u].queue.find? fun c => c.cmd == cmd

/-- A descriptor changed by `f`. -/
def updColl (u : Fin 4) (cmd : Nat) (f : Coll → Coll) (s : State) : State :=
  updUnit u (fun x => { x with queue := mapIf (fun c => c.cmd == cmd) f x.queue }) s

/-- Whether a descriptor publishes: tagged COMMIT, an ALL_GATHER or a BROADCAST (R238, R336, R337). -/
def publishes (c : Slot) : Bool := slotPhase c == 10 && (kOp c.pay == 2 || kOp c.pay == 5)

/-- Whether a descriptor's source is a publishing source: a publish, or a replica's records under any tag (R285, R337). -/
def publishSource (c : Slot) : Bool := publishes c || kReplica c.pay

/-- The nodes of a descriptor's group in rank order. -/
def collNodes (s : State) (c : Coll) : List Nat := ((findGroup s c.group.toNat).map fun g => g.members).getD []

/-- This module's rank in a descriptor's group. -/
def collRank (s : State) (c : Coll) : Nat := ((findGroup s c.group.toNat).map fun g => g.rank).getD 0

/-- What this member knows of a descriptor. -/
def viewOf (s : State) (c : Coll) : View :=
  { p := c.slot.pay, audited := c.audited, m := (collNodes s c).length, r := collRank s c, src := c.src, ins := c.ins,
    det := s.links.deterministic == 1, scr := c.scratch, refetched := (c.audits.filter fun a => a.tries != 0).map fun a => (a.owner, a.tries) }

/-- The step number in the stochastic-rounding key (R146). -/
def collStep (c : Coll) : Nat := (c.step.map BitVec.toNat).getD 0

/-- The digest of a descriptor's matching fields (R327), in the order that the rule names them. -/
def collDigest (p : BitVec 1536) : Nat :=
  (crc32c (leBytes 1 (kOp p) ++ leBytes 1 (kAlgo p) ++ leBytes 1 (kSrcType p) ++ leBytes 1 (kDstType p) ++ leBytes 4 (kCount p) ++
    leBytes 4 (kIn p).toNat ++ leBytes 4 (kOut p).toNat ++ leBytes 2 (kRoot p) ++ leBytes 2 (kDim p) ++ leBytes 2 (fld p 63 48) ++
    leBytes 4 (kElem p))).toNat

/-- COLLECTIVE's effect at admission (R327, R332, R337): the next sequence number, a place for the norm partial, a pending replica. -/
def collectiveAdmit (k : Cmd) (s : State) : State :=
  let p := k.slot.pay
  match findGroup s (kGroup p) with
  | none => s
  | some g =>
    let c : Coll :=
      { cmd := k.id, slot := k.slot, group := g.id, seq := g.seq, step := k.step, started := false, running := false, lastRx := s.now, src := [], ins := [],
        outs := [], plan := k.info.map planEntry, norm := none, scratch := false, result := none, written := false, writes := [], refetches := [], poison := none,
        audited := publishes k.slot && s.rows.obj.replicaAudit == 1, audits := [] }
    let s := { s with links := { s.links with groups := mapIf (fun x => x.id == g.id) (fun x => { x with seq := x.seq + 1 }) s.links.groups } }
    let s := updUnit (kUnit p) (fun x => { x with queue := x.queue ++ [c] }) s
    let s := match k.step with
      | some n => if kFuse p then updStep n (fun q => { q with norms := q.norms ++ [{ order := k.id, term := none }] }) s else s
      | none => s
    if kReplica p ∧ g.rank ≠ kRoot p then updTable (kTable p) (fun t => { t with bcasts := t.bcasts ++ [{ cmd := k.id, step := k.step }] }) s
    else s

/-- COLLECTIVE (R326). -/
def collectiveRule : OpRule := { check := collectiveCheck, effect := collectiveAdmit }

/-- COLLECTIVE (R326). -/
def execCollective (sq : Fin 64) (c : Slot) (s : State) : Host.Outcome State Fault Refusal := go (commandAtHead 0x41 collectiveRule sq c s)

/-- A COLL_CTRL packet of a descriptor to a rank; unroutable ones change nothing, and the Bool says so. -/
def sendCtrl (c : Coll) (kind rank status body : Nat) (payload : Data) (s : State) : State × Bool :=
  let k := mkPacket s
    { type := 2, vc := 1, dst := (collNodes s c).getD rank 0, flow := 0, group := c.group.toNat, seq := c.seq.toNat, status := status, kind := kind,
      body := body } payload
  match sendPacket .inject k s with | some s => (s, true) | none => (s, false)

/-- Data of a descriptor's stream to a rank from an offset on, as packets within one 2 KiB chunk each (R308, R313, R327). The payload bytes
that count are those of the payload flits (DEDUCED from R308). -/
def sendData (u : Fin 4) (c : Coll) (rank off : Nat) (first : Bool) (d : Data) (s : State) : State × Bool :=
  (pieces off d.length).foldl (fun (acc : State × Bool) x =>
    if !acc.2 then acc
    else
      let k := mkPacket acc.1
        { type := 1, vc := 0, dst := (collNodes s c).getD rank 0, flow := x.1 / 2048, addr := x.1, group := c.group.toNat, seq := c.seq.toNat,
          aux := if first ∧ x.1 = off then collDigest c.slot.pay else 0 } (dslice d (x.1 - off) x.2)
      match sendPacket .inject k acc.1 with
      | none => (acc.1, false)
      | some s => (collCount (fun n => { n with txBytes := bump n.txBytes u (64 * k.pay.length) }) s, true)) (s, true)

/-- The ranks with which a descriptor exchanges AUDIT and REFETCH (R338). -/
def auditPeers (c : Coll) (v : View) : List Nat :=
  if c.audits.isEmpty then [] else if kOp v.p = 5 ∧ v.r ≠ kRoot v.p then [kRoot v.p] else List.range v.m

/-- The ranks that a descriptor exchanges with. -/
def collPeers (s : State) (c : Coll) : List Nat :=
  let v := viewOf s c
  (if kOp c.slot.pay = 4 then c.plan.map fun e => e.peer else outPeers v ++ inPeers v ++ auditPeers c v).eraseDups.filter fun a => a != v.r

/-- ABORT goes to every member that a descriptor exchanges with (R344); `status` says to rank `at_` why it ends (R340). -/
def sendAborts (c : Coll) (at_ : Option Nat) (status : Nat) (s : State) : State :=
  (collPeers s c).foldl (fun s a => (sendCtrl c 3 a (if at_ = some a then status else 0) 0 [] s).1) s

/-- The norm partial of a descriptor joins its step (R332); one that ends before its terms are formed adds none. -/
def settleNorm (c : Coll) (s : State) : State :=
  match c.step with
  | none => s
  | some n =>
    if !kFuse c.slot.pay then s
    else
      let t : NormTerm := c.norm.getD { sumsq := 0, nonfinite := false }
      updStep n (fun p => { p with norms := mapIf (fun x => x.order == c.cmd) (fun x => { x with term := some t }) p.norms }) s

/-- What a descriptor's end does to its replica (R180, R337). -/
def settleReplica (c : Coll) (st : Status) (s : State) : State :=
  if kReplica c.slot.pay ∧ collRank s c ≠ kRoot c.slot.pay then
    updTable (kTable c.slot.pay) (fun t => { t with bcasts := t.bcasts.filter fun b => b.cmd != c.cmd, stale := st != .ok }) s
  else s

/-- The accesses that a descriptor waits for serve nobody any more. -/
def forgetColl (u : Fin 4) (c : Coll) (s : State) : State :=
  let mine (key : Nat) : Bool := key / 64 == c.cmd || key / 64 / 2 ^ 80 == c.cmd + 1
  (((s.mem.io.filter fun p => p.who == whoUnit u && mine p.key).map fun p => p.key) ++
    (s.mem.xlate.waiters.filter fun w => w.who == whoUnit u && mine w.key).map fun w => w.key).eraseDups.foldl (fun s k => ioForget (whoUnit u) k s) s

/-- A descriptor completes (R328). -/
def endColl (u : Fin 4) (c : Coll) (st : Status) (detail : Nat) (s : State) : State :=
  let s := settleReplica c st (settleNorm c s)
  let s := updUnit u (fun x => { x with queue := x.queue.filter fun y => y.cmd != c.cmd }) (forgetColl u c s)
  completeCmd c.cmd st detail (collCount (fun n => { n with descriptors := bump n.descriptors u 1 }) s)

/-- A descriptor fails: its members hear ABORT (R344). `rank` is the peer at fault, or 0 where none is (R328, R374). -/
def failColl (u : Fin 4) (c : Coll) (st : Status) (rank : Nat) (s : State) : State := endColl u c st rank (sendAborts c none 0 s)

/-- The accesses of a descriptor that are told apart: its source, the phase buffer, its destination, and the source read again. -/
def collKey (c : Coll) (part : Nat) : Nat := opKey part c.cmd
/-- The accesses of a shard of a PERMUTE, or of a refetch, that are told apart: `n` numbers them within the descriptor. -/
def shardKey (c : Coll) (part n : Nat) : Nat := opKey part (2 ^ 80 * (c.cmd + 1) + n)

/-- The result of a descriptor's reduction once it is formed, converted to DST_TYPE (R329); the norm terms enter the descriptor (R332). -/
def reducedData (u : Fin 4) (c : Coll) (s : State) : Option (State × Data) :=
  let v := viewOf s c
  if !reduces v.p then none
  else (reduced v).map fun ys => convertAll u v.p (collStep c) (if kAlgo v.p = 1 then 0 else v.r * kCount v.p) ys s

/-- The converted result of this member's reduction without counting its saturations again. -/
def convOf (c : Coll) (s : State) : Option Data := (reducedData 0 c s).map Prod.snd

/-- This member's own block of a gather. -/
def ownBlock (c : Coll) (s : State) : Option Data := if reduces c.slot.pay then convOf c s else if c.running then some c.src else none

/-- What a descriptor writes to its destination, once all of it can be had (R325, R329). -/
def collResult (u : Fin 4) (c : Coll) (s : State) : Option (State × Data) :=
  let v := viewOf s c
  let p := v.p
  let n := kCount p
  let step := collStep c
  let own := ownBlock c s
  let store (blocks : List (Nat × Data)) : State × Data :=
    blocks.foldl (fun (acc : State × Data) b => let x := storeBlock u p step b.1 b.2 acc.1; (x.1, acc.2 ++ x.2)) (s, [])
  let bad := c.audits.any fun a => a.ok != some true && a.owner != v.r
  match kOp p with
  | 0 | 1 =>
    let dest (d : Data) : Data := if kOp p = 1 ∧ kAlgo p = 1 ∧ v.m > 1 then dslice d (v.r * n * collTypeBytes (kDstType p)) (n * collTypeBytes (kDstType p)) else d
    if kAlgo p = 1 ∧ v.m > 1 ∧ v.r ≠ 0 then (inSeg v ((v.r - 1) / 2) 0).map fun d => (s, dest d.1)
    else if kOp p = 1 ∨ v.m ≤ 1 ∨ kAlgo p = 1 then (reducedData u c s).map fun x => (x.1, dest x.2)
    else
      match reducedData u c s, allSome ((List.range v.m).map fun q => gBlock v own q) with
      | some x, some ds => some (x.1, ds.flatten)
      | _, _ => none
  | 2 => if bad then none else (allSome ((List.range v.m).map fun q => (gBlock v own q).map fun d => (q * n, d))).map store
  | 3 =>
    (allSome ((List.range v.m).map fun q =>
      if q = v.r then some (q * n, dslice v.src (v.r * n * collTypeBytes (kSrcType p)) (n * collTypeBytes (kSrcType p)))
      else (inSeg v q 0).map fun d => (q * n, d.1))).map store
  | 5 => if bad then none else (gBlock v own (kRoot p)).map fun d => store [(0, d)]
  | _ => none

/-- Records of a replica that a BROADCAST has written go through to the copies of their rows (R337). -/
def throughReplica (c : Coll) (d : Data) (s : State) : State :=
  let p := c.slot.pay
  match findTable s (kTable p) with
  | none => s
  | some t =>
    let w := recSize t.cur.desc
    let row0 := (kDst p - tdBase t.cur.desc) / max w 1
    (List.range (d.length / max w 1)).foldl (fun s i => writeThrough t.id (row0 + i) t.cur.version (dslice d (w * i) w) s) s

/-- The result of a descriptor is formed, once all of it can be had (R325, R329). -/
def formResult (u : Fin 4) (c : Coll) (s : State) : State :=
  match if c.result.isSome then none else collResult u c s with
  | none => s
  | some (s, d) => updColl u c.cmd (fun x => { x with result := some d }) s

/-- The destination is written with the result (R325): whether the writes are done, or how they failed. The root of a BROADCAST in place
writes nothing. -/
def writeResult (u : Fin 4) (c : Coll) (s : State) : State × Option Status :=
  let p := c.slot.pay
  let inPlace := kOp p == 5 && collRank s c == kRoot p && kSrc p == kDst p
  match if c.written then none else c.result with
  | none => (s, none)
  | some d =>
    let w := if inPlace then (s, .done []) else ioMany .own (whoUnit u) (collKey c 2) [(ioWrite (kDst p) d).own] s
    match w.2 with
    | .wait => (w.1, none)
    | .fail st => (w.1, some st)
    | .done _ =>
      let s := if kReplica p ∧ collRank s c ≠ kRoot p then throughReplica c d w.1 else w.1
      let st := if poisoned d then c.poison.orElse fun _ => some .dataPoison else c.poison
      (updColl u c.cmd (fun x => { x with written := true, poison := st }) s, none)

/-- A descriptor sends what it can, in order, to one rank: its segments beyond those sent. -/
def sendSegs (u : Fin 4) (c : Coll) (b : Nat) (s : State) : State × Bool :=
  let v := viewOf s c
  let own := ownBlock c s
  let lens := streamLens v.p v.audited v.m v.r b
  let sent := ((c.outs.find? fun o => o.rank == b).map fun o => o.sent).getD 0
  let ready := ((outSegs v (treeDown v own) own b).drop sent).takeWhile Option.isSome
  let r := (ready.zip (List.range ready.length)).foldl (fun (acc : State × Bool) x =>
    if acc.2 then sendData u c b (segStart lens (sent + x.2)) (sent + x.2 == 0) (x.1.getD []) acc.1 else acc) (s, true)
  (updColl u c.cmd (fun x => { x with outs := (x.outs.filter fun o => o.rank != b) ++ [{ rank := b, sent := sent + ready.length }] })
    r.1, r.2)

/-- The reduced values of this member's share under TREE below the root (R330, R332). They are what came down where that is FP32 without a
factor; otherwise this module holds only their conversions, and the values are open within what converts to those. -/
def treeShare (s : State) (c : Coll) (v : View) : Option (List Elem) :=
  let p := v.p
  let n := kCount p
  let w := collTypeBytes (kDstType p)
  (inSeg v ((v.r - 1) / 2) 0).map fun d => (List.range n).map fun j =>
    let i := v.r * n + j
    let got := widenVal (kDstType p) d.1 i
    if kDstType p = 6 ∧ kOut p = one32 then got
    else
      let y := Config.treeSum c.group.toNat c.seq.toNat i
      if (convertElem s p (collStep c) i y).code = leNat (dataBytes (dslice d.1 (w * i) w)) then (y, got.2) else (fdiv got.1 (kOut p), got.2)

/-- The norm terms of a descriptor, once they can be formed (R332). -/
def formNorm (s : State) (c : Coll) (v : View) : Option NormTerm :=
  if !kFuse v.p || c.norm.isSome then c.norm
  else (if kAlgo v.p = 1 ∧ v.m > 1 ∧ v.r ≠ 0 then treeShare s c v else ownReduced v).map normTerm

/-- Phase 1 of TWO_D goes to the phase buffer once it is formed (R330). -/
def writeScratch (u : Fin 4) (c : Coll) (s : State) : State × Option Status :=
  let v := viewOf s c
  match if kAlgo v.p = 2 ∧ reduces v.p ∧ !c.scratch then phase1 v else none with
  | none => (s, none)
  | some xs =>
    let w := ioMany .own (whoUnit u) (collKey c 1) [(ioWrite (kScratch v.p) (fp32Data xs)).own] s
    match w.2 with
    | .wait => (w.1, none)
    | .fail st => (w.1, some st)
    | .done _ => (updColl u c.cmd (fun x => { x with scratch := true }) w.1, none)

/-- Every segment that can be had leaves; the rank that cannot be reached, if there is one. -/
def sendAll (u : Fin 4) (cmd : Nat) (bs : List Nat) (s : State) : State × Option Nat :=
  bs.foldl (fun (acc : State × Option Nat) b =>
    match acc.2, findColl acc.1 u cmd with
    | none, some c => let x := sendSegs u c b acc.1; (x.1, if x.2 then none else some b)
    | _, _ => acc) (s, none)

/-- A running descriptor other than a PERMUTE goes on: phase 1 goes to the phase buffer, segments leave, the norm terms and the result are
formed, and the destination is written (R328 to R332). -/
def collProgress (u : Fin 4) (cmd : Nat) (s : State) : State :=
  match findColl s u cmd with
  | none => s
  | some c =>
    if !c.running || kOp c.slot.pay == 4 then s
    else
      let w := writeScratch u c s
      match w.2, findColl w.1 u cmd with
      | some st, _ => failColl u c st 0 w.1
      | none, none => w.1
      | none, some c =>
        let v := viewOf w.1 c
        let norm := formNorm w.1 c v
        let r := sendAll u cmd (outPeers v) (updColl u cmd (fun x => { x with norm := norm }) w.1)
        match r.2, findColl r.1 u cmd with
        | some b, some c => failColl u c .peerUnreachable b r.1
        | none, some c =>
          let s := formResult u c r.1
          match findColl s u cmd with
          | none => s
          | some c => let w := writeResult u c s; match w.2 with | some st => failColl u c st 0 w.1 | none => w.1
        | _, none => r.1

/-- The source of a descriptor: P × N or N elements, or nothing (R325). -/
def sourceBytes (s : State) (c : Coll) : Nat :=
  let v := viewOf s c
  if kOp v.p = 4 ∨ (kOp v.p = 5 ∧ v.r ≠ kRoot v.p) then 0 else (collExtents v.p v.m).1 * collTypeBytes (kSrcType v.p)

/-- The status that poisoned source data give a descriptor (R285, R345). -/
def sourcePoison (c : Coll) (d : Data) : Option Status :=
  if poisoned d then some (if publishSource c.slot then .uncorrectable else .dataPoison) else none

/-- The shards that this member audits or serves (R238, R338). -/
def auditShards (s : State) (c : Coll) : List AuditShard :=
  let v := viewOf s c
  let owners := if kOp v.p = 5 then [kRoot v.p] else List.range v.m
  if c.audited ∧ v.m > 1 then
    owners.map fun q => { owner := q, ok := if q = v.r then some true else none, tries := 0, reports := [], closed := false }
  else []

/-- A descriptor reads its source, and its exchange starts once that has come (R328, item 2). -/
def readSource (u : Fin 4) (c : Coll) (s : State) : State :=
  let r := ioMany .own (whoUnit u) (collKey c 0) [(ioRead (kSrc c.slot.pay) (sourceBytes s c)).own] s
  match r.2 with
  | .wait => r.1
  | .fail st => failColl u c st 0 r.1
  | .done ds =>
    let d := ds.flatten
    updColl u c.cmd (fun x => { x with running := true, src := d, poison := sourcePoison x d, audits := auditShards s x }) r.1

/-- Whether every plan entry of a PERMUTE is done (R342). -/
def planDone (plan : List PlanEntry) : Bool := plan.all fun e => if e.recv then e.state == .done else e.pulled

/-- Whether a descriptor has nothing left to do but to complete (R328, R338, R342). -/
def collFinished (s : State) (c : Coll) : Bool :=
  let v := viewOf s c
  if kOp v.p = 4 then planDone c.plan
  else
    c.written && (inPeers v).all (streamWhole v) &&
    (outPeers v).all (fun b => (c.outs.any fun o => o.rank == b && o.sent == (streamLens v.p v.audited v.m v.r b).length)) &&
    c.audits.all fun a => a.ok.isSome && a.closed

/-- Whether a shard of a published descriptor has failed for good, and every member has reported every shard (R239, R338). -/
def auditFailed (c : Coll) : Bool := (c.audits.any fun a => a.ok == some false) && c.audits.all fun a => a.ok.isSome && a.closed

/-- The rank that a running descriptor waits for, if it waits for a packet (R343). -/
def waitsFor (s : State) (c : Coll) : Option Nat :=
  let v := viewOf s c
  if kOp v.p = 4 then (c.plan.find? fun e => if e.recv then e.state != .done else !e.pulled).map fun e => e.peer
  else
    ((inPeers v).find? fun a => !streamWhole v a).orElse fun _ =>
      (c.audits.findSome? fun a => if a.closed then none
                                   else if a.owner = v.r then (List.range v.m).find? fun q => q != v.r && !a.reports.contains q
                                   else some a.owner)

/-- COLL_TIMEOUT (R343). -/
def execCollTimeout (u : Fin 4) (idx : Nat) (s : State) : Host.Outcome State Fault Refusal :=
  go (match s.links.units[u].queue[idx]? with
    | none => s
    | some c =>
      match waitsFor s c with
      | some a =>
        if c.started ∧ c.lastRx + 1000000 * s.links.collTimeoutMs.toNat ≤ s.now then
          failColl u c .linkTimeout a (collCount (fun n => { n with timeout := bump n.timeout u 1 }) s)
        else s
      | none => s)

/-- What a packet of a group finds on this module (R327). -/
inductive Addressee where
  /-- not a group or member that this module knows -/
  | foreign
  /-- a descriptor that this module has not admitted yet -/
  | early
  /-- a descriptor that has completed -/
  | gone
  | coll (u : Fin 4) (c : Coll) (rank : Nat)
  deriving DecidableEq, Repr

/-- The descriptor that a packet belongs to, and its sender's rank (R327). -/
def addressee (s : State) (k : Packet) : Addressee :=
  match findGroup s (pkGroup k) with
  | none => .foreign
  | some g =>
    match g.members.findIdx? fun x => x == pkSrc k with
    | none => .foreign
    | some rank =>
      match (List.finRange 4).findSome? fun u =>
          (s.links.units[u].queue.find? fun c => c.group == g.id && c.seq.toNat == pkSeq k).map fun c => (u, c) with
      | some (u, c) => .coll u c rank
      | none => if pkSeq k ≥ g.seq.toNat then .early else .gone

/-- Whether a packet of a TYPE and KIND can be taken now: its descriptor has been admitted here, or it is to be discarded. -/
def takeable (s : State) (type kind : Nat) (k : Packet) : Bool :=
  pkType k == type && (type == 1 || pkKind k == kind) && addressee s k != .early

/-- A packet reaches its descriptor, or is discarded (R327). -/
def toColl (act : Fin 4 → Coll → Nat → State → State) (k : Packet) (s : State) : State :=
  match addressee s k with
  | .foreign => linkCount (fun c => { c with foreign := addSat c.foreign 1 }) s
  | .coll u c rank => act u c rank s
  | _ => s

/-- Half `h` of a PERMUTE's staging buffer: its address and size (R340). -/
def stagingHalf (p : BitVec 1536) (h : Nat) : Nat × Nat := let n := fld p 319 288 / 2 / 64 * 64; (kDst p + h * n, n)

/-- The state of a receive entry once its shard is whole (R341). -/
def recvWhole : RecvState → RecvState
  | .staged h => .stagedFull h
  | _ => .done

/-- Where a receive entry's shard goes now. -/
def recvAt (p : BitVec 1536) (e : PlanEntry) : Option Nat :=
  match e.state with
  | .direct => some e.dva
  | .staged h => some (stagingHalf p h.val).1
  | _ => none

/-- A plan entry of a descriptor changed by `f`. -/
def updPlan (u : Fin 4) (cmd : Nat) (recv : Bool) (peer shard : Nat) (f : PlanEntry → PlanEntry) (s : State) : State :=
  updColl u cmd (fun c => { c with plan := mapIf (fun e => e.recv == recv && e.peer == peer && e.shard == shard) f c.plan }) s

/-- What tells a shard of a PERMUTE from the others of its descriptor. -/
def shardNum (recv : Bool) (peer shard : Nat) : Nat := (peer * 2 + b2n recv) * 2 ^ 16 + shard

/-- A receive entry of a shard. -/
def recvEntry (c : Coll) (peer shard : Nat) : Option PlanEntry := c.plan.find? fun e => e.recv && e.peer == peer && e.shard == shard

/-- Data of a shard have been written: a shard that is whole is acknowledged with a PULL of no bytes (R341). -/
def shardWritten (u : Fin 4) (c : Coll) (e : PlanEntry) (x : ShardWrite) (s : State) : State :=
  let whole := e.got + x.data.length ≥ e.bytes
  let s := updColl u c.cmd (fun c => { c with
    writes := dropFirst (fun y => y == x) c.writes, poison := c.poison.orElse fun _ => if poisoned x.data then some .dataPoison else none }) s
  let s := updPlan u c.cmd true x.peer x.shard (fun e => { e with got := e.got + x.data.length, state := if whole then recvWhole e.state else e.state }) s
  if whole then
    let a := sendCtrl c 2 x.peer 0 x.shard [] s
    if a.2 then a.1 else failColl u c .peerUnreachable x.peer a.1
  else s

/-- Data of a shard are written where the shard goes (R341). -/
def writeShard (u : Fin 4) (cmd : Nat) (s : State) (x : ShardWrite) : State :=
  match findColl s u cmd with
  | none => s
  | some c => match recvEntry c x.peer x.shard with
    | none => s
    | some e => match recvAt c.slot.pay e with
      | none => s
      | some base =>
        let w := ioMany .own (whoUnit u) (shardKey c 5 (shardNum true x.peer x.shard + 2 ^ 40 * x.off)) [(ioWrite (base + x.off) x.data).own] s
        match w.2 with
        | .wait => w.1
        | .fail st => failColl u c st 0 w.1
        | .done _ => shardWritten u c e x w.1

/-- A shard that a PULL asked for is read and sent (R341). -/
def servePull (u : Fin 4) (cmd : Nat) (s : State) (e : PlanEntry) : State :=
  match findColl s u cmd with
  | none => s
  | some c =>
    let r := ioMany .own (whoUnit u) (shardKey c 4 (shardNum false e.peer e.shard)) [(ioRead e.dva e.bytes).own] s
    match r.2 with
    | .wait => r.1
    | .fail st => failColl u c st 0 r.1
    | .done ds =>
      let d := ds.flatten
      let s := updColl u cmd (fun c => { c with poison := c.poison.orElse fun _ => sourcePoison c d }) r.1
      let s := updPlan u cmd false e.peer e.shard (fun e => { e with asked := false }) s
      let w := sendData u c e.peer (e.shard * 2 ^ 32) true d s
      if w.2 then w.1 else failColl u c .peerUnreachable e.peer w.1

/-- A staged shard is copied into its range (R341): the half is read, and the range written. A failure is of no peer (R328, R374). -/
def copyShard (u : Fin 4) (cmd : Nat) (s : State) (e : PlanEntry) : State :=
  match findColl s u cmd, e.state with
  | some c, .copying h none =>
    let r := ioMany .own (whoUnit u) (shardKey c 6 (shardNum true e.peer e.shard)) [(ioRead (stagingHalf c.slot.pay h.val).1 e.bytes).own] s
    match r.2 with
    | .wait => r.1
    | .fail st => failColl u c st 0 r.1
    | .done ds => updPlan u cmd true e.peer e.shard (fun e => { e with state := .copying h (some ds.flatten) }) r.1
  | some c, .copying _ (some d) =>
    let w := ioMany .own (whoUnit u) (shardKey c 7 (shardNum true e.peer e.shard)) [(ioWrite e.dva d).own] s
    match w.2 with
    | .wait => w.1
    | .fail st => failColl u c st 0 w.1
    | .done _ => updPlan u cmd true e.peer e.shard (fun e => { e with state := .done }) w.1
  | _, _ => s

/-- The plan of a descriptor as it stands. -/
def planNow (s : State) (u : Fin 4) (cmd : Nat) : List PlanEntry := ((findColl s u cmd).map fun c => c.plan).getD []

/-- A PERMUTE goes on with the accesses that it has begun (R341): writes of shards, reads for PULLs, copies out of the staging buffer. -/
def planProgress (u : Fin 4) (cmd : Nat) (s : State) : State :=
  let s := (((findColl s u cmd).map fun c => c.writes).getD []).foldl (writeShard u cmd) s
  let s := ((planNow s u cmd).filter fun e => e.asked).foldl (servePull u cmd) s
  let s := (planNow s u cmd).foldl (copyShard u cmd) s
  (planNow s u cmd).foldl (copyShard u cmd) s

/-- The owner reads its source again and sends a shard, with its hash, at the offset of that try (R338). -/
def serveRefetch (u : Fin 4) (cmd : Nat) (s : State) (x : Nat × Nat) : State :=
  match findColl s u cmd with
  | none => s
  | some c =>
    let r := ioMany .own (whoUnit u) (shardKey c 3 (x.1 * 2 ^ 16 + x.2)) [(ioRead (kSrc c.slot.pay) (sourceBytes s c)).own] s
    match r.2 with
    | .wait => r.1
    | .fail st => failColl u c st 0 r.1
    | .done ds =>
      let d := ds.flatten
      let s := updColl u cmd (fun c => { c with refetches := c.refetches.filter fun y => y != x, poison := c.poison.orElse fun _ => sourcePoison c d }) r.1
      let a := sendData u c x.1 (x.2 * 2 ^ 40) false d s
      let b := sendData u c x.1 (x.2 * 2 ^ 40 + alignUp d.length 64) false (clean (sha256 (dataBytes d))) a.1
      if a.2 && b.2 then b.1 else failColl u c .peerUnreachable x.1 b.1

/-- The payload of an AUDIT: the shard's rank, whether it matched, and whether the owner says that every member has reported it. -/
def auditData (rank : Nat) (ok all : Bool) : Data := clean (leBytes 4 (rank + b2n ok * 2 ^ 16 + b2n all * 2 ^ 17))

/-- Once every member has reported this member's own shard, the owner tells them, so that a descriptor can complete on each (R338).
DESIGN CHOICE: the spec does not say how a member that is not the owner learns of the others' reports. -/
def closeAudit (u : Fin 4) (cmd : Nat) (s : State) : State :=
  match findColl s u cmd with
  | none => s
  | some c =>
    let v := viewOf s c
    let others := (List.range v.m).filter fun q => q != v.r
    match c.audits.find? fun a => a.owner == v.r && !a.closed && others.all fun q => a.reports.contains q with
    | none => s
    | some _ =>
      let s := updColl u cmd (fun c => { c with audits := mapIf (fun a => a.owner == v.r) (fun a => { a with closed := true }) c.audits }) s
      others.foldl (fun s q => match findColl s u cmd with
        | none => s
        | some c => let a := sendCtrl c 4 q 0 0 (auditData v.r true true) s; if a.2 then a.1 else failColl u c .peerUnreachable q a.1) s

/-- A descriptor that has started goes on, as far as nothing has to be waited for. -/
def collWork (u : Fin 4) (cmd : Nat) (s : State) : State :=
  match findColl s u cmd with
  | none => s
  | some c =>
    if !c.started then s
    else
      let s := if c.running then s else readSource u c s
      let s := planProgress u cmd (collProgress u cmd s)
      let s := (((findColl s u cmd).map fun c => c.refetches).getD []).foldl (serveRefetch u cmd) s
      closeAudit u cmd s

/-- Every descriptor that has started goes on. -/
def collsWork (s : State) : State :=
  (List.finRange 4).foldl (fun s u => s.links.units[u].queue.foldl (fun s c => collWork u c.cmd s) s) s

/-- Whether a descriptor may start (R323): a unit runs up to 8, and those that their steps let start take what is left of them in order. -/
def startable (s : State) (u : Fin 4) (c : Coll) : Bool :=
  let q := s.links.units[u].queue
  let free := 8 - (q.filter fun x => x.started).length
  ((q.filter fun x => !x.started && mayBegin s x.slot x.step).take free).any fun x => x.cmd == c.cmd

/-- COLL_DESCRIPTOR_START (R328, item 1). -/
def execCollDescriptorStart (u : Fin 4) (idx : Nat) (s : State) : Host.Outcome State Fault Refusal :=
  go (match s.links.units[u].queue[idx]? with
    | none => s
    | some c =>
      let p := c.slot.pay
      let waits := bit p 19 && decide ((bcOf s (fin (fld p 534 528)) (fin (fld p 540 536))).toNat < fld p 575 544)
      if c.started then collWork u c.cmd s
      else if waits || !startable s u c then s
      else collWork u c.cmd (updColl u c.cmd (fun x => { x with started := true, lastRx := s.now }) (startCmd c.cmd s)))

/-- COLL_DESCRIPTOR_COMPLETE (R328, items 3 and 4). -/
def execCollDescriptorComplete (u : Fin 4) (idx : Nat) (s : State) : Host.Outcome State Fault Refusal :=
  go (match s.links.units[u].queue[idx]? with
    | none => s
    | some c =>
      let s := collWork u c.cmd s
      match findColl s u c.cmd with
      | none => s
      | some c =>
        let p := c.slot.pay
        if !c.running then s
        else if auditFailed c then
          failColl u c .linkTimeout (((c.audits.find? fun a => a.ok == some false).map fun a => a.owner).getD 0) s
        else if !collFinished s c then s
        else
          let s := if bit p 18 then sendSignal (whoUnit u) (fin (fld p 518 512)) (fld p 524 520) s else s
          endColl u c (c.poison.getD .ok) 0 s)

/-- Data of a PERMUTE's shard, whose number stands in ADDR above bit 32 (R341). -/
def permuteData (u : Fin 4) (c : Coll) (rank : Nat) (k : Packet) (s : State) : State :=
  let shard := pkAddr k / 2 ^ 32
  let off := pkAddr k % 2 ^ 32
  match recvEntry c rank shard with
  | none => s
  | some e =>
    if (recvAt c.slot.pay e).isNone then s
    else
      let x : ShardWrite := { peer := rank, shard := shard, off := off, data := pkData k (min (64 * k.pay.length) (e.bytes - off)) }
      updColl u c.cmd (fun c => { c with writes := c.writes ++ [x] }) s

/-- A COLL_DATA packet of a descriptor (R327): the digest of a first packet is compared, and the data join the sender's stream. -/
def collDataIn (k : Packet) (u : Fin 4) (c : Coll) (rank : Nat) (s : State) : State :=
  let s := collCount (fun n => { n with rxBytes := bump n.rxBytes u (64 * k.pay.length) }) s
  let p := c.slot.pay
  let first := pkAddr k == 0 || (kOp p == 4 && pkAddr k % 2 ^ 32 == 0)
  if first && pkAux k != collDigest p then failColl u c .malformed rank (collCount (fun n => { n with mismatch := bump n.mismatch u 1 }) s)
  else
    let s := updColl u c.cmd (fun c => { c with lastRx := s.now }) s
    let s :=
      if kOp p = 4 then permuteData u c rank k s
      else
        let stamp := (c.ins.map fun i => i.parts.length).sum + 1
        let x : RxPart := { off := pkAddr k, data := pkData k (64 * k.pay.length), stamp := stamp }
        let old := ((c.ins.find? fun i => i.rank == rank).map fun i => i.parts).getD []
        let ins := (c.ins.filter fun i => i.rank != rank) ++ [{ rank := rank, parts := old ++ [x] }]
        updColl u c.cmd (fun c => { c with ins := ins }) s
    collWork u c.cmd s

/-- COLL_DATA_RX (R327). -/
def execCollDataRx (p : Fin 17) (s : State) : Host.Outcome State Fault Refusal :=
  go (arrive p (takeable s 1 0) (fun k => toColl (collDataIn k) k) s)

/-- ABORT_RX (R344): the descriptor completes at once. An ABORT with MALFORMED in STATUS says that the bytes of a pair differ (R340). -/
def execAbortRx (p : Fin 17) (s : State) : Host.Outcome State Fault Refusal :=
  go (arrive p (takeable s 2 3) (fun k => toColl (fun u c rank s => endColl u c (if pkStatus k = 0x10 then .malformed else .linkTimeout) rank s) k) s)

/-- A PULL (R341): the shard is read and sent, or, with no bytes, acknowledged. A pair whose BYTES differ is MALFORMED on both members
(R340); the other members hear a plain ABORT (R344). -/
def pullIn (k : Packet) (u : Fin 4) (c : Coll) (rank : Nat) (s : State) : State :=
  let shard := pkBody k 271 256
  let bytes := pkBody k 319 288
  let s := updColl u c.cmd (fun c => { c with lastRx := s.now }) s
  match c.plan.find? fun e => !e.recv && e.peer == rank && e.shard == shard with
  | none => s
  | some e =>
    if bytes = 0 then updPlan u c.cmd false rank shard (fun e => { e with pulled := true }) s
    else if bytes ≠ e.bytes then endColl u c .malformed rank (sendAborts c (some rank) 0x10 s)
    else collWork u c.cmd (updPlan u c.cmd false rank shard (fun e => { e with asked := true }) s)

/-- Whether a PULL can be served: its descriptor runs. -/
def pullable (s : State) (k : Packet) : Bool :=
  takeable s 2 2 k && match addressee s k with | .coll _ c _ => c.running | _ => true

/-- PULL_RX (R341). -/
def execPullRx (p : Fin 17) (s : State) : Host.Outcome State Fault Refusal := go (arrive p (pullable s) (fun k => toColl (pullIn k) k) s)

/-- Whether a receive entry's range is free: what is sent from it has been pulled (R341). -/
def rangeFree (plan : List PlanEntry) (e : PlanEntry) : Bool := plan.all fun x => x.recv || x.pulled || !overlaps x.dva x.bytes e.dva e.bytes

/-- Whether a receive is in flight. -/
def inFlightRecv (e : PlanEntry) : Bool := match e.state with | .direct => true | .staged _ => true | _ => false

/-- Whether a receive entry's state occupies a staging half. -/
def usesHalf (st : RecvState) (h : Fin 2) : Bool :=
  match st with
  | .staged k => k == h
  | .stagedFull k => k == h
  | .copying k _ => k == h
  | _ => false

/-- A free staging half that takes a shard. -/
def freeHalf (p : BitVec 1536) (plan : List PlanEntry) (bytes : Nat) : Option (Fin 2) :=
  (List.finRange 2).find? fun h => decide (bytes ≤ (stagingHalf p h.val).2) && !plan.any fun e => usesHalf e.state h

/-- How a receive entry can start now. -/
def startState (p : BitVec 1536) (plan : List PlanEntry) (e : PlanEntry) : Option RecvState :=
  if !e.recv || e.state != .idle then none
  else if rangeFree plan e then some .direct
  else (freeHalf p plan e.bytes).map .staged

/-- PERMUTE_RECEIVE_START (R341). -/
def execPermuteReceiveStart (u : Fin 4) (idx : Nat) (s : State) : Host.Outcome State Fault Refusal :=
  go (match s.links.units[u].queue[idx]? with
    | none => s
    | some c =>
      if !c.running || (c.plan.filter inFlightRecv).length ≥ 8 then s
      else
        match c.plan.findSome? fun e => (startState c.slot.pay c.plan e).map fun st => (e, st) with
        | none => s
        | some (e, st) =>
          let s := updPlan u c.cmd true e.peer e.shard (fun e => { e with state := st }) s
          let s := if st = .direct then s else collCount (fun n => { n with staged := bump n.staged u 1 }) s
          let a := sendCtrl c 2 e.peer 0 (e.shard + e.bytes * 2 ^ 32) [] s
          if a.2 then a.1 else failColl u c .peerUnreachable e.peer a.1)

/-- PERMUTE_STAGE_COPY (R341): a staged shard whose range is free begins to be copied into it. -/
def execPermuteStageCopy (u : Fin 4) (idx : Nat) (s : State) : Host.Outcome State Fault Refusal :=
  let full (e : PlanEntry) : Option (Fin 2) := match e.state with | .stagedFull h => some h | _ => none
  go (match s.links.units[u].queue[idx]? with
    | none => s
    | some c =>
      let s := match c.plan.findSome? fun e => (full e).bind fun h => if rangeFree c.plan e then some (e, h) else none with
        | none => s
        | some (e, h) => updPlan u c.cmd true e.peer e.shard (fun e => { e with state := .copying h none }) s
      collWork u c.cmd s)

/-- A shard's audit on this member is decided and reported to its owner: the shard's rank and whether it matched (R338). -/
def reportShard (u : Fin 4) (c : Coll) (rank : Nat) (ok : Bool) (s : State) : State :=
  let s := updColl u c.cmd (fun c => { c with audits := mapIf (fun a => a.owner == rank) (fun a => { a with ok := some ok }) c.audits }) s
  let a := sendCtrl c 4 rank 0 0 (auditData rank ok false) s
  if a.2 then collWork u c.cmd a.1 else failColl u c .peerUnreachable rank a.1

/-- REPLICA_HASH_CHECK (R238, R239): the copy of the shard that rank `rank` owns is hashed and compared with the owner's hash. -/
def execReplicaHashCheck (u : Fin 4) (idx : Nat) (rank : Nat) (s : State) : Host.Outcome State Fault Refusal :=
  go (match s.links.units[u].queue[idx]? with
    | none => s
    | some c =>
      match c.audits.find? fun a => a.owner == rank && a.ok.isNone with
      | none => s
      | some a =>
        let v := viewOf s c
        match gBlock v none rank, gHash v none rank with
        | some d, some h =>
          if sha256 (dataBytes d) = dataBytes h then reportShard u c rank true s
          else
            let s := updRowObj (fun o => { o with replicaMismatch := addSat o.replicaMismatch 1 }) s
            if a.tries < s.rows.obj.refetchLimit.toNat then
              let s := updRowObj (fun o => { o with replicaRefetch := addSat o.replicaRefetch 1 }) s
              let s := updColl u c.cmd (fun c => { c with audits := mapIf (fun a => a.owner == rank) (fun a => { a with tries := a.tries + 1 }) c.audits }) s
              let x := sendCtrl c 5 rank 0 0 (clean (leBytes 4 (a.tries + 1))) s
              if x.2 then x.1 else failColl u c .peerUnreachable rank x.1
            else reportShard u c rank false s
        | _, _ => s)

/-- An AUDIT (R338): a receiver's report of this member's own shard, or the owner's word that every member has reported its shard. -/
def auditIn (k : Packet) (u : Fin 4) (c : Coll) (rank : Nat) (s : State) : State :=
  let all := bit (BitVec.ofNat 32 (leNat (slice (pkBytes k) 0 4))) 17
  let owner := if all then rank else collRank s c
  let note (a : AuditShard) : AuditShard :=
    if all then { a with closed := true } else { a with reports := if a.reports.contains rank then a.reports else a.reports ++ [rank] }
  collWork u c.cmd (updColl u c.cmd (fun c => { c with lastRx := s.now, audits := mapIf (fun a => a.owner == owner) note c.audits }) s)

/-- AUDIT_RX (R338). -/
def execAuditRx (p : Fin 17) (s : State) : Host.Outcome State Fault Refusal := go (arrive p (takeable s 2 4) (fun k => toColl (auditIn k) k) s)

/-- A REFETCH (R338): the owner is to read its source again and send the shard. -/
def refetchIn (k : Packet) (u : Fin 4) (c : Coll) (rank : Nat) (s : State) : State :=
  let t := leNat (slice (pkBytes k) 0 4)
  collWork u c.cmd (updColl u c.cmd (fun c => { c with lastRx := s.now, refetches := c.refetches ++ [(rank, t)] }) s)

/-- REFETCH_RX (R338). -/
def execRefetchRx (p : Fin 17) (s : State) : Host.Outcome State Fault Refusal := go (arrive p (takeable s 2 5) (fun k => toColl (refetchIn k) k) s)

end Sys2Proof.Machine
end

