-- ==== Sys2Proof/Machine/MemTiers.lean ====
section
/-!
DEFINITION. The stack controllers, walks and the far tier (08): serving requests, correction and poison, scrubbing, page walks,
T2 requests, and the checks of the memory objects.
-/
namespace Sys2Proof.Machine

/-- The requests that stand in a channel's queue of 64 entries, oldest first (R273). -/
def channelQueue (s : State) (st : Fin 8) (ch : Fin 32) : List ChanEntry :=
  (s.mem.stackCtl.queue.filter fun e => e.taken && stackOf e.pa == st && channelOf e.pa == ch.val).take 64

/-- The record of an address's bank. -/
def bankRecord (s : State) (a : Nat) : Option BankPage :=
  s.mem.stackCtl.pages.find? fun b => b.stack == (stackOf a).val && b.channel == channelOf a && b.bank == bankOf a

/-- Whether the DRAM page of an address is open. -/
def pageOpen (s : State) (a : Nat) : Bool :=
  match bankRecord s a with
  | some b => b.isOpen && b.row == dramRow a
  | none => false

/-- Whether a request can be issued: its page is open, or its bank opened no page in the last 60 ns (R276). -/
def requestReady (s : State) (e : ChanEntry) : Bool :=
  pageOpen s e.pa || match bankRecord s e.pa with
    | some b => decide (b.opened + 60 ≤ s.now)
    | none => true

/-- The request that the controller issues next on a channel (R276): one that has waited 2 µs before every younger one;
else requests to an open page first, oldest first. -/
def nextRequest (s : State) (q : List ChanEntry) : Option ChanEntry :=
  match q.find? fun e => decide (e.arrived + 2000 ≤ s.now) with
  | some e => if requestReady s e then some e else none
  | none =>
    match q.find? fun e => pageOpen s e.pa with
    | some e => some e
    | none => q.find? fun e => requestReady s e

/-- The number of aligned 256 B windows that an access touches (R275). -/
def windows (a n : Nat) : Nat := (a + n - 1) / 256 - a / 256 + 1

/-- The windows of a write in which it covers part of a codeword (R275). -/
def partWindows (a n : Nat) : Nat :=
  let first := if a % 64 = 0 then [] else [a / 256]
  let last := if (a + n) % 64 = 0 then [] else [(a + n) / 256]
  (first ++ last).eraseDups.length

/-- The codeword that an error concerns. -/
def errWord : EccErr → Nat
  | .oneSymbol w => w
  | .twoSymbols w => w
  | .wideDetected w => w
  | .wideWrong w _ => w

/-- Whether an address was written after entry `e` reached its channel, by an entry that still waits there (R277). -/
def writtenSince (s : State) (e : ChanEntry) (a : Nat) : Bool :=
  ((s.mem.stackCtl.queue.dropWhile fun x => x.id != e.id).drop 1).any fun x => x.write && x.taken && decide (x.pa ≤ a) && decide (a < x.pa + x.len)

/-- A codeword as entry `e` finds it: as it stands or, where it was written since, as the entry found it on its arrival (R277). -/
def foundByte (s : State) (e : ChanEntry) (a : Nat) : Byte × Bool :=
  let w := a / 64 * 64
  if (List.range 64).any fun i => writtenSince s e (w + i) then e.data.getD (a - e.pa) (0, false) else (memByte s.mem.t1 a, memPoisoned s.mem.t1 a)

/-- The data that a read entry finds. -/
def foundData (s : State) (e : ChanEntry) : Data := (List.range e.len).map fun i => foundByte s e (e.pa + i)

/-- Whether a codeword has been written whole since entry `e` reached its channel. -/
def renewed (s : State) (e : ChanEntry) (w : Nat) : Bool := (List.range 64).all fun i => writtenSince s e (64 * w + i)

/-- A new uncorrectable error that entry `e` finds (R284, R287): counted, logged and written back poisoned, unless the codeword has been
written whole since. `source` is 0 for a demand read, 1 for a partial-write read, 2 for the scrub. -/
def newUncorrectable (source w : Nat) (e : ChanEntry) (s : State) : State :=
  let a := 64 * w
  let st := stackOf a
  let log := BitVec.ofNat 128 (a + st.val * 2 ^ 48 + channelOf a * 2 ^ 51 + source * 2 ^ 56 + (s.now % 2 ^ 64) * 2 ^ 64)
  let s := memCount (fun c => { c with
    memUe := bump c.memUe st 1, wrBursts := bump c.wrBursts st 1, pageHits := bump c.pageHits st 1, busy := bump c.busy st 8 }) s
  let s := updStacks (fun x => { x with ueLog := (x.ueLog ++ [log]).drop (x.ueLog.length + 1 - 16) }) s
  if renewed s e w then s else { s with mem := { s.mem with t1 := memPoison s.mem.t1 a } }

/-- A corrected codeword (R283): counted, and waiting to be written back. -/
def corrected (scrub : Bool) (w : Nat) (s : State) : State :=
  let st := stackOf (64 * w)
  let s := memCount (fun c =>
    { c with memCe := bump c.memCe st 1, scrubCe := if scrub then bump c.scrubCe st 1 else c.scrubCe }) s
  updStacks (fun x => { x with writeBacks := x.writeBacks ++ [{ word := w, scrub := scrub }] }) s

/-- What the decoder does with an error in a codeword that entry `e` reads and that is not poisoned (R283, R284), and what the entry's
data, which start at its address, become. Bytes that a write brought since stay as they are. -/
def decodeError (source : Nat) (e : ChanEntry) (x : EccErr) (acc : State × Data) : State × Data :=
  let w := errWord x
  let s := acc.1
  let inWord (i : Nat) : Bool := (e.pa + i) / 64 == w
  let poison : Data := acc.2.mapIdx fun i b => if inWord i then (b.1, true) else b
  if (foundByte s e (max e.pa (64 * w))).2 then acc
  else
    match x with
    | .oneSymbol _ => (corrected (source == 2) w s, acc.2)
    | .twoSymbols _ => (newUncorrectable source w e s, poison)
    | .wideDetected _ => (newUncorrectable source w e s, poison)
    | .wideWrong _ bs =>
      let s := corrected (source == 2) w s
      let mine (a : Nat) : Bool := e.write && decide (e.pa ≤ a) && decide (a < e.pa + e.len)
      let put (m : Mem) (i : Nat) : Mem :=
        let a := 64 * w + i
        if mine a || writtenSince s e a then m else { m with cells := cellsSet m.cells a (bs.getD i 0 - memBase m a) }
      ({ s with mem := { s.mem with t1 := (List.range 64).foldl put s.mem.t1 } },
       acc.2.mapIdx fun i b => if inWord i then (bs.getD ((e.pa + i) % 64) 0, b.2) else b)

/-- The DRAM page that serves a request is opened, or found open (R276). -/
def openPage (e : ChanEntry) (s : State) : State :=
  if pageOpen s e.pa then s
  else
    let b : BankPage :=
      { stack := (stackOf e.pa).val, channel := channelOf e.pa, bank := bankOf e.pa, row := dramRow e.pa, isOpen := true, opened := s.now }
    let other (x : BankPage) : Bool := !(x.stack == b.stack && x.channel == b.channel && x.bank == b.bank)
    let s := updStacks (fun x => { x with pages := b :: x.pages.filter other }) s
    memCount (fun c => { c with activates := bump c.activates (stackOf e.pa) 1 }) s

/-- The DRAM page is closed after the last request to it that waits (R276). -/
def closePage (e : ChanEntry) (s : State) : State :=
  let samePage (a : Nat) : Bool := stackOf a == stackOf e.pa && channelOf a == channelOf e.pa && bankOf a == bankOf e.pa && dramRow a == dramRow e.pa
  if (s.mem.stackCtl.queue.any fun x => samePage x.pa) then s
  else
    let mine (b : BankPage) : Bool := b.stack == (stackOf e.pa).val && b.channel == channelOf e.pa && b.bank == bankOf e.pa
    updStacks (fun x => { x with pages := mapIf mine (fun b => { b with isOpen := false }) x.pages }) s

/-- The bursts of a request are counted (R275, R302). `hit` says whether its page was open already. -/
def countBursts (e : ChanEntry) (hit : Bool) (s : State) : State :=
  let st := stackOf e.pa
  let w := windows e.pa e.len
  let rd := if e.write then (if e.part then partWindows e.pa e.len else 0) else w
  let wr := if e.write then w else 0
  memCount (fun c =>
    { c with
      rdBursts := bump c.rdBursts st rd, wrBursts := bump c.wrBursts st wr,
      pageHits := bump c.pageHits st (rd + wr - if hit then 0 else 1), busy := bump c.busy st (8 * (rd + wr)) }) s

/-- The codewords that an access touches. -/
def wordsOf (a n : Nat) : List Nat := (List.range ((a + n - 1) / 64 - a / 64 + 1)).map fun i => a / 64 + i

/-- The burst or bursts of an entry: its page is opened or found open, and they are counted (R275, R276). -/
def serveBursts (e : ChanEntry) (s : State) : State := countBursts e (pageOpen s e.pa) (openPage e s)

/-- An access of the controller itself to one codeword (R283, R286). -/
def ownEntry (s : State) (w : Nat) (write : Bool) : ChanEntry :=
  { id := s.mem.nextId, pa := 64 * w, len := 64, write := write, part := false, arrived := s.now, taken := true, data := [] }

/-- A controller serves one request (R275, R276, R283, R284); the oldest one that waits for room in its queue then takes its place. -/
def serveRequest (e : ChanEntry) (errs : List EccErr) (s : State) : State :=
  let s := serveBursts e s
  let words := wordsOf e.pa e.len
  let part (w : Nat) : Bool := decide (64 * w < e.pa) || decide (e.pa + e.len < 64 * w + 64)
  let seen := errs.filter fun x => words.contains (errWord x) && (!e.write || part (errWord x))
  let found := if e.write then [] else foundData s e
  let already := (words.filter fun w => found.mapIdx (fun i b => (i, b)) |>.any fun y => y.2.2 && (e.pa + y.1) / 64 == w).length
  let s := memCount (fun c => { c with poisonReads := bump c.poisonReads (stackOf e.pa) already }) s
  let r := seen.foldl (fun acc x => decodeError (b2n e.write) e x acc) (s, found)
  let s := updStacks (fun x => { x with queue := dropFirst (fun y => y == e) x.queue }) r.1
  let s := if e.write then s else endReq e.id .ok r.2 s
  takeNext e.pa (closePage e s)

/-- MEM_REQUEST (R276); without REFCLK the controllers issue nothing to the stacks (R430). -/
def execMemRequest (stack : Fin 8) (channel : Fin 32) (errs : List EccErr) (s : State) : Host.Outcome State Fault Refusal :=
  go (if !s.clk.refclk then s else match nextRequest s (channelQueue s stack channel) with
    | some e => serveRequest e errs s
    | none => s)

/-- MEM_CE_WRITEBACK (R283): a corrected codeword is written back while its bank has nothing to serve. -/
def execMemCeWriteback (stack : Fin 8) (word : Nat) (s : State) : Host.Outcome State Fault Refusal :=
  let a := 64 * word
  let busy := s.mem.stackCtl.queue.any fun e => stackOf e.pa == stackOf a && channelOf e.pa == channelOf a && bankOf e.pa == bankOf a
  let e := ownEntry s word true
  go (if s.clk.refclk && stackOf a == stack && (s.mem.stackCtl.writeBacks.any fun w => w.word == word) && !busy && requestReady s e then
      closePage e (serveBursts e (updStacks (fun x => { x with writeBacks := dropFirst (fun w => w.word == word) x.writeBacks }) s))
    else s)

/-- An error with its codeword number replaced. -/
def errAt (w : Nat) : EccErr → EccErr
  | .oneSymbol _ => .oneSymbol w
  | .twoSymbols _ => .twoSymbols w
  | .wideDetected _ => .wideDetected w
  | .wideWrong _ bs => .wideWrong w bs

/-- SCRUB_READ (R286): the next codeword of the stack is read, as soon as its bank can serve it, and corrected or poisoned as found. -/
def execScrubRead (stack : Fin 8) (err : Option EccErr) (s : State) : Host.Outcome State Fault Refusal :=
  let pos := s.mem.stackCtl.scrubPos[stack]
  let w := stack.val * 2 ^ 30 + pos
  let e := ownEntry s w false
  go (if s.mem.stackCtl.scrubPeriod = 0 ∨ !s.clk.refclk ∨ !requestReady s e then s
    else
      let s := updStacks (fun x => { x with scrubPos := x.scrubPos.set stack ((pos + 1) % 2 ^ 30) }) s
      let s := serveBursts e s
      closePage e (match err with
        | some x => (decodeError 2 e (errAt w x) (s, foundData s e)).1
        | none => s))

/-- DIE_CE_COLLECT (R282): the dies' correction counts of the last millisecond are added. -/
def execDieCeCollect (stack : Fin 8) (counts : List Nat) (s : State) : Host.Outcome State Fault Refusal :=
  go (memCount (fun c => { c with dieCe := bump c.dieCe stack (counts.take 16).sum }) s)

/-- PAGE_WALK_START (R296): a page that requests wait for, not walked already, with fewer than 8 walks in its cache. -/
def execPageWalkStart (quad : Fin 4) (page : Nat) (s : State) : Host.Outcome State Fault Refusal :=
  let x := s.mem.xlate
  let wanted := x.waiters.any fun w => w.quad == quad && w.page == page
  let walking := x.walks.any fun w => w.quad == quad && w.page == page
  let room := decide ((x.walks.filter fun w => w.quad == quad).length < 8)
  go (if wanted && !walking && room then
      let r := noteWalk page s
      updXlate (fun x => { x with walks := x.walks ++ [{ quad := quad, page := page, start := s.now, reads := r.2, stale := false }] }) r.1
    else s)

/-- A walk leaves its result to every request that waits for it (R296). -/
def deliverWalk (quad : Fin 4) (page : Nat) (r : Except Status (BitVec 64)) (s : State) : State :=
  let mine (w : XWaiter) : Bool := w.quad == quad && w.page == page
  let give (w : XWaiter) : XResult :=
    { waiter := w, entry := (match r with | .ok e => some e | .error _ => none), fails := (match r with | .ok _ => .ok | .error st => st) }
  retryPosted (updXlate (fun x => { x with
    results := x.results ++ (x.waiters.filter mine).map give, waiters := x.waiters.filter fun w => !mine w }) s)

/-- PAGE_WALK_DONE (R296, R298): once its reads have been served, the walk caches a valid entry or fails its requests; a walk older than
an invalidation is discarded, and its requests wait for another. -/
def execPageWalkDone (quad : Fin 4) (page : Nat) (s : State) : Host.Outcome State Fault Refusal :=
  let mine (w : Walk) : Bool := w.quad == quad && w.page == page
  go (match s.mem.xlate.walks.find? mine with
    | none => s
    | some w =>
      if s.mem.stackCtl.queue.any fun e => w.reads.contains e.id then s else
      let s := updXlate (fun x => { x with walks := dropFirst mine x.walks }) s
      let s := memCount (fun c => { c with xlateWalkNs := bump c.xlateWalkNs quad (s.now - w.start) }) s
      if w.stale then s
      else
        match walkPage s page with
        | .ok e => deliverWalk quad page (.ok e) (cachePage quad page e s)
        | .error st => deliverWalk quad page (.error st) s)

/-- Cached entries that `p` selects are removed, and walks in progress become stale; a request that has not used the result of its walk
yet waits for another (R298). -/
def invalidate (p : Nat → Bool) (s : State) : State :=
  updXlate (fun x => { x with
    caches := x.caches.map fun c => c.filter fun e => !p e.page, walks := x.walks.map fun w => { w with stale := true },
    waiters := x.waiters ++ (x.results.filter fun r => p r.waiter.page).map fun r => r.waiter,
    results := x.results.filter fun r => !p r.waiter.page }) s

/-- PT_ROOT takes a value (R298). -/
def setPtRoot (v : BitVec 64) (s : State) : State := invalidate (fun _ => true) (updXlate (fun x => { x with ptRoot := v }) s)

/-- Whether a span entry's reserved fields are 0 (R297). -/
def spanReservedOk (e : BitVec 256) : Bool :=
  fld e 63 5 == 0 && fld e 127 112 == 0 && fld e 191 176 == 0 && fld e 255 224 == 0

/-- Whether a valid span is well formed (R297). -/
def spanOk (e : BitVec 256) : Bool :=
  let pages := fld e 223 192
  let base := fld e 111 64
  let phys := fld e 175 128
  base % pageSize == 0 && phys % pageSize == 0 && decide (1 ≤ pages) && decide (pages ≤ 2 ^ 27) &&
    decide (base + pages * pageSize ≤ 2 ^ 48) && fld e 4 3 != 3 && tierAgrees (fld e 4 3) phys (pages * pageSize)

/-- Whether no two spans of a list overlap in DVA (R297). -/
def spansApart : List (BitVec 256) → Bool
  | [] => true
  | e :: es => (es.all fun f => !overlaps (fld e 111 64) (fld e 223 192 * pageSize) (fld f 111 64) (fld f 223 192 * pageSize)) && spansApart es

/-- Whether a set of spans is accepted (R297). -/
def spansOk (es : List (BitVec 256)) : Bool :=
  let valid := es.filter fun e => bit e 0
  es.all spanReservedOk && valid.all spanOk && spansApart valid

/-- Whether a far-map entry is accepted (R289). -/
def farEntryOk (e : BitVec 128) : Bool :=
  fld e 11 5 == 0 && fld e 127 64 % 4096 == 0 && decide (fld e 127 64 ≤ 0x4000000000)

/-- The COPY whose next request an engine issues: the first that has requests left, once its step lets it start (R29, R30, R371). -/
def copyNext (s : State) (g : CopyEngine) : Option (CopyRun × Cmd) :=
  match g.queue.find? fun r => !r.issued && r.stop.isNone with
  | none => none
  | some r => match findCmd s r.cmd with
    | none => none
    | some c => if c.started || mayBegin s c.slot c.step then some (r, c) else none

/-- A T2 request takes a slot of engine `k` (R290) when the engine has one and its turn has come. -/
def farIssueAt (k : Fin 16) (s : State) : Option State :=
  let g := s.host.engines[k]
  match g.waiting with
  | [] => none
  | id :: rest =>
    if g.slots.length ≥ 64 || (!g.farTurn && (copyNext s g).isSome) then none
    else
      let s := updEngine k (fun g => { g with waiting := rest, slots := g.slots ++ [.far id s.now], farTurn := false }) s
      match findReq s id with
      | none => some s
      | some r =>
        let s := updReq id (fun r => { r with state := .sent }) s
        some (if r.write then s else emit (.hostRead (farBus s r.pa) r.len) s)

/-- FAR_REQUEST_ISSUE (R290). -/
def execFarRequestIssue (pair : Fin 8) (s : State) : Host.Outcome State Fault Refusal :=
  go (if !hostReachable s then s
    else
      match farIssueAt (fin pair.val) s with
      | some s' => s'
      | none => (farIssueAt (fin (pair.val + 8)) s).getD s)

/-- How a PCIe read ends: its data, or the status of its failure (R372). -/
def hostData (n : Nat) : HostResult → Status × Data
  | .data d => (.ok, dslice d 0 n)
  | .unsupported => (.addressRange, [])
  | .timeout => (.linkTimeout, [])

/-- FAR_REQUEST_DONE (R290): slot `idx` of the inbound engine, or slot `idx` − 64 of the outbound one, is freed. -/
def execFarRequestDone (pair : Fin 8) (idx : Nat) (r : HostResult) (s : State) : Host.Outcome State Fault Refusal :=
  let k : Fin 16 := fin (if idx < 64 then pair.val else pair.val + 8)
  let i := idx % 64
  go (match s.host.engines[k].slots[i]? with
    | some (.far id _) =>
      let s := updEngine k (fun g => { g with slots := dropIdx g.slots i }) s
      match findReq s id with
      | none => s
      | some q =>
        if q.write then endReq id .ok [] (emit (.hostWrite (farBus s q.pa) q.data false) s)
        else let x := hostData q.len r; endReq id x.1 x.2 s
    | _ => s)

end Sys2Proof.Machine
end

