-- ==== Sys2Proof/Machine/Copy.lean ====
section
/-!
DEFINITION. The copy engines and INLINE_WRITE (10: R368 to R372).
-/
namespace Sys2Proof.Machine

/-- DIR of a COPY: 1 is OUT (R369). -/
def cpOut (p : BitVec 1536) : Bool := bit p 3
/-- The engine of a COPY: inbound 0 to 7, outbound 8 to 15. -/
def cpEngine (p : BitVec 1536) : Fin 16 := fin (fld p 2 0 + 8 * b2n (cpOut p))
/-- SIGNAL. -/
def cpSignal (p : BitVec 1536) : Bool := bit p 4
/-- ROWS. -/
def cpRows (p : BitVec 1536) : Nat := fld p 47 32
/-- HOST_ADDR. -/
def cpHost (p : BitVec 1536) : Nat := fld p 127 64
/-- DVA. -/
def cpDva (p : BitVec 1536) : Nat := fld p 175 128
/-- ROW_BYTES. -/
def cpRowBytes (p : BitVec 1536) : Nat := fld p 223 192
/-- HOST_STRIDE. -/
def cpHostStride (p : BitVec 1536) : Nat := fld p 255 224
/-- DVA_STRIDE. -/
def cpDvaStride (p : BitVec 1536) : Nat := fld p 287 256
/-- HOST_BYTES. -/
def cpHostBytes (p : BitVec 1536) : Nat := fld p 351 288
/-- DEV_BYTES. -/
def cpDevBytes (p : BitVec 1536) : Nat := fld p 415 352
/-- EXT_H (R370). -/
def cpHostExt (p : BitVec 1536) : Nat := (cpRows p - 1) * cpHostStride p + cpRowBytes p
/-- EXT_D (R370). -/
def cpDevExt (p : BitVec 1536) : Nat := (cpRows p - 1) * cpDvaStride p + cpRowBytes p

/-- Whether a COPY breaks its encoding (R370, item 1). -/
def copyMalformed (p : BitVec 1536) : Bool :=
  fld p 7 5 != 0 || bit p 15 || fld p 31 21 != 0 || fld p 63 48 != 0 || fld p 191 176 != 0 || fld p 511 416 != 0 ||
  (!cpSignal p && (fld p 14 8 != 0 || fld p 20 16 != 0)) ||
  cpHost p % 4 != 0 || cpDva p % 32 != 0 || cpHostStride p % 4 != 0 || cpDvaStride p % 32 != 0 ||
  (cpRows p != 0 && (decide (cpRowBytes p < 32) || cpRowBytes p % 32 != 0)) ||
  (decide (cpRows p > 1) && decide ((if cpOut p then cpHostStride p else cpDvaStride p) < cpRowBytes p))

/-- The checks of a COPY (R370), and the wait for room at its engine (R371). -/
def copyCheck (_ : Fin 64) (c : Slot) (s : State) : State × Adm :=
  let p := c.pay
  let out := cpOut p
  let d := checks [
    (copyMalformed p, .malformed), (cpSignal p && fenced s (fld p 14 8), .addressRange), stepRules s c, (cpRows p == 0, .okNoOp),
    (if out then decide (cpDevExt p > cpDevBytes p) else decide (cpHostExt p > cpHostBytes p), .lengthRange),
    (if out then decide (cpHostExt p > cpHostBytes p) else decide (cpDevExt p > cpDevBytes p), .bufferTooSmall)]
  (s, if d = .accept ∧ s.host.engines[cpEngine p].queue.length ≥ 32 then .wait else d)

/-- COPY (R370, R371). -/
def copyRule : OpRule :=
  { check := copyCheck
    effect := fun k s =>
      let r : CopyRun := { cmd := k.id, row := 0, off := 0, issued := false, xlated := [], acks := [], moved := 0, stop := none, poison := none }
      updEngine (cpEngine k.slot.pay) (fun g => { g with queue := g.queue ++ [r] }) s }

/-- COPY (R370). -/
def execCopy (sq : Fin 64) (c : Slot) (s : State) : Host.Outcome State Fault Refusal := go (commandAtHead 0x18 copyRule sq c s)

/-- A COPY of an engine changed by `f`. -/
def updCopy (k : Fin 16) (cmd : Nat) (f : CopyRun → CopyRun) (s : State) : State :=
  updEngine k (fun g => { g with queue := mapIf (fun r => r.cmd == cmd) f g.queue }) s

/-- Whether a slot of an engine belongs to a COPY. -/
def slotOf (cmd : Nat) : CopySlot → Bool
  | .copy c .. => c == cmd
  | .far .. => false

/-- A COPY with nothing left to do completes (R371, R372): its signal follows the data. -/
def endCopy (k : Fin 16) (cmd : Nat) (s : State) : State :=
  let g := s.host.engines[k]
  match g.queue.find? fun r => r.cmd == cmd, findCmd s cmd with
  | some r, some c =>
    if g.slots.any (slotOf cmd) || !r.acks.isEmpty || !(r.issued || r.stop.isSome) then s
    else
      let p := c.slot.pay
      let s := updEngine k (fun g => { g with queue := g.queue.filter fun x => x.cmd != cmd }) s
      match r.stop with
      | some st => completeCmd cmd st r.moved s
      | none =>
        let s := if cpSignal p then sendSignal (whoCopy k) (fin (fld p 14 8)) (fld p 20 16) s else s
        match r.poison with
        | some row => completeCmd cmd .dataPoison (row * cpDvaStride p) s
        | none => completeCmd cmd .ok r.moved s
  | _, _ => s

/-- A COPY stops (R371): it issues nothing more. -/
def stopCopy (k : Fin 16) (cmd : Nat) (st : Status) (s : State) : State :=
  endCopy k cmd (updCopy k cmd (fun r => { r with stop := r.stop.orElse fun _ => some st }) s)

/-- The device side of a request is translated piece by piece (R371): the pieces translated so far, and how far that has come. -/
def copyXlate (k : Fin 16) (write : Bool) (cmd : Nat) : List (Nat × Nat) → List (Nat × Nat) → State → State × List (Nat × Nat) × IoRes
  | [], ps, s => (s, ps, .done [])
  | x :: xs, ps, s =>
    let t := xlateTry (whoCopy k) cmd x.1 s
    match t.2 with
    | .wait => (t.1, ps, .wait)
    | .fail st => (t.1, ps, .fail st)
    | .hit e =>
      if e.tier.val ≥ 2 then (t.1, ps, .fail .addressRange)
      else if write && !e.write then (t.1, ps, .fail .accessDenied)
      else match accessFails t.1 .cmd e.pa x.2 write with
        | some st => (t.1, ps, .fail st)
        | none => copyXlate k write cmd xs (ps ++ [(e.pa, x.2)]) t.1

/-- Requests for translated pieces: reads, or writes of `d`; with their numbers. -/
def copyPost (k : Fin 16) (write : Bool) : List (Nat × Nat) → Data → State → State × List Nat
  | [], _, s => (s, [])
  | x :: xs, d, s =>
    let e : XEntry := { pa := x.1, tier := physTier x.1, write := true, runahead := false, node := 0 }
    let p := postReq .cmd (whoCopy k) write e x.2 (if write then dslice d 0 x.2 else []) s
    let q := copyPost k write xs (d.drop x.2) p.1
    (q.1, p.2 :: q.2)

/-- How far requests have come together: the data of reads in their order. -/
def reqsRes (s : State) (ids : List Nat) : IoRes := ids.foldl (fun r id => r.join (reqRes s id)) (.done [])

/-- Requests that are over are forgotten. -/
def forgetReqs (ids : List Nat) (s : State) : State := ids.foldl (fun s id => forgetReq id s) s

/-- An engine's next request takes a slot: an inbound one is sent, an outbound one begins to read its device side. -/
def copyIssue (eng : Fin 16) (r : CopyRun) (c : Cmd) (host n : Nat) (ps : List (Nat × Nat)) (s : State) : State :=
  let p := c.slot.pay
  let out := cpOut p
  let rowEnd := decide (cpRowBytes p ≤ r.off + n)
  let next (r : CopyRun) : CopyRun :=
    { r with
      row := if rowEnd then r.row + 1 else r.row, off := if rowEnd then 0 else r.off + n, xlated := [],
      issued := rowEnd && decide (cpRows p ≤ r.row + 1) }
  let q := if out then copyPost eng false ps [] s else (s, [])
  let s := updCopy eng c.id next q.1
  let s := updEngine eng (fun g => { g with slots := g.slots ++ [.copy c.id r.row n host ps q.2 s.now], farTurn := true }) s
  if out then s else emit (.hostRead host n) s

/-- COPY_REQUEST_ISSUE (R371): the engine's next request takes a slot, within one row and one 4 KiB window of host addresses, once its
device side is translated. -/
def execCopyRequestIssue (eng : Fin 16) (s : State) : Host.Outcome State Fault Refusal :=
  let g := s.host.engines[eng]
  go (match copyNext s g with
    | none => s
    | some (r, c) =>
      if g.slots.length ≥ 64 || (g.farTurn && !g.waiting.isEmpty) || !hostReachable s then s
      else
        let p := c.slot.pay
        let host := (cpHost p + r.row * cpHostStride p + r.off) % 2 ^ 64
        let dva := (cpDva p + r.row * cpDvaStride p + r.off) % 2 ^ 48
        let n := min (cpRowBytes p - r.off) (4096 - host % 4096)
        let x := copyXlate eng (!cpOut p) c.id ((pieces dva n).drop r.xlated.length) r.xlated (startCmd c.id s)
        match x.2.2 with
        | .wait => updCopy eng c.id (fun r => { r with xlated := x.2.1 }) x.1
        | .fail st => stopCopy eng c.id st x.1
        | .done _ => copyIssue eng r c host n x.2.1 x.1)

/-- Bytes of a COPY have reached their destination. -/
def copyMoved (k : Fin 16) (cmd n : Nat) (s : State) : State :=
  updCopy k cmd (fun r => { r with moved := r.moved + n }) (hostCount (fun c => { c with copyBytes := bump c.copyBytes k n }) s)

/-- The inbound writes of a COPY that have ended: their bytes count, or the COPY stops (R371). -/
def takeAcks (k : Fin 16) (cmd : Nat) (s : State) : State :=
  let one (s : State) (a : List Nat × Nat) : State :=
    let drop (s : State) : State := updCopy k cmd (fun r => { r with acks := r.acks.filter fun b => b ≠ a }) (forgetReqs a.1 s)
    match reqsRes s a.1 with
    | .wait => s
    | .fail st => stopCopy k cmd st (drop s)
    | .done _ => copyMoved k cmd a.2 (drop s)
  match s.host.engines[k].queue.find? fun r => r.cmd == cmd with
  | some r => endCopy k cmd (r.acks.foldl one s)
  | none => s

/-- Every COPY takes the acknowledgements that have come. -/
def settleCopies (s : State) : State :=
  (List.finRange 16).foldl (fun s k => s.host.engines[k].queue.foldl (fun s r => if r.acks.isEmpty then s else takeAcks k r.cmd s) s) s

/-- The slot `idx` of an engine is free. -/
def freeSlot (k : Fin 16) (idx : Nat) (s : State) : State := updEngine k (fun g => { g with slots := dropIdx g.slots idx }) s

/-- A request of a COPY ends as `r` says (R371, R372): inbound data is written, and outbound data, once it has been read, is sent. -/
def copyDone (k : Fin 16) (idx : Nat) (r : HostResult) (s : State) : State :=
  match s.host.engines[k].slots[idx]? with
  | some (.copy cmd row n host ps reqs _) =>
    if k.val < 8 then
      let x := hostData n r
      if !fine x.1 then stopCopy k cmd x.1 (freeSlot k idx s)
      else
        let w := copyPost k true ps x.2 (freeSlot k idx s)
        takeAcks k cmd (updCopy k cmd (fun r => { r with acks := r.acks ++ [(w.2, n)] }) w.1)
    else match reqsRes s reqs with
      | .wait => s
      | .fail st => stopCopy k cmd st (freeSlot k idx (forgetReqs reqs s))
      | .done ds =>
        let note (r : CopyRun) : CopyRun := if poisoned ds.flatten then { r with poison := some (min row (r.poison.getD row)) } else r
        let s := updCopy k cmd note (freeSlot k idx (forgetReqs reqs s))
        endCopy k cmd (copyMoved k cmd n (emit (.hostWrite host ds.flatten true) s))
  | _ => s

/-- COPY_REQUEST_DONE (R371). -/
def execCopyRequestDone (eng : Fin 16) (idx : Nat) (r : HostResult) (s : State) : Host.Outcome State Fault Refusal :=
  go (copyDone eng idx r s)

/-- Nanoseconds after which a non-posted request of the X4 meets a completion timeout (R350): 10 ms at the default code. -/
def completionTimeout (s : State) : Nat := if s.host.pcie.cto = 0 then 10000000 else Config.completionTimeout s.host.pcie.cto

/-- PCIE_COMPLETION_TIMEOUT (R350, R372): the read in slot `idx` of an inbound engine has had no completion in time. -/
def execPcieCompletionTimeout (eng : Fin 16) (idx : Nat) (s : State) : Host.Outcome State Fault Refusal :=
  let late (since : Nat) : Bool := decide (since + completionTimeout s ≤ s.now)
  go (if eng.val ≥ 8 then s
    else match s.host.engines[eng].slots[idx]? with
      | some (.copy _ _ _ _ _ _ since) => if late since then copyDone eng idx .timeout s else s
      | some (.far id since) => if late since then endReq id .linkTimeout [] (freeSlot eng idx s) else s
      | none => s)

/-- The translation of an INLINE_WRITE's target, as its checks see it (R368, items 2 and 3). -/
def inlineTarget (q : Fin 64) (c : Slot) (s : State) : State × XTry := xlateTry whoFront (opKey kCheck q.val) (slotArg c) s

/-- The checks of an INLINE_WRITE (R368): a target whose page is being walked makes the slot wait. A walk that meets poison is
UNCORRECTABLE (R296). Whether an address beyond 48 bits is an invalid translation is inferred (DEDUCED). -/
def inlineCheck (q : Fin 64) (c : Slot) (s : State) : State × Adm :=
  let a := slotArg c
  if a % 32 ≠ 0 ∨ a % 2048 + slotBytes c > 2048 then (s, .refuse .malformed 0)
  else if a ≥ 2 ^ 48 then (s, .refuse .addressRange 0)
  else
    let t := inlineTarget q c s
    (t.1, match t.2 with
      | .wait => .wait
      | .fail st => .refuse st 0
      | .hit e => match checks [(decide (e.tier.val ≥ 2), .addressRange), (!e.write, .accessDenied), stepRules t.1 c] with
        | .accept => .admitWith [e.pa]
        | d => d)

/-- The write of an INLINE_WRITE (R368), to where its check found it: it completes once that has been acknowledged. -/
def inlineEffect (k : Cmd) (s : State) : State × Option (Status × Nat) :=
  let a := slotArg k.slot
  let n := slotBytes k.slot
  let key := opKey kCmd (4 * k.id)
  let e : XEntry := { pa := k.info.getD 0 0, tier := physTier (k.info.getD 0 0), write := true, runahead := false, node := 0 }
  let r := match ioFind s whoFront key true a n with
    | some p => (s, reqRes s p.req)
    | none => ioHold whoFront key true a n (postReq .cmd whoFront true e n (clean (slice (bytesOf 192 k.slot.pay) 0 n)) s)
  match r.2 with
  | .wait => (r.1, none)
  | .fail st => (ioForget whoFront key r.1, some (st, 0))
  | .done _ => (ioForget whoFront key r.1, some (.ok, 0))

/-- INLINE_WRITE (R368). -/
def inlineRule : OpRule := { check := inlineCheck, effect := runAtOnce inlineEffect }

/-- INLINE_WRITE (R368). -/
def execInlineWrite (sq : Fin 64) (c : Slot) (s : State) : Host.Outcome State Fault Refusal := go (commandAtHead 0x19 inlineRule sq c s)

end Sys2Proof.Machine
end

