-- ==== Sys2Proof/Machine/Answers.lean ====
section
/-!
DEFINITION. Channels of the dictionary server and the answers it sends (11: R398, R401, R404, R410).
-/
namespace Sys2Proof.Machine

/-- The dictionary server changed by `f`. -/
def updDict (f : Dict → Dict) (s : State) : State := { s with dict := f s.dict }

/-- The management counters changed by `f`. -/
def mgmtCount (f : MgmtCounters → MgmtCounters) (s : State) : State := updDict (fun d => { d with counters := f d.counters }) s

/-- OP of a VMP header (R401). -/
def vmOp (h : BitVec 256) : Nat := fld h 7 4
/-- FINAL. -/
def vmFinal (h : BitVec 256) : Bool := bit h 8
/-- SEQ. -/
def vmSeq (h : BitVec 256) : Nat := fld h 31 16
/-- INDEX. -/
def vmIndex (h : BitVec 256) : Nat := fld h 47 32
/-- SUB. -/
def vmSub (h : BitVec 256) : Nat := fld h 55 48
/-- OFFSET. -/
def vmOffset (h : BitVec 256) : Nat := fld h 95 64
/-- LENGTH. -/
def vmLength (h : BitVec 256) : Nat := fld h 111 96
/-- TOTAL. -/
def vmTotal (h : BitVec 256) : Nat := fld h 159 128
/-- ADDR. -/
def vmAddr (h : BitVec 256) : Nat := fld h 223 176

/-- A VMP header (R401). -/
def vmpHeader (op seq index sub status offset length total addr : Nat) (final : Bool) : BitVec 256 :=
  BitVec.ofNat 256 (1 + (op % 16) * 2 ^ 4 + b2n final * 2 ^ 8 + (seq % 2 ^ 16) * 2 ^ 16 + (index % 2 ^ 16) * 2 ^ 32 + (sub % 256) * 2 ^ 48 +
    (status % 256) * 2 ^ 56 + (offset % 2 ^ 32) * 2 ^ 64 + (length % 2 ^ 16) * 2 ^ 96 + (total % 2 ^ 32) * 2 ^ 128 + (addr % 2 ^ 48) * 2 ^ 176)

/-- The response to a request (R401, R402). For MEM operations and DESCRIBE the request's OP stands in the top bits of OFFSET; ADDR is the
request's in MEM operations and otherwise 0. -/
def vmpResponse (req : BitVec 256) (st : Status) (data : List Byte) (total : Nat) (final : Bool) : Vmp :=
  let op := vmOp req
  let offset := if op = 3 ∨ op = 5 ∨ op = 6 then op * 2 ^ 28 + vmOffset req % 2 ^ 28 else vmOffset req
  let addr := if op = 5 ∨ op = 6 then vmAddr req else 0
  { hdr := vmpHeader 2 (vmSeq req) (vmIndex req) (vmSub req) (statusCode st) offset data.length total addr final, data := data }

/-- A channel that has not been used. -/
def ChanState.fresh (ch : Chan) : ChanState := { ch := ch, latch := none, wbuf := none, lost := none, snap := none, snapNs := 0, kept := [] }

/-- A channel of the server. -/
def chanState (s : State) (ch : Chan) : ChanState := (s.dict.channels.find? fun c => c.ch == ch).getD (.fresh ch)

/-- The channels after a use of one, which comes first; of the field network's, the sixteen used last stay (R398). -/
def touchChan (c : ChanState) (cs : List ChanState) : List ChanState :=
  let all := c :: cs.filter fun x => x.ch != c.ch
  let fns := (all.filter fun x => x.ch != .mailbox).take 16
  all.filter fun x => x.ch == .mailbox || fns.contains x

/-- A channel changed by `f`; it is the one used last. -/
def updChan (ch : Chan) (f : ChanState → ChanState) (s : State) : State :=
  updDict (fun d => { d with channels := touchChan (f (chanState s ch)) d.channels }) s

/-- A message as a frame carries it: padded with zeros to the Ethernet minimum of 46 bytes, its header among them (R401). -/
def framed (m : Vmp) : Vmp := { m with data := m.data ++ List.replicate (14 - m.data.length) 0 }

/-- A message goes out on a channel: a frame on the field network, unless REFCLK is lost (R430), or the mailbox's response (R410). -/
def sendVmp (ch : Chan) (m : Vmp) (s : State) : State :=
  match ch with
  | .fn mac =>
    if !s.clk.refclk then s
    else emit (.fnFrame mac (framed m)) (mgmtCount (fun c => { c with txFrames := addSat c.txFrames 1 }) s)
  | .mailbox =>
    let s := mgmtCount (fun c => { c with mbOps := addSat c.mbOps 1 }) s
    let b := s.dict.mailbox
    if b.orphans ≠ 0 then updDict (fun d => { d with mailbox := { b with orphans := b.orphans - 1 } }) s
    else
      let s := updDict (fun d => { d with mailbox := { b with busy := false, done := true, response := bytesOf 32 m.hdr ++ m.data } }) s
      if b.irq then raiseVector b.vector s else s

/-- A request is answered, and its channel keeps the response, of which it has the last 8 (R404). -/
def respond (ch : Chan) (req : BitVec 256) (m : Vmp) (s : State) : State :=
  let keep (c : ChanState) : ChanState :=
    match ch with
    | .mailbox => c
    | .fn _ => { c with kept := ({ request := req, response := m } :: c.kept).take 8 }
  sendVmp ch m (updChan ch keep s)

/-- The answer to a write: a VMP response where it came in a request, and otherwise the answer to a whole value. -/
def answerWrite (w : WaitingWrite) (st : Status) (s : State) : State :=
  match w.req with
  | some req => respond w.ch req (vmpResponse req st [] (vmTotal req) false) s
  | none => emit (.answer w.ch w.index w.sub st) s

/-- The action of a CMD object ends (R13, R398): its status becomes readable. -/
def endAction (index sub : Nat) (st : Status) (s : State) : State :=
  updDict (fun d => { d with
    running := d.running.filter fun x => x != (index, sub),
    statuses := { index := index, sub := sub, status := st } :: d.statuses.filter fun x => !(x.index == index && x.sub == sub) }) s

/-- The action of a CMD object starts. -/
def startAction (index sub : Nat) (s : State) : State := updDict (fun d => { d with running := d.running ++ [(index, sub)] }) s

/-- Whether the action of a CMD object runs. -/
def actionRuns (s : State) (index sub : Nat) : Bool := s.dict.running.contains (index, sub)

/-- Waiting writes that `p` selects are answered, in their order (R398). -/
def answerWhere (p : WaitingWrite → Bool) (st : Status) (s : State) : State :=
  let s' := updDict (fun d => { d with waiting := d.waiting.filter fun w => !p w }) s
  (s.dict.waiting.filter p).foldl (fun s w => answerWrite w st s) s'

/-- Whether a waiting write waits for the action of an object. -/
def waitsOn (index sub : Nat) (w : WaitingWrite) : Bool := w.index == index && w.sub == sub && !w.store

/-- Writes to an object that wait are answered (R398). -/
def answerWaiting (index sub : Nat) (st : Status) (s : State) : State := answerWhere (waitsOn index sub) st s

end Sys2Proof.Machine
end

