-- ==== Sys2Proof/Machine/Flash.lean ====
section
/-!
DEFINITION. The flash (13: R454 to R456), firmware images and their checks (R466, R467), and protection blobs (R460, R465).
-/
namespace Sys2Proof.Machine

/-- Boot and firmware changed by `f`. -/
def updBoot (f : Boot → Boot) (s : State) : State := { s with boot := f s.boot }

/-- The flash changed by `f`. -/
def updFlash (f : Flash → Flash) (s : State) : State := updBoot (fun b => { b with flash := f b.flash }) s

/-- The index of a bank (`true`: B). -/
def bankIx (b : Bool) : Fin 2 := if b then 1 else 0

/-- The boot record in force, with the copy it lies in (R455): of two valid copies that with the higher GENERATION. -/
def bootRec (f : Flash) : Option (Bool × BootRec) :=
  match f.rec0, f.rec1 with
  | some a, some b => if a.generation < b.generation then some (true, b) else some (false, a)
  | some a, none => some (false, a)
  | none, some b => some (true, b)
  | none, none => none

/-- A write of the boot record: into the other copy, with GENERATION + 1 (R455). -/
def writeBootRec (f : BootRec → BootRec) (s : State) : State :=
  match bootRec s.boot.flash with
  | none => s
  | some (copy, r) =>
    let r' := { f r with generation := r.generation + 1 }
    updFlash (fun x => if copy then { x with rec0 := some r' } else { x with rec1 := some r' }) s

/-- The state of a bank in a boot record. -/
def recState (r : BootRec) (b : Bool) : Nat := (if b then r.stateB else r.stateA).toNat

/-- A boot record with a bank's state changed. -/
def setRecState (b : Bool) (st : Nat) (r : BootRec) : BootRec :=
  if b then { r with stateB := BitVec.ofNat 8 st } else { r with stateA := BitVec.ofNat 8 st }

/-- A boot record with a bank's version and epoch changed. -/
def setRecImage (b : Bool) (version epoch : Nat) (r : BootRec) : BootRec :=
  if b then { r with versionB := BitVec.ofNat 32 version, epochB := BitVec.ofNat 16 epoch }
  else { r with versionA := BitVec.ofNat 32 version, epochA := BitVec.ofNat 16 epoch }

/-- The epoch of a bank in a boot record. -/
def recEpoch (r : BootRec) (b : Bool) : Nat := (if b then r.epochB else r.epochA).toNat

/-- `n` bytes of a bank from an offset. -/
def bankBytes (b : BankData) (off n : Nat) : List Byte :=
  match b with
  | .shipped => slice Config.shippedImage off n
  | .written m => dataBytes (memRead m off n)

/-- The size of a block (R466). -/
def blockSize : Nat := 0x10000

/-- Block `k` of a bank. -/
def bankBlock (b : BankData) (k : Nat) : List Byte := bankBytes b (k * blockSize) blockSize

/-- A field of a header's bytes. -/
def byteField (bs : List Byte) (off n : Nat) : Nat := leNat (slice bs off n)

/-- VERSION of block 0 (R466). -/
def imVersion (h : List Byte) : Nat := byteField h 8 4
/-- BOUND. -/
def imBound (h : List Byte) : Bool := byteField h 12 1 % 2 == 1
/-- BLOCKS. -/
def imBlocks (h : List Byte) : Nat := byteField h 32 2
/-- SETTINGS_FORMAT. -/
def imSettings (h : List Byte) : Nat := byteField h 34 2
/-- SECURITY_EPOCH. -/
def imEpoch (h : List Byte) : Nat := byteField h 36 2
/-- The header's CRC of block `k`. -/
def imCrc (h : List Byte) (k : Nat) : Nat := byteField h (256 + 4 * k) 4

/-- Whether block 0's header has its MAGIC, FORMAT and a legal BLOCKS (R467, item 1). -/
def headerOk (h : List Byte) : Bool :=
  byteField h 0 4 == 0x34585348 && byteField h 4 2 == 1 && decide (3 ≤ imBlocks h) && decide (imBlocks h ≤ 896)

/-- Whether block 0's own CRC holds (R466). -/
def blockZeroCrc (h : List Byte) : Bool := (crc32c (slice h 0 65532)).toNat == byteField h 65532 4

/-- Whether an image is for this unit (R467, item 2; R458): type, binding and epoch. -/
def imageFits (s : State) (h : List Byte) : Bool :=
  byteField h 6 2 == 0x0451 && (!imBound h || byteField h 16 16 == Config.unitSerial) && decide (s.boot.fusedEpoch.toNat ≤ imEpoch h)

/-- The checks of block 0 (R467): the status of the first that fails. -/
def blockZeroStatus (s : State) (h : List Byte) : Status :=
  if !headerOk h || !blockZeroCrc h then .malformed else if !imageFits s h then .accessDenied else .ok

/-- Whether every block's CRC matches the header (R466). -/
def blocksOk (b : BankData) (h : List Byte) : Bool :=
  blockZeroCrc h && (List.range (imBlocks h - 1)).all fun i => (crc32c (bankBlock b (i + 1))).toNat == imCrc h (i + 1)

/-- The bytes of blocks 0 to N − 2. -/
def imageBody (b : BankData) (h : List Byte) : List Byte := bankBytes b 0 ((imBlocks h - 1) * blockSize)

/-- Whether an image's signature verifies with IMAGE_KEY (R466). -/
def imageSigned (b : BankData) (h : List Byte) : Bool :=
  Config.slhVerify Config.imageKey (imageBody b h) (slice (bankBlock b (imBlocks h - 1)) 0 7856)

/-- Why a bank fails the checks of boot (R458), by the codes of BOOT_REPORT (R476); 0 if it passes. Which code a wrong CRC of block 0
itself gives is inferred (DEDUCED: 2). The image that a unit ships with passes (DESIGN CHOICE). -/
def bankFailure (s : State) (b : BankData) : Nat :=
  let h := bankBlock b 0
  match b with
  | .shipped => if decide (s.boot.fusedEpoch.toNat ≤ imEpoch h) then 0 else 4
  | .written _ =>
    if !headerOk h then 1 else if !blocksOk b h then 2 else if !imageSigned b h then 3 else if !imageFits s h then 4 else 0

/-- A window entry of a blob that keeps its encoding (R460). -/
def windowOk (w : BitVec 256) : Bool :=
  !bit w 23 && fld w 63 39 == 0 && fld w 127 112 == 0 && fld w 255 192 == 0 && fld w 111 64 % 4096 == 0 && fld w 191 128 % 4096 == 0 &&
  decide (4096 ≤ fld w 191 128) && (bit w 5 || bit w 6 || (fld w 22 8 == 0 && fld w 38 24 == 0))

/-- WINDOWS of a blob (R460). -/
def blobCount (b : List Byte) : Nat := byteField b 32 2 % 128
/-- The window entries of a blob. -/
def blobWindows (b : List Byte) : List (BitVec 256) :=
  (List.range (blobCount b)).map fun i => BitVec.ofNat 256 (byteField b (128 + 32 * i) 32)
/-- HOLD_MS of a blob. -/
def blobHold (b : List Byte) : Nat := byteField b 34 2
/-- VERSION of a blob. -/
def blobVersion (b : List Byte) : Nat := byteField b 12 4
/-- KEY of a blob. -/
def blobKey (b : List Byte) : Bool := byteField b 8 1 / 2 % 2 == 1
/-- Whether a blob's HW_TYPE and binding are this unit's (R462, R465). -/
def blobFits (b : List Byte) : Bool :=
  byteField b 6 2 == 0x0451 && (byteField b 8 1 % 2 == 0 || byteField b 16 16 == Config.unitSerial)
/-- Whether a blob's signature verifies with a key (R460). -/
def blobSigned (key b : List Byte) : Bool :=
  let n := 128 + 32 * blobCount b
  Config.slhVerify key (b.take n) (b.drop n)

/-- Whether a blob keeps its format: header, size and window entries (R460, R465). -/
def blobFormOk (b : List Byte) : Bool :=
  byteField b 0 4 == 0x50585348 && byteField b 4 2 == 1 && byteField b 8 4 / 4 == 0 && decide (1 ≤ blobCount b) && decide (blobCount b ≤ 64) &&
  byteField b 32 2 / 128 == 0 && decide (blobHold b ≤ 10000) && (slice b 36 92).all (· == 0) &&
  (byteField b 8 1 % 2 == 1 || byteField b 16 16 == 0) && b.length == 128 + 32 * blobCount b + 7856 && (blobWindows b).all windowOk

/-- A window that opens classes, as bits 1 to 7 (R460), for nodes 0 to 32,767 where it opens a REMOTE class. -/
def openWindow (classes base size : Nat) : BitVec 256 :=
  BitVec.ofNat 256 (1 + classes + (if classes / 32 % 4 = 0 then 0 else 32767 * 2 ^ 24) + base * 2 ^ 64 + size * 2 ^ 128)

/-- What the factory blob opens (R462, item 1). -/
def factoryWindows : List (BitVec 256) := [openWindow 0xFE 0 0x18040000000, openWindow 0x80 0x100000000000 0x100000000000]

/-- The window of CLOSED (R462, item 3). -/
def closedWindows : List (BitVec 256) := [openWindow 0x80 0 0x200000000000]

/-- Whether OWNER_KEY is unprogrammed (R453). -/
def noOwner (s : State) : Bool := s.boot.ownerKey.all (· == 0)

/-- The owner slot that counts at boot (R462, item 2). -/
def ownerBlob (s : State) : Option (List Byte) :=
  let ok := s.boot.flash.owner.toList.filterMap id |>.filter fun b => blobSigned s.boot.ownerKey b && blobKey b && blobFits b
  match ok with
  | [a, b] => some (if blobVersion a < blobVersion b then b else a)
  | a :: _ => some a
  | [] => none

/-- The protection that applies at boot (R462): its blob, source, windows and hold in milliseconds. -/
def chosenBlob (s : State) : Option (List Byte) × Nat × List (BitVec 256) × Nat :=
  if noOwner s then (some Config.factoryBlob, 0, factoryWindows, 250)
  else match ownerBlob s with
    | some b => (some b, 1, blobWindows b, blobHold b)
    | none => (none, 2, closedWindows, 0)

/-- Whether a blob's signature is wrong (R460, R465): KEY says which key verifies it. With OWNER_KEY unprogrammed there is no key to check
with, and the blob is refused for that (DEDUCED). -/
def blobForged (s : State) (b : List Byte) : Bool :=
  if blobKey b then !noOwner s && !blobSigned s.boot.ownerKey b else !blobSigned Config.imageKey b

/-- Why a blob for PROT_INSTALL is refused (R465), if it is. -/
def installFails (s : State) (b : List Byte) : Option Status :=
  let versions := s.boot.flash.owner.toList.filterMap id |>.map blobVersion
  if !blobFormOk b || blobForged s b then some .malformed
  else if noOwner s || !blobKey b || !blobFits b || versions.any (fun v => decide (blobVersion b ≤ v)) then some .accessDenied
  else none

/-- The slot that PROT_INSTALL writes: an empty one, or that with the lower VERSION (R465). -/
def installSlot (s : State) : Fin 2 :=
  match s.boot.flash.owner[0], s.boot.flash.owner[1] with
  | none, _ => 0
  | _, none => 1
  | some a, some b => if blobVersion b < blobVersion a then 1 else 0

/-- A record is committed in the config store under the running firmware's format (R456, R472). -/
def storeRecord (index sub : Nat) (v : List Byte) (s : State) : State :=
  let fmt := s.boot.settings
  let r : StoreRec := { format := fmt, index := index, sub := sub, value := v }
  updFlash (fun f => { f with store := r :: f.store.filter fun x => !(x.format == fmt && x.index == index && x.sub == sub) }) s

/-- A measurement register is extended (R473). -/
def extendMeas (k : Fin 8) (d : List Byte) (s : State) : State :=
  updBoot (fun b => { b with meas := b.meas.set k (sha256 (b.meas[k] ++ d)) }) s

end Sys2Proof.Machine
end

