-- ==== Sys2Proof/Machine/Firmware.lean ====
section
/-!
DEFINITION. Receiving, activating and confirming firmware, and the kindle chain (13: R467 to R472).
-/
namespace Sys2Proof.Machine

/-- Whether a reception or an activation may begin (R468, R471): READY or RUNNING, no step open. -/
def mayUpdate (s : State) : Bool := (s.host.dev == .ready || s.host.dev == .running) && !stepOpen s

/-- Whether a trial is unconfirmed (R468). -/
def onTrial (s : State) : Bool := ((bootRec s.boot.flash).map fun r => r.2.trial) == some true

/-- Whether FW_RECEIVE is refused with STATE_CONFLICT (R468). -/
def receiveConflict (s : State) : Bool := !mayUpdate s || onTrial s || s.boot.kindleArea == 0

/-- The bank that is not running (R468). -/
def otherBank (s : State) : Bool := !s.boot.bank

/-- KINDLE_AREA as an address. -/
def kindleBase (s : State) : Nat := s.boot.kindleArea.toNat
/-- The staging slot of a block (R470). -/
def slotAddr (s : State) (b : Nat) : Nat := kindleBase s + b % 64 * blockSize
/-- The notice of a block (R470). -/
def noticeAddr (s : State) (b : Nat) : Nat := kindleBase s + 0x400000 + 16 * (b % 64)
/-- The acknowledgement word of a child (R470). -/
def ackAddr (s : State) (c : Nat) : Nat := kindleBase s + 0x401000 + 8 * c

/-- The reception changed by `f`. -/
def updRecv (f : Recv → Recv) (s : State) : State := updBoot (fun b => { b with recv := b.recv.map f }) s

/-- The kindle counters changed by `f`. -/
def kindleCount (f : KindleCounters → KindleCounters) (s : State) : State := updBoot (fun b => { b with counters := f b.counters }) s

/-- A reception starts (R468): the device is UPDATING and the other bank RECEIVING. The children's acknowledgement words start at 0
(DESIGN CHOICE: the spec does not say who clears those of an earlier reception). -/
def startReceive (source : Nat) (s : State) : State :=
  let back := if s.host.dev = .running then 3 else 2
  let kids := s.boot.kindleChildren.map fun _ => ({ pushed := 0, acked := 0, lastAck := s.now, dropped := false } : Child)
  let r : Recv := { source := source, back := back, blocks := 0, next := 0, inFlash := 0, told := 0, last := s.now, children := kids }
  let s := placeWrite (ackAddr s 0) (clean (List.replicate 128 0)) s
  let s := updBoot (fun b => { b with recv := some r }) s
  let s := updFlash (fun f => { f with banks := f.banks.set (bankIx (otherBank s)) (.written .empty) }) s
  setDev .updating (startAction 0x7001 1 (writeBootRec (fun r => setRecImage (otherBank s) 0 0 (setRecState (otherBank s) 1 r)) s))

/-- Every queue is disabled (R356). -/
def disableQueues (s : State) : State :=
  { s with host := { s.host with
      sqs := s.host.sqs.map fun q => { q with enable := false, waiting := none }, cqs := s.host.cqs.map fun q => { q with enable := false } } }

/-- Back in READY after an update, the queues are disabled once the admitted commands have run out (R356). -/
def settleReady (s : State) : State :=
  if s.host.dev = .ready ∧ s.host.cmds.isEmpty ∧ s.host.done.isEmpty then disableQueues s else s

/-- The dropped children as a mask (R476). -/
def droppedMask (r : Recv) : Nat := ((r.children.zip (List.range r.children.length)).map fun c => b2n c.1.dropped * 2 ^ c.2).sum

/-- A reception ends with a status (R468): the state it came from returns, or HELD where a front-end reset came meanwhile (R376). -/
def endReceive (st : Status) (s : State) : State :=
  match s.boot.recv with
  | none => s
  | some r =>
    let p : Progress :=
      { blocks := r.blocks, next := r.next, inFlash := r.inFlash, source := r.source, status := statusCode st, dropped := droppedMask r }
    let s := endAction 0x7001 1 st (updBoot (fun b => { b with recv := none, progress := p }) s)
    if r.back = 2 then settleReady (setDev .ready s) else if s.host.heldDue then enterHeldNow s else setDev .running s

/-- Block 0 of the image that is being received: in flash once written, and in staging slot 0 before. -/
def recvHeader (s : State) (r : Recv) : List Byte :=
  if r.inFlash = 0 then dataBytes (placeRead s (slotAddr s 0) blockSize) else bankBlock s.boot.flash.banks[bankIx (otherBank s)] 0

/-- The status of a received block's checks (R467, R469): its CRCs, and the checks of block 0. -/
def blockStatus (s : State) (r : Recv) (k : Nat) (crc : Nat) (bs : List Byte) : Status :=
  let own := (crc32c bs).toNat
  if own ≠ crc then .malformed
  else if k = 0 then blockZeroStatus s bs
  else if own ≠ imCrc (recvHeader s r) k then .malformed
  else .ok

/-- Whether the CRC of a received block fails, as KINDLE_CRC_ERR counts it (R477). -/
def blockCrcFails (s : State) (r : Recv) (k : Nat) (crc : Nat) (bs : List Byte) : Bool :=
  let own := (crc32c bs).toNat
  own != crc || (k != 0 && own != imCrc (recvHeader s r) k)

/-- Whether ROLES has a bit (R418). -/
def hasRole (s : State) (k : Nat) : Bool := bit s.dict.keep.roles k

/-- Whether this module forwards the image it receives (R467, R470): RELAY, and an image that is not bound. -/
def forwards (s : State) (r : Recv) : Bool := hasRole s 1 && 0 < r.next && !imBound (recvHeader s r)

/-- Whether a block is in flash and, at a module that forwards, acknowledged by every child that was not dropped (R470). -/
def blockSettled (fwd : Bool) (r : Recv) (k : Nat) : Bool :=
  decide (k < r.inFlash) && (!fwd || r.children.all fun c => c.dropped || decide (k < c.acked))

/-- Whether the staging slot of a block is free: the block it held last is settled (R470). -/
def slotFree (fwd : Bool) (r : Recv) (k : Nat) : Bool := decide (k < 64) || blockSettled fwd r (k - 64)

/-- A block is accepted (R469, R477). -/
def acceptBlock (k : Nat) (bs : List Byte) (s : State) : State :=
  let s := updRecv (fun r => { r with next := k + 1, last := s.now, blocks := if k = 0 then imBlocks bs else r.blocks }) s
  kindleCount (fun c => { c with blocksIn := addSat c.blocksIn 1 }) s

/-- BLOCK of a FW_BLOCK (R469). -/
def fbBlock (c : Slot) : Nat := fld c.pay 15 0
/-- SRC_DVA of a FW_BLOCK. -/
def fbSrc (c : Slot) : Nat := fld c.pay 111 64

/-- The checks of a FW_BLOCK's data, which has been read (R469); a block whose staging slot is not free waits. -/
def fwBlockData (r : Recv) (c : Slot) (data : Data) (s : State) : State × Adm :=
  let k := fbBlock c
  let bs := dataBytes data
  let crc := fld c.pay 159 128
  let st := blockStatus s r k crc bs
  if poisoned data then (s, .refuse .dataPoison 0)
  else if !fine st then
    (endReceive st (if blockCrcFails s r k crc bs then kindleCount (fun c => { c with crcErr := addSat c.crcErr 1 }) s else s), .refuse st 0)
  else if !slotFree (forwards s r) r k then (s, .wait)
  else (s, .admitWith (bs.map BitVec.toNat))

/-- The checks of a FW_BLOCK (R469). Its data is read through the front end's translation, from T1 alone; what protection or poison does to
that read is inferred from the other commands (DEDUCED). -/
def fwBlockCheck (q : Fin 64) (c : Slot) (s : State) : State × Adm :=
  let k := fbBlock c
  let r := s.boot.recv
  let running := (r.map fun r => r.source) == some 1
  let next := (r.map fun r => r.next).getD 0
  let blocks := (r.map fun r => r.blocks).getD 0
  let d := checks [
    (fld c.pay 63 16 != 0 || fld c.pay 127 112 != 0 || fld c.pay 255 160 != 0 || fbSrc c % 64 != 0, .malformed),
    (!hasRole s 0, .accessDenied), stepRules s c, (!running || decide (k > next), .stateConflict), (decide (k < next), .okNoOp),
    (decide (k ≥ 896) || (blocks != 0 && decide (k ≥ blocks)), .addressRange)]
  match d, r with
  | .accept, some r =>
    let x := ioMany .cmd whoFront (opKey kCheck q.val) [(ioRead (fbSrc c) blockSize).stack] s
    (match x.2 with
    | .wait => (x.1, .wait)
    | .fail st => (x.1, .refuse st 0)
    | y => fwBlockData r c y.data x.1)
  | d, _ => (s, d)

/-- FW_BLOCK (R469): the block goes into its staging slot. -/
def fwBlockRule : OpRule :=
  { check := fwBlockCheck
    effect := runAtOnce fun k s =>
      let b := fbBlock k.slot
      let bs := k.info.map (BitVec.ofNat 8)
      (acceptBlock b bs (placeWrite (slotAddr s b) (clean bs) s), some (.ok, 0)) }

/-- FW_BLOCK (R469). -/
def execFwBlock (sq : Fin 64) (c : Slot) (s : State) : Host.Outcome State Fault Refusal := go (commandAtHead 0x50 fwBlockRule sq c s)

/-- What the children have acknowledged, as their words show (R470). -/
def refreshAcks (s : State) : State :=
  let word (c : Nat) : Nat := memNat s.mem.t1 (ackAddr s c) 8
  let see (x : Child × Nat) : Child :=
    if x.1.acked < word x.2 then { x.1 with acked := min (word x.2) x.1.pushed, lastAck := s.now } else x.1
  updRecv (fun r => { r with children := (r.children.zip (List.range r.children.length)).map see }) s

/-- KINDLE_BLOCK_TAKE (R470): the next expected block, once its notice is valid and its slot's last block is settled. -/
def execKindleBlockTake (s : State) : Host.Outcome State Fault Refusal :=
  let s := refreshAcks s
  go (match s.boot.recv with
    | none => s
    | some r =>
      let k := r.next
      let notice := BitVec.ofNat 128 (memNat s.mem.t1 (noticeAddr s k) 16)
      if r.source ≠ 2 ∨ !bit notice 64 ∨ fld notice 15 0 ≠ k ∨ (r.blocks ≠ 0 ∧ k ≥ r.blocks) ∨ !slotFree (forwards s r) r k then s
      else
        let bs := dataBytes (placeRead s (slotAddr s k) blockSize)
        let crc := fld notice 63 32
        let st := blockStatus s r k crc bs
        if fine st then acceptBlock k bs s
        else
          let s := if blockCrcFails s r k crc bs then kindleCount (fun c => { c with crcErr := addSat c.crcErr 1 }) s else s
          endReceive st s)

/-- A Remote WRITE that management firmware sends through unit 0 and that nothing waits for (R470). -/
def kindleWrite (node pa : Nat) (d : Data) (s : State) : State :=
  (postFor (some .nobody) .own (whoUnit 0) true { pa := pa, tier := 3, write := true, runahead := false, node := node } d.length d s).1

/-- The blocks that are settled, which are the first ones (R470). -/
def settledBlocks (s : State) (r : Recv) : Nat := ((List.range r.inFlash).filter (blockSettled (forwards s r) r)).length

/-- A block is acknowledged to the parent once it is in flash and every child that it is forwarded to has it (R470). Where this module's
word lies in its parent's area, and what the other bytes of the write's 32 bytes are, the spec does not say: free values. -/
def ackParent (s : State) : State :=
  match s.boot.recv with
  | some r =>
    let done := settledBlocks s r
    if r.source = 2 ∧ s.boot.kindleParent ≠ 0xFFFF ∧ r.told < done then
      let f := takeFree (updRecv (fun r => { r with told := done }) s)
      let g := takeFree f.1
      let c := f.2 % 16
      let bytes := leBytes 32 g.2
      let mine := bytes.take (8 * (c % 4)) ++ leBytes 8 done ++ bytes.drop (8 * (c % 4) + 8)
      kindleWrite s.boot.kindleParent.toNat (kindleBase s + 0x401000 + 32 * (c / 4)) (clean mine) g.1
    else s
  | none => s

/-- A reception goes on (R470): acknowledgements of the children that have come let this module acknowledge to its parent. -/
def kindleGoesOn (s : State) : State := if s.boot.recv.isNone then s else ackParent (refreshAcks s)

/-- FLASH_BLOCK_WRITTEN (R470): the next received block is programmed and acknowledged. -/
def execFlashBlockWritten (s : State) : Host.Outcome State Fault Refusal :=
  let s := refreshAcks s
  go (match s.boot.recv with
    | none => s
    | some r =>
      if r.inFlash ≥ r.next then s
      else
        let i := bankIx (otherBank s)
        let d := clean (dataBytes (placeRead s (slotAddr s r.inFlash) blockSize))
        let put (b : BankData) : BankData :=
          match b with | .written m => .written (memWrite m (r.inFlash * blockSize) d) | .shipped => .shipped
        let s := updFlash (fun f => { f with banks := updAt f.banks i put }) s
        ackParent (updRecv (fun r => { r with inFlash := r.inFlash + 1 }) s))

/-- The notice of a block as bytes (R470). -/
def noticeBytes (s : State) (r : Recv) (k : Nat) : List Byte :=
  let crc := (crc32c (if k < r.inFlash then bankBlock s.boot.flash.banks[bankIx (otherBank s)] k
                      else dataBytes (placeRead s (slotAddr s k) blockSize))).toNat
  leBytes 16 (k + r.blocks * 2 ^ 16 + crc * 2 ^ 32 + 2 ^ 64)

/-- The pair of notices that a push writes: that of the block, and beside it that of the block pushed last into the other slot of the
pair, for a Remote WRITE moves 32 bytes (DESIGN CHOICE). -/
def noticePair (s : State) (r : Recv) (k : Nat) : List Byte :=
  let zero := List.replicate 16 (0 : Byte)
  if k % 2 = 1 then noticeBytes s r (k - 1) ++ noticeBytes s r k
  else noticeBytes s r k ++ (if k ≥ 64 then noticeBytes s r (k - 63) else zero)

/-- KINDLE_PUSH (R470): the next block and its notice go to a child. That the child's KINDLE_AREA is this module's own is the model's
(DESIGN CHOICE). -/
def execKindlePush (child : Nat) (s : State) : Host.Outcome State Fault Refusal :=
  let s := refreshAcks s
  go (match s.boot.recv with
    | none => s
    | some r => match r.children[child]?, s.boot.kindleChildren[child]? with
      | some c, some node =>
        if !forwards s r ∨ c.dropped ∨ c.pushed ≥ r.next ∨ c.pushed ≥ c.acked + 64 then s
        else
          let k := c.pushed
          let block := if k < r.inFlash then clean (bankBlock s.boot.flash.banks[bankIx (otherBank s)] k) else placeRead s (slotAddr s k) blockSize
          let pair := noticePair s r k
          let s := (pieces (slotAddr s k) blockSize).foldl (fun s p => kindleWrite node.toNat p.1 (dslice block (p.1 - slotAddr s k) p.2) s) s
          let s := kindleWrite node.toNat (noticeAddr s k / 32 * 32) (clean pair) s
          let next (c : Child) : Child := { c with pushed := k + 1, lastAck := if c.pushed = c.acked then s.now else c.lastAck }
          kindleCount (fun n => { n with blocksOut := addSat n.blocksOut 1 }) (updRecv (fun r => { r with children := updIdx r.children child next }) s)
      | _, _ => s)

/-- KINDLE_CHILD_DROP (R470): a child that acknowledges nothing for 60 s. -/
def execKindleChildDrop (child : Nat) (s : State) : Host.Outcome State Fault Refusal :=
  let s := refreshAcks s
  go (match s.boot.recv with
    | none => s
    | some r => match r.children[child]? with
      | some c =>
        if c.dropped ∨ c.acked ≥ c.pushed ∨ s.now < c.lastAck + 60000000000 then s
        else
          let drop (c : Child) : Child := { c with dropped := true }
          ackParent (kindleCount (fun n => { n with dropped := addSat n.dropped 1 })
            (updRecv (fun r => { r with children := updIdx r.children child drop }) s))
      | none => s)

/-- FW_RECEIVE_TIMEOUT (R468). -/
def execFwReceiveTimeout (s : State) : Host.Outcome State Fault Refusal :=
  go (match s.boot.recv with
    | none => s
    | some r => if (r.blocks = 0 ∨ r.next < r.blocks) ∧ r.last + 60000000000 ≤ s.now then endReceive .linkTimeout s else s)

/-- FW_IMAGE_VERIFY (R467, R468): the whole image is in flash, forwarded and acknowledged; its signature is checked. -/
def execFwImageVerify (s : State) : Host.Outcome State Fault Refusal :=
  let s := kindleGoesOn s
  go (match s.boot.recv with
    | none => s
    | some r =>
      let fwd := forwards s r && r.children.any fun c => !c.dropped && decide (c.acked < r.blocks)
      if r.blocks = 0 ∨ r.inFlash < r.blocks ∨ fwd then s
      else
        let b := otherBank s
        let data := s.boot.flash.banks[bankIx b]
        let h := bankBlock data 0
        if blocksOk data h && imageSigned data h then
          endReceive .ok (writeBootRec (fun r => setRecImage b (imVersion h) (imEpoch h) (setRecState b 2 r)) s)
        else endReceive .malformed s)

/-- Whether FW_ACTIVATE is refused (R471). -/
def activateConflict (s : State) : Bool :=
  !mayUpdate s || ((bootRec s.boot.flash).map fun r => recState r.2 (otherBank s)) != some 2

/-- FW_ACTIVATE's action (R471): the other bank on trial, and a device reset 10 ms after the answer. -/
def activate (s : State) : State :=
  let b := otherBank s
  let s := writeBootRec (fun r => { setRecState b 3 r with trial := true, tries := true }) (setDev .updating s)
  { s with clk := { s.clk with resetDue := some (s.now + 10000000, 3) } }

/-- FW_CONFIRM's action (R471, R472). -/
def confirm (s : State) : State :=
  let run := s.boot.bank
  let epoch := imEpoch (bankBlock s.boot.flash.banks[bankIx run] 0)
  let s := writeBootRec (fun r => { setRecState (!run) 2 (setRecState run 4 r) with confirmed := run, trial := false }) s
  let s := updFlash (fun f => { f with store := f.store.filter fun x => x.format == s.boot.settings }) s
  let s := updBoot (fun b => { b with trialBoot := false }) s
  if s.boot.fusedEpoch.toNat < epoch then
    let s := updBoot (fun b => { b with fusedEpoch := BitVec.ofNat 16 epoch }) s
    match bootRec s.boot.flash with
    | some (_, r) => if recEpoch r (!run) < epoch then writeBootRec (setRecState (!run) 5) s else s
    | none => s
  else s

/-- The body of an attestation report (R474). -/
def attestBody (s : State) : List Byte :=
  leBytes 4 0x41585348 ++ leBytes 2 1 ++ leBytes 2 0x0451 ++ leBytes 16 Config.unitSerial ++ leBytes 4 s.boot.imageVersion.toNat ++
  leBytes 1 s.boot.protSource.toNat ++ leBytes 2 s.boot.fusedEpoch.toNat ++ leBytes 1 (b2n s.boot.bank) ++ slice s.boot.nonce 0 32 ++
  s.boot.meas.toList.flatten ++ slice Config.identityKey 0 32 ++ List.replicate 32 0

/-- ATTEST_SIGN_DONE (R474). -/
def execAttestSignDone (s : State) : Host.Outcome State Fault Refusal :=
  go (match s.boot.signing with
    | none => s
    | some body =>
      endAction 0x7004 4 .ok (updBoot (fun b => { b with signing := none, report := some (body ++ slice (Config.slhSign body) 0 7856) }) s))

end Sys2Proof.Machine
end

