-- ==== Sys2Proof/Machine/HistoryWalk.lean ====
section
/-!
DEFINITION. The history walker (07): sequence slots, appends, walks and their forwarded requests.
-/
namespace Sys2Proof.Machine

/-- KV_TYPE of a slot descriptor (R252). -/
def hdType (d : BitVec 512) : Nat := fld d 11 9
/-- e, the bytes of an element (R249). -/
def hdElem (d : BitVec 512) : Nat := if hdType d ≥ 4 then 2 else 1
/-- H. -/
def hdHeads (d : BitVec 512) : Nat := fld d 15 12 + 1
/-- DH. -/
def hdDim (d : BitVec 512) : Nat := 32 * (fld d 17 16 + 1)
/-- RB, the bytes of a row (R248, R249). -/
def hdRow (d : BitVec 512) : Nat := hdDim d * hdElem d
/-- ROWB, the bytes of a delivered row (R262). -/
def hdOut (d : BitVec 512) : Nat := 128 * hdElem d
/-- FIRST_POS. -/
def hdFirst (d : BitVec 512) : Nat := fld d 95 64
/-- INIT_LENGTH. -/
def hdInit (d : BitVec 512) : Nat := fld d 127 96
/-- PLIST_DVA. -/
def hdPlist (d : BitVec 512) : Nat := fld d 175 128
/-- PAGES. -/
def hdPages (d : BitVec 512) : Nat := fld d 202 192
/-- GCOUNT. -/
def hdGcount (d : BitVec 512) : Nat := fld d 214 208
/-- GLIST_DVA. -/
def hdGlist (d : BitVec 512) : Nat := fld d 271 224
/-- Bytes of a history page (R249). -/
def hdPage (d : BitVec 512) : Nat := 128 * hdHeads d * hdRow d

/-- Whether a slot is busy (R253). -/
def slotBusy (s : State) (i : Fin 256) : Bool := s.hist.cmds.any fun x => wcmdSlot x == i

/-- Whether a SLOT_SET breaks its encoding (R253, item 1). -/
def slotSetMalformed (d : BitVec 512) : Bool :=
  if bit d 8 then fld d 511 9 != 0
  else
    fld d 31 18 != 0 || fld d 191 176 != 0 || fld d 207 203 != 0 || bit d 215 || fld d 223 216 != 0 || fld d 287 272 != 0 ||
    fld d 511 352 != 0 || !([0, 1, 4, 5].contains (hdType d)) || hdRow d % 64 != 0 || hdPlist d % 8 != 0 || hdGlist d % 4 != 0 ||
    (hdGcount d == 0 && hdGlist d != 0)

/-- An FP32 code that is positive and finite, as a scale must be. -/
def scaleOk (x : Nat) : Bool := decide (0 < x) && decide (x < 0x7F800000)

/-- SLOT_SET (R253). -/
def slotSetRule : OpRule :=
  instantRule
    (fun c s =>
      let d := BitVec.ofNat 512 c.pay.toNat
      let rel := bit d 8
      checks [
        (slotSetMalformed d || (!rel && !(scaleOk (fld d 319 288) && scaleOk (fld d 351 320))), .malformed), stepRules s c,
        (slotBusy s (fin (fld d 7 0)), .stateConflict),
        (!rel && decide (hdPages d > 1024 ∨ hdGcount d > 64 ∨ hdInit d > 65536 ∨ hdInit d > 64 * hdPages d ∨ hdFirst d > 0xFFFEFFFF), .lengthRange)])
    (fun c s =>
      let d := BitVec.ofNat 512 c.pay.toNat
      let x : HistSlot := { desc := d, length := hdInit d, stall := none, mark0 := none, mark1 := none, kept := [] }
      updHist (fun h => { h with slots := h.slots.set (fin (fld d 7 0) : Fin 256) (if bit d 8 then none else some x) }) s)

/-- SLOT_SET (R253). -/
def execSlotSet (sq : Fin 64) (c : Slot) (s : State) : Host.Outcome State Fault Refusal := go (commandAtHead 0x38 slotSetRule sq c s)

/-- The last page that the next group of a slot's running append needs (R257). -/
def groupPage (a : AppendRun) : Nat := (a.first + a.done + min 16 (haCount a.pay - a.done) - 1) / 64

/-- A slot's stall ends when its page is supplied within 10 µs (R258). -/
def endStall (s : State) (i : Fin 256) (x : HistSlot) : HistSlot :=
  let supplied := match (appendsOn s i).head? with | some a => decide (groupPage a < hdPages x.desc) | none => true
  if supplied && x.stall.any fun t => decide (s.now ≤ t + 10000) then { x with stall := none } else x

/-- SLOT_EXTEND (R254). -/
def slotExtendRule : OpRule :=
  instantRule
    (fun c s =>
      let p := c.pay
      let x := getSlot s (fin (fld p 7 0))
      let now := (x.map fun x => hdPages x.desc).getD 0
      checks [
        (fld p 63 27 != 0 || fld p 127 112 != 0 || (!bit p 19 && (fld p 26 20 != 0 || fld p 111 64 != 0)) || fld p 111 64 % 4 != 0, .malformed),
        stepRules s c, (x.isNone, .stateConflict),
        (decide (fld p 18 8 > 1024 ∨ fld p 18 8 < now ∨ fld p 26 20 > 64), .lengthRange), (fld p 18 8 == now && !bit p 19, .okNoOp)])
    (fun c s =>
      let p := c.pay
      let i : Fin 256 := fin (fld p 7 0)
      let f (x : HistSlot) : HistSlot :=
        let d := setFld x.desc 202 192 (fld p 18 8)
        { x with desc := if bit p 19 then setFld (setFld d 214 208 (fld p 26 20)) 271 224 (fld p 111 64) else d }
      let s := updSlot i f s
      updSlot i (endStall s i) s)

/-- SLOT_EXTEND (R254). -/
def execSlotExtend (sq : Fin 64) (c : Slot) (s : State) : Host.Outcome State Fault Refusal := go (commandAtHead 0x39 slotExtendRule sq c s)

/-- Source row of an append: position i, head h, keys or values (R255). -/
def appendRow (p : BitVec 1536) (value : Bool) (i h : Nat) : Nat :=
  (if value then fld p 152 128 else fld p 120 96) + i * fld p 175 160 * 64 + h * fld p 191 176 * 64

/-- Whether the walker holds its 256 commands (R247). -/
def walkerFull (s : State) : Bool := decide (s.hist.cmds.length ≥ 256)

/-- The checks of a HIST_APPEND (R256). -/
def histAppendCheck (_ : Fin 64) (c : Slot) (s : State) : State × Adm :=
  let p := c.pay
  let i : Fin 256 := fin (fld p 7 0)
  let x := getSlot s i
  let d := (x.map fun x => x.desc).getD 0
  let n := haCount c
  let ends (v : Bool) : Nat := appendRow p v (n - 1) (hdHeads d - 1) + hdRow d
  let a := checks [
    (fld p 23 19 != 0 || bit p 31 || fld p 63 41 != 0 || fld p 127 121 != 0 || fld p 159 153 != 0 || fld p 511 192 != 0 ||
      (fld p 40 37 == 0 && (fld p 36 32 != 0 || fld p 95 64 != 0)) || (fld p 175 160 == 0 && decide (n > 1)) ||
      fld p 120 96 % 64 != 0 || fld p 152 128 % 64 != 0, .malformed),
    (fenced s (fld p 30 24) || (x.isSome && decide (n ≠ 0 ∧ (ends false > tmemSize ∨ ends true > tmemSize))), .addressRange),
    (x.isNone, .stateConflict), stepRules s c, (n == 0, .okNoOp),
    (decide (n > 1024 ∨ slotTail s i + n > 65536), .lengthRange)]
  (s, if a = .accept ∧ (walkerFull s ∨ (appendsOn s i).length ≥ 8) then .wait else a)

/-- Whether a slot's marks record a step. -/
def marked (x : HistSlot) (n : BitVec 64) : Bool := x.mark0.any (fun m => m.step == n) || x.mark1.any fun m => m.step == n

/-- A step's first append to a slot moves the marks (R271). -/
def markSlot (step : Option (BitVec 64)) (tail : Nat) (x : HistSlot) : HistSlot :=
  match step with
  | none => x
  | some n => if marked x n then x else { x with mark0 := x.mark1, mark1 := some { step := n, tail := tail } }

/-- HIST_APPEND. -/
def histAppendRule : OpRule :=
  { check := histAppendCheck
    effect := fun k s =>
      let i : Fin 256 := fin (fld k.slot.pay 7 0)
      let tail := slotTail s i
      let a : AppendRun := { cmd := k.id, cmdStep := k.step, slot := i, pay := k.slot, first := tail, done := 0, group := 0, todo := [], stop := none }
      updHist (fun h => { h with cmds := h.cmds ++ [.append a false] }) (updSlot i (markSlot k.step tail) s) }

/-- HIST_APPEND (R256). -/
def execHistAppend (sq : Fin 64) (c : Slot) (s : State) : Host.Outcome State Fault Refusal := go (commandAtHead 0x3A histAppendRule sq c s)

/-- QFIRST of a HIST_WALK. -/
def hwQFirst (p : BitVec 1536) : Nat := fld p 63 32
/-- QLAST. -/
def hwQLast (p : BitVec 1536) : Nat := hwQFirst p + fld p 73 64
/-- HEAD_COUNT. -/
def hwHeads (p : BitVec 1536) : Nat := fld p 103 100 + 1
/-- HEAD_FIRST. -/
def hwHead (p : BitVec 1536) : Nat := fld p 99 96
/-- DST_TILE. -/
def hwTile (p : BitVec 1536) : Fin 128 := fin (fld p 86 80)
/-- HEAD_STRIDE. -/
def hwStride (p : BitVec 1536) : Nat := fld p 255 224

/-- The local range of a walk as slot positions: the first and one past the last (R260). -/
def localRange (p : BitVec 1536) (d : BitVec 512) (bound : Nat) : Nat × Nat :=
  let a := max (hdFirst d) (hwQFirst p - fld p 25 16)
  let e := min (hwQLast p + 1) (hdFirst d + bound)
  (a - hdFirst d, max a e - hdFirst d)

/-- The checks of a HIST_WALK (R262). -/
def histWalkCheck (_ : Fin 64) (c : Slot) (s : State) : State × Adm :=
  let p := c.pay
  let i : Fin 256 := fin (fld p 7 0)
  let x := getSlot s i
  let d := (x.map fun x => x.desc).getD 0
  let bound := slotTail s i
  let r := localRange p d bound
  let g := if bit p 8 then hdGcount d else 0
  let n := r.2 - r.1 + g
  let nmax := 128 * ceilDiv n 128
  let a := checks [
    (fld p 15 11 != 0 || fld p 31 26 != 0 || fld p 79 74 != 0 || bit p 87 || fld p 95 93 != 0 || fld p 127 104 != 0 ||
      fld p 159 153 != 0 || fld p 191 185 != 0 || fld p 223 217 != 0 || fld p 767 320 != 0 || fld p 152 128 % 64 != 0 ||
      fld p 184 160 % 64 != 0 || fld p 216 192 % 64 != 0 || hwStride p % 64 != 0 || (!bit p 9 && fld p 92 88 != 0), .malformed),
    (fenced s (hwTile p).val || (x.isSome && decide (hwHead p + hwHeads p > hdHeads d)) ||
      decide (fld p 152 128 + fld p 287 256 > tmemSize ∨ fld p 184 160 + fld p 287 256 > tmemSize ∨ fld p 216 192 + fld p 319 288 > tmemSize),
      .addressRange),
    (x.isNone, .stateConflict), stepRules s c,
    (decide (hwQLast p > 0xFFFFFFFE) || (!bit p 10 && decide (hwQLast p ≥ hdFirst d + bound)), .lengthRange), (n == 0, .okNoOp),
    (decide ((hwHeads p - 1) * hwStride p + nmax * hdOut d > fld p 287 256 ∨ (hwHeads p > 1 ∧ hwStride p < nmax * hdOut d) ∨
      4 * nmax > fld p 319 288), .bufferTooSmall)]
  (s, if a = .accept ∧ walkerFull s then .wait else a)

/-- HIST_WALK: the walk binds its length to TAIL and the slot's lists as they stand (R263, R254). -/
def histWalkRule : OpRule :=
  { check := histWalkCheck
    effect := fun k s =>
      let i : Fin 256 := fin (fld k.slot.pay 7 0)
      match getSlot s i with
      | none => s
      | some x =>
        let w : WalkRun :=
          { cmd := k.id, cmdStep := k.step, slot := i, pay := k.slot, desc := x.desc, bound := slotTail s i, read := false, deliver := [],
            todo := [], waits := false, cap := none, signalled := 0, stop := none }
        updHist (fun h => { h with cmds := h.cmds ++ [.walk w false] }) s }

/-- HIST_WALK (R262). -/
def execHistWalk (sq : Fin 64) (c : Slot) (s : State) : Host.Outcome State Fault Refusal := go (commandAtHead 0x3B histWalkRule sq c s)

/-- An append changed by `f`; it runs from now on. -/
def updAppend (cmd : Nat) (f : AppendRun → AppendRun) (s : State) : State :=
  updWcmd cmd (fun x => match x with | .append a _ => .append (f a) true | .walk .. => x) s

/-- A walk changed by `f`; it runs from now on. -/
def updWalk (cmd : Nat) (f : WalkRun → WalkRun) (s : State) : State :=
  updWcmd cmd (fun x => match x with | .walk w _ => .walk (f w) true | .append .. => x) s

/-- Whether the walker may run one more command (R247). -/
def mayRun (s : State) (cmd : Nat) : Bool :=
  (s.hist.cmds.any fun x => wcmdId x == cmd && wcmdRuns x) || decide ((s.hist.cmds.filter wcmdRuns).length < 16)

/-- The first row that an item, or an outstanding request, still has to write. -/
def itemRow : WalkItem → Nat
  | .rows _ _ r _ _ => r
  | .zero _ _ r _ => r
  | .list => 0

/-- N_pad of a walk (R260). -/
def padRows (w : WalkRun) : Nat := 128 * ceilDiv w.deliver.length 128

/-- Groups of a walk that are complete are signalled (R264). -/
def signalWalk : Nat → Nat → State → State
  | 0, _, s => s
  | k + 1, cmd, s =>
    match findWalk s cmd with
    | none => s
    | some w =>
      let limit := 16 * w.signalled + 16
      let open_ := (w.todo.any fun x => decide (itemRow x < limit)) || s.hist.fwd.any fun f => f.cmd == cmd && decide (f.row < limit)
      if bit w.pay.pay 9 && w.read && w.stop.isNone && decide (limit ≤ padRows w) && !open_ then
        signalWalk k cmd (updWalk cmd (fun w => { w with signalled := w.signalled + 1 })
          (sendSignal whoWalker (hwTile w.pay.pay) (fld w.pay.pay 92 88) s))
      else s

/-- A walk goes on as far as it can: signals, a wait for a position or its failure (R259, R263), and its completion (R264, R265). -/
def settleWalk (cmd : Nat) (s : State) : State :=
  let s := signalWalk (((findWalk s cmd).map padRows).getD 0 / 16 + 1) cmd s
  match findWalk s cmd with
  | none => s
  | some w =>
    if !w.read ∧ w.stop.isNone then s
    else
      let w := if walkLost s w then { w with stop := some .lengthRange, todo := [] } else w
      let s := updWalk cmd (fun _ => { w with waits := walkStuck s w }) s
      if outstanding s cmd then s
      else match w.stop with
        | some st => completeCmd cmd st w.signalled (dropWcmd cmd s)
        | none =>
          if !w.todo.isEmpty then s
          else
            completeCmd cmd .ok 0 (dropWcmd cmd (histCount (fun c =>
              { c with walks := addSat c.walks 1, walkPos := addSat c.walkPos w.deliver.length }) s))

/-- A walk stops (R265). -/
def stopWalk (cmd : Nat) (st : Status) (s : State) : State :=
  settleWalk cmd (updWalk cmd (fun w => { w with stop := w.stop.orElse fun _ => some st, todo := [], read := true }) s)

/-- An append completes with a failure (R259, R258): what that does to its slot is part of its end. -/
def failAppend (a : AppendRun) (st : Status) (s : State) : State := completeCmd a.cmd st (if st = .lengthRange then a.done else 0) s

/-- An append stops on an error; it fails once its requests are acknowledged (R259). -/
def stopAppend (a : AppendRun) (st : Status) (s : State) : State :=
  let s := updAppend a.cmd (fun a => { a with stop := some st, todo := [] }) s
  if outstanding s a.cmd then s else failAppend a st s

/-- Runs of rows (R248): consecutive positions of one page, at most `most` of them, as (row, first position, rows). -/
def rowRuns (most : Nat) : Nat → List Nat → List (Nat × Nat × Nat)
  | _, [] => []
  | row, p :: ps =>
    match rowRuns most (row + 1) ps with
    | (r, q, n) :: rest =>
      if q = p + 1 ∧ q % 64 ≠ 0 then (if n < most then (row, p, n + 1) :: rest else (row, p, 1) :: (r, q, n) :: rest)
      else (row, p, 1) :: (r, q, n) :: rest
    | [] => [(row, p, 1)]

/-- `n` things from `row` on, at most `most` at a time. -/
def zeroRuns : Nat → Nat → Nat → Nat → List (Nat × Nat)
  | 0, _, _, _ => []
  | k + 1, most, row, n => if n = 0 then [] else let m := min most n; (row, m) :: zeroRuns k most (row + m) (n - m)

/-- Pieces of runs of consecutive positions, cut from the first position of a run on (R248). -/
def cutRuns (most : Nat) (row : Nat) : List Nat → List (Nat × Nat × Nat)
  | [] => []
  | p :: ps =>
    let run := (rowRuns (ps.length + 1) row (p :: ps))
    run.flatMap fun x => (zeroRuns (x.2.2 + 1) most 0 x.2.2).map fun y => (x.1 + y.1, x.2.1 + y.1, y.2)

/-- Rows of RB bytes that one forwarded request moves at most (R248). -/
def mostRows (bytes : Nat) : Nat := min 32 (2048 / max bytes 1)

/-- The items of a run for heads `heads`, keys and values. -/
def perHead (heads : List Nat) (f : Nat → Bool → WalkItem) : List WalkItem := heads.flatMap fun h => [f h false, f h true]

/-- APPEND_GROUP_START (R257, R258): the next group of the append that runs on the slot, or the slot's stall. -/
def execAppendGroupStart (slot : Fin 256) (s : State) : Host.Outcome State Fault Refusal :=
  go (match getSlot s slot, (appendsOn s slot).head? with
    | some x, some a =>
      let p := a.pay.pay
      let tile : Fin 128 := fin (fld p 30 24)
      let bc := (bcOf s tile (fin (fld p 36 32))).toNat
      let ready := fld p 40 37 == 0 || decide (bc ≥ fld p 95 64 + (a.done / 16 + 1) * fld p 40 37)
      match a.stop with
      | some st => if outstanding s a.cmd then s else failAppend a st s
      | none =>
        if a.group ≠ 0 ∨ !mayRun s a.cmd ∨ !mayBegin s a.pay a.cmdStep ∨ !ready then s
        else if x.stall.isSome then s
        else if groupPage a ≥ hdPages x.desc then
          histCount (fun c => { c with stalls := addSat c.stalls 1 })
            (updSlot slot (fun x => { x with stall := some s.now }) (updAppend a.cmd id (startCmd a.cmd s)))
        else
          let n := min 16 (haCount a.pay - a.done)
          let ps := (List.range n).map fun i => a.first + a.done + i
          let todo := (cutRuns (mostRows (hdRow x.desc)) a.done ps).flatMap fun r =>
            perHead (List.range (hdHeads x.desc)) fun h v => .rows h v r.1 r.2.1 r.2.2
          updAppend a.cmd (fun a => { a with group := n, todo := todo }) (startCmd a.cmd s)
    | _, _ => s)

/-- APPEND_GROUP_DONE (R257): every write of the group is acknowledged; LENGTH grows, and the last group completes the append. -/
def execAppendGroupDone (slot : Fin 256) (s : State) : Host.Outcome State Fault Refusal :=
  go (match (appendsOn s slot).head? with
    | none => s
    | some a =>
      if a.group = 0 ∨ !a.todo.isEmpty ∨ a.stop.isSome ∨ outstanding s a.cmd then s
      else
        let s := updSlot slot (fun x => { x with length := x.length + a.group }) s
        let s := histCount (fun c => { c with appendPos := addSat c.appendPos a.group }) s
        if a.done + a.group < haCount a.pay then updAppend a.cmd (fun a => { a with done := a.done + a.group, group := 0 }) s
        else completeCmd a.cmd .ok 0 (dropWcmd a.cmd (histCount (fun c => { c with appends := addSat c.appends 1 }) s)))

/-- STALL_EXPIRY (R258). -/
def execStallExpiry (slot : Fin 256) (s : State) : Host.Outcome State Fault Refusal :=
  go (match getSlot s slot, (appendsOn s slot).head? with
    | some x, some a => match x.stall with
      | some t =>
        if t + 10000 ≤ s.now then failAppend a .lengthRange (histCount (fun c => { c with stallFails := addSat c.stallFails 1 }) s) else s
      | none => s
    | _, _ => s)

/-- The global entries that a walk delivers, in list order (R251, R260), or `none` for a list that is wrong. -/
def globalRows (es : List Nat) (bound first : Nat) : Option (List Nat) :=
  if (es.zip (es.drop 1)).all (fun x => decide (x.1 < x.2)) && es.all fun g => decide (g < bound) then
    some (es.filter fun g => decide (g < first))
  else none

/-- What a walk has to issue (R264): its position list, its rows run by run, and the padding rows. -/
def walkItems (w : WalkRun) (globals locals : List Nat) : List WalkItem :=
  let d := w.desc
  let most := mostRows (hdRow d)
  let n := globals.length + locals.length
  let heads := List.range (hwHeads w.pay.pay)
  let rows := (cutRuns most 0 globals ++ cutRuns most globals.length locals).flatMap fun r => perHead heads fun h v => .rows h v r.1 r.2.1 r.2.2
  let pad := (zeroRuns 128 (mostRows (hdOut d)) n (128 * ceilDiv n 128 - n)).flatMap fun r => perHead heads fun h v => .zero h v r.1 r.2
  .list :: rows ++ pad

/-- WALK_LIST_READ (R251): a walk starts and reads its global list. -/
def execWalkListRead (cmd : Nat) (s : State) : Host.Outcome State Fault Refusal :=
  go (match findWalk s cmd with
    | none => s
    | some w =>
      if w.read || !mayRun s cmd || !mayBegin s w.pay w.cmdStep then s
      else
        let p := w.pay.pay
        let s := updWalk cmd id (startCmd cmd s)
        let n := if bit p 8 then hdGcount w.desc else 0
        let r := if n = 0 then (s, IoRes.done [[]]) else ioMany .cmd whoWalker (opKey kCmd cmd) [(ioRead (hdGlist w.desc) (4 * n)).stack] s
        match r.2 with
        | .wait => r.1
        | .fail st => stopWalk cmd st r.1
        | .done _ =>
          if poisoned r.2.data then stopWalk cmd .dataPoison r.1
          else
            let bs := dataBytes r.2.data
            let l := localRange p w.desc w.bound
            match globalRows ((List.range n).map fun i => leNat (slice bs (4 * i) 4)) w.bound l.1 with
            | none => stopWalk cmd .malformed r.1
            | some gs =>
              let ls := (List.range (l.2 - l.1)).map fun i => l.1 + i
              settleWalk cmd (updWalk cmd (fun w => { w with read := true, deliver := gs ++ ls, todo := walkItems w gs ls }) r.1))

/-- WALK_POSITION_WAIT_END (R263): the position that a walk waits for is complete. -/
def execWalkPositionWaitEnd (cmd : Nat) (s : State) : Host.Outcome State Fault Refusal :=
  go (match findWalk s cmd with
    | some w => if w.waits then settleWalk cmd s else s
    | none => s)

/-- A page-list entry that the walker does not keep is read (R250): from T1, and kept from then on until the slot is next set (DESIGN
CHOICE: the walker may keep an entry). -/
def pageEntry (slot : Fin 256) (cmd : Nat) (d : BitVec 512) (i : Nat) (s : State) : State × Except (Option Status) Nat :=
  match (getSlot s slot).bind fun x => x.kept.find? fun k => k.1 == i with
  | some k => (s, .ok k.2)
  | none =>
    let r := ioMany .cmd whoWalker (opKey kCmd cmd) [(ioRead ((hdPlist d + 8 * i) % 2 ^ 48) 8).stack] s
    match r.2 with
    | .wait => (r.1, .error none)
    | .fail st => (r.1, .error (some st))
    | .done _ =>
      if poisoned r.2.data then (r.1, .error (some .dataPoison))
      else let e := leNat (dataBytes r.2.data); (updSlot slot (fun x => { x with kept := (i, e) :: x.kept }) r.1, .ok e)

/-- The address of `n` rows in a history page, checked (R250): a page-list entry, then the translation of the rows; `none` while one of them
waits. -/
def pageRows (slot : Fin 256) (cmd : Nat) (d : BitVec 512) (write : Bool) (head : Nat) (value : Bool) (pos : Nat) (s : State) :
    State × Except (Option Status) XEntry :=
  let r := pageEntry slot cmd d (pos / 64) s
  match r.2 with
  | .error e => (r.1, .error e)
  | .ok e =>
    if e ≥ 2 ^ 48 ∨ e % 2048 ≠ 0 ∨ e % pageSize + hdPage d > pageSize then (r.1, .error (some .addressRange))
    else
      let off := ((if value then hdHeads d + head else head) * 64 + pos % 64) * hdRow d
      let x := xlateTry whoWalker (opKey kCmd cmd) (e + off) r.1
      (x.1, match x.2 with
        | .wait => .error none
        | .fail st => .error (some st)
        | .hit y => if y.tier ≠ 1 ∨ (write ∧ !y.write) then .error (some .addressRange) else .ok y)

/-- A forwarded request goes to the stack of its rows (R248), one part for each granule: rows of a tile to be written there, or rows to be
read, which the hub sends on. -/
def forward (cmd row who : Nat) (dst : Option FwdDst) (e : XEntry) (n : Nat) (d : Data) (s : State) : State :=
  let f := freshId s
  let ps := pieces e.pa n
  let s := updHist (fun h => { h with fwd := h.fwd ++ [{ key := f.2, cmd := cmd, row := row, dst := dst, parts := ps.length, state := .stack }] }) f.1
  ps.foldl (fun s p => (postFor (some (.forward f.2)) .cmd who dst.isNone { e with pa := p.1 } p.2 (dslice d (p.1 - e.pa) p.2) s).1) s

/-- A request of rows is counted (R272). -/
def countFwd (bytes : Nat) (s : State) : State :=
  histCount (fun c => { c with requests := addSat c.requests 1, bytes := addSat c.bytes bytes }) s

/-- The next request of an append copies rows of its source tile into a page (R257). -/
def issueAppend (a : AppendRun) (d : BitVec 512) (s : State) : State :=
  match a.todo with
  | .rows h v row pos n :: rest =>
    let p := a.pay.pay
    let tile : Fin 128 := fin (fld p 30 24)
    if fenced s tile.val then stopAppend a .addressRange s
    else
      let x := pageRows a.slot a.cmd d true h v pos s
      match x.2 with
      | .error none => x.1
      | .error (some st) => stopAppend a st x.1
      | .ok e =>
        let data := (List.range n).flatMap fun i => memRead (getTile s tile).mem (appendRow p v (row + i) h) (hdRow d)
        countFwd data.length (forward a.cmd row (whoTile tile) none e data.length data (updAppend a.cmd (fun a => { a with todo := rest }) x.1))
  | _ => s

/-- What the walker itself sends to the destination tile of a walk, as an outstanding request: the position list, or rows of 0. -/
def walkSend (w : WalkRun) (row : Nat) (b : WBody) (addr : Nat) (s : State) : State :=
  let f := freshId s
  let q : FwdReq := { key := f.2, cmd := w.cmd, row := row, dst := none, parts := 0, state := .sent s.tile.weave.nextId }
  sendTile whoWalker (hwTile w.pay.pay) addr false b (updHist (fun h => { h with fwd := h.fwd ++ [q] }) f.1)

/-- The position list of a walk (R264). -/
def positionList (w : WalkRun) : List Byte :=
  (w.deliver.flatMap fun p => leBytes 4 (hdFirst w.desc + p)) ++
    (List.range (padRows w - w.deliver.length)).flatMap fun _ => leBytes 4 0xFFFFFFFF

/-- Where row `row` of a head lands (R264). -/
def walkRow (w : WalkRun) (head : Nat) (value : Bool) (row : Nat) : Nat :=
  let p := w.pay.pay
  (if value then fld p 184 160 else fld p 152 128) + head * hwStride p + row * hdOut w.desc

/-- The first item of a walk that can be issued goes out (R264); rows at or beyond LENGTH stay behind. -/
def issueWalk (w : WalkRun) (s : State) : State :=
  let length := walkLength s w
  let d := w.desc
  match w.todo.findIdx? (issuable length) with
  | none => s
  | some i =>
    let next (put : List WalkItem) : State → State := updWalk w.cmd fun w => { w with todo := w.todo.take i ++ put ++ w.todo.drop (i + 1) }
    if fenced s (hwTile w.pay.pay).val then stopWalk w.cmd .addressRange s
    else match w.todo[i]? with
      | some .list =>
        let at_ := fld w.pay.pay 216 192
        next [] (walkSend w 0 (.data at_ (clean (positionList w))) at_ s)
      | some (.zero h v row n) =>
        let at_ := walkRow w h v row
        next [] (walkSend w row (.rows at_ (hdOut d) (List.replicate n [])) at_ s)
      | some (.rows h v row pos n) =>
        let m := min n (length - pos)
        let x := pageRows w.slot w.cmd d false (hwHead w.pay.pay + h) v pos s
        match x.2 with
        | .error none => x.1
        | .error (some st) => stopWalk w.cmd st x.1
        | .ok e =>
          let dst : FwdDst := { tile := hwTile w.pay.pay, addr := walkRow w h v row, rowIn := hdRow d, rowOut := hdOut d }
          let bytes := m * hdRow d
          countFwd bytes (forward w.cmd row (whoHub (stackOf e.pa)) (some dst) e bytes []
            (next (if m < n then [.rows h v (row + m) (pos + m) (n - m)] else []) x.1))
      | none => s

/-- Whether a walker command has a request to issue. -/
def canIssue (s : State) : WalkerCmd → Bool
  | .append a r => r && !a.todo.isEmpty
  | .walk w r => r && w.read && !w.waits && w.todo.any (issuable (walkLength s w))

/-- FORWARDED_REQUEST_ISSUE (R247): the next request, round robin over the running commands. -/
def execForwardedRequestIssue (s : State) : Host.Outcome State Fault Refusal :=
  let able := s.hist.cmds.filter (canIssue s)
  let pick := (able.find? fun x => decide (wcmdId x > s.hist.turn)).orElse fun _ => able.head?
  go (if s.hist.fwd.length ≥ 256 then s
    else match pick with
      | none => s
      | some c =>
        let s := updHist (fun h => { h with turn := wcmdId c }) s
        match c with
        | .append a _ => issueAppend a ((((getSlot s a.slot).map fun x => x.desc)).getD 0) s
        | .walk w _ => settleWalk w.cmd (issueWalk w s))

/-- Whether a command's work keeps the walker busy (R247, R51): it has a request to issue, or one outstanding. -/
def walkerBusy (s : State) (cmd : Nat) : Bool := outstanding s cmd || s.hist.cmds.any fun x => wcmdId x == cmd && canIssue s x

/-- How a forwarded request ended, once its destination has answered (R248): the stack, or the tile that took its packet. -/
def fwdEnded (s : State) (f : FwdReq) : Option Status :=
  match f.state with
  | .stack => none
  | .sent id => if s.tile.weave.packets.any fun w => w.id == id then none else some .ok
  | .over st => some st

/-- FORWARDED_REQUEST_ACK (R248): the destination of request `idx` has acknowledged it, or it has failed. -/
def execForwardedRequestAck (idx : Nat) (s : State) : Host.Outcome State Fault Refusal :=
  go (match s.hist.fwd[idx]?.bind fun f => (fwdEnded s f).map fun st => (f, st) with
    | none => s
    | some (f, st) =>
      let s := updHist (fun h => { h with fwd := dropIdx h.fwd idx }) s
      match s.hist.cmds.find? fun x => wcmdId x == f.cmd with
      | some (.walk ..) => if fine st then settleWalk f.cmd s else stopWalk f.cmd st s
      | some (.append a _) =>
        let stop := a.stop.orElse fun _ => if fine st then none else some st
        match stop with
        | some st => stopAppend a st s
        | none => s
      | none => s)

end Sys2Proof.Machine
end

