-- ==== Sys2Proof/Machine/Gather.lean ====
section
/-!
DEFINITION. The gather side of the row engines (05): TABLE_SET and versions, GATHER with its threads, probes and pooling, and
EMBER_REFRESH.
-/
namespace Sys2Proof.Machine

/-- The descriptor that a TABLE_SET carries. -/
def setDesc (c : Slot) : BitVec 512 := BitVec.ofNat 512 c.pay.toNat

/-- Whether a table descriptor breaks its encoding (R177, item 1). Under DROP every other field must be 0. -/
def tableMalformed (d : BitVec 512) : Bool :=
  if tdDrop d then fld d 511 13 != 0
  else
    fld d 15 13 != 0 || fld d 31 22 != 0 || fld d 63 38 != 0 || fld d 191 176 != 0 || fld d 255 240 != 0 || fld d 319 296 != 0 ||
    fld d 367 367 != 0 || fld d 511 368 != 0 || tdBase d % 32 != 0 || tdRowStep d == 0 ||
    (decide (tdType d ≥ 2) && tdResidual d != 0) || (tdReplica d && tdDelta d)

/-- The checks of TABLE_SET (R177). -/
def tableSetCheck (c : Slot) (s : State) : Adm :=
  let d := setDesc c
  let t := findTable s (tdId d)
  let earlier := s.host.cmds.any fun k => slotOpcode k.slot == 0x20 && tdId (setDesc k.slot) == tdId d
  checks [
    (tableMalformed d, .malformed), stepRules s c, ((t.bind fun t => t.prev).isSome || earlier, .stateConflict),
    (decide (tdRows d > 2 ^ 32) || decide (tdRows d > 0 ∧ tdRowBase d + (tdRows d - 1) * tdRowStep d ≥ 2 ^ 40) ||
      (tdReplica d && decide (tdRows d * recSize d > s.rows.obj.replicateMax.toNat)) ||
      (t.map fun t => t.cur.version) == some 0xFFFFFFFF, .lengthRange)]

/-- A new version becomes current and the current one previous (R177); the stale mark (R180) and the key plane (R235) go. -/
def tableSetEffect (c : Slot) (s : State) : State × Option (Status × Nat) :=
  let d := setDesc c
  let place (v : Nat) : TabVer := { desc := setFld d 399 368 v, version := v }
  match findTable s (tdId d) with
  | some t =>
    let v := t.cur.version + 1
    (updTable t.id (fun t => { t with cur := place v, prev := some t.cur, stale := false, keyDva := none }) s, some (.ok, v))
  | none =>
    let t : Table := { id := tdId d, cur := place 1, prev := none, stale := false, bcasts := [], optim := none, keyDva := none }
    ({ s with rows := { s.rows with tables := s.rows.tables ++ [t] } }, some (.ok, 1))

/-- TABLE_SET. -/
def tableSetRule : OpRule := { check := fun _ c s => (s, tableSetCheck c s), effect := runAtOnce fun k s => tableSetEffect k.slot s }

/-- TABLE_SET (R177). -/
def execTableSet (sq : Fin 64) (c : Slot) (s : State) : Host.Outcome State Fault Refusal := go (commandAtHead 0x20 tableSetRule sq c s)

/-- VERSION_RETIRE (R179): a version that has left the current slot and has no bound batch loses its tags on every engine, and
the previous slot is free. -/
def execVersionRetire (table : Fin 4096) (s : State) : Host.Outcome State Fault Refusal :=
  go (match (findTable s table.val).bind fun t => t.prev with
    | none => s
    | some p =>
      if batchesOn s table.val p.version ≠ 0 then s
      else
        let mine (t : BitVec 64) : Bool := fld t 43 32 == table.val && b2n (bit t 44) == p.version % 2
        let clear (m : Mem) : Mem := clearTags 0x3000000 0x3100000 mine (clearTags 0 (emberTagEnd s) mine m)
        let s := { s with mem := { s.mem with rowStore := s.mem.rowStore.map clear } }
        updTable table.val (fun t => { t with prev := none }) s)

/-- POOL of a payload. -/
def gPool (p : BitVec 1536) : Nat := fld p 5 4
/-- ENGINE of a payload. -/
def gEngine (p : BitVec 1536) : Fin 16 := fin (fld p 3 0)
/-- TABLE_ID of a payload. -/
def gTable (p : BitVec 1536) : Nat := fld p 27 16
/-- OUT_TYPE. -/
def gOutType (p : BitVec 1536) : Nat := fld p 7 6
/-- OUT_SPACE is TILE. -/
def gToTile (p : BitVec 1536) : Bool := fld p 9 8 == 1
/-- SIGNAL. -/
def gSignal (p : BitVec 1536) : Bool := bit p 10
/-- DELTA_EN of a GATHER. -/
def gDelta (p : BitVec 1536) : Bool := bit p 12
/-- DELTA_TABLE. -/
def gDeltaTable (p : BitVec 1536) : Nat := fld p 107 96
/-- OUT_ADDR. -/
def gOutAddr (p : BitVec 1536) : Nat := fld p 559 512
/-- OUT_TILE. -/
def gOutTile (p : BitVec 1536) : Fin 128 := fin (fld p 566 560)
/-- OUT_STRIDE. -/
def gStride (p : BitVec 1536) : Nat := fld p 607 576
/-- V, the bytes of an output (R182). -/
def gOutBytes (p : BitVec 1536) (d : BitVec 512) : Nat := tdDim d * if gOutType p = 2 then 4 else 2

/-- Whether a GATHER breaks its encoding, apart from what its descriptors decide (R183, item 1). -/
def gatherMalformed (p : BitVec 1536) : Bool :=
  fld p 15 13 != 0 || fld p 127 108 != 0 || bit p 567 || fld p 575 573 != 0 || fld p 767 640 != 0 ||
  listsMalformed p (gatherLists p) || fld p 9 8 == 0 || fld p 9 8 == 3 || gOutType p == 3 ||
  (gPool p != 3 && bit p 11) || (!gDelta p && gDeltaTable p != 0) || (!gToTile p && gOutTile p != 0) ||
  (!gSignal p && fld p 572 568 != 0) || (gToTile p && fld p 559 537 != 0) || gOutAddr p % 32 != 0 || gStride p % 32 != 0 ||
  (gSignal p && !gToTile p)

/-- Outputs of a GATHER (R182). -/
def gOutputs (p : BitVec 1536) (p0 p1 : Nat) : Nat := if gPool p = 0 then p1 - p0 else (gatherLists p).count

/-- The bytes that `n` outputs span. -/
def gSpan (p : BitVec 1536) (d : BitVec 512) (n : Nat) : Nat := if n = 0 then 0 else (n - 1) * gStride p + gOutBytes p d

/-- Whether TILE outputs would reach beyond tile memory. -/
def gTileBeyond (p : BitVec 1536) (d : BitVec 512) (n : Nat) : Bool := gToTile p && decide (n ≠ 0 ∧ gOutAddr p + gSpan p d n > tmemSize)

/-- Whether an engine's command queue is full (R188). -/
def engineFull (s : State) (e : Fin 16) : Bool := decide ((getEng s e).queue.length ≥ 16)

/-- The checks of a GATHER (R183). -/
def gatherCheck (q : Fin 64) (c : Slot) (s : State) : State × Adm :=
  let p := c.pay
  let l := gatherLists p
  let step := slotStep s c
  let named := fld p 95 64
  let t := findTable s (gTable p)
  let dt := if gDelta p then findTable s (gDeltaTable p) else none
  let d := (t.map fun t => (checkedVersion s t step named).desc).getD 0
  let dd := (dt.map fun t => (checkedVersion s t step named).desc).getD 0
  let known := t.isSome && !tdDrop d
  let dknown := dt.isSome && !tdDrop dd
  let fails := t.bind fun t => versionFails s t step named
  let now := decide (gPool p ≠ 0 ∨ l.len ≠ 0)
  listAdmission q [
    (gatherMalformed p || (known && decide (gStride p < gOutBytes p d)) || (gDelta p && known && dknown && tdDim dd != tdDim d), .malformed),
    (!known || (gDelta p && (!dknown || !tdDelta dd)) || fails == some .addressRange ||
      (gToTile p && fenced s (gOutTile p).val) || (now && gTileBeyond p d (gOutputs p 0 (l.count * l.len))), .addressRange),
    (fails == some .versionRetired, .versionRetired), stepRules s c,
    ((t.map fun t => t.stale) == some true || fails == some .stateConflict || (gDelta p && s.train.profile != 1), .stateConflict),
    (l.count == 0, .okNoOp)]
    l (fun p0 p1 => [(!now && gTileBeyond p d (gOutputs p p0 p1), .addressRange),
      (decide (gSpan p d (gOutputs p p0 p1) > fld p 639 608), .bufferTooSmall)]) (engineFull s (gEngine p)) s

/-- A GATHER is admitted: it joins or binds its batches and enters its engine's queue (R178, R188). -/
def gatherAdmit (k : Cmd) (s : State) : State :=
  let p := k.slot.pay
  match findTable s (gTable p) with
  | none => s
  | some t =>
    let v := checkedVersion s t k.step (fld p 95 64)
    let dt := if gDelta p then findTable s (gDeltaTable p) else none
    let dv := dt.map fun t => checkedVersion s t k.step (fld p 95 64)
    let s := joinBatch t.id k.step k.id v.version s
    let s := match dt, dv with | some t, some v => joinBatch t.id k.step k.id v.version s | _, _ => s
    let g : GatherRun :=
      { cmd := k.id, slot := k.slot, step := k.step, desc := v, delta := dv, keyDva := dt.bind fun t => t.keyDva,
        p0 := k.info.getD 0 0, p1 := k.info.getD 1 0, next := 0, ended := 0, outputs := 0, beyond := [], signalled := 0,
        stop := none, unwritten := none, failed := none, xorder := k.xorder, ahead := decide (s.mem.runaheadEnable = (1 : BitVec 8)),
        hitShift := s.rows.obj.hitShift, missShift := s.rows.obj.missShift, ringDva := s.rows.obj.ringDva,
        ringEntries := s.rows.obj.ringEntries }
    updEng (gEngine p) (fun x => { x with queue := x.queue ++ [.gather g] }) s

/-- GATHER. -/
def gatherRule : OpRule := { check := gatherCheck, effect := gatherAdmit }

/-- GATHER (R183). -/
def execGather (sq : Fin 64) (c : Slot) (s : State) : Host.Outcome State Fault Refusal := go (commandAtHead 0x21 gatherRule sq c s)

/-- The first GATHER of a queue with bags to dispatch, if nothing stands before it that it waits for (R188). -/
def nextGather : List EngineCmd → Option GatherRun
  | [] => none
  | .refresh _ :: _ => none
  | .gather g :: rest => if g.next < (gatherLists g.slot.pay).count ∧ g.stop.isNone then some g else nextGather rest

/-- The GATHER of a command in an engine's queue. -/
def findGather (g : Engine) (cmd : Nat) : Option GatherRun :=
  g.queue.findSome? fun x => match x with | .gather r => if r.cmd = cmd then some r else none | .refresh _ => none

/-- A GATHER changed by `f`. -/
def updGather (e : Fin 16) (cmd : Nat) (f : GatherRun → GatherRun) (s : State) : State :=
  updEng e (fun g => { g with queue := g.queue.map fun x => match x with | .gather r => if r.cmd = cmd then .gather (f r) else x | .refresh _ => x }) s

/-- Core `c` of engine `e` changed by `f`. -/
def updCore (e : Fin 16) (c : Fin 4) (f : Core → Core) (s : State) : State := updEng e (fun g => { g with cores := updAt g.cores c f }) s

/-- Core `c` of engine `e`. -/
def getCore (s : State) (e : Fin 16) (c : Fin 4) : Core := (getEng s e).cores[c]

/-- A thread changed by `f`. -/
def updThread (e : Fin 16) (c : Fin 4) (i : Fin 16) (f : BagThread → BagThread) (s : State) : State :=
  updCore e c (fun x => { x with threads := updAt x.threads i fun t => t.map f }) s

/-- The running threads of an engine with their places. -/
def engineThreads (g : Engine) : List (Fin 4 × Fin 16 × BagThread) :=
  (List.finRange 4).flatMap fun c => (List.finRange 16).filterMap fun i => g.cores[c].threads[i].map fun t => (c, i, t)

/-- Signals of a GATHER for the groups whose outputs are written, or for all that are left (R186). -/
def sendGroups : Nat → Fin 16 → GatherRun → Bool → State → State
  | 0, _, _, _, s => s
  | k + 1, e, g, all, s =>
    let p := g.slot.pay
    let n := gOutputs p g.p0 g.p1
    if gSignal p ∧ g.stop.isNone ∧ 16 * g.signalled < n ∧ (all ∨ min (16 * g.signalled + 16) n ≤ g.outputs) then
      sendGroups k e { g with signalled := g.signalled + 1 } all (sendSignal (whoEngine e) (gOutTile p) (fld p 572 568) s)
    else updGather e g.cmd (fun _ => g) s

/-- The lists of a GATHER are read no more: what the list reader still fetches is not wanted (R172). -/
def dropLines (e : Fin 16) (cmd : Nat) (s : State) : State :=
  let mine := (getEng s e).lines.filter fun l => l.cmd == cmd
  let s := mine.foldl (fun s l => match l.state with
    | .asked id ahead => orphanReq (if ahead then .ahead else .nobody) id s
    | _ => s) s
  updEng e (fun g => { g with lines := g.lines.filter fun l => l.cmd != cmd }) s

/-- A GATHER whose last dispatched bag is written, and that dispatches no more, completes (R187). -/
def finishGather (e : Fin 16) (cmd : Nat) (s : State) : State :=
  match findGather (getEng s e) cmd with
  | none => s
  | some g =>
    let busy := (engineThreads (getEng s e)).any fun t => t.2.2.cmd == cmd
    if busy ∨ (g.stop.isNone ∧ g.next < (gatherLists g.slot.pay).count) then s
    else
      let s := sendGroups (gOutputs g.slot.pay g.p0 g.p1 / 16 + 2) e g true s
      let drop (x : EngineCmd) : Bool := match x with | .gather r => r.cmd != cmd | .refresh _ => true
      let s := dropLines e cmd (leaveBatch cmd (updEng e (fun g => { g with queue := g.queue.filter drop }) s))
      match g.stop, g.failed with
      | some st, _ => completeCmd cmd st (min (g.unwritten.getD g.next) g.next) s
      | none, some (b, st) => completeCmd cmd st b s
      | none, none => completeCmd cmd .ok 0 s

/-- A GATHER stops (R187): no further bag is dispatched and no further signal sent. `bag` is one that will not be written. -/
def stopGather (e : Fin 16) (cmd : Nat) (st : Status) (bag : Option Nat) (s : State) : State :=
  let least (a b : Option Nat) : Option Nat := match a, b with | some x, some y => some (min x y) | some x, none => some x | none, y => y
  finishGather e cmd (updGather e cmd (fun g => { g with stop := g.stop.orElse fun _ => some st, unwritten := least g.unwritten bag }) s)

/-- Free threads of a core. -/
def freeThreads (c : Core) : Nat := ((List.finRange 16).filter fun i => c.threads[i].isNone).length

/-- The core and thread for the next bag (R188): the core with the most free threads, the lowest on a tie. -/
def pickThread (g : Engine) : Option (Fin 4 × Fin 16) :=
  let best := (List.finRange 4).foldl (fun (b : Fin 4) c => if freeThreads g.cores[c] > freeThreads g.cores[b] then c else b) 0
  ((List.finRange 16).find? fun i => g.cores[best].threads[i].isNone).map fun i => (best, i)

/-- A thread takes a bag. -/
def newBag (g : GatherRun) (ready first last : Nat) (fail : Option Status) (noRange : Bool) : BagThread :=
  { cmd := g.cmd, bag := g.next, first := first, last := last, next := (first, false), retry := [], held := [], found := [], rows := [], pool := (first, false),
    base := [], acc := List.replicate (tdDim g.desc.desc) 0, outs := [], fail := fail, noRange := noRange, parked := false,
    ready := ready, written := false, packets := [] }

/-- The windows of an engine's list reader whose requests are outstanding (R172). -/
def linesOut (s : State) (e : Fin 16) : Nat :=
  ((getEng s e).lines.filter fun l => match l.state with | .asked id _ => (reqEnded s id).isNone | _ => false).length

/-- A window of a list takes a state in the list reader. -/
def setLine (e : Fin 16) (cmd base : Nat) (x : LineState) (s : State) : State :=
  updEng e (fun g => { g with lines := g.lines.filter (fun l => !(l.cmd == cmd && l.base == base)) ++ [{ cmd := cmd, base := base, state := x }] }) s

/-- A window of a list in the list reader. -/
def findLine (s : State) (e : Fin 16) (cmd base : Nat) : Option LineState :=
  ((getEng s e).lines.find? fun l => l.cmd == cmd && l.base == base).map fun l => l.state

/-- A window is asked for because a thread needs it now (R172), as soon as one of the reader's 16 requests is free. -/
def demandLine (e : Fin 16) (cmd base : Nat) (s : State) : State × IoRes :=
  if linesOut s e ≥ 16 then (s, .wait)
  else
    let x := xlateTry (whoEngine e) (opKey kList cmd) base s
    match x.2 with
    | .wait => (x.1, .wait)
    | .fail st => (x.1, .fail st)
    | .hit en => let p := postReq .cmd (whoEngine e) false en 256 [] x.1; (setLine e cmd base (.asked p.2 false) p.1, .wait)

/-- A window is fetched ahead of the threads (R172, R188): once, and only as the run-ahead rule allows (R299). -/
def aheadLine (e : Fin 16) (g : GatherRun) (base : Nat) (s : State) : State :=
  if !g.ahead || (findLine s e g.cmd base).isSome || decide (linesOut s e ≥ 16) then s
  else
    let x := xlateAhead (whoEngine e) base g.xorder s
    match x.2 with
    | none => setLine e g.cmd base .dropped (countDrop (whoEngine e) x.1)
    | some en => let p := postReq .cmd (whoEngine e) false en 256 [] x.1; setLine e g.cmd base (.asked p.2 true) p.1

/-- A window that a thread needs: what the reader holds or fetches of it. A run-ahead fetch that failed or met poison is dropped, and the
thread's own request comes then (R299). -/
def needLine (e : Fin 16) (g : GatherRun) (base : Nat) (s : State) : State × IoRes :=
  match findLine s e g.cmd base with
  | some (.here d) => (s, .done [d])
  | some (.asked id ahead) => match reqEnded s id with
    | none => (s, .wait)
    | some (st, d) =>
      let s := forgetReq id s
      if ahead && (!fine st || poisoned d) then demandLine e g.cmd base (countDrop (whoEngine e) (setLine e g.cmd base .dropped s))
      else if fine st then (setLine e g.cmd base (.here d) s, .done [d])
      else (setLine e g.cmd base .dropped s, .fail st)
  | _ => demandLine e g.cmd base s

/-- An entry of a list of a GATHER, of `n` bytes at `dva`, is read through the list reader (R172), which then fetches the next window of
the list, ending at `last`, ahead. How far it runs ahead the spec leaves open (DESIGN CHOICE: one window), and that it keeps what it
has read until the command ends (DESIGN CHOICE). -/
def readList (e : Fin 16) (g : GatherRun) (dva n last : Nat) (s : State) : State × IoRes :=
  let base := dva / 256 * 256
  let r := needLine e g (base % 2 ^ 48) s
  let s := if base + 256 < last then aheadLine e g ((base + 256) % 2 ^ 48) r.1 else r.1
  (s, match r.2 with | .done (d :: _) => .done [dslice d (dva - base) n] | x => x)

/-- Several entries of lists: (address, bytes, end of the list). -/
def readLists (e : Fin 16) (g : GatherRun) (xs : List (Nat × Nat × Nat)) (s : State) : State × IoRes :=
  xs.foldl (fun (a : State × IoRes) x => let r := readList e g x.1 x.2.1 x.2.2 a.1; (r.1, a.2.join r.2)) (s, .done [])

/-- The range of the next bag (R182, R187): first and last position, whether the bag fails at once, and whether it has a range of
outputs. -/
def bagRange (e : Fin 16) (g : GatherRun) (s : State) : State × Except (Option Status) (Nat × Nat × Option Status × Bool) :=
  let l := gatherLists g.slot.pay
  if l.len ≠ 0 then (s, .ok (g.next * l.len, (g.next + 1) * l.len, none, false))
  else
    let at_ (k : Nat) : Nat × Nat × Nat := (l.offs + 4 * k, 4, l.offs + 4 * (l.count + 1))
    let r := readLists e g [at_ g.next, at_ (g.next + 1)] s
    (r.1, match r.2 with
      | .wait => .error none
      | .fail st => .error (some st)
      | .done [a, b] =>
        let x := leNat (dataBytes a)
        let y := leNat (dataBytes b)
        if poisoned a || poisoned b then .ok (0, 0, some .dataPoison, true)
        else if y < x then .ok (x, x, some .lengthRange, true)
        else if y > x + 1024 then .ok (x, y, some .lengthRange, false)
        else .ok (x, y, none, false)
      | .done _ => .error (some .internal))

/-- Whether a bag program may start now (R40, R180, R29, R30). -/
def bagMayStart (s : State) (g : GatherRun) : Bool :=
  let pend (id : Nat) : Bool := match findTable s id with | some t => pendingFor t g.step | none => false
  mayBegin s g.slot g.step && !earlierMayApply s g.step && !pend (gTable g.slot.pay) && !(gDelta g.slot.pay && pend (gDeltaTable g.slot.pay))

/-- BAG_DISPATCH (R188): the next bag of the first GATHER that has one goes to a thread. -/
def execBagDispatch (e : Fin 16) (s : State) : Host.Outcome State Fault Refusal :=
  go (match nextGather (getEng s e).queue, pickThread (getEng s e) with
    | some g, some (c, i) =>
      if !bagMayStart s g then s
      else
        let s := startCmd g.cmd s
        if gToTile g.slot.pay && fenced s (gOutTile g.slot.pay).val then stopGather e g.cmd .addressRange none s
        else
          let r := bagRange e g s
          match r.2 with
          | .error none => r.1
          | .error (some st) => stopGather e g.cmd st none r.1
          | .ok (a, b, fail, noRange) =>
            let t := newBag g (getEng s e).nextReady a b fail noRange
            let s := updGather e g.cmd (fun g => { g with next := g.next + 1 }) r.1
            let s := updEng e (fun x => { x with nextReady := x.nextReady + 1 }) s
            updCore e c (fun x => { x with threads := x.threads.set i (some t) }) s
    | _, _ => s)

/-- Rows of a thread probed and not pooled (R190); a row whose deferred update is awaited is handled as one (R231). -/
def pendingRows (t : BagThread) : Nat := (t.rows.filter fun r => !(r.delta && r.zero)).length + t.held.length
/-- Rows of a thread requested and not arrived (R190); a bucket that is read, and a row whose deferred update is awaited, count as such
(R236, R231). -/
def missingRows (t : BagThread) : Nat := (t.rows.filter fun r => decide (r.missing ≠ 0)).length + t.held.length
/-- Whether a thread has parts left to probe. -/
def partsLeft (t : BagThread) : Bool := t.fail.isNone && (!t.retry.isEmpty || decide (t.next.1 < t.last))
/-- Whether a thread is within both limits (R190). -/
def withinLimits (t : BagThread) : Bool := decide (missingRows t < 3) && decide (pendingRows t < 8)
/-- Whether a thread may issue a shadow probe (R189, R190). -/
def shadowMay (t : BagThread) : Bool := t.fail.isNone && decide (t.next.1 < t.last) && decide (pendingRows t < 8)

/-- The thread that holds the stage leaves it: ready again at once, or parked (R190). -/
def leaveStage (nextReady : Nat) (c : Core) : Core :=
  match c.stage with
  | none => c
  | some i =>
    let f (t : BagThread) : BagThread := { t with parked := partsLeft t && !withinLimits t, ready := nextReady }
    { c with threads := updAt c.threads i fun t => t.map f, stage := none, shadow := none }

/-- The thread that holds a core's stage. -/
def stageThread (c : Core) : Option BagThread := c.stage.bind fun i => c.threads[i]

/-- Whether the holder of the stage goes on probing (R189, R190). -/
def stageHolds (c : Core) : Bool :=
  match stageThread c with
  | none => false
  | some t => if c.shadow.isSome then shadowMay t else partsLeft t && withinLimits t

/-- How long a thread has been ready, if it is (R190). -/
def readySince (c : Core) (i : Fin 16) : Option Nat :=
  match c.threads[i] with
  | none => none
  | some t => if partsLeft t && withinLimits t && !t.parked then some t.ready else none

/-- The stage goes to the thread that may use it (R189, R190): the holder, while it can probe; else the thread that has been ready
longest. -/
def settleStage (nextReady : Nat) (c : Core) : Core :=
  if stageHolds c then c
  else
    let c := leaveStage nextReady c
    let best := (List.finRange 16).foldl (fun (b : Option (Nat × Fin 16)) i => match readySince c i, b with
      | some r, some (x, j) => if r < x then some (r, i) else some (x, j)
      | some r, none => some (r, i)
      | none, b => b) none
    { c with stage := best.map fun b => b.2 }

/-- What a probe finds. -/
inductive Probed where
  /-- a list entry is still being read -/
  | wait
  /-- the command stops -/
  | stop (st : Status)
  | bagFails (st : Status)
  /-- a zero row, or no delta row -/
  | nothing
  /-- the row's deferred update is forwarded first; `fresh` says that nobody has asked for that yet -/
  | forward (table row : Nat) (fresh : Bool)
  /-- the bucket of a delta row is read first -/
  | bucket (dva variant row : Nat)
  | hit (tv : TabVer) (row : Nat) (staging : Bool) (set way : Nat)
  | miss (tv : TabVer) (row : Nat)
  deriving DecidableEq, Repr, Inhabited

/-- A row is looked up (R189, R195, R231). -/
def lookRow (e : Fin 16) (tv : TabVer) (row : Nat) (s : State) : Probed :=
  let table := tdId tv.desc
  let m := s.mem.rowStore[e]
  let es := emberSet s table row
  let ss := stagingSet table row
  if s.rows.obj.deferForward = 1 ∧ (deferredOn s table row) ≠ [] then
    .forward table row !((getEng s e).forwards.contains (table, row))
  else match findWay m es table row tv.version with
    | some w => .hit tv row false es w
    | none => match findWay m ss table row tv.version with
      | some w => .hit tv row true ss w
      | none => .miss tv row

/-- A probe of one part of a bag (R184, R189): what it finds, and the position's weight. The delta row of a position is looked up once
its bucket has given its slot (R236). -/
def probePart (e : Fin 16) (g : GatherRun) (t : BagThread) (part : Nat × Bool) (s : State) : State × Probed × BitVec 32 :=
  let l := gatherLists g.slot.pay
  let index := (l.index + 4 * part.1, 4, l.index + 4 * g.p1)
  let wgt := if l.wgtSize = 0 then [] else [(l.wgt + part.1 * l.wgtSize, l.wgtSize, l.wgt + g.p1 * l.wgtSize)]
  let var := if part.2 then [(l.vars + t.bag, 1, l.vars + l.count)] else []
  let r := readLists e g (index :: wgt ++ var) s
  match r.2 with
  | .wait => (r.1, .wait, 0)
  | .fail st => (r.1, .stop st, 0)
  | .done ds =>
    if ds.any poisoned then (r.1, .bagFails .dataPoison, 0)
    else
      let row := leNat (dataBytes (ds.getD 0 []))
      let w := if l.wgtSize = 0 then one32 else weightValue (dataBytes (ds.getD 1 []))
      if !part.2 then
        if row ≥ tdRows g.desc.desc then (r.1, if tdFail g.desc.desc then .bagFails .addressRange else .nothing, w)
        else (r.1, lookRow e g.desc row r.1, w)
      else match g.delta, g.keyDva with
        | some dv, some key => match t.found.find? fun f => f.1 == part.1 with
          | some f => (r.1, lookRow e dv f.2 r.1, w)
          | none =>
            let v := leNat (dataBytes (ds.getLast?.getD []))
            (r.1, .bucket ((key + 8 * deltaBucket dv.desc v row) % 2 ^ 48) v row, w)
        | _, _ => (r.1, .nothing, w)

/-- The part is done with: the thread goes on to the next (R184). `again` says that the part was one to retry; a zero row has no
delta part. -/
def advancePart (deltaEn zero again : Bool) (part : Nat × Bool) (t : BagThread) : BagThread :=
  if again then { t with retry := t.retry.tail }
  else { t with next := if !part.2 && deltaEn && !zero then (part.1, true) else (part.1 + 1, false) }

/-- A row is added to a thread. -/
def addRow (r : PendRow) (t : BagThread) : BagThread := { t with rows := t.rows ++ [r] }

/-- A bag fails (R187): nothing more of it is probed or pooled. -/
def failBag (st : Status) (t : BagThread) : BagThread :=
  { t with fail := t.fail.orElse fun _ => some st, retry := [], held := [], found := [], rows := [] }

/-- An accumulated position (R185). Under NONE a position below P0, which only broken offsets reach, has no output. -/
def poolValue (p : BitVec 1536) (p0 pos : Nat) (w : BitVec 32) (u : List (BitVec 32)) (t : BagThread) : BagThread :=
  match gPool p with
  | 0 => if pos < p0 then t else { t with outs := t.outs ++ [(pos - p0, u)] }
  | 3 => { t with acc := (t.acc.zip u).map fun x => ffma w x.2 x.1 }
  | _ => { t with acc := (t.acc.zip u).map fun x => fadd x.1 x.2 }

/-- The part that is next takes its value (R184, R185); `u` is the value of its row. -/
def takePart (g : GatherRun) (r : PendRow) (u : List (BitVec 32)) (t : BagThread) : BagThread :=
  let p := g.slot.pay
  let zeros := List.replicate (tdDim g.desc.desc) (0 : BitVec 32)
  let t := { t with rows := dropFirst (fun x => x.id == r.id) t.rows }
  if !r.delta then
    if r.zero then { poolValue p g.p0 r.pos r.weight zeros t with pool := (r.pos + 1, false) }
    else if gDelta p then { t with base := u, pool := (r.pos, true) }
    else { poolValue p g.p0 r.pos r.weight u t with pool := (r.pos + 1, false) }
  else
    let v := if r.zero then t.base else (t.base.zip u).map fun x => fadd x.1 x.2
    { poolValue p g.p0 r.pos r.weight v t with pool := (r.pos + 1, false), base := [] }

/-- The row of the part that is next in the bag's order. -/
def nextRow (t : BagThread) : Option PendRow := t.rows.find? fun r => (r.pos, r.delta) == t.pool

/-- Zero rows that are next are taken without a pool cycle. -/
def absorbZeros : Nat → GatherRun → BagThread → BagThread
  | 0, _, t => t
  | k + 1, g, t => match nextRow t with
    | some r => if r.zero then absorbZeros k g (takePart g r [] t) else t
    | none => t

/-- The bank that a request counts against. -/
def bankKey (x : XEntry) : Option (Nat × Nat × Nat) := if x.tier = 1 then some ((stackOf x.pa).val, channelOf x.pa, bankOf x.pa) else none

/-- Whether the caps leave room for a request (R193, R200). -/
def capRoom (bankCap outCap : Nat) (slots : List RowReq) (r : RowReq) : Bool :=
  let bank := match r.bank with
    | some _ => decide ((slots.filter fun x => x.bank == r.bank).length < bankCap)
    | none => true
  bank && (!r.outside || decide ((slots.filter fun x => x.outside).length < outCap))

/-- A request for a piece of a row. -/
def rowReq (e : Fin 16) (row off len : Nat) (x : XEntry) : RowReq :=
  { row := row, off := off, len := len, entry := x, bank := bankKey x, outside := !(x.tier = 1 ∧ (stackOf x.pa).val = e.val / 2),
    req := none }

/-- The pieces of a record (R191): one for each aligned 256-byte window that it touches. -/
def rowPieces : Nat → Nat → Nat → Nat → List (Nat × Nat)
  | 0, _, _, _ => []
  | k + 1, dva, off, len => if len = 0 then [] else let n := min len (256 - (dva + off) % 256); (off, n) :: rowPieces k dva (off + n) (len - n)

/-- A core's request leaves (R191). -/
def sendRow (e : Fin 16) (c : Fin 4) (r : RowReq) (s : State) : State :=
  let x := postReq .cmd (whoEngine e) false r.entry r.len [] s
  updCore e c (fun k => { k with slots := k.slots ++ [{ r with req := some x.2 }] }) x.1

/-- How far issuing a row's pieces came: all are placed, they wait for a translation or a slot, the wait list is full, or the
translation fails the bag. -/
inductive IssueEnd where
  | placed | wait | full
  | fails (st : Status)
  deriving DecidableEq, Repr, Inhabited

/-- Whether a request must join the wait list (R193): a cap is reached, or an earlier request waits for the room that there is. -/
def mustWait (k : Core) (r : RowReq) : Bool :=
  let shares (x : RowReq) : Bool := (r.bank.isSome && x.bank == r.bank) || (r.outside && x.outside)
  !capRoom 8 16 k.slots r || k.waits.any fun x => shares x && capRoom 8 16 k.slots x

/-- The pieces of a row are issued in address order (R191, R193). -/
def issuePieces (e : Fin 16) (c : Fin 4) (id dva : Nat) : List (Nat × Nat) → State → State × List (Nat × Nat) × IssueEnd
  | [], s => (s, [], .placed)
  | (off, len) :: rest, s =>
    let x := xlateTry (whoEngine e) (opKey kRow id) ((dva + off) % 2 ^ 48) s
    match x.2 with
    | .wait => (x.1, (off, len) :: rest, .wait)
    | .fail st => (x.1, [], .fails st)
    | .hit en =>
      if en.tier = 0 ∨ en.tier = 3 then (x.1, [], .fails .addressRange)
      else
        let r := rowReq e id off len en
        let k := getCore x.1 e c
        if !mustWait k r then
          if k.slots.length < 48 then issuePieces e c id dva rest (sendRow e c r x.1) else (x.1, (off, len) :: rest, .wait)
        else if k.waits.length < 64 then issuePieces e c id dva rest (updCore e c (fun k => { k with waits := k.waits ++ [r] }) x.1)
        else (x.1, (off, len) :: rest, .full)

/-- A row miss is counted and, every 2^MISS_SAMPLE_SHIFT-th time, sampled (R189, R198), under the objects that its command took on
(R204). -/
def countMiss (e : Fin 16) (g : GatherRun) (tv : TabVer) (row : Nat) (s : State) : State :=
  let n := (getEng s e).missCount + 1
  let s := engCount e (fun k => { k with rowMisses := addSat k.rowMisses 1 }) (updEng e (fun x => { x with missCount := n }) s)
  let entries := g.ringEntries.toNat
  if entries = 0 ∨ n % 2 ^ g.missShift.toNat ≠ 0 then s
  else
    let q := (getEng s e).missHead
    let tag := if slotNoStep g.slot then 0 else slotStepTag g.slot
    let v := row + tdId tv.desc * 2 ^ 32 + tv.version % 2 * 2 ^ 44 + tag * 2 ^ 48
    let a := (g.ringDva.toNat + e.val * entries * 8 + q % entries * 8) % 2 ^ 48
    postWrite (whoEngine e) (opKey kSample q) a (clean (leBytes 8 v)) (updEng e (fun x => { x with missHead := (q + 1) % 2 ^ 64 }) s)

/-- A hit is counted, and every 2^HIT_SAMPLE_SHIFT-th ember hit of the core adds to its tag's HITS (R189, R198), by the
command's HIT_SAMPLE_SHIFT (R204). -/
def countHit (e : Fin 16) (c : Fin 4) (g : GatherRun) (staging : Bool) (set way : Nat) (s : State) : State :=
  if staging then engCount e (fun k => { k with stagingHits := addSat k.stagingHits 1 }) s
  else
    let s := engCount e (fun k => { k with emberHits := addSat k.emberHits 1 }) s
    let n := (getCore s e c).hits + 1
    let s := updCore e c (fun k => { k with hits := n }) s
    if n % 2 ^ g.hitShift.toNat ≠ 0 then s
    else updStore e (fun m => let t := tagAt m set way; setTag set way (setFld t 111 96 (min (fld t 111 96 + 1) 0xFFFF)) m) s

/-- The thread that issued a probe yields after a miss, with three shadow probes left (R189). -/
def yieldStage (e : Fin 16) (c : Fin 4) (s : State) : State :=
  engCount e (fun k => { k with threadYield := addSat k.threadYield 1 }) (updCore e c (fun k => { k with shadow := some 3 }) s)

/-- A shadow probe is used up; after the last the thread leaves the stage (R189). -/
def useShadow (e : Fin 16) (c : Fin 4) (s : State) : State :=
  let n := (getEng s e).nextReady
  let f (k : Core) : Core := match k.shadow with
    | some j => if j ≤ 1 then leaveStage n k else { k with shadow := some (j - 1) }
    | none => k
  updEng e (fun g => { g with nextReady := g.nextReady + 1 }) (updCore e c f s)

/-- A new row of a thread. -/
def freshRow (s : State) (e : Fin 16) (part : Nat × Bool) (w : BitVec 32) : PendRow :=
  { id := (getEng s e).nextRow, pos := part.1, delta := part.2, zero := false, bucket := none, again := false, desc := 0, dva := 0, record := [], toIssue := [],
    missing := 0, weight := w, order := none, taken := 0 }

/-- A row number is used up, and a place in the order of becoming poolable. -/
def useRow (e : Fin 16) (s : State) : State := updEng e (fun g => { g with nextRow := g.nextRow + 1, nextOrder := g.nextOrder + 1 }) s

/-- The thread passes over a part that is probed again later: it stands first among those parts, or joins them. -/
def laterPart (again deltaEn : Bool) (part : Nat × Bool) (t : BagThread) : BagThread :=
  if again then t else let t' := advancePart deltaEn false false part t; { t' with retry := t'.retry ++ [part] }

/-- A part's position is probed again later (R190, R193). -/
def retryPart (e : Fin 16) (c : Fin 4) (i : Fin 16) (again deltaEn : Bool) (part : Nat × Bool) (s : State) : State :=
  updThread e c i (laterPart again deltaEn part) (engCount e (fun k => { k with probeRetry := addSat k.probeRetry 1 }) s)

/-- A bag that cannot be written leaves its thread, and its command stops (R187). -/
def abandonBag (e : Fin 16) (c : Fin 4) (i : Fin 16) (t : BagThread) (st : Status) (s : State) : State :=
  let free (k : Core) : Core :=
    { k with threads := k.threads.set i none, stage := if k.stage = some i then none else k.stage,
             shadow := if k.stage = some i then none else k.shadow }
  stopGather e t.cmd st (some t.bag) (updCore e c free s)

/-- The requests of a row, or of the bucket before it, are placed, or the part is retried (R189, R190, R193); `count` counts a miss.
A bucket runs like a miss piece (R236): its thread yields as after a miss, which is DEDUCED from that. -/
def placeRow (e : Fin 16) (c : Fin 4) (i : Fin 16) (dEn : Bool) (t : BagThread) (shadow again : Bool) (part : Nat × Bool) (r : PendRow)
    (count : State → State) (s : State) : State :=
  let after (s : State) : State := if shadow then useShadow e c s else yieldStage e c s
  if missingRows t ≥ 3 then after (retryPart e c i again dEn part s)
  else
    let size := r.record.length
    let ps := rowPieces (size / 256 + 2) r.dva 0 size
    let x := issuePieces e c r.id r.dva ps (useRow e s)
    let add (s : State) : State :=
      updThread e c i (fun t => addRow { r with missing := ps.length, toIssue := x.2.1 } (advancePart dEn false again part t)) s
    match x.2.2 with
    | .full => if x.2.1.length = ps.length then after (retryPart e c i again dEn part x.1) else after (add (count x.1))
    | .fails st => after (updThread e c i (failBag st) (count x.1))
    | _ => after (add (count x.1))

/-- A miss (R189). -/
def placeMiss (e : Fin 16) (c : Fin 4) (i : Fin 16) (g : GatherRun) (t : BagThread) (shadow again : Bool) (part : Nat × Bool)
    (tv : TabVer) (row : Nat) (w : BitVec 32) (s : State) : State :=
  let r := { freshRow s e part w with
    desc := tv.desc, dva := recAddr tv.desc row, record := List.replicate (recSize tv.desc) (0, false) }
  placeRow e c i (gDelta g.slot.pay) t shadow again part r (countMiss e g tv row) s

/-- A row that waits for its deferred update (R231): it is handled as a miss, and probed again once that has been applied. -/
def holdPart (e : Fin 16) (c : Fin 4) (i : Fin 16) (dEn again : Bool) (part : Nat × Bool) (table row : Nat) (s : State) : State :=
  updThread e c i (fun t => let t' := advancePart dEn false again part t; { t' with held := t'.held ++ [(part, table, row)] }) s

/-- The deferred update of a row has been applied: the parts that wait for it are probed again (R231). -/
def releaseHeld (table row : Nat) (t : BagThread) : BagThread :=
  let mine (h : (Nat × Bool) × Nat × Nat) : Bool := h.2.1 == table && h.2.2 == row
  { t with retry := t.retry ++ (t.held.filter mine).map (fun h => h.1), held := t.held.filter fun h => !mine h }

/-- A delta row has been read (R184). -/
def countDelta (e : Fin 16) (delta : Bool) (s : State) : State := engCount e (fun k => { k with deltaRows := addSat k.deltaRows (b2n delta) }) s

/-- A probe's result reaches its thread. -/
def applyProbe (e : Fin 16) (c : Fin 4) (i : Fin 16) (g : GatherRun) (t : BagThread) (shadow again : Bool) (part : Nat × Bool)
    (w : BitVec 32) (r : Probed) (s : State) : State :=
  let dEn := gDelta g.slot.pay
  let after (s : State) : State := if shadow then useShadow e c s else s
  let afterMiss (s : State) : State := if shadow then useShadow e c s else yieldStage e c s
  match r with
  | .wait => s
  | .stop st => abandonBag e c i t st s
  | .bagFails st => after (updThread e c i (failBag st) s)
  | .nothing =>
    let row := { freshRow s e part w with zero := true }
    let s := if part.2 then s else engCount e (fun k => { k with missingRows := addSat k.missingRows 1 }) s
    after (updThread e c i (fun t => absorbZeros 2048 g (addRow row (advancePart dEn (!part.2) again part t))) (useRow e s))
  | .forward table row fresh =>
    let s := if fresh then updEng e (fun x => { x with forwards := x.forwards ++ [(table, row)] }) s else s
    let s := engCount e (fun k => { k with deferForwards := addSat k.deferForwards 1 }) s
    if missingRows t ≥ 3 then afterMiss (retryPart e c i again dEn part s) else afterMiss (holdPart e c i dEn again part table row s)
  | .bucket dva v row =>
    let b := { freshRow s e part w with bucket := some (v, row), dva := dva, record := List.replicate 64 (0, false) }
    placeRow e c i dEn t shadow again part b (fun s => s) s
  | .hit tv row staging set way =>
    let m := s.mem.rowStore[e]
    let u := tagUnit (tagAt m set way)
    let d := memRead m (if staging then stagingData u else emberData u) (recSize tv.desc)
    let s := countHit e c g staging set way s
    if poisoned d then after (updThread e c i (failBag .dataPoison) s)
    else
      let r := { freshRow s e part w with desc := tv.desc, dva := recAddr tv.desc row, record := d, order := some (getEng s e).nextOrder }
      after (updThread e c i (fun t => addRow r (advancePart dEn false again part t)) (countDelta e part.2 (useRow e s)))
  | .miss tv row => placeMiss e c i g t shadow again part tv row w s

/-- PROBE (R189, R190): the next probe of the thread that holds a core's lookup stage. -/
def execProbe (e : Fin 16) (core : Fin 4) (s : State) : Host.Outcome State Fault Refusal :=
  let s := updEng e (fun g => { g with cores := updAt g.cores core (settleStage g.nextReady), nextReady := g.nextReady + 1 }) s
  let k := getCore s e core
  go (match k.stage with
    | none => s
    | some i => match k.threads[i] with
      | none => s
      | some t => match findGather (getEng s e) t.cmd with
        | none => s
        | some g =>
          let shadow := k.shadow.isSome
          let again := !shadow && !t.retry.isEmpty
          let part := if again then t.retry.headD t.next else t.next
          let r := probePart e g t part s
          applyProbe e core i g t shadow again part r.2.2 r.2.1 r.1)

/-- The first entry of a wait list that may leave: its caps have room (R193). Entries that wait on the same bank, or on the
outside cap, leave in arrival order, which the caps' filling in that order gives. -/
def leavable (k : Core) : Option RowReq := if k.slots.length < 48 then k.waits.find? fun r => capRoom 8 16 k.slots r else none

/-- The rows of a core with pieces still to issue, with their threads. -/
def unissued (k : Core) : List (Fin 16 × PendRow) :=
  (List.finRange 16).flatMap fun i => match k.threads[i] with
    | some t => (t.rows.filter fun r => !r.toIssue.isEmpty).map fun r => (i, r)
    | none => []

/-- Pieces of rows that waited for a translation or for free slots are issued (R191). -/
def issueLeft (e : Fin 16) (c : Fin 4) (s : State) (x : Fin 16 × PendRow) : State :=
  let r := issuePieces e c x.2.id x.2.dva x.2.toIssue s
  match r.2.2 with
  | .fails st => updThread e c x.1 (failBag st) r.1
  | _ => updThread e c x.1 (fun t => { t with rows := mapIf (fun y => y.id == x.2.id) (fun y => { y with toIssue := r.2.1 }) t.rows }) r.1

/-- WAIT_LIST_RELEASE (R193): the oldest request of the wait list whose cap has room leaves; then rows issue the pieces that they
could not place before (R191). -/
def execWaitListRelease (e : Fin 16) (core : Fin 4) (s : State) : Host.Outcome State Fault Refusal :=
  let s := match leavable (getCore s e core) with
    | some r => sendRow e core r (updCore e core (fun k => { k with waits := dropFirst (fun x => x == r) k.waits }) s)
    | none => s
  go ((unissued (getCore s e core)).foldl (issueLeft e core) s)

/-- Data put into a record at an offset. -/
def putData (r : Data) (off : Nat) (d : Data) : Data := r.take off ++ d ++ r.drop (off + d.length)

/-- A delta row's bucket has been read (R236): no delta row, or its slot, whose row is probed next. -/
def resolveBucket (g : GatherRun) (v row : Nat) (r : PendRow) (t : BagThread) : BagThread :=
  let gone := t.rows.filter fun x => x.id != r.id
  match g.delta, deltaWay (dataBytes r.record) v row with
  | some dv, some way =>
    { t with rows := gone, retry := t.retry ++ [(r.pos, true)], found := t.found ++ [(r.pos, deltaBucket dv.desc v row + way)] }
  | _, _ => absorbZeros 2048 g { t with rows := gone ++ [{ r with zero := true, bucket := none, record := [], missing := 0 }] }

/-- A row whose last piece has arrived: poolable as number `order`; or to be read again (R203); or a bucket. -/
def wholeRow (g : GatherRun) (order : Nat) (r : PendRow) (t : BagThread) : BagThread :=
  let put (x : PendRow) : BagThread := { t with rows := mapIf (fun y => y.id == r.id) (fun _ => x) t.rows }
  if r.missing ≠ 0 then put r
  else if r.again then
    let ps := rowPieces (r.record.length / 256 + 2) r.dva 0 r.record.length
    put { r with again := false, missing := ps.length, toIssue := ps }
  else match r.bucket with
    | some (v, row) => resolveBucket g v row r t
    | none => put { r with order := some order }

/-- A piece of a row has arrived at its thread. -/
def takePiece (g : GatherRun) (order : Nat) (q : RowReq) (st : Status) (d : Data) (t : BagThread) : BagThread :=
  match t.rows.find? fun x => x.id == q.row with
  | none => t
  | some r =>
    if !fine st then failBag st t
    else if poisoned d then failBag .dataPoison t
    else wholeRow g order { r with record := putData r.record q.off d, missing := r.missing - 1 } t

/-- The thread that a request's row belongs to, and that row. -/
def rowOwner (k : Core) (id : Nat) : Option (Fin 16 × BagThread × PendRow) :=
  (List.finRange 16).findSome? fun i => k.threads[i].bind fun t => (t.rows.find? fun r => r.id == id).map fun r => (i, t, r)

/-- ROW_PIECE_ARRIVE (R189, R191): the request in slot `idx` has returned; a whole record becomes poolable, and a poisoned or
failed piece fails its bag (R187). -/
def execRowPieceArrive (e : Fin 16) (core : Fin 4) (idx : Nat) (s : State) : Host.Outcome State Fault Refusal :=
  let k := getCore s e core
  go (match k.slots[idx]? with
    | none => s
    | some q => match q.req.bind (reqEnded s) with
      | none => s
      | some (st, d) =>
        let s := forgetReq (q.req.getD 0) (updCore e core (fun k => { k with slots := dropIdx k.slots idx }) s)
        let order := (getEng s e).nextOrder
        let s := updEng e (fun g => { g with nextOrder := g.nextOrder + 1 }) s
        match rowOwner k q.row with
        | none => s
        | some (i, t, r) => match findGather (getEng s e) t.cmd with
          | none => s
          | some g =>
            let read := r.delta && r.bucket.isNone && r.missing == 1 && !r.again && fine st && !poisoned d
            updThread e core i (takePiece g order q st d) (countDelta e read s))

/-- The row that the pool unit takes (R192): of the rows next in their bags' order, the one that became poolable first. -/
def poolChoice (g : Engine) : Option (Fin 4 × Fin 16 × BagThread × PendRow) :=
  let cs := (engineThreads g).filterMap fun x => match nextRow x.2.2 with
    | some r => r.order.map fun o => (o, x.1, x.2.1, x.2.2, r)
    | none => none
  (cs.foldl (fun (b : Option (Nat × Fin 4 × Fin 16 × BagThread × PendRow)) x => match b with
    | some y => if x.1 < y.1 then some x else b
    | none => some x) none).map fun x => x.2

/-- The bag's oldest pending row has been pooled: a parked thread within its limits is ready again (R190). -/
def unpark (ready : Nat) (t : BagThread) : BagThread :=
  if t.parked && withinLimits t then { t with parked := false, ready := ready } else t

/-- POOL_PIECE (R192, R184, R185). -/
def execPoolPiece (e : Fin 16) (s : State) : Host.Outcome State Fault Refusal :=
  go (match poolChoice (getEng s e) with
    | none => s
    | some (c, i, t, r) =>
      match findGather (getEng s e) t.cmd with
      | none => s
      | some g =>
        let s := engCount e (fun k => { k with poolBusy := addSat k.poolBusy 1 }) s
        if (r.taken + 1) * 256 < r.record.length then
          updThread e c i (fun t => { t with rows := mapIf (fun x => x.id == r.id) (fun x => { x with taken := x.taken + 1 }) t.rows }) s
        else
          let f := takeFree s
          let s := f.1
          let n := (getEng s e).nextReady
          let s := engCount e (fun k => { k with rowsPooled := addSat k.rowsPooled 1 }) s
          let s := updEng e (fun x => { x with nextReady := n + 1 }) s
          let u := rowValue r.desc (dataBytes r.record) f.2
          updThread e c i (fun t => unpark n (absorbZeros 2048 g (takePart g r u t))) s)

/-- An output vector's bytes in OUT_TYPE, and how many elements saturated (R185, R143). -/
def outBytes (type : Nat) (v : List (BitVec 32)) : List Byte × Nat :=
  if type = 2 then (v.flatMap fun x => bytesOf 4 x, 0)
  else
    let cs := v.map fun x => toNarrow (if type = 0 then fmtBF16 else fmtFP16) .nearest (num32 x)
    (cs.flatMap fun c => leBytes 2 c.code, (cs.filter fun c => c.sat).length)

/-- The outputs of a bag whose positions are all pooled, or that failed (R185, R187), as numbers and vectors. -/
def bagOutputs (g : GatherRun) (t : BagThread) : List (Nat × List (BitVec 32)) :=
  let p := g.slot.pay
  let zeros := List.replicate (tdDim g.desc.desc) (0 : BitVec 32)
  let n := t.last - t.first
  if gPool p = 0 then
    if t.fail.isSome then
      if t.noRange then []
      else let a := max t.first g.p0; ((List.range (min t.last g.p1 - a)).map fun k => (a + k - g.p0, zeros))
    else t.outs.filter fun o => decide (o.1 < g.p1 - g.p0)
  else if t.fail.isSome then [(t.bag, zeros)]
  else match gPool p with
    | 2 => [(t.bag, if n = 0 then zeros else t.acc.map fun x => fmul x (recip32 n))]
    | _ => [(t.bag, t.acc)]

/-- Outputs are marked written (R186). -/
def markOutputs (js : List Nat) (g : GatherRun) : GatherRun :=
  let beyond := js.foldl (fun b j => if j < g.outputs then b else setAdd b j) g.beyond
  let r := beyond.foldl (fun (a : Nat × List Nat) j => if j = a.1 then (a.1 + 1, a.2) else (a.1, a.2 ++ [j])) (g.outputs, [])
  { g with outputs := r.1, beyond := r.2 }

/-- A bag has been written: its thread is free, its outputs count for the signals, and the last bag ends the command (R187). -/
def endBag (e : Fin 16) (c : Fin 4) (i : Fin 16) (g : GatherRun) (t : BagThread) (s : State) : State :=
  let note (x : GatherRun) : GatherRun :=
    { markOutputs ((bagOutputs g t).map fun o => o.1) x with
      ended := x.ended + 1,
      failed := match t.fail, x.failed with
        | some st, some (b, y) => if t.bag < b then some (t.bag, st) else some (b, y)
        | some st, none => some (t.bag, st)
        | none, y => y }
  let s := updGather e t.cmd note (updCore e c (fun k => { k with threads := k.threads.set i none }) s)
  let s := engCount e (fun k => { k with gatherBags := addSat k.gatherBags 1, bagFail := addSat k.bagFail (b2n t.fail.isSome) }) s
  let s := match findGather (getEng s e) t.cmd with
    | some g => sendGroups (gOutputs g.slot.pay g.p0 g.p1 / 16 + 2) e g false s
    | none => s
  finishGather e t.cmd s

/-- Bag outputs on their way to a tile, each in a packet (R186); the packets' numbers. -/
def sendOutputs (e : Fin 16) (p : BitVec 1536) (os : List (Nat × List Byte)) (s : State) : State × List Nat :=
  os.foldl (fun (a : State × List Nat) o =>
    (sendTile (whoEngine e) (gOutTile p) (gOutAddr p + o.1 * gStride p) false (.data (gOutAddr p + o.1 * gStride p) (clean o.2)) a.1,
      a.2 ++ [a.1.tile.weave.nextId])) (s, [])

/-- BAG_OUTPUT_WRITE (R186, R190): a bag whose positions are all pooled, or that has failed, is converted and written; once the
writes have arrived its thread is free. -/
def execBagOutputWrite (e : Fin 16) (core : Fin 4) (thread : Fin 16) (s : State) : Host.Outcome State Fault Refusal :=
  go (match (getCore s e core).threads[thread] with
    | none => s
    | some t => match findGather (getEng s e) t.cmd with
      | none => s
      | some g =>
        let p := g.slot.pay
        if t.written then
          if t.packets.any fun id => s.tile.weave.packets.any fun w => w.id == id then s else endBag e core thread g t s
        else if t.fail.isNone ∧ t.pool.1 < t.last then s
        else
          let os := (bagOutputs g t).map fun o => (o.1, outBytes (gOutType p) o.2)
          let bs := os.map fun o => (o.1, o.2.1)
          let count := engCount e (fun k => { k with rowSat := addSat k.rowSat (os.map fun o => o.2.2).sum })
          if gToTile p then
            if fenced s (gOutTile p).val then abandonBag e core thread t .addressRange s
            else
              let r := sendOutputs e p bs (count s)
              updThread e core thread (fun t => { t with written := true, packets := r.2 }) r.1
          else
            let r := ioMany .cmd (whoEngine e) (opKey kOutput (65536 * t.cmd + t.bag)) (bs.map fun o => ioWrite ((gOutAddr p + o.1 * gStride p) % 2 ^ 48) (clean o.2)) s
            match r.2 with
            | .wait => r.1
            | .fail st => abandonBag e core thread t st r.1
            | .done _ => endBag e core thread g t (count r.1))

/-- The checks of EMBER_REFRESH (R196). -/
def refreshCheck (_ : Fin 64) (c : Slot) (s : State) : State × Adm :=
  let p := c.pay
  let d := checks [
    (fld p 31 4 != 0 || fld p 127 112 != 0 || fld p 255 160 != 0 || fld p 111 64 % 16 != 0, .malformed), stepRules s c,
    (decide (fld p 63 32 * 16 > fld p 159 128), .lengthRange), (fld p 63 32 == 0, .okNoOp)]
  (s, if d = .accept ∧ engineFull s (gEngine p) then .wait else d)

/-- An EMBER_REFRESH is admitted into its engine's queue. -/
def refreshAdmit (k : Cmd) (s : State) : State :=
  let r : RefreshRun := { cmd := k.id, slot := k.slot, step := k.step, next := 0, installs := [], failed := none }
  updEng (gEngine k.slot.pay) (fun g => { g with queue := g.queue ++ [.refresh r] }) s

/-- EMBER_REFRESH. -/
def emberRefreshRule : OpRule := { check := refreshCheck, effect := refreshAdmit }

/-- EMBER_REFRESH (R196). -/
def execEmberRefresh (sq : Fin 64) (c : Slot) (s : State) : Host.Outcome State Fault Refusal := go (commandAtHead 0x23 emberRefreshRule sq c s)

/-- Whether rows are being applied (R39, item 2, R48). -/
def rowsApply (s : State) : Bool := s.train.steps.any fun p => p.state == .committing && p.item != .done

/-- The refresh at the head of an engine's queue, if it may run (R188, R197): earlier PRESCANs of the engine have completed too, and no
row application runs. -/
def runningRefresh (s : State) (e : Fin 16) : Option RefreshRun :=
  let g := getEng s e
  match g.queue with
  | .refresh r :: _ => if !mayBegin s r.slot r.step || rowsApply s || g.prescans.any (fun p => decide (p.cmd < r.cmd)) then none else some r
  | _ => none

/-- The refresh of engine `e` changed by `f`. -/
def updRefresh (e : Fin 16) (f : RefreshRun → RefreshRun) (s : State) : State :=
  updEng e (fun g => { g with queue := match g.queue with | .refresh r :: rest => .refresh (f r) :: rest | q => q }) s

/-- An entry fails; the lowest-numbered failure is kept (R196). -/
def failEntry (n : Nat) (st : Status) (r : RefreshRun) : RefreshRun :=
  { r with failed := match r.failed with
      | some (m, y) => if n < m then some (n, st) else some (m, y)
      | none => some (n, st) }

/-- A refresh with no entry left and no install in flight completes (R196). -/
def finishRefresh (e : Fin 16) (s : State) : State :=
  match (getEng s e).queue with
  | .refresh r :: rest =>
    if r.next < fld r.slot.pay 63 32 ∨ r.installs ≠ [] then s
    else
      let s := updEng e (fun g => { g with queue := rest }) s
      match r.failed with
      | some (n, st) => completeCmd r.cmd st n s
      | none => completeCmd r.cmd .ok 0 s
  | _ => s

/-- Why a refresh entry fails its checks (R196), if it does. -/
def entryFails (s : State) (x : BitVec 128) : Option Status :=
  let op := fld x 1 0
  let d := (findTable s (fld x 15 4)).map fun t => t.cur.desc
  let dd := d.getD 0
  let unit := fld x 67 48
  firstFail [
    (op == 3 || fld x 127 68 != 0 || (op != 1 && unit != 0), .malformed),
    (d.isNone || tdDrop dd || decide (fld x 47 16 ≥ tdRows dd) ||
      (op == 1 && (decide (unit < s.rows.obj.emberSets) || decide (emberData unit + recSize dd > 0x3000000))), .addressRange)]

/-- The record of an install is read (R197). -/
def installRead (e : Fin 16) (i : Install) (s : State) : State × IoRes := ioAccess .cmd (whoEngine e) (opKey kInstall i.entry) (ioRead i.dva i.len) s

/-- An entry of a refresh acts (R197). -/
def applyEntry (e : Fin 16) (n : Nat) (x : BitVec 128) (s : State) : State :=
  match findTable s (fld x 15 4) with
  | none => s
  | some t =>
    let row := fld x 47 16
    let way := fld x 3 2
    let set := emberSet s t.id row
    let tag := tagAt s.mem.rowStore[e] set way
    let holds := tagHits tag t.id row t.cur.version
    match fld x 1 0 with
    | 0 => if holds then updStore e (setTag set way (setFld tag 45 45 0)) s else s
    | 1 =>
      let i : Install :=
        { entry := n, table := t.id, row := row, way := way, unit := fld x 67 48, version := t.cur.version,
          dva := recAddr t.cur.desc row, len := recSize t.cur.desc, again := false }
      let s := if tagValid tag then updStore e (setTag set way (setFld tag 45 45 0)) s else s
      (installRead e i (updRefresh e (fun r => { r with installs := r.installs ++ [i] }) s)).1
    | _ => if holds then updStore e (setTag set way (setFld tag 111 96 0)) s else s

/-- EMBER_ENTRY_APPLY (R196, R197): the next entry of a running refresh is read, checked and applied. It waits while 64 installs
are in flight, or one of its own set. -/
def execEmberEntryApply (e : Fin 16) (s : State) : Host.Outcome State Fault Refusal :=
  go (match runningRefresh s e with
    | none => s
    | some r =>
      if r.next ≥ fld r.slot.pay 63 32 ∨ r.installs.length ≥ 64 then s
      else
        let s := startCmd r.cmd s
        let x := ioReadOne .cmd (whoEngine e) (opKey kEntry r.cmd) ((fld r.slot.pay 111 64 + 16 * r.next) % 2 ^ 48) 16 s
        let entry := BitVec.ofNat 128 (leNat (dataBytes x.2.data))
        let next (s : State) : State := finishRefresh e (updRefresh e (fun r => { r with next := r.next + 1 }) s)
        let fails (st : Status) (s : State) : State := next (updRefresh e (failEntry r.next st) s)
        match x.2 with
        | .wait => x.1
        | .fail st => fails st x.1
        | .done _ =>
          if poisoned x.2.data then fails .dataPoison x.1
          else match entryFails s entry with
            | some st => fails st x.1
            | none =>
              let set := emberSet s (fld entry 15 4) (fld entry 47 16)
              if r.installs.any fun i => emberSet s i.table i.row == set then s
              else next (applyEntry e r.next entry x.1))

/-- EMBER_INSTALL_DONE (R197): the oldest install in flight has its record; the units and then the tag are written. An install
waits for a row application (R48) and for the drain batch that holds its row (R233), and reads its row again if that was updated. -/
def execEmberInstallDone (e : Fin 16) (s : State) : Host.Outcome State Fault Refusal :=
  go (match runningRefresh s e with
    | none => s
    | some r => match r.installs with
      | [] => s
      | i :: rest =>
        if inBatch s i.table i.row then s
        else
          let x := installRead e i s
          let forget (s : State) : State := ioForget (whoEngine e) (opKey kInstall i.entry) s
          let done (s : State) : State := finishRefresh e (updRefresh e (fun r => { r with installs := rest }) (forget s))
          match x.2 with
          | .wait => x.1
          | .fail st => done (updRefresh e (failEntry i.entry st) x.1)
          | .done _ =>
            if i.again then (installRead e i (updRefresh e (fun r => { r with installs := { i with again := false } :: rest }) (forget x.1))).1
            else if poisoned x.2.data then done (updRefresh e (failEntry i.entry .dataPoison) x.1)
            else
              let tag := BitVec.ofNat 128 (i.row + i.table * 2 ^ 32 + i.version % 2 * 2 ^ 44 + 2 ^ 45 + i.unit * 2 ^ 64)
              let s := updStore e (fun m => setTag (emberSet s i.table i.row) i.way tag (memWrite m (emberData i.unit) x.2.data)) x.1
              done (engCount e (fun k => { k with emberInstalls := addSat k.emberInstalls 1 }) s))

end Sys2Proof.Machine
end

