-- ==== Sys2Proof/Machine/Prescan.lean ====
section
/-!
DEFINITION. The pre-scanner of a row engine (05: R199 to R202).
-/
namespace Sys2Proof.Machine

/-- Whether a PRESCAN breaks its encoding (R199). -/
def prescanMalformed (p : BitVec 1536) : Bool :=
  let l := prescanLists p
  fld p 15 4 != 0 || fld p 31 28 != 0 || fld p 63 59 != 0 || fld p 127 112 != 0 || fld p 255 240 != 0 || l.index % 4 != 0 ||
  l.offs % 4 != 0 || (l.len != 0 && (l.offs != 0 || l.offsExt != 0))

/-- The checks of a PRESCAN (R199). -/
def prescanCheck (q : Fin 64) (c : Slot) (s : State) : State × Adm :=
  let l := prescanLists c.pay
  listAdmission q [
    (prescanMalformed c.pay, .malformed), (!tableDefined s (gTable c.pay), .addressRange), stepRules s c,
    (l.count == 0 || s.rows.obj.prescanEnable == 0, .okNoOp)]
    l (fun _ _ => []) (decide ((getEng s (gEngine c.pay)).prescans.length ≥ 4)) s

/-- A PRESCAN is admitted (R199, R201): it takes the generation opposite to the previous one, whose tags and units go; fetches of
that generation still in flight will not be staged. -/
def prescanAdmit (k : Cmd) (s : State) : State :=
  let e := gEngine k.slot.pay
  match findTable s (gTable k.slot.pay) with
  | none => s
  | some t =>
    let gen := !(getEng s e).lastGen
    let r : PreRun :=
      { cmd := k.id, slot := k.slot, step := k.step, table := t.cur, gen := gen, xorder := k.xorder, bag := 0, range := none,
        fetches := [], stop := false }
    let s := updStore e (clearTags 0x3000000 0x3100000 fun t => bit t 46 == gen) s
    let lose (p : PreRun) : PreRun := if p.gen = gen then { p with fetches := p.fetches.map fun f => { f with dropped := true } } else p
    updEng e (fun g => { g with
      lastGen := gen, allocs := g.allocs.filter fun a => a.gen != gen, prescans := g.prescans.map lose ++ [r] }) s

/-- PRESCAN. -/
def prescanRule : OpRule := { check := prescanCheck, effect := prescanAdmit }

/-- PRESCAN (R199). -/
def execPrescan (sq : Fin 64) (c : Slot) (s : State) : Host.Outcome State Fault Refusal := go (commandAtHead 0x22 prescanRule sq c s)

/-- A run-ahead read of a list entry, within one operation (R202): where the rule forbids it, it is dropped and counted, once (R299). -/
def aheadPiece (who key since dva n : Nat) (s : State) : State × IoRes :=
  match ioFind s who key false dva n with
  | some p => (s, reqRes s p.req)
  | none =>
    let x := xlateAhead who dva since s
    ioHold who key false dva n (match x.2 with
      | none => postFailed who .addressRange (countDrop who x.1)
      | some e => postReq .cmd who false e n [] x.1)

/-- The list entries (address, bytes) that the pre-scanner reads for PRESCAN `cmd`; one that meets poison is dropped and counted (R299). -/
def aheadReads (who cmd since : Nat) (xs : List (Nat × Nat)) (s : State) : State × IoRes :=
  let key := opKey kScan cmd
  let r := xs.foldl (fun (a : State × IoRes) x => let r := aheadPiece who key since x.1 x.2 a.1; (r.1, a.2.join r.2)) (s, .done [])
  match r.2 with
  | .wait => r
  | .fail st => (ioForget who key r.1, .fail st)
  | .done ds =>
    let s := ioForget who key r.1
    let bad := ds.filter poisoned
    (bad.foldl (fun s _ => countDrop who s) s, if bad.isEmpty then .done ds else .fail .dataPoison)

/-- The PRESCAN that an engine works on changed by `f`. -/
def updPre (e : Fin 16) (f : PreRun → PreRun) (s : State) : State :=
  updEng e (fun g => { g with prescans := match g.prescans with | r :: rest => f r :: rest | [] => [] }) s

/-- The range of the next bag that has positions: known, or a wait for its offsets. Bags that R187 would fail at once, and bags whose
offsets are dropped, are passed over. -/
def preRange (e : Fin 16) (cmd : Nat) (l : Lists) (since : Nat) : Nat → Nat → State → State × Option (Nat × Option (Nat × Nat))
  | 0, bag, s => (s, some (bag, none))
  | k + 1, bag, s =>
    if bag ≥ l.count then (s, some (bag, none))
    else if l.len ≠ 0 then (s, some (bag, some (bag * l.len, (bag + 1) * l.len)))
    else
      let a := (l.offs + 4 * bag) % 2 ^ 48
      let r := aheadReads (whoEngine e) cmd since [(a, 4), ((a + 4) % 2 ^ 48, 4)] s
      match r.2 with
      | .wait => (r.1, none)
      | .done [x, y] =>
        let m := leNat (dataBytes x)
        let n := leNat (dataBytes y)
        if n ≤ m ∨ n > m + 1024 then preRange e cmd l since k (bag + 1) r.1 else (r.1, some (bag, some (m, n)))
      | _ => preRange e cmd l since k (bag + 1) r.1

/-- Units of the staging data (R173). -/
def stagingUnits : Nat := 245760

/-- Free units for a record, as a ring in allocation order (R200). A record does not wrap round the end. -/
def allocUnits (g : Engine) (n : Nat) : Option Nat :=
  let u := if g.nextUnit + n > stagingUnits then 0 else g.nextUnit
  if g.allocs.any fun a => overlaps a.unit a.n u n then none else some u

/-- Whether a row's record is known to lie where no row may (R187), so that its bag would fail. -/
def preBad (e : Fin 16) (dva size : Nat) (s : State) : Bool :=
  (rowPieces (size / 256 + 2) dva 0 size).any fun p =>
    let t := tierKnown (whoEngine e) ((dva + p.1) % 2 ^ 48) s
    t == some 0 || t == some 3

/-- The requests of a fetch, where the run-ahead rule allows every one (R202). -/
def preReqs (e : Fin 16) (row dva size since : Nat) (s : State) : State × Option (List RowReq) :=
  (rowPieces (size / 256 + 2) dva 0 size).foldl (fun (a : State × Option (List RowReq)) p =>
    match a.2 with
    | none => a
    | some qs =>
      let x := xlateAhead (whoEngine e) ((dva + p.1) % 2 ^ 48) since a.1
      (x.1, x.2.map fun en => qs ++ [rowReq e row p.1 p.2 en])) (s, some [])

/-- The requests of an engine's pre-scanner that have left. -/
def preSent (g : Engine) : List RowReq := g.prescans.flatMap fun r => r.fetches.flatMap fun f => f.reqs.filter fun q => q.req.isSome

/-- One fetch sends what slots and caps allow (R200). -/
def pumpFetch (e : Fin 16) (fi : Nat) (s : State) (qi : Nat) : State :=
  match (getEng s e).prescans with
  | [] => s
  | r :: _ => match (r.fetches[fi]?).bind fun f => f.reqs[qi]? with
    | none => s
    | some q =>
      let sent := preSent (getEng s e)
      if q.req.isSome || decide (sent.length ≥ 64) || !capRoom 4 4 sent q then s
      else
        let x := postReq .cmd (whoEngine e) false q.entry q.len [] s
        updPre e (fun r => { r with fetches := updIdx r.fetches fi fun f => { f with reqs := f.reqs.set qi { q with req := some x.2 } } }) x.1

/-- The fetches of the PRESCAN under way send what slots and caps allow. -/
def pumpPre (e : Fin 16) (s : State) : State :=
  match (getEng s e).prescans with
  | [] => s
  | r :: _ => (List.range r.fetches.length).foldl (fun s fi =>
      (List.range ((r.fetches[fi]?.map fun f => f.reqs.length).getD 0)).foldl (pumpFetch e fi) s) s

/-- A PRESCAN with nothing left to scan or fetch completes (R200). -/
def finishPre (e : Fin 16) (s : State) : State :=
  match (getEng s e).prescans with
  | r :: rest =>
    if r.fetches ≠ [] ∨ (!r.stop ∧ r.bag < (prescanLists r.slot.pay).count) then s
    else completeCmd r.cmd .ok 0 (updEng e (fun g => { g with prescans := rest }) s)
  | [] => s

/-- The scan goes on with the next position of the bag, or with the next bag. -/
def preNext (bagEnds : Bool) (r : PreRun) : PreRun :=
  match r.range with
  | some (p, q) => if bagEnds || decide (p + 1 ≥ q) then { r with bag := r.bag + 1, range := none } else { r with range := some (p + 1, q) }
  | none => r

/-- A row that the pre-scanner reaches (R200): it is skipped, or its units are taken and its fetch begins. -/
def preRow (e : Fin 16) (r : PreRun) (row : Nat) (s : State) : State :=
  let d := r.table.desc
  let m := s.mem.rowStore[e]
  let here := (findWay m (emberSet s (tdId d) row) (tdId d) row r.table.version).isSome ||
    (findWay m (stagingSet (tdId d) row) (tdId d) row r.table.version).isSome
  let next := updPre e (preNext false)
  if here then next s
  else if preBad e (recAddr d row) (recSize d) s then updPre e (preNext true) s
  else
    let x := preReqs e row (recAddr d row) (recSize d) r.xorder s
    let s := x.1
    match x.2 with
    | none => next (countDrop (whoEngine e) s)
    | some qs =>
      let n := ceilDiv (recSize d) 64
      match allocUnits (getEng s e) n with
      | none => updPre e (fun r => { r with stop := true }) (engCount e (fun k => { k with prescanFull := addSat k.prescanFull 1 }) s)
      | some u =>
        let f : PreFetch :=
          { row := row, unit := u, record := List.replicate (recSize d) (0, false), reqs := qs, again := false, dropped := false }
        let s := updEng e (fun g => { g with nextUnit := u + n, allocs := g.allocs ++ [{ unit := u, n := n, gen := r.gen }] }) s
        pumpPre e (next (updPre e (fun r => { r with fetches := r.fetches ++ [f] }) s))

/-- Whether an EMBER_REFRESH that was admitted before a PRESCAN has not completed on its engine (R188). -/
def afterRefresh (g : Engine) (cmd : Nat) : Bool := g.queue.any fun x => match x with | .refresh r => decide (r.cmd < cmd) | .gather _ => false

/-- PRESCAN_POSITION (R200, R202): the pre-scanner takes the next position. -/
def execPrescanPosition (e : Fin 16) (s : State) : Host.Outcome State Fault Refusal :=
  go (match (getEng s e).prescans with
    | [] => s
    | r :: _ =>
      let l := prescanLists r.slot.pay
      let pieces := (r.fetches.map fun f => f.reqs.length).sum
      if r.stop || decide (pieces ≥ 64) || !mayBegin s r.slot r.step || afterRefresh (getEng s e) r.cmd then s
      else
        let s := startCmd r.cmd s
        let x : State × Option (Nat × Option (Nat × Nat)) := match r.range with
          | some q => (s, some (r.bag, some q))
          | none => preRange e r.cmd l r.xorder (l.count - r.bag + 1) r.bag s
        match x.2 with
        | none => x.1
        | some (bag, range) =>
          let s := updPre e (fun r => { r with bag := bag, range := range }) x.1
          match range with
          | none => finishPre e s
          | some (p, _) =>
            let y := aheadReads (whoEngine e) r.cmd r.xorder [((l.index + 4 * p) % 2 ^ 48, 4)] s
            match y.2 with
            | .wait => y.1
            | .fail _ => finishPre e (updPre e (preNext true) y.1)
            | .done _ =>
              let row := leNat (dataBytes y.2.data)
              if row ≥ tdRows r.table.desc then finishPre e (updPre e (preNext (tdFail r.table.desc)) y.1)
              else finishPre e (preRow e r row y.1))

/-- A fetched row is staged: its data, then its tag into the lowest invalid way of its set, if there is one (R200). -/
def stageRow (e : Fin 16) (r : PreRun) (f : PreFetch) (s : State) : State :=
  let m := s.mem.rowStore[e]
  let set := stagingSet (tdId r.table.desc) f.row
  match (List.range 4).find? fun w => !tagValid (tagAt m set w) with
  | none => s
  | some w =>
    let tag := BitVec.ofNat 128 (f.row + tdId r.table.desc * 2 ^ 32 + r.table.version % 2 * 2 ^ 44 + 2 ^ 45 + b2n r.gen * 2 ^ 46 + f.unit * 2 ^ 64)
    engCount e (fun k => { k with prescanRows := addSat k.prescanRows 1 })
      (updStore e (fun m => setTag set w tag (memWrite m (stagingData f.unit) f.record)) s)

/-- What has returned of a fetch is taken: a failed or poisoned piece means that the row is not staged. -/
def takePieces (s : State) (f : PreFetch) : PreFetch :=
  let take (f : PreFetch) (q : RowReq) : PreFetch :=
    match q.req.bind (reqEnded s) with
    | none => { f with reqs := f.reqs ++ [q] }
    | some (st, d) => if fine st && !poisoned d then { f with record := putData f.record q.off d } else { f with dropped := true }
  f.reqs.foldl take { f with reqs := [] }

/-- Whether what has returned for a request is poisoned. -/
def metPoison (s : State) (q : RowReq) : Bool := match q.req.bind (reqEnded s) with | some (_, d) => poisoned d | none => false

/-- PRESCAN_ROW_ARRIVE (R200): requests of fetch `idx` have returned. A whole record is staged; one that was updated meanwhile is
fetched again (R233). -/
def execPrescanRowArrive (e : Fin 16) (idx : Nat) (s : State) : Host.Outcome State Fault Refusal :=
  go (match (getEng s e).prescans with
    | [] => s
    | r :: _ => match r.fetches[idx]? with
      | none => s
      | some f =>
        let ready := f.reqs.filter fun q => (q.req.bind (reqEnded s)).isSome
        if ready.isEmpty then s
        else
          let f' := takePieces s f
          let s := if !f.dropped && ready.any (metPoison s) then countDrop (whoEngine e) s else s
          let s := ready.foldl (fun s q => forgetReq (q.req.getD 0) s) s
          if f'.reqs ≠ [] then pumpPre e (updPre e (fun r => { r with fetches := updIdx r.fetches idx fun _ => f' }) s)
          else
            let fresh := if f'.again && !f'.dropped then preReqs e f.row (recAddr r.table.desc f.row) (recSize r.table.desc) r.xorder s else (s, none)
            let s := fresh.1
            match fresh.2 with
            | some qs => pumpPre e (updPre e (fun r => { r with fetches := updIdx r.fetches idx fun _ => { f' with reqs := qs, again := false } }) s)
            | none =>
              let s := updPre e (fun r => { r with fetches := dropIdx r.fetches idx }) s
              let s := if f'.dropped then s else if f'.again then countDrop (whoEngine e) s else stageRow e r f' s
              finishPre e (pumpPre e s))

end Sys2Proof.Machine
end

