-- ==== Sys2Proof/Machine/MatrixArray.lean ====
section
/-!
DEFINITION. The matrix array of a tile (02): pass descriptors, weight loading and the wale front, feeders, beats, the drain,
zero-block skipping and prediction, and the packets of the Weave.
-/
namespace Sys2Proof.Machine

/-- ORIENT: weft-wise (R75). -/
def pdWeft (d : BitVec 512) : Bool := bit d 0
/-- KEEP_W. -/
def pdKeep (d : BitVec 512) : Bool := bit d 1
/-- ATYPE. -/
def pdAtype (d : BitVec 512) : Nat := fld d 4 2
/-- WTYPE. -/
def pdWtype (d : BitVec 512) : Nat := fld d 7 5
/-- ACC_MODE: add. -/
def pdAdd (d : BitVec 512) : Bool := bit d 8
/-- RELEASE. -/
def pdRelease (d : BitVec 512) : Bool := bit d 9
/-- STREAM. -/
def pdStream (d : BitVec 512) : Bool := bit d 10
/-- SKIP. -/
def pdSkip (d : BitVec 512) : Bool := bit d 11
/-- PRED. -/
def pdPred (d : BitVec 512) : Bool := bit d 12
/-- VECTORS. -/
def pdLen (d : BitVec 512) : Nat := fld d 31 16
/-- K_VALID. -/
def pdK (d : BitVec 512) : Nat := fld d 38 32 + 1
/-- N_VALID. -/
def pdN (d : BitVec 512) : Nat := fld d 45 39 + 1
/-- ZP, signed. -/
def pdZp (d : BitVec 512) : Int := toSigned 8 (fld d 191 184)
/-- OTYPE. -/
def pdOtype (d : BitVec 512) : Nat := fld d 183 181
/-- OUT_TILE. -/
def pdOutTile (d : BitVec 512) : Fin 128 := fin (fld d 262 256)
/-- Whether a pass is an INT8 pass (R68). -/
def pdInt (d : BitVec 512) : Bool := pdAtype d == 2
/-- Cycles of a beat of the pass (R68). -/
def pdBeat (d : BitVec 512) : Nat := if pdAtype d = 4 ∨ pdAtype d = 5 then 2 else 1

/-- Bytes of an element of a type (R76); INT4 counts in its expanded form. -/
def typeBytes : Nat → Nat
  | 4 => 2
  | 5 => 2
  | 6 => 4
  | _ => 1

/-- Bytes of a row of a weight block (R76). -/
def wrowBytes : Nat → Nat
  | 3 => 64
  | 4 => 256
  | 5 => 256
  | _ => 128

/-- Operand pairs that the array accepts (R68). -/
def pairOk (a w : Nat) : Bool :=
  (decide (a ≤ 1) && decide (w ≤ 1)) || (a == 2 && (w == 2 || w == 3)) || (a == 4 && w == 4) || (a == 5 && w == 5)

/-- Whether a reserved field of a pass descriptor is not 0, or an address that must be 64 B-aligned is misaligned (R75; that R77's
MALFORMED covers the latter is DEDUCED from R275). KEEP_W makes WGT_ADDR ignored. -/
def passReserved (d : BitVec 512) : Bool :=
  [(15, 14), (47, 46), (95, 89), (127, 112), (159, 153), (175, 171), (255, 249), (263, 263), (319, 313), (351, 345),
   (383, 377), (447, 400), (69, 64), (229, 224)].any (fun r => fld d r.1 r.2 != 0) || (!pdKeep d && fld d 133 128 != 0)

/-- Bytes of the occupancy bitmap of a pass (R90). -/
def bitmapBytes (d : BitVec 512) : Nat := ceilDiv (ceilDiv (pdLen d) 16) 8

/-- Whether weights have been loaded since device reset, or a pass queued before loads some (R77). -/
def weightsKnown (a : ArrayUnit) : Bool := a.loaded || a.queue.any fun p => !pdKeep p.desc

/-- The address fields of a pass descriptor that are not ignored (R75). -/
def passAddrs (d : BitVec 512) : List Nat :=
  [fld d 88 64, fld d 248 224, fld d 312 288, fld d 344 320, fld d 376 352] ++ if pdKeep d then [] else [fld d 152 128]

/-- The weight block and the bitmaps that a pass uses, as address and length (R75, R90). -/
def passRanges (d : BitVec 512) : List (Nat × Nat) :=
  (if pdKeep d then [] else [(fld d 152 128, 128 * wrowBytes (pdWtype d))]) ++ (if pdSkip d then [(fld d 312 288, bitmapBytes d)] else []) ++
  (if pdPred d then [(fld d 344 320, bitmapBytes d)] else []) ++ if bit d 269 then [(fld d 376 352, bitmapBytes d)] else []

/-- The checks of a pass descriptor (R77). -/
def passCheck (s : State) (a : ArrayUnit) (d : BitVec 512) : Option Status :=
  let l := pdLen d
  let lastEnds (addr stride n : Nat) : Bool := decide (0 < l) && decide (addr + (l - 1) * stride * 64 + n > tmemSize)
  let rel := pdRelease d
  firstFail [
    (passReserved d || !pairOk (pdAtype d) (pdWtype d) || pdOtype d == 3 || pdOtype d == 7 ||
      (pdPred d && !(pdSkip d && pdStream d)) || (bit d 270 && !bit d 269) || (pdZp d != 0 && !pdInt d) ||
      (pdKeep d && !weightsKnown a), .malformed),
    ((passAddrs d).any (fun x => decide (tmemSize ≤ x)) || (passRanges d).any (fun x => decide (x.1 + x.2 > tmemSize)) ||
      fenced s (pdOutTile d).val, .addressRange),
    (lastEnds (fld d 88 64) (fld d 111 96) (128 * typeBytes (pdAtype d)) ||
      (rel && lastEnds (fld d 248 224) (fld d 287 272) (128 * typeBytes (pdOtype d))) ||
      (decide (fld d 170 160 + l > 2048) && !(rel && !pdAdd d)), .lengthRange)]

/-- The array of tile `t` changed by `f`. -/
def updArr (t : Fin 128) (f : ArrayUnit → ArrayUnit) (s : State) : State := updTile t (fun x => { x with arr := f x.arr }) s

/-- Array counters changed by `f`. -/
def arrCount (f : ArrCounters → ArrCounters) (a : ArrayUnit) : ArrayUnit := { a with counters := f a.counters }

/-- The descriptor that loads the block in use after the last pass queued (R94). -/
def lastLoad (a : ArrayUnit) : BitVec 512 :=
  match a.queue.reverse.find? fun p => !pdKeep p.desc with
  | some p => p.desc
  | none => a.active.load

/-- A group's pass record for a descriptor. -/
def groupPass (a : ArrayUnit) (d : BitVec 512) (step : Nat) : GroupPass :=
  { pass := a.nextPass, desc := d, load := if pdKeep d then lastLoad a else d, step := step }

/-- Whether a pass continues the open group: the same accumulator entries (R93). -/
def sameEntries (d e : BitVec 512) : Bool := fld d 170 160 == fld e 170 160 && pdLen d == pdLen e

/-- The open group that a pass in ACC_MODE 1 continues. -/
def continues (a : ArrayUnit) (d : BitVec 512) : Option Nat :=
  match a.openGroup with
  | none => none
  | some g =>
    match a.groups.find? fun x => x.id == g with
    | none => none
    | some x => match x.passes with
      | p :: _ => if sameEntries p.desc d then some g else none
      | [] => none

/-- A pass descriptor is accepted into the array's queue and its accumulation group (R78, R93, R96). A descriptor without
vectors has no effect but on ARRAY_PASSES (R77). -/
def acceptPass (d : BitVec 512) (step : Nat) (a : ArrayUnit) : ArrayUnit :=
  let a := arrCount (fun c => { c with passes := addSat c.passes 1 }) a
  if pdLen d = 0 then a
  else
    let gp := groupPass a d step
    let id := a.nextPass
    let join := if pdAdd d then continues a d else none
    let g := join.getD id
    let p : ArrPass := { id := id, desc := d, step := step, group := g, predict := none, nextVec := 0, entered := 0, started := false, fed := false }
    let fresh : AccGroup :=
      { id := id, passes := [gp], wellBegun := !pdAdd d, skips := [], corr := List.replicate 128 0,
        closed := pdRelease d, complete := 0, nextBlock := 0, released := false }
    let groups := match join with
      | some g => mapIf (fun x => x.id == g) (fun x =>
          { x with passes := x.passes ++ [gp], closed := pdRelease d }) a.groups
      | none => a.groups ++ [fresh]
    { a with queue := a.queue ++ [p], nextPass := id + 1, openGroup := if pdRelease d then none else some g, groups := groups }

/-- The codes of `n` elements of a type in memory data. -/
def codesOf (type n : Nat) (d : Data) : List Nat :=
  if type = 3 then (List.range n).map fun e => let c := codeAt false (dataBytes d) e; if c < 8 then c else c + 240
  else (List.range n).map fun e => leNat (dataBytes (dslice d (e * typeBytes type) (typeBytes type)))

/-- Whether a code of a type is NaN or infinite. -/
def codeNonfinite (type c : Nat) : Bool :=
  match typeFmt type with
  | some f => (match decodeNum f c with | .fin .. => false | _ => true)
  | none => false

/-- Row `i` of the weight block that a pass with descriptor `d` loads, as the loader expands it (R79), with zeros for the inputs at and
above K_VALID (R71): rows of the block warp-wise and, as R71's words do not say, its columns weft-wise (DEDUCED). -/
def weightRow (m : Mem) (d : BitVec 512) (i : Nat) : List Nat × Bool :=
  let n := wrowBytes (pdWtype d)
  let data := memRead m (fld d 152 128 + i * n) n
  let row := codesOf (pdWtype d) 128 data
  let row := if pdWeft d then (row.zip (List.range 128)).map fun x => if x.2 < pdK d then x.1 else 0
    else if i < pdK d then row else List.replicate 128 0
  (row, poisoned data)

/-- The weight block that a pass with descriptor `d` loads, as tile memory holds it. -/
def readBlock (m : Mem) (d : BitVec 512) : Block :=
  let rows := (List.range 128).map fun i => weightRow m d i
  { load := d, rows := rows.map (fun r => r.1), nonfinite := rows.any fun r => r.1.any (codeNonfinite (pdWtype d)), poison := rows.any fun r => r.2 }

/-- The elements of vector `v` of a pass, zeros at and above K_VALID (R71). -/
def readVector (m : Mem) (d : BitVec 512) (v : Nat) : List Nat × Bool :=
  let n := typeBytes (pdAtype d)
  let data := memRead m (fld d 88 64 + v * fld d 111 96 * 64) (pdK d * n)
  let xs := codesOf (pdAtype d) (pdK d) data
  (xs ++ List.replicate (128 - xs.length) 0, poisoned data)

/-- A code as a value; integer types as integers. -/
def codeNum (type c : Nat) : Num :=
  match typeFmt type with
  | some f => decodeNum f c
  | none => let z := toSigned 8 c; .fin (decide (z < 0)) z.natAbs 0

/-- An integer saturated to INT32 (R69). -/
def sat32 (z : Int) : Int := if z > 2147483647 then 2147483647 else if z < -2147483648 then -2147483648 else z

/-- The sum along one column or row of the array, in PE order (R69). The partial sum that enters the first PE, which the spec does not
give, is +0 (DESIGN CHOICE: a column of -0 products gives +0). -/
def peSum (int : Bool) (at_ wt : Nat) (xs ws : List Nat) : BitVec 32 :=
  if int then
    BitVec.ofInt 32 ((xs.zip ws).foldl (fun acc p => sat32 (acc + toSigned 8 p.1 * toSigned 8 p.2)) 0)
  else (xs.zip ws).foldl (fun acc p => toFP32 (numAdd (num32 acc) (numMul (codeNum at_ p.1) (codeNum wt p.2)))) 0

/-- Column `j` of a block. -/
def blockColumn (b : Block) (j : Nat) : List Nat := b.rows.map fun r => r.getD j 0

/-- The 128 outputs of one vector on a block: x · W warp-wise, x · Wᵀ weft-wise (R72, R73). A KEEP_W pass reads the codes in the active
registers by its own WTYPE, also where another type loaded them (DESIGN CHOICE: the spec is silent). -/
def arrayProduct (d : BitVec 512) (b : Block) (xs : List Nat) : List (BitVec 32) :=
  (List.range 128).map fun o =>
    peSum (pdInt d) (pdAtype d) (pdWtype d) xs (if pdWeft d then b.rows.getD o [] else blockColumn b o)

/-- Column sums (warp-wise) or row sums (weft-wise) of a block in INT32 (R70). -/
def blockSums (d : BitVec 512) (b : Block) : List Int :=
  (List.range 128).map fun o => ((if pdWeft d then b.rows.getD o [] else blockColumn b o).map (toSigned 8)).sum

/-- Whether block `b` of a streamed pass has arrived (R89). -/
def blockArrived (x : Tile) (d : BitVec 512) (b : Nat) : Bool := !pdStream d || decide ((x.bc[(fin (fld d 180 176) : Fin 32)]).toNat > b)

/-- Bit `b` of an occupancy bitmap (R90). -/
def bitmapBit (m : Mem) (addr b : Nat) : Bool := (memByte m (addr + b / 8)).toNat.testBit (b % 8)

/-- Whether every vector of a pass has entered. -/
def allEntered (a : ArrayUnit) (p : ArrPass) : Bool := p.fed && !(a.feed.any fun f => f.pass == p.id)

/-- Whether a group's skipped blocks `b` are all verified as zero (R93). -/
def blockVerified (x : Tile) (g : AccGroup) (b : Nat) : Bool :=
  g.skips.all fun k => k.2 != b || match g.passes.find? fun p => p.pass == k.1 with
    | some p => blockArrived x p.desc b && !bitmapBit x.mem (fld p.desc 312 288) b
    | none => true

/-- Whether every block that a group skipped by prediction has arrived, so that its real bit is known (R93). -/
def skipsKnown (x : Tile) (g : AccGroup) : Bool :=
  g.skips.all fun k => match g.passes.find? fun p => p.pass == k.1 with
    | some p => blockArrived x p.desc k.2
    | none => true

/-- The blocks of a group that prediction skipped and that are not verified. -/
def openBlocks (x : Tile) (g : AccGroup) : List Nat := ((g.skips.map fun k => k.2).eraseDups).filter fun b => !blockVerified x g b

/-- Whether the pass boundary must wait for the verification or the replay of a closed group (R94). -/
def boundaryBlocked (x : Tile) : Bool :=
  x.arr.groups.any fun g => g.closed && !g.released && !(openBlocks x g).isEmpty &&
    !(x.arr.queue.any fun p => p.group == g.id && !allEntered x.arr p)

/-- Whether pass `p` may start: every earlier pass has entered its vectors, and no replay comes first (R80, R94). -/
def mayStart (x : Tile) (p : ArrPass) : Bool :=
  !p.started && (x.arr.queue.takeWhile fun q => q.id != p.id).all (allEntered x.arr) &&
    !(boundaryBlocked x && !(x.arr.groups.any fun g => g.id == p.group && decide (1 < g.passes.length) && !(g.passes.head?.any fun q => q.pass == p.id)))

/-- What the objects of R98 say of a descriptor: whether PRED is to be heeded. -/
def zbAllows (s : State) (d : BitVec 512) : Bool := s.tile.zbPredict != 0 && !(s.tile.zbOff.any fun i => i.toNat == fld d 63 48)

/-- The block that pass `p` runs on: its own, or the one that will be active when it starts (R75, R82). -/
def blockOf (x : Tile) (p : ArrPass) : Block :=
  if !pdKeep p.desc then readBlock x.mem p.desc
  else match (x.arr.queue.takeWhile fun q => q.id != p.id).reverse.find? fun q => !pdKeep q.desc with
    | some q => if q.started then x.arr.active else readBlock x.mem q.desc
    | none => x.arr.active

/-- Whether a pass is among the first 64 of its group (R96). -/
def remembered (g : AccGroup) (p : ArrPass) : Bool := (g.passes.take 64).any fun q => q.pass == p.id

/-- Whether prediction is on for a pass that runs on block `b` (R92, R96), where `zb` says what R98's objects allow. -/
def predictionOn (zb : BitVec 512 → Bool) (x : Tile) (p : ArrPass) (b : Block) : Bool :=
  let d := p.desc
  pdPred d && zb d && pdZp d == 0 && !b.nonfinite && match x.arr.groups.find? fun g => g.id == p.group with
    | some g => g.wellBegun && remembered g p
    | none => false

/-- Whether a pass is one beyond the 64th of its group (R96). -/
def beyondLimit (a : ArrayUnit) (p : ArrPass) : Bool :=
  match a.groups.find? fun g => g.id == p.group with
  | some g => !remembered g p
  | none => false

/-- A pass of the queue changed by `f`. -/
def updPass (id : Nat) (f : ArrPass → ArrPass) (a : ArrayUnit) : ArrayUnit :=
  { a with queue := mapIf (fun q => q.id == id) f a.queue }

/-- What the feeder has read ahead for a pass is discarded, so that it begins anew. -/
def refeed (p : ArrPass) (a : ArrayUnit) : ArrayUnit :=
  { updPass p.id (fun q => { q with nextVec := 0, fed := false }) a with
    feed := a.feed.filter fun f => f.pass != p.id,
    groups := mapIf (fun g => g.id == p.group) (fun g => { g with skips := g.skips.filter fun k => k.1 != p.id }) a.groups }

/-- A pass starts on block `b`, which is active from now on; its zero-point correction joins its group's (R70). A poisoned block is
consumed by the pass (R110). The pass takes the setting of R98's objects: what was read ahead under another one is discarded. -/
def startPass (zb : BitVec 512 → Bool) (x : Tile) (p : ArrPass) (b : Block) : ArrayUnit :=
  let on := predictionOn zb x p b
  let a := if p.predict == some (!on) then refeed p x.arr else x.arr
  let corr := (blockSums p.desc b).map fun z => pdZp p.desc * z
  { updPass p.id (fun q => { q with started := true, predict := some on }) (arrCount (fun c => { c with zbLimit := addSat c.zbLimit (b2n (beyondLimit a p)) }) a) with
    active := b, loaded := true, poison := a.poison || b.poison,
    groups := mapIf (fun g => g.id == p.group) (fun g =>
      if pdZp p.desc = 0 then g else { g with corr := List.zipWith (fun x y => x + y) g.corr corr }) a.groups }

/-- WEIGHT_LOAD_START (R79): the next block's pass is queued, the chain is free and the loader has its first row. -/
def loadStart (a : ArrayUnit) : ArrayUnit :=
  match a.chain.pass, a.rowq with
  | none, r :: _ =>
    match a.queue.find? fun p => p.id == r.pass with
    | some p => { a with chain := { pass := some p.id, rows := 0, block := { a.chain.block with load := p.desc, nonfinite := false, poison := false } } }
    | none => { a with rowq := [] }
  | _, _ => a

/-- WEIGHT_LOAD_START. -/
def execWeightLoadStart (t : Fin 128) (s : State) : Host.Outcome State Fault Refusal := go (updArr t loadStart s)

/-- The chain is free again (R79); its registers keep what they hold. -/
def freeChain (a : ArrayUnit) : ArrayUnit := { a with chain := { a.chain with pass := none, rows := 0 } }

/-- WALE_FRONT_START (R80): the new block is complete in the chain and the last old vector has entered. -/
def frontStart (zb : BitVec 512 → Bool) (x : Tile) : Tile :=
  let c := x.arr.chain
  match x.arr.queue.find? fun p => some p.id == c.pass with
  | none => x
  | some p => if c.rows = 128 ∧ mayStart x p then { x with arr := freeChain (startPass zb x p c.block) } else x

/-- WALE_FRONT_START. -/
def execWaleFrontStart (t : Fin 128) (s : State) : Host.Outcome State Fault Refusal := go (updTile t (frontStart (zbAllows s)) s)

/-- What the feeder does with the block that starts at vector `v` (R83, R91, R92). -/
inductive FeedChoice where
  | feed | skip (predicted late : Bool) | wait
  deriving DecidableEq, Repr, Inhabited

/-- The feeder's choice at vector `v` of a pass. -/
def feedChoice (x : Tile) (d : BitVec 512) (predict : Bool) (v : Nat) : FeedChoice :=
  let b := v / 16
  let real (late : Bool) : FeedChoice :=
    if !blockArrived x d b then .wait
    else if bitmapBit x.mem (fld d 312 288) b then .feed
    else .skip false late
  if v % 16 != 0 then .feed
  else if predict then (if bitmapBit x.mem (fld d 344 320) b then real true else .skip true false)
  else if pdSkip d then real false
  else if blockArrived x d b then .feed
  else .wait

/-- The active feeder takes the next vector of pass `p`, skipping blocks on its way (R83, R91, R92). -/
def feedFrom : Nat → Tile → ArrPass → Bool → Tile
  | 0, x, _, _ => x
  | k + 1, x, p, predict =>
    let d := p.desc
    let l := pdLen d
    let v := p.nextVec
    if v ≥ l then { x with arr := updPass p.id (fun q => { q with fed := true, nextVec := v }) x.arr }
    else
      match feedChoice x d predict v with
      | .wait => { x with arr := updPass p.id (fun q => { q with nextVec := v }) x.arr }
      | .skip predicted late =>
        let n := min 16 (l - v)
        let mark : FeedItem := { pass := p.id, vec := v, elems := [], count := n, late := late, poison := false }
        let a := { x.arr with feed := x.arr.feed ++ [mark] }
        let a := if predicted then
            { a with groups := mapIf (fun g => g.id == p.group) (fun g => { g with skips := g.skips ++ [(p.id, v / 16)] }) a.groups }
          else a
        feedFrom k { x with arr := a } { p with nextVec := v + n } predict
      | .feed =>
        let e := readVector x.mem d v
        let item : FeedItem := { pass := p.id, vec := v, elems := e.1, count := 0, late := false, poison := e.2 }
        let a := { x.arr with feed := x.arr.feed ++ [item] }
        { x with arr := updPass p.id (fun q => { q with nextVec := v + 1, fed := decide (v + 1 ≥ l) }) a }

/-- FEEDER_VECTOR_READY for an activation vector: the feeder's queue has room (R83). Prediction is settled at the pass's first vector,
and again when the pass starts (`startPass`, R98). -/
def feedVector (zb : BitVec 512 → Bool) (x : Tile) : Tile :=
  match x.arr.queue.find? fun p => !p.fed with
  | none => x
  | some p =>
    if (x.arr.feed.filter fun f => f.count == 0).length ≥ 16 then x
    else
      let on := p.predict.getD (predictionOn zb x p (blockOf x p))
      feedFrom (pdLen p.desc / 16 + 2) { x with arr := updPass p.id (fun q => { q with predict := some on }) x.arr } p on

/-- The pass whose rows the loader reads next, and how many of its rows it has read. -/
def loadingPass (a : ArrayUnit) : Option (ArrPass × Nat) :=
  let got (p : ArrPass) : Nat := (if a.chain.pass = some p.id then a.chain.rows else 0) + (a.rowq.filter fun r => r.pass == p.id).length
  (a.queue.find? fun p => !pdKeep p.desc && !p.started && decide (got p < 128)).map fun p => (p, got p)

/-- FEEDER_VECTOR_READY for a weight row: row 127 first (R79). -/
def feedRow (x : Tile) : Tile :=
  match loadingPass x.arr with
  | none => x
  | some (p, k) =>
    if x.arr.rowq.length ≥ 16 then x
    else
      let r := weightRow x.mem p.desc (127 - k)
      { x with arr := { x.arr with rowq := x.arr.rowq ++ [{ pass := p.id, codes := r.1, poison := r.2 }] } }

/-- FEEDER_VECTOR_READY (R83, R79). -/
def execFeederVectorReady (t : Fin 128) (weights : Bool) (s : State) : Host.Outcome State Fault Refusal :=
  go (updTile t (if weights then feedRow else feedVector (zbAllows s)) s)

/-- Accumulator entry of vector `v` of a pass (R77). -/
def accIndex (d : BitVec 512) (v : Nat) : Fin 2048 := fin (fld d 170 160 + v)

/-- An accumulator entry with a result written or added, below N_VALID (R69, R71, R84); and how many accumulators
saturated. -/
def accumulate (d : BitVec 512) (add : Bool) (old : Vector (BitVec 32) 128) (r : List (BitVec 32)) : Vector (BitVec 32) 128 × Nat :=
  let one (j : Fin 128) : BitVec 32 × Bool :=
    let x := r.getD j.val 0
    if pdN d ≤ j.val then (old[j], false)
    else if !add then (x, false)
    else if pdInt d then
      let z := old[j].toInt + x.toInt
      (BitVec.ofInt 32 (sat32 z), decide (sat32 z ≠ z))
    else (fadd old[j] x, false)
  let v := Vector.ofFn one
  (v.map fun p => p.1, (v.toList.filter fun p => p.2).length)

/-- One vector reaches the drain (R84). -/
def drainVector (d : BitVec 512) (add : Bool) (v : Nat) (r : List (BitVec 32)) (a : ArrayUnit) : ArrayUnit :=
  let i := accIndex d v
  let x := accumulate d add a.acc[i] r
  arrCount (fun c => { c with accSat := addSat c.accSat x.2 }) { a with acc := a.acc.set i x.1 }

/-- A vector, or the mark of a skipped block, completes in the drain (R84, R93). -/
def completeFlight (f : Flight) (a : ArrayUnit) : ArrayUnit :=
  match a.queue.find? fun p => p.id == f.pass with
  | none => a
  | some p =>
    let d := p.desc
    let zeros : List (BitVec 32) := List.replicate 128 0
    let a := if f.count = 0 then drainVector d (pdAdd d) f.vec f.result a
      else if pdAdd d then a
      else (List.range f.count).foldl (fun a k => drainVector d false (f.vec + k) zeros a) a
    let n := if f.count = 0 then 1 else f.count
    if pdRelease d then { a with groups := mapIf (fun g => g.id == p.group) (fun g => { g with complete := g.complete + n }) a.groups } else a

/-- The descriptor of a group's release pass. -/
def releaseDesc (a : ArrayUnit) (g : AccGroup) : Option (BitVec 512) :=
  if !g.closed then none
  else match a.queue.find? fun p => p.group == g.id && pdRelease p.desc with
    | some p => some p.desc
    | none => (g.passes.find? fun p => pdRelease p.desc).map fun p => p.desc

/-- Vectors of block `b` of an L-vector pass (R90). -/
def blockLen (l b : Nat) : Nat := min 16 (l - 16 * b)

/-- Whether the next block of a group may leave the accumulators: complete and verified (R84, R93). -/
def blockReady (x : Tile) (g : AccGroup) (d : BitVec 512) : Bool :=
  let b := g.nextBlock
  !g.released && decide (16 * b < pdLen d) && decide (16 * b + blockLen (pdLen d) b ≤ g.complete) && blockVerified x g b

/-- The accumulator entries that still hold blocks waiting to be released (R86). -/
def heldEntry (a : ArrayUnit) (i : Fin 2048) : Bool :=
  a.groups.any fun g => g.closed && !g.released && match releaseDesc a g with
    | none => false
    | some d => (List.range (g.complete - 16 * g.nextBlock)).any fun k => accIndex d (16 * g.nextBlock + k) == i

/-- Whether the drain cannot accept what `f` brings it: the block that it completes would be released into a full output queue, or it
writes an entry that is still held (R86, R87). The mark of a skipped block writes only in an overwrite pass (R84). -/
def flightStops (x : Tile) (f : Flight) : Bool :=
  match x.arr.queue.find? fun p => p.id == f.pass with
  | none => false
  | some p =>
    let d := p.desc
    let n := max 1 f.count
    let last := f.vec + n - 1
    let ends := last % 16 == 15 || last + 1 == pdLen d
    let full := pdRelease d && ends && decide (x.arr.outq.length + blockLen (pdLen d) (last / 16) > 16) &&
      match x.arr.groups.find? fun g => g.id == p.group with
      | some g => g.nextBlock == last / 16 && blockVerified x g g.nextBlock
      | none => false
    let writes := f.count == 0 || !pdAdd d
    full || (writes && (List.range n).any fun k => heldEntry x.arr (accIndex d (f.vec + k)))

/-- Whether the drain cannot accept what completes next (R87). -/
def drainStops (x : Tile) : Bool := x.arr.flights.any fun f => decide (f.age ≥ 254) && flightStops x f

/-- The output queue after `cap` bytes have left it, all for one destination. -/
def drainBytes (remote : Bool) : Nat → List OutVec → List OutVec
  | _, [] => []
  | cap, o :: os =>
    if o.remote != remote then o :: os
    else if o.bytes > cap then { o with bytes := o.bytes - cap } :: os
    else drainBytes remote (cap - o.bytes) os

/-- The output queue after one cycle: 512 B leave for this tile's memory or 256 B for the Weave (R85). -/
def drainQueue : List OutVec → List OutVec
  | [] => []
  | o :: os => drainBytes o.remote (if o.remote then 256 else 512) (o :: os)

/-- The output queue after `n` cycles. -/
def drainQueueFor : Nat → List OutVec → List OutVec
  | 0, q => q
  | n + 1, q => drainQueueFor n (drainQueue q)

/-- The pass whose vectors are due to enter. -/
def enteringPass (a : ArrayUnit) : Option ArrPass := a.queue.find? fun p => p.started && !allEntered a p

/-- Whether a pass is in progress (R87). -/
def inProgress (a : ArrayUnit) : Bool := !a.flights.isEmpty || (enteringPass a).isSome

/-- The pass that sets the beat and the feeders' roles: the one entering, or the oldest still in the array, or the one that
loads. -/
def beatPass (a : ArrayUnit) : Option (BitVec 512) :=
  match enteringPass a with
  | some p => some p.desc
  | none =>
    match a.flights with
    | f :: _ => (a.queue.find? fun p => p.id == f.pass).map fun p => p.desc
    | [] => a.queue.head?.map fun p => p.desc

/-- Marks of skipped blocks at the head of the feeder queue enter without a beat, and are counted (R91, R92). -/
def enterMarks : Nat → ArrayUnit → ArrayUnit
  | 0, a => a
  | k + 1, a =>
    match a.feed, enteringPass a with
    | f :: fs, some p =>
      if f.pass = p.id ∧ f.count ≠ 0 then
        enterMarks k (arrCount (fun c => { c with zbSkip := addSat c.zbSkip 1, zbLate := addSat c.zbLate (b2n f.late) })
          { a with feed := fs, flights := a.flights ++ [{ pass := f.pass, vec := f.vec, age := 0, result := [], count := f.count, poison := false }] })
      else a
    | _, _ => a

/-- A pass that keeps the active weights starts as soon as it may (R82). -/
def startKept (zb : BitVec 512 → Bool) (x : Tile) : Tile :=
  match x.arr.queue.find? fun p => !p.started with
  | some p => if pdKeep p.desc && mayStart x p then { x with arr := startPass zb x p x.arr.active } else x
  | none => x

/-- The chain takes one row at its north end; every register passes its content one PE south (R79). -/
def shiftChain (c : Chain) (r : WRow) : Chain :=
  let b := c.block
  { c with
    rows := c.rows + 1,
    block := { b with
      rows := (r.codes :: b.rows).take 128,
      nonfinite := b.nonfinite || r.codes.any (codeNonfinite (pdWtype b.load)), poison := b.poison || r.poison } }

/-- The beat's injection of one weight row into the chain (R79). -/
def injectRow (a : ArrayUnit) : ArrayUnit :=
  match a.rowq with
  | r :: rs =>
    if a.chain.rows < 128 ∧ a.chain.pass = some r.pass then
      let b := { a with chain := shiftChain a.chain r, rowq := rs }
      if a.chain.rows = 127 then arrCount (fun k => { k with wloads := addSat k.wloads 1 }) b else b
    else a
  | [] => a

/-- `n` free FP32 codes from number `k` on. -/
def freeWords (k n : Nat) : List (BitVec 32) := (List.range n).map fun i => BitVec.ofNat 32 (Config.freeNat (k + i))

/-- The vector at the head of the feeder queue enters PE (0, 0). A vector or block with poisoned words gives undefined
results (R110): free values from number `free` on. -/
def enterVector (free : Nat) (a : ArrayUnit) : ArrayUnit × Nat :=
  match a.feed, enteringPass a with
  | f :: fs, some p =>
    if f.pass = p.id ∧ f.count = 0 then
      let bad := f.poison || a.active.poison
      let r := if bad then freeWords free 128 else arrayProduct p.desc a.active f.elems
      let fl : Flight := { pass := p.id, vec := f.vec, age := 0, result := r, count := 0, poison := bad }
      (arrCount (fun c => { c with vectors := addSat c.vectors 1 })
        (updPass p.id (fun q => { q with entered := q.entered + 1 }) { a with feed := fs, flights := a.flights ++ [fl], poison := a.poison || bad }), if bad then 128 else 0)
    else (a, 0)
  | _, _ => (a, 0)

/-- Vectors in the array advance by one beat; those that complete reach the drain (R72, R73). -/
def advanceFlights (a : ArrayUnit) : ArrayUnit :=
  let older := a.flights.map fun f => { f with age := f.age + 1 }
  (older.filter fun f => decide (f.age ≥ 255)).foldl (fun a f => completeFlight f a) { a with flights := older.filter fun f => decide (f.age < 255) }

/-- Whether the loader is injecting a block and has no row ready (R87). -/
def lacksRow (a : ArrayUnit) : Bool :=
  a.chain.pass.isSome && decide (a.chain.rows < 128) && !(a.rowq.head?.any fun r => some r.pass == a.chain.pass)

/-- Whether the pass that is entering has no vector ready (R87). -/
def lacksVector (a : ArrayUnit) : Bool := (enteringPass a).any fun p => !(a.feed.head?.any fun f => f.pass == p.id)

/-- One beat of a tile's array (R68, R87); and the free values it takes. The first load on an idle array counts no bubble: ARRAY_ACTIVE,
whose cycles include the bubble cycles, counts only while a pass is in progress (R99), although R99's array time of the forward-pass
example, 16,767 beats, comes out only with those 128 beats (DEDUCED). -/
def arrayBeat (zb : BitVec 512 → Bool) (free : Nat) (x0 : Tile) : Tile × Nat :=
  let x := startKept zb x0
  let x := { x with arr := enterMarks 4096 x.arr }
  let a := x.arr
  match beatPass a with
  | none => ({ x with arr := { a with outq := drainQueueFor 1 a.outq } }, 0)
  | some d =>
    let k := pdBeat d
    let busy := inProgress a
    let noVec := lacksVector a
    let noRow := lacksRow a
    let stops := drainStops x
    let weft := pdWeft d
    let west := (noVec && !weft) || (noRow && weft)
    let north := (noVec && weft) || (noRow && !weft)
    let a := arrCount (fun c => { c with active := addSat c.active (if busy then k else 0) }) a
    let a := { a with outq := drainQueueFor k a.outq }
    if busy && (noVec || noRow || stops) then
      ({ x with arr := arrCount (fun c => { c with
          snuff := addSat c.snuff k, west := addSat c.west (if west then k else 0), north := addSat c.north (if north then k else 0),
          drain := addSat c.drain (if stops then k else 0) }) a }, 0)
    else
      let waits := (a.queue.find? fun p => !p.started).any fun p => !pdKeep p.desc
      let a := if busy && waits && (enteringPass a).isNone then arrCount (fun c => { c with bubble := addSat c.bubble k }) a else a
      let r := enterVector free (advanceFlights a)
      ({ x with arr := injectRow r.1 }, r.2)

/-- ARRAY_BEAT (R68). -/
def execArrayBeat (t : Fin 128) (s : State) : Host.Outcome State Fault Refusal :=
  let r := arrayBeat (zbAllows s) s.free (getTile s t)
  go { updTile t (fun _ => r.1) s with free := s.free + r.2 }

/-- A released element: its code and what it counts (R84, R143). The subtraction of the zero-point term saturates as R69's additions
do, and is not counted in ACC_SAT, whose note names accumulators (DESIGN CHOICE: R70 says only 'in INT32'). -/
def releaseElem (seed : BitVec 64) (d : BitVec 512) (step v j : Nat) (corr : Int) (x : BitVec 32) : Conv :=
  let val := if pdInt d then
      let z := sat32 (x.toInt - corr)
      toFP32 (.fin (decide (z < 0)) z.natAbs 0)
    else x
  let y := fmul val (BitVec.ofNat 32 (fld d 223 192))
  let idx := (fld d 479 448 + v * fld d 511 480 + j) % 2 ^ 32
  let mode := if bit d 13 then tensorRound seed 0 (fld d 399 384) idx step else .nearest
  match pdOtype d with
  | 2 => toInteger 8 mode (num32 y)
  | 6 => plainConv y.toNat
  | ty => match typeFmt ty with
    | some f => toNarrow f mode (num32 y)
    | none => plainConv 0

/-- Whether a released code is not zero of either sign (R90). -/
def codeNonzero (type c : Nat) : Bool :=
  if type = 2 then c != 0 else c % 2 ^ (8 * typeBytes type - 1) != 0

/-- Saturations and NaN conversions of tile `t` are counted (R144, R154). -/
def countConv (t : Fin 128) (sats nans : Nat) (s : State) : State :=
  updTile t (fun x => { x with
    window := BitVec.ofNat 32 (addSat32 x.window.toNat sats),
    counters := { x.counters with satCount := addSat x.counters.satCount sats, nanConvert := addSat x.counters.nanConvert nans } }) s

/-- Bit `pos` of the byte at `addr` is written. -/
def writeBit (addr pos : Nat) (v : Bool) (m : Mem) : Mem :=
  let b := (memByte m addr).toNat
  let b' := if v then b ||| 2 ^ pos else b - (if b.testBit pos then 2 ^ pos else 0)
  memWrite m addr [(BitVec.ofNat 8 b', false)]

/-- A row filled up with 0 to the distance of rows (R248). -/
def padRow (stride : Nat) (r : Data) : Data := r ++ List.replicate (stride - r.length) (0, false)

/-- What a Weave packet does at its destination tile (R65). -/
def applyBody (dst : Fin 128) (b : WBody) (s : State) : State :=
  match b with
  | .data addr d => updTile dst (fun x => { x with mem := memWrite x.mem addr d }) s
  | .rows addr stride rs => updTile dst (fun x => { x with mem := memWrite x.mem addr (rs.flatMap (padRow stride)) }) s
  | .bit addr pos v => updTile dst (fun x => { x with mem := writeBit addr pos v x.mem }) s
  | .signal bc => updTile dst (fun x => { x with bc := updAt x.bc bc fun c => c + 1 }) s

/-- The address in a packet's body. -/
def bodyAddr : WBody → Nat
  | .data a _ => a
  | .rows a _ _ => a
  | .bit a _ _ => a
  | .signal _ => 0

/-- The payload bytes of a packet; a bit or a signal travels in the header. -/
def bodyBytes : WBody → Nat
  | .data _ d => d.length
  | .rows _ _ rs => (rs.map fun r => r.length).sum
  | _ => 0

/-- Something the drain of tile `t` writes: at once in its own tile, through the Weave in another (R85). -/
def drainSend (t dst : Fin 128) (b : WBody) (s : State) : State :=
  if dst = t then applyBody dst b (match b with | .signal _ => s | _ => ownWrite t (bodyAddr b) (max 1 (bodyBytes b)) s) else sendTile t.val dst (bodyAddr b) true b s

/-- Block `b` of a release pass leaves the drain: data, occupancy bit and increment, in this order (R84, R85, R90). -/
def releaseBlock (t : Fin 128) (d : BitVec 512) (step b : Nat) (corr : List Int) (s : State) : State :=
  let x := getTile s t
  let n := blockLen (pdLen d) b
  let ty := pdOtype d
  let vecs := (List.range n).map fun k =>
    let v := 16 * b + k
    let e := x.arr.acc[accIndex d v]
    (v, (List.range (pdN d)).map fun j => releaseElem s.num.srSeed d step v j (corr.getD j 0) (e.toList.getD j 0))
  let all := vecs.flatMap fun p => p.2
  let s := countConv t (all.filter fun c => c.sat).length (all.filter fun c => c.nan).length s
  let occ := all.any fun c => codeNonzero ty c.code
  let dst := pdOutTile d
  let put (s : State) (p : Nat × List Conv) : State :=
    drainSend t dst (.data (fld d 248 224 + p.1 * fld d 287 272 * 64) (clean (p.2.flatMap fun c => leBytes (typeBytes ty) c.code))) s
  let s := if bit d 270 && !occ then s else vecs.foldl put s
  let s := if bit d 269 then drainSend t dst (.bit (fld d 376 352 + b / 8) (b % 8) occ) s else s
  let s := if bit d 271 then drainSend t dst (.signal (fin (fld d 268 264))) s else s
  let out : List OutVec := List.replicate n { bytes := 128 * typeBytes ty, remote := decide (dst ≠ t) }
  updArr t (fun a => { a with outq := a.outq ++ out }) s

/-- The step of a group's release pass. -/
def releaseStep (a : ArrayUnit) (g : AccGroup) : Nat :=
  match a.queue.find? fun p => p.group == g.id && pdRelease p.desc with
  | some p => p.step
  | none => ((g.passes.find? fun p => pdRelease p.desc).map fun p => p.step).getD 0

/-- DRAIN_BLOCK_RELEASE (R84, R93): the oldest group with a block ready releases it, if the output queue has room. -/
def execDrainBlockRelease (t : Fin 128) (s : State) : Host.Outcome State Fault Refusal :=
  let x := getTile s t
  go (match x.arr.groups.find? fun g => g.closed && !g.released with
    | none => s
    | some g =>
      match releaseDesc x.arr g with
      | none => s
      | some d =>
        if blockReady x g d && decide (x.arr.outq.length + blockLen (pdLen d) g.nextBlock ≤ 16) then
          let s := releaseBlock t d (releaseStep x.arr g) g.nextBlock g.corr s
          updArr t (fun a => { a with groups := mapIf (fun h => h.id == g.id) (fun h =>
            { h with nextBlock := h.nextBlock + 1, released := decide (pdLen d ≤ 16 * (h.nextBlock + 1)) }) a.groups }) s
        else s)

/-- Groups that are released, or that nothing can release any more, are forgotten. -/
def pruneGroups (a : ArrayUnit) : ArrayUnit :=
  { a with groups := a.groups.filter fun g =>
      (g.closed && !g.released) || some g.id == a.openGroup || a.queue.any fun p => p.group == g.id }

/-- Passes that have not started are discarded (R110). -/
def discardPasses (a : ArrayUnit) : ArrayUnit :=
  let kept := a.queue.filter fun p => p.started
  let has (id : Nat) : Bool := kept.any fun p => p.id == id
  { a with
    queue := kept, feed := a.feed.filter fun f => has f.pass, rowq := [], chain := { a.chain with pass := none, rows := 0 }, openGroup := none,
    groups := a.groups.filter fun g => (g.closed && !g.released && (has g.id || !(a.queue.any fun p => p.group == g.id && !p.started))) || kept.any fun p => p.group == g.id }

/-- The first error of the running program (R110): the sequencer discards the descriptors that have not started, and the
program stops with the error's status. -/
def stopRun (st : Status) (x : Tile) : Tile :=
  match x.run with
  | none => x
  | some r =>
    if r.failed then x
    else
      let begun (m : MoveRun) : Bool := decide (0 < m.row) || decide (0 < m.off) || x.mover.reqs.any fun q => q.move == m.id
      { x with
        run := some { r with stopping := some st, failed := true, wait := .none }, arr := discardPasses x.arr,
        mover := { x.mover with queue := x.mover.queue.filter begun },
        vec := { x.vec with queue := x.vec.queue.filter fun l => l.started } }

/-- ARRAY_PASS_COMPLETE (R78, R110): the first pass has entered and completed all its vectors. -/
def execArrayPassComplete (t : Fin 128) (s : State) : Host.Outcome State Fault Refusal :=
  let x := getTile s t
  go (match x.arr.queue with
    | p :: ps =>
      if p.started && allEntered x.arr p && !(x.arr.flights.any fun f => f.pass == p.id) then
        let x' := { x with arr := pruneGroups { x.arr with queue := ps, poison := false } }
        updTile t (fun _ => if x.arr.poison then stopRun .dataPoison x' else x') s
      else s
    | [] => s)

/-- What the replay of one pass of a group feeds: the mispredicted blocks whose real bit is not 0 (R94). Those skipped here do not add
to ZB_SKIP (DEDUCED: R99 says 'input blocks skipped', and the worked example's replay leaves ZB_SKIP at 256). -/
def replayBlocks (x : Tile) (p : GroupPass) (wrong : List Nat) : List Nat :=
  wrong.filter fun b => !pdSkip p.desc || bitmapBit x.mem (fld p.desc 312 288) b

/-- One vector of a replay (R94): `first` overwrites. A poisoned vector or block gives free values from number `r.2` on
(R110). -/
def replayVector (x : Tile) (d : BitVec 512) (blk : Block) (fed first : Bool) (r : ArrayUnit × Nat) (v : Nat) : ArrayUnit × Nat :=
  if fed then
    let e := readVector x.mem d v
    let bad := e.2 || blk.poison
    let out := if bad then freeWords r.2 128 else arrayProduct d blk e.1
    (arrCount (fun c => { c with vectors := addSat c.vectors 1 }) (drainVector d (!first) v out r.1), r.2 + if bad then 128 else 0)
  else if first then (drainVector d false v (List.replicate 128 0) r.1, r.2)
  else r

/-- The replay of one pass (R94): `first` overwrites; and the number of the next free value. -/
def replayPass (x : Tile) (wrong : List Nat) (first : Bool) (p : GroupPass) (r : ArrayUnit × Nat) : ArrayUnit × Nat :=
  let d := p.desc
  let feed := replayBlocks x p wrong
  let blk := readBlock x.mem p.load
  let vecs (b : Nat) : List Nat := (List.range (blockLen (pdLen d) b)).map fun k => 16 * b + k
  let r := (wrong.flatMap vecs).foldl (fun r v => replayVector x d blk (feed.contains (v / 16)) first r v) r
  if feed.isEmpty then r else (arrCount (fun c => { c with wloads := addSat c.wloads 1 }) r.1, r.2)

/-- Beats of a replay pass that feeds `m` blocks, and how many of them are bubbles (R94, R81). -/
def replayBeats (m : Nat) : Nat × Nat := if m = 0 then (0, 0) else (max 128 (16 * m), 128 - 16 * m)

/-- ZB_REPLAY (R94): the replay passes of a group whose passes have all completed and whose skipped blocks have all arrived; and the
free values they take. Every pass of the group is replayed, also one beyond the 64th: the first replay pass overwrites, and R96 limits
prediction only (DEDUCED). A replay that consumes a poisoned word runs to its end, and the program then stops with DATA_POISON
(R110). -/
def zbReplay (free : Nat) (x : Tile) : Tile × Nat :=
  match x.arr.groups.find? fun g => g.closed && !g.released && !(openBlocks x g).isEmpty with
  | none => (x, 0)
  | some g =>
    let wrong := openBlocks x g
    let running := x.arr.queue.any fun p => p.group == g.id && !(allEntered x.arr p && !(x.arr.flights.any fun f => f.pass == p.id))
    if running || !skipsKnown x g then (x, 0)
    else
      let firstId := (g.passes.head?.map fun p => p.pass).getD 0
      let r := g.passes.foldl (fun r p => replayPass x wrong (p.pass == firstId) p r) (x.arr, free)
      let terms := g.passes.map fun p => let m := replayBeats (replayBlocks x p wrong).length; (m.1 * pdBeat p.desc, m.2 * pdBeat p.desc)
      let beats := (terms.map fun t => t.1).sum
      let k := (g.passes.head?.map fun p => pdBeat p.desc).getD 1
      let a := arrCount (fun c => { c with
        zbReplay := addSat c.zbReplay wrong.length, zbReplayCycles := addSat c.zbReplayCycles (128 * k + beats),
        active := addSat c.active beats, bubble := addSat c.bubble (terms.map fun t => t.2).sum }) r.1
      let x' := { x with arr := { freeChain a with rowq := [], groups := mapIf (fun h => h.id == g.id) (fun h => { h with skips := [] }) a.groups } }
      (if r.2 = free then x' else stopRun .dataPoison x', r.2 - free)

/-- ZB_REPLAY. -/
def execZbReplay (t : Fin 128) (s : State) : Host.Outcome State Fault Refusal :=
  let r := zbReplay s.free (getTile s t)
  go { updTile t (fun _ => r.1) s with free := s.free + r.2 }

/-- A packet's flits are counted at the routers that sent them on (R62, R99). -/
def countFlits (p : WPacket) (s : State) : State :=
  countMesh (whoPort p.src.val (bodyAddr p.body)) (tilePort p.dst.val) (bodyBytes p.body) s

/-- How long a packet waited for credit at the routers on its way, which the spec leaves open (R99): free values. -/
def stallFlits (p : WPacket) (s : State) : State :=
  (meshPath (whoPort p.src.val (bodyAddr p.body)) (tilePort p.dst.val)).foldl (fun s r =>
    let f := takeFree s
    if fenced s r then s else tileCount (fin r) (fun c => { c with weaveStall := addSat c.weaveStall f.2 }) f.1) s

/-- The first packet of a flow on the Weave. -/
def flowHead (s : State) (src : Fin 174) (dst : Fin 128) (vc : Fin 4) : Option WPacket :=
  s.tile.weave.packets.find? fun p => p.src == src && p.dst == dst && p.vc == vc

/-- A packet arrives at its tile and leaves the Weave; a fenced tile takes nothing (R132). -/
def deliverPacket (p : WPacket) (s : State) : State :=
  let s := { s with tile := { s.tile with weave := { s.tile.weave with packets := s.tile.weave.packets.filter fun q => q.id ≠ p.id } } }
  let s := stallFlits p (countFlits p s)
  if fenced s p.dst.val then s else applyBody p.dst p.body s

/-- WEAVE_PACKET_DELIVERY (R65): the oldest packet of the flow, when it carries data or an occupancy bit. -/
def execWeavePacketDelivery (src : Fin 174) (dst : Fin 128) (vc : Fin 4) (s : State) : Host.Outcome State Fault Refusal :=
  go (match flowHead s src dst vc with
    | some p => (match p.body with | .signal _ => s | _ => deliverPacket p s)
    | none => s)

/-- BLOCK_COUNTER_INCREMENT (R89, R65): the oldest packet of the flow, when it is a signal. -/
def execBlockCounterIncrement (src : Fin 174) (dst : Fin 128) (vc : Fin 4) (s : State) : Host.Outcome State Fault Refusal :=
  go (match flowHead s src dst vc with
    | some p => (match p.body with | .signal _ => deliverPacket p s | _ => s)
    | none => s)

/-- Whether a tile's array is idle: no pass, no block to release, and every write acknowledged (R109). -/
def arrayIdle (s : State) (t : Fin 128) : Bool :=
  let a := (getTile s t).arr
  a.queue.isEmpty && a.outq.isEmpty && !(a.groups.any fun g => g.closed && !g.released) &&
    !(s.tile.weave.packets.any fun p => p.src.val == t.val && p.drain)

end Sys2Proof.Machine
end

