-- ==== Sys2Proof/Machine/Mover.lean ====
section
/-!
DEFINITION. The tile mover (03: R113 to R118): descriptors and their checks, requests, signals and the read-ahead buffer.
-/
namespace Sys2Proof.Machine

/-- SRC_SPACE (R113): 0 LOCAL, 1 TILE, 2 DVA. -/
def mdSrcSpace (d : BitVec 512) : Nat := fld d 1 0
/-- DST_SPACE. -/
def mdDstSpace (d : BitVec 512) : Nat := fld d 3 2
/-- SIGNAL. -/
def mdSignal (d : BitVec 512) : Bool := bit d 4
/-- PER_ROW, which SIGNAL 0 makes ignored. -/
def mdPerRow (d : BitVec 512) : Bool := bit d 5
/-- RUNAHEAD. -/
def mdRunahead (d : BitVec 512) : Bool := bit d 6
/-- SRC_TILE. -/
def mdSrcTile (d : BitVec 512) : Fin 128 := fin (fld d 14 8)
/-- DST_TILE. -/
def mdDstTile (d : BitVec 512) : Fin 128 := fin (fld d 22 16)
/-- BC. -/
def mdBc (d : BitVec 512) : Fin 32 := fin (fld d 28 24)
/-- ROW_BYTES. -/
def mdRowBytes (d : BitVec 512) : Nat := fld d 63 32
/-- ROWS. -/
def mdRows (d : BitVec 512) : Nat := fld d 79 64
/-- SRC_ADDR. -/
def mdSrc (d : BitVec 512) : Nat := fld d 143 96
/-- DST_ADDR. -/
def mdDst (d : BitVec 512) : Nat := fld d 207 160
/-- SRC_STRIDE. -/
def mdSrcStride (d : BitVec 512) : Nat := fld d 255 224
/-- DST_STRIDE. -/
def mdDstStride (d : BitVec 512) : Nat := fld d 287 256

/-- Whether a side in tile memory reaches beyond 0x17F_FFFF in some row (R114). -/
def rowsBeyond (addr stride rows n : Nat) : Bool := decide (0 < rows) && decide (addr + (rows - 1) * stride + n > tmemSize)

/-- The checks of a mover descriptor (R114). -/
def moveCheck (s : State) (d : BitVec 512) : Option Status :=
  let src := mdSrcSpace d
  let dst := mdDstSpace d
  let reserved := [(7, 7), (15, 15), (23, 23), (31, 29), (95, 80), (159, 144), (223, 208), (511, 288)].any fun r => fld d r.1 r.2 != 0
  let unused := (src != 1 && fld d 14 8 != 0) || (dst != 1 && fld d 22 16 != 0)
  let high := (src != 2 && fld d 143 121 != 0) || (dst != 2 && fld d 207 185 != 0)
  let misaligned := [mdSrc d, mdDst d, mdSrcStride d, mdDstStride d].any fun a => a % 64 != 0
  let n := mdRowBytes d
  let badRow := mdRows d != 0 && (decide (n < 64) || decide (n > 16777216) || n % 64 != 0)
  firstFail [
    (reserved || unused || high || src == 3 || dst == 3 || misaligned || badRow || (mdRunahead d && src != 2), .malformed),
    ((src != 2 && rowsBeyond (mdSrc d) (mdSrcStride d) (mdRows d) n) ||
      (dst != 2 && rowsBeyond (mdDst d) (mdDstStride d) (mdRows d) n) ||
      (src == 1 && fenced s (mdSrcTile d).val) || (dst == 1 && fenced s (mdDstTile d).val), .addressRange)]

/-- The mover of tile `t` changed by `f`. -/
def updMover (t : Fin 128) (f : Mover → Mover) (s : State) : State := updTile t (fun x => { x with mover := f x.mover }) s

/-- Whether movers and list readers may run ahead in what is admitted now (R417). -/
def mayRunAhead (s : State) : Bool := s.mem.runaheadEnable == 1

/-- A descriptor joins the mover's queue (R115), its RUNAHEAD as 0 where RUNAHEAD_ENABLE is (R417). One without rows ends at once and
signals nothing (R114). -/
def acceptMove (d : BitVec 512) (xorder : Nat) (ahead : Bool) (m : Mover) : Mover :=
  if mdRows d = 0 then m
  else
    let r : MoveRun :=
      { id := m.nextId, desc := d, row := 0, off := 0, signalled := 0, xorder := xorder, ahead := ahead && mdRunahead d, stop := false,
        bad := none }
    { m with queue := m.queue ++ [r], nextId := m.nextId + 1 }

/-- Whether a mover is idle (R109): its queue is empty and every write it issued is acknowledged. -/
def moverIdle (x : Tile) : Bool := x.mover.queue.isEmpty && x.mover.reqs.isEmpty

/-- The descriptor whose next request issues: the first with a row left that has not stopped (R115). -/
def issuing (m : Mover) : Option MoveRun := m.queue.find? fun r => !r.stop && decide (r.row < mdRows r.desc)

/-- Source address of a descriptor's row and offset. -/
def moveSrc (d : BitVec 512) (row off : Nat) : Nat := (mdSrc d + row * mdSrcStride d + off) % 2 ^ 48
/-- Destination address of a descriptor's row and offset. -/
def moveDst (d : BitVec 512) (row off : Nat) : Nat := (mdDst d + row * mdDstStride d + off) % 2 ^ 48

/-- Length of the request at a row and offset: up to the row's end and the next 2 KiB boundary of either side (R115). -/
def moveLen (d : BitVec 512) (row off : Nat) : Nat :=
  min (mdRowBytes d - off) (min (2048 - moveSrc d row off % 2048) (2048 - moveDst d row off % 2048))

/-- Bytes [a, a + n) for descriptor `id` out of the read-ahead buffer, if it holds them all: it serves the descriptor that
read them and the next (R118). -/
def aheadFind (m : Mover) (id a n : Nat) : Option Data :=
  (m.ahead.find? fun l => decide (id = l.owner ∨ id = l.owner + 1) && decide (l.dva ≤ a) && decide (a + n ≤ l.dva + l.data.length)).map fun l => dslice l.data (a - l.dva) n

/-- A line joins the read-ahead buffer, which holds 64 KiB in lines of up to 2 KiB; the oldest leave (R118). -/
def aheadAdd (l : AheadLine) (m : Mover) : Mover :=
  let all := m.ahead ++ [l]
  { m with ahead := all.drop (all.length - 32) }

/-- Run-ahead beyond a row's end, up to 16 KiB, until a fetch is forbidden (R118, R299). -/
def readAhead : Nat → Fin 128 → Nat → Nat → Nat → State → State
  | 0, _, _, _, _, s => s
  | k + 1, t, owner, since, dva, s =>
    let x := xlateAhead (whoTile t) dva since s
    match x.2 with
    | none => countDrop (whoTile t) x.1
    | some e =>
      let n := 2048 - dva % 2048
      let p := postReq .cmd (whoTile t) false e n [] x.1
      let f : AheadFetch := { owner := owner, dva := dva, req := p.2, keep := true }
      readAhead k t owner since (dva + n) (updMover t (fun m => { m with fetches := m.fetches ++ [f] }) p.1)

/-- A run-ahead fetch that has ended joins the buffer; one that failed or brought poison is dropped (R118, R299). -/
def takeFetch (t : Fin 128) (s : State) (f : AheadFetch) : State :=
  match reqEnded s f.req with
  | none => s
  | some (st, d) =>
    let s := updMover t (fun m => { m with fetches := m.fetches.filter fun x => x.req != f.req }) (forgetReq f.req s)
    if !f.keep then s
    else if !fine st || poisoned d then countDrop (whoTile t) s
    else updMover t (aheadAdd { owner := f.owner, dva := f.dva, data := d }) s

/-- The run-ahead fetches of a tile that have ended. -/
def takeFetches (t : Fin 128) (s : State) : State := (getTile s t).mover.fetches.foldl (takeFetch t) s

/-- A request is outstanding, and its descriptor goes on to the next; at a row's end the mover reads ahead (R115, R118). -/
def issueReq (t : Fin 128) (r : MoveRun) (n : Nat) (ph : MovePhase) (s : State) : State :=
  let last := decide (mdRowBytes r.desc ≤ r.off + n)
  let next (q : MoveRun) : MoveRun := if last then { q with row := q.row + 1, off := 0 } else { q with off := q.off + n }
  let q : MoveReq := { move := r.id, row := r.row, off := r.off, len := n, phase := ph }
  let s := updMover t (fun m => { m with queue := mapIf (fun q => q.id == r.id) next m.queue, reqs := m.reqs ++ [q] }) s
  if last && r.ahead then readAhead 8 t r.id r.xorder (moveSrc r.desc r.row r.off + n) s else s

/-- A move fails: it issues nothing more, and the program stops with its status (R110, R114). -/
def failMove (t : Fin 128) (id : Nat) (st : Status) (s : State) : State :=
  updTile t (fun x => stopRun st { x with mover := { x.mover with queue := mapIf (fun q => q.id == id) (fun q => { q with stop := true }) x.mover.queue } }) s

/-- The leading rows of a descriptor that are wholly written (R116). -/
def rowsWritten (m : Mover) (r : MoveRun) : Nat :=
  ((m.reqs.filter fun q => q.move == r.id).map fun q => q.row).foldl min (min r.row (r.bad.getD r.row))

/-- `k` increments of a descriptor's block counter (R116). -/
def moveSignal (t : Fin 128) (d : BitVec 512) (k : Nat) (s : State) : State :=
  if mdDstSpace d = 1 then (List.range k).foldl (fun s _ => sendSignal t.val (mdDstTile d) (mdBc d).val s) s
  else updTile t (fun x => { x with bc := updAt x.bc (mdBc d) fun c => c + BitVec.ofNat 32 k }) s

/-- The signals that are due, in descriptor order (R116), and the end of the descriptors that are wholly written or have stopped.
`blocked` says that an earlier descriptor still owes signals. -/
def settleMoves (t : Fin 128) : List MoveRun → Bool → State → State
  | [], _, s => s
  | r :: rs, blocked, s =>
    let m := (getTile s t).mover
    let d := r.desc
    let done := rowsWritten m r
    let whole := !r.stop && done == mdRows d
    let due := if blocked || !mdSignal d then r.signalled else if mdPerRow d then done else b2n whole
    let s := if r.signalled < due then moveSignal t d (due - r.signalled) s else s
    let settled := !mdSignal d || due == (if mdPerRow d then mdRows d else 1)
    let ended := (whole && settled) || (r.stop && !(m.reqs.any fun q => q.move == r.id))
    let f (q : List MoveRun) : List MoveRun :=
      if ended then q.filter fun y => y.id ≠ r.id else mapIf (fun y => y.id == r.id) (fun y => { y with signalled := due }) q
    settleMoves t rs (blocked || (mdSignal d && !settled && !ended)) (updMover t (fun m => { m with queue := f m.queue }) s)

/-- What is due once the mover's queue or requests have changed. -/
def settleAll (t : Fin 128) (s : State) : State := settleMoves t (getTile s t).mover.queue false s

/-- The request that should issue next fails (R114): its descriptor ends once the requests already issued have. -/
def failIssue (t : Fin 128) (id : Nat) (st : Status) (s : State) : State := settleAll t (failMove t id st s)

/-- The next request of a mover issues (R115): its source is read, at once or as a request to another memory. -/
def moverIssue (t : Fin 128) (s : State) : State :=
  let s := takeFetches t s
  let x := getTile s t
  match issuing x.mover with
  | none => s
  | some r =>
    if x.mover.reqs.length ≥ 32 then s
    else
      let d := r.desc
      let a := moveSrc d r.row r.off
      let n := moveLen d r.row r.off
      match mdSrcSpace d with
      | 0 => issueReq t r n (.have_ (memRead x.mem a n)) s
      | 1 =>
        if fenced s (mdSrcTile d).val then failIssue t r.id .addressRange s
        else issueReq t r n (.have_ (memRead (getTile s (mdSrcTile d)).mem a n)) (countMesh (tilePort (mdSrcTile d).val) (tilePort t.val) n s)
      | _ =>
        match aheadFind x.mover r.id a n with
        | some data => issueReq t r n (.have_ data) s
        | none =>
          let e := xlateTry (whoTile t) (2 * r.id) a s
          match e.2 with
          | .wait => e.1
          | .fail st => failIssue t r.id st e.1
          | .hit e' =>
            let p := postReq .cmd (whoTile t) false e' n [] e.1
            issueReq t r n (.reading p.2) p.1

/-- MOVER_REQUEST_ISSUE (R115). -/
def execMoverRequestIssue (t : Fin 128) (s : State) : Host.Outcome State Fault Refusal := go (moverIssue t s)

/-- Request `idx` of a mover ends: its slot is free, and what is due follows. -/
def endMoveReq (t : Fin 128) (idx : Nat) (written : Nat) (s : State) : State :=
  let s := updMover t (fun m => { m with reqs := dropIdx m.reqs idx }) s
  let s := tileCount t (fun c => { c with moveBytes := addSat c.moveBytes written }) s
  settleAll t s

/-- Request `idx` fails: its descriptor stops, and its row is not written. -/
def failMoveReq (t : Fin 128) (idx : Nat) (q : MoveReq) (st : Status) (s : State) : State :=
  let bad (r : MoveRun) : MoveRun := { r with bad := some (min q.row (r.bad.getD q.row)) }
  endMoveReq t idx 0 (updMover t (fun m => { m with queue := mapIf (fun r => r.id == q.move) bad m.queue }) (failMove t q.move st s))

/-- Request `idx` goes to another phase. -/
def setPhase (t : Fin 128) (idx : Nat) (ph : MovePhase) (s : State) : State :=
  updMover t (fun m => { m with reqs := updIdx m.reqs idx fun q => { q with phase := ph } }) s

/-- The data of request `idx` is here: it is written at its destination (R114, R117). -/
def moveWrite (t : Fin 128) (idx : Nat) (q : MoveReq) (d : BitVec 512) (data : Data) (s : State) : State :=
  let a := moveDst d q.row q.off
  match mdDstSpace d with
  | 0 => endMoveReq t idx q.len (ownWrite t a q.len (updTile t (fun x => { x with mem := memWrite x.mem a data }) s))
  | 1 =>
    if fenced s (mdDstTile d).val then failMoveReq t idx q .addressRange s
    else setPhase t idx (.packet s.tile.weave.nextId) (sendTile t.val (mdDstTile d) a false (.data a data) s)
  | _ =>
    let e := xlateTry (whoTile t) (2 * q.move + 1) a s
    match e.2 with
    | .wait => e.1
    | .fail st => failMoveReq t idx q st e.1
    | .hit x =>
      if !x.write then failMoveReq t idx q .accessDenied e.1
      else
        let p := postReq .cmd (whoTile t) true x q.len data e.1
        setPhase t idx (.writing p.2) p.1

/-- Request `idx` of a mover advances: data that a read brought are written, and a write that is acknowledged ends it (R115, R116). -/
def moverDone : Nat → Fin 128 → Nat → State → State
  | 0, _, _, s => s
  | k + 1, t, idx, s =>
    let m := (getTile s t).mover
    match m.reqs[idx]? with
    | none => s
    | some q =>
      match q.phase with
      | .reading r =>
        (match reqEnded s r with
        | none => s
        | some (st, data) =>
          let s := forgetReq r s
          if fine st then moverDone k t idx (setPhase t idx (.have_ data) s) else failMoveReq t idx q st s)
      | .have_ data =>
        (match m.queue.find? fun r => r.id == q.move with
        | none => s
        | some r => moveWrite t idx q r.desc data s)
      | .packet p => if s.tile.weave.packets.any fun w => w.id == p then s else endMoveReq t idx q.len s
      | .writing r =>
        match reqEnded s r with
        | none => s
        | some (st, _) => let s := forgetReq r s; if fine st then endMoveReq t idx q.len s else failMoveReq t idx q st s

/-- MOVER_REQUEST_DONE (R116). -/
def execMoverRequestDone (t : Fin 128) (idx : Nat) (s : State) : Host.Outcome State Fault Refusal := go (moverDone 2 t idx s)

end Sys2Proof.Machine
end

