-- ==== Sys2Proof/Machine/Trans.lean ====
section
/-!
DEFINITION. The exponential, logarithm, hyperbolic tangent and logistic function of FP32 codes (03: R124), by fixed-point series whose
relative error lies below 2^-100, and what a class T operation may give: any code within 2 units in the last place.
-/
namespace Sys2Proof.Machine

/-- Fraction bits of the fixed-point numbers of this file. -/
def transBits : Nat := 200

/-- ln 2 in fixed point: the sum of 1 / (n · 2^n). -/
def ln2Fix : Nat := ((List.range transBits).map fun n => 2 ^ transBits / ((n + 1) * 2 ^ (n + 1))).sum

/-- `n` further terms of the exponential series at `r`, in fixed point, after the term `term` of order `k`. -/
def expTerms : Nat → Int → Int → Nat → Int
  | 0, _, _, _ => 0
  | n + 1, r, term, k => let t := term * r / 2 ^ transBits / (k + 1); t + expTerms n r t (k + 1)

/-- x · 2^e in fixed point. -/
def toFix (x : Int) (e : Int) : Int :=
  let k := e + transBits
  if 0 ≤ k then x * 2 ^ k.toNat else x / 2 ^ (-k).toNat

/-- e^x for a finite x of moderate size: 2^k · e^r, where r is what remains of x beyond k times ln 2. -/
def expNum (neg : Bool) (m : Nat) (e : Int) : Num :=
  let x := toFix (if neg then -m else m) e
  let k := (x + ln2Fix / 2) / ln2Fix
  let t := 2 ^ transBits + expTerms 60 (x - k * ln2Fix) (2 ^ transBits) 0
  .fin false t.toNat (k - transBits)

/-- `n` terms of artanh(z) from order 2k + 1 on, in fixed point, where `pow` is z^(2k + 1) and `sq` is z². -/
def artanhTerms : Nat → Int → Int → Nat → Int
  | 0, _, _, _ => 0
  | n + 1, pow, sq, k => pow / (2 * k + 1) + artanhTerms n (pow * sq / 2 ^ transBits) sq (k + 1)

/-- A fixed-point number as a value. -/
def fixNum (z : Int) : Num := .fin (decide (z < 0)) z.natAbs (-(transBits : Int))

/-- ln(m · 2^e) for a positive m: k · ln 2 + 2 · artanh((y - 1) / (y + 1)), with y = m · 2^e / 2^k between 2/3 and 4/3. -/
def logNum (m : Nat) (e : Int) : Num :=
  let j := Nat.log2 m
  let high := decide (3 * m > 4 * 2 ^ j)
  let k := (j : Int) + e + (if high then 1 else 0)
  let one : Int := (2 ^ (if high then j + 1 else j) : Nat)
  let z := ((m : Int) - one) * 2 ^ transBits / (m + one)
  fixNum (k * ln2Fix + 2 * artanhTerms 80 z (z * z / 2 ^ transBits) 0)

/-- Whether a value is below 2^-k in magnitude. -/
def tiny (m : Nat) (e : Int) (k : Nat) : Bool := decide (m = 0) || decide ((Nat.log2 m : Int) + 1 + e ≤ -(k : Int))

/-- 1.0. -/
def oneNum : Num := .fin false 1 0

/-- tanh x: x itself where it is so small that the difference does not count, and else (1 - e^(-2|x|)) / (1 + e^(-2|x|)) with the sign of x. -/
def tanhNum (neg : Bool) (m : Nat) (e : Int) : Num :=
  if tiny m e 60 then .fin neg m e
  else
    let g := expNum true m (e + 1)
    match numDiv { fmtFP32 with mbits := 100 } (numAdd oneNum (numNeg g)) (numAdd oneNum g) with
    | .fin _ a b => .fin neg a b
    | v => v

/-- 1 / (1 + e^(-x)): over e^x where x is negative. -/
def sigmoidNum (neg : Bool) (m : Nat) (e : Int) : Num :=
  let g := expNum true m e
  numDiv { fmtFP32 with mbits := 100 } (if neg then g else oneNum) (numAdd oneNum g)

/-- The size of one unit in the last place of an FP32 code. -/
def ulp32 (c : BitVec 32) : Num :=
  let e : Nat := c.toNat / 2 ^ 23 % 256
  .fin false 1 (((max e 1 : Nat) : Int) - 150)

/-- The magnitude of a value. -/
def numAbs : Num → Num
  | .nan _ => .nan false
  | .inf _ => .inf false
  | .fin _ m e => .fin false m e

/-- What a class T operation gives whose exact value is `v` (R124): the open code `open_` where that lies within 2 units in the last
place, and else the nearest code. -/
def heldTo (open_ : BitVec 32) (v : Num) : BitVec 32 :=
  let best := toFP32 v
  let away := numAbs (numAdd (num32 open_) (numNeg v))
  let slack := numMul (numAbs v) (.fin false 1 (-90))
  if open_.msb == best.msb && numLt (numAdd away slack) (numMul (.fin false 2 0) (ulp32 best)) then open_ else best

/-- e^x as a class T operation (R124); far outside the FP32 range the exponent is cut to ±2^7. -/
def expOp (x : BitVec 32) : BitVec 32 :=
  match num32 x with
  | .nan s => BitVec.ofNat 32 (nanCode fmtFP32 s)
  | .inf s => if s then 0 else BitVec.ofNat 32 (infCode fmtFP32 false)
  | .fin s m e => if m = 0 then one32 else heldTo (Config.expOpen x) (if tiny m (e - 7) 0 then expNum s m e else expNum s 1 7)

/-- ln x as a class T operation (R124). -/
def logOp (x : BitVec 32) : BitVec 32 :=
  match num32 x with
  | .nan s => BitVec.ofNat 32 (nanCode fmtFP32 s)
  | .inf s => BitVec.ofNat 32 (if s then nanCode fmtFP32 false else infCode fmtFP32 false)
  | .fin s m e =>
    if m = 0 then BitVec.ofNat 32 (infCode fmtFP32 true)
    else if s then BitVec.ofNat 32 (nanCode fmtFP32 false)
    else if x = one32 then 0
    else heldTo (Config.logOpen x) (logNum m e)

/-- tanh x as a class T operation (R124). -/
def tanhOp (x : BitVec 32) : BitVec 32 :=
  match num32 x with
  | .nan s => BitVec.ofNat 32 (nanCode fmtFP32 s)
  | .inf s => if s then 0xBF800000 else one32
  | .fin s m e => if m = 0 then x else heldTo (Config.tanhOpen x) (if tiny m (e - 7) 0 then tanhNum s m e else .fin s 1 0)

/-- The logistic function as a class T operation (R124). -/
def sigmoidOp (x : BitVec 32) : BitVec 32 :=
  match num32 x with
  | .nan s => BitVec.ofNat 32 (nanCode fmtFP32 s)
  | .inf s => if s then 0 else one32
  | .fin s m e => heldTo (Config.sigmoidOpen x) (if tiny m (e - 7) 0 then sigmoidNum s m e else if s then expNum true 1 7 else oneNum)

end Sys2Proof.Machine
end

