-- ==== Sys2Proof/Machine/Vector.lean ====
section
/-!
DEFINITION. The vector engine and the reduction unit of a tile (03: R119 to R128).
-/
namespace Sys2Proof.Machine

/-- ITER of a loop descriptor (R120). -/
def vdIter (d : BitVec 1024) : Nat := fld d 27 4
/-- RED_OP. -/
def vdRedOp (d : BitVec 1024) : Nat := fld d 30 28
/-- RED_SRC. -/
def vdRedSrc (d : BitVec 1024) : Bool := bit d 31
/-- RED_DST. -/
def vdRedDst (d : BitVec 1024) : Fin 8 := fin (fld d 34 32)
/-- RED_CLEAR. -/
def vdRedClear (d : BitVec 1024) : Bool := bit d 35

/-- OP of a bundle (R121). -/
def vbOp (b : BitVec 128) : Nat := fld b 7 0
/-- FMT: 0 FP32, 1 BF16, 2 INT32. -/
def vbFmt (b : BitVec 128) : Nat := fld b 32 31
/-- IMM. -/
def vbImm (b : BitVec 128) : Nat := fld b 71 40

/-- Whether an op is legal in a format (R123). -/
def opLegal (op fmt : Nat) (b : BitVec 128) : Bool :=
  let float := fmt == 0 || fmt == 1
  match op with
  | 0x00 => true
  | 0x04 => float | 0x09 => float | 0x0F => float
  | 0x10 => float && (decide (vbImm b % 16 ≤ 3) || (fmt == 0 && decide (vbImm b % 16 ≤ 5)))
  | 0x11 => fmt == 2
  | _ => if 0x12 ≤ op ∧ op ≤ 0x18 then float else decide (op ≤ 0x0E)

/-- Whether a bundle has a reserved field, op or type, or an op illegal in its format (R120). -/
def bundleBad (b : BitVec 128) : Bool :=
  fld b 39 36 != 0 || fld b 99 87 != 0 || fld b 127 115 != 0 || vbFmt b == 3 || decide (vbOp b > 0x18) ||
    !opLegal (vbOp b) (vbFmt b) b || (bit b 100 && decide (fld b 111 109 ≥ 6))

/-- Whether a loop descriptor itself is malformed (R120). -/
def loopBad (d : BitVec 1024) : Bool :=
  decide (vdRedOp d ≥ 6) || fld d 63 36 != 0 || fld d 95 89 != 0 || fld d 127 112 != 0 || fld d 255 160 != 0 ||
    fld d 88 64 % 16 != 0 || (List.range 8).any fun k => fld d (64 * k + 287) (64 * k + 281) != 0 || fld d (64 * k + 319) (64 * k + 312) != 0

/-- Bundles of the body of a loop. -/
def loopBundles (d : BitVec 1024) : Nat := fld d 3 0 + 1

/-- The body of a loop as tile memory holds it. -/
def loopBody (m : Mem) (d : BitVec 1024) : List (BitVec 128) :=
  (List.range (loopBundles d)).map fun i => BitVec.ofNat 128 (memNat m (fld d 88 64 + 16 * i) 16)

/-- The checks of a vector loop at its hand-over (R120, R110). -/
def loopCheck (m : Mem) (d : BitVec 1024) : Option Status :=
  let a := fld d 88 64
  let n := 16 * loopBundles d
  firstFail [
    (loopBad d, .malformed), (decide (a + n > tmemSize), .addressRange), (poisoned (memRead m a n), .dataPoison),
    ((loopBody m d).any bundleBad, .malformed)]

/-- The vector engine of a tile changed by `f`. -/
def updVec (t : Fin 128) (f : VecUnit → VecUnit) (s : State) : State := updTile t (fun x => { x with vec := f x.vec }) s

/-- `n` bits of a free number from bit `i`. -/
def freeBits (free i n : Nat) : Nat := (free >>> i) % 2 ^ n

/-- Identity of a reduction op as an FP32 code (R128); RED_OP 0 has none. -/
def redIdentity : Nat → Option (BitVec 32)
  | 1 => some 0
  | 2 => some 0
  | 3 => some 0xFF800000
  | 4 => some 0x7F800000
  | 5 => some 0
  | _ => none

/-- A loop starts (R120): address registers take BASE and STRIDE, and RED_CLEAR clears its target. -/
def startLoop (free : Nat) (l : VLoopRun) (v : VecUnit) : VecUnit :=
  let d := l.desc
  let areg (k : Fin 8) : AReg :=
    { base := BitVec.ofNat 25 (fld d (64 * k.val + 280) (64 * k.val + 256)), stride := BitVec.ofNat 24 (fld d (64 * k.val + 311) (64 * k.val + 288)) }
  let q := if vdRedClear d then v.q.set (vdRedDst d) { value := (redIdentity (vdRedOp d)).getD (BitVec.ofNat 32 free), nonfinite := 0 } else v.q
  { v with a := Vector.ofFn areg, q := q, queue := v.queue.set 0 { l with started := true } }

/-- VECTOR_LOOP_START (R120). -/
def execVectorLoopStart (t : Fin 128) (s : State) : Host.Outcome State Fault Refusal :=
  go (match (getTile s t).vec.queue with
    | l :: _ => if l.started then s else let f := takeFree s; updVec t (startLoop f.2 l) f.1
    | [] => s)

/-- A half-lane mask with bits 2i and 2i + 1 from lane bits. -/
def halvesOf (lanes : List Bool) : Nat := (lanes.zip (List.range 64)).foldl (fun acc p => if p.1 then acc + 3 * 4 ^ p.2 else acc) 0

/-- Element `e` of `w` bits of a register. -/
def vElem (w e : Nat) (v : BitVec 2048) : Nat := fld v (w * e + w - 1) (w * e)

/-- `new` in the half-lanes of `halves`, `old` elsewhere (R125). -/
def mergeHalves (halves : BitVec 128) (old new : BitVec 2048) : BitVec 2048 :=
  BitVec.ofNat 2048 (((List.range 128).map fun h =>
    (if bit halves h then vElem 16 h new else vElem 16 h old) * 2 ^ (16 * h)).sum)

/-- A result reaches its register (R126); m0 takes none (R119). -/
def applyPend (p : VPend) (v : VecUnit) : VecUnit :=
  match p with
  | .vec _ r h x => { v with v := v.v.set r (mergeHalves h v.v[r] x) }
  | .mask _ r x => if r = 0 then v else { v with m := v.m.set r x }

/-- The cycle from which a result is visible. -/
def pendAt : VPend → Nat
  | .vec c _ _ _ => c
  | .mask c _ _ => c

/-- The results visible at cycle `c` reach their registers, earlier ones first. -/
def settle (c : Nat) (v : VecUnit) : VecUnit :=
  let due := sortBy pendAt (v.pend.filter fun p => decide (pendAt p ≤ c))
  due.foldl (fun v p => applyPend p v) { v with pend := v.pend.filter fun p => decide (pendAt p > c) }

/-- The mask of a register; m0 reads as all ones (R119). -/
def maskOf (v : VecUnit) (r : Fin 8) : BitVec 128 := if r = 0 then BitVec.allOnes 128 else v.m[r]

/-- Whether element `e` of `w` bits is enabled (R119). -/
def enabledAt (m : BitVec 128) (w e : Nat) : Bool := if w = 16 then bit m e else bit m (2 * e)

/-- Bytes and element width, as (bytes per element in memory, result width), of a load type in a bundle's format (R122). -/
def loadShape (ltype fmt : Nat) : Nat × Nat :=
  match ltype with
  | 0 => if fmt = 1 then (2, 16) else (4, 32)
  | 1 => (1, 16) | 2 => (1, 16) | 3 => (1, 32) | 4 => (1, 32) | 5 => (2, 32) | 6 => (2, 32) | _ => (1, 32)

/-- A loaded code widened to its element (R122). -/
def widen (ltype c : Nat) : Nat :=
  match ltype with
  | 1 => (toNarrow fmtBF16 .nearest (decodeNum fmtE4M3 c)).code
  | 2 => (toNarrow fmtBF16 .nearest (decodeNum fmtE5M2 c)).code
  | 3 => (toFP32 (decodeNum fmtE4M3 c)).toNat
  | 4 => (toFP32 (decodeNum fmtE5M2 c)).toNat
  | 5 => (toFP32 (decodeNum fmtBF16 c)).toNat
  | 6 => (toFP32 (decodeNum fmtFP16 c)).toNat
  | 7 => ofSigned 32 (toSigned 8 c)
  | _ => c

/-- An element on its way: enabled or not, its code, and whether an error made it. -/
structure VElem where
  on   : Bool
  code : Nat
  st   : Status
  deriving DecidableEq, Repr, Inhabited

/-- A load slot's elements (R122, R125): an element in a poisoned word or beyond tile memory is a free value. -/
def loadElems (m : Mem) (free base ltype fmt : Nat) (mask : BitVec 128) : List VElem :=
  let sh := loadShape ltype fmt
  (List.range (2048 / sh.2)).map fun e =>
    if !enabledAt mask sh.2 e then { on := false, code := 0, st := .ok }
    else
      let a := base + e * sh.1
      let f := freeBits free (4096 + 32 * e) sh.2
      if a + sh.1 > tmemSize then { on := true, code := f, st := .addressRange }
      else
        let d := memRead m a sh.1
        if poisoned d then { on := true, code := f, st := .dataPoison }
        else { on := true, code := widen ltype (leNat (dataBytes d)), st := .ok }

/-- Elements of `w` bits as a register value with the half-lanes they enable. -/
def packElems (w : Nat) (xs : List VElem) : BitVec 2048 × BitVec 128 :=
  let ix := xs.zip (List.range xs.length)
  (BitVec.ofNat 2048 ((ix.map fun p => p.1.code % 2 ^ w * 2 ^ (w * p.2)).sum),
   if w = 16 then BitVec.ofNat 128 ((ix.map fun p => b2n p.1.on * 2 ^ p.2).sum) else BitVec.ofNat 128 (halvesOf (xs.map fun x => x.on)))

/-- Bytes that a store slot writes, as (address, byte) in rising order (R122, R125). -/
def storeBytes (m : Mem) (base stype fmt : Nat) (mask : BitVec 128) (v : BitVec 2048) : List (Nat × Byte) :=
  let w := match stype with | 0 => (if fmt = 1 then 16 else 32) | 1 => 16 | 4 => 16 | _ => 32
  let n := match stype with | 0 => w / 8 | 3 => 2 | _ => 1
  if stype = 4 ∨ stype = 5 then
    (List.range (2048 / w / 2)).flatMap fun k =>
      let lo := enabledAt mask w (2 * k)
      let hi := enabledAt mask w (2 * k + 1)
      let old := (memByte m (base + k)).toNat
      let b := (if lo then vElem w (2 * k) v % 16 else old % 16) + 16 * (if hi then vElem w (2 * k + 1) v % 16 else old / 16)
      if lo || hi then [(base + k, BitVec.ofNat 8 b)] else []
  else
    (List.range (2048 / w)).flatMap fun e =>
      if enabledAt mask w e then ((leBytes n (vElem w e v)).zip (List.range n)).map fun p => (base + e * n + p.2, p.1) else []

/-- Bytes at rising addresses as runs of neighbours. -/
def runsOf : List (Nat × Byte) → List (Nat × List Byte)
  | [] => []
  | (a, b) :: rest =>
    match runsOf rest with
    | (a', bs) :: more => if a + 1 = a' then (a, b :: bs) :: more else (a, [b]) :: (a', bs) :: more
    | [] => [(a, [b])]

/-- A store slot's writes (R125); bytes beyond tile memory are not written. -/
def storeAll (bs : List (Nat × Byte)) (m : Mem) : Mem :=
  (runsOf (bs.filter fun p => decide (p.1 < tmemSize))).foldl (fun m r => memWrite m r.1 (clean r.2)) m

/-- The value of an element code in a floating format of a bundle. -/
def elemNum (fmt c : Nat) : Num := if fmt = 1 then decodeNum fmtBF16 c else decodeNum fmtFP32 c

/-- A value as an element of a floating format: rounded to nearest even as IEEE 754 does (R124). That a finite BF16 result beyond the
format becomes infinity, uncounted, is DEDUCED: R143's saturation is of the conversions that R144 names. -/
def numElem (fmt : Nat) (v : Num) : Nat :=
  if fmt = 1 then (match v with
    | .fin s m e =>
      if m = 0 then b2n s * 2 ^ 15
      else let r := roundMag fmtBF16 .nearest m e; (packCode fmtBF16 s r.1 r.2).getD (infCode fmtBF16 s)
    | .inf s => infCode fmtBF16 s
    | .nan s => nanCode fmtBF16 s)
  else (toFP32 v).toNat

/-- A NaN of the element format with a sign (R137). -/
def nanElem (fmt : Nat) (neg : Bool) : Nat := nanCode (if fmt = 1 then fmtBF16 else fmtFP32) neg

/-- The larger or smaller of two floating codes (R123): a NaN operand gives NaN. Which of two zeros of unlike sign is taken the spec
leaves open; it is the same for the same codes (R128). -/
def extremum (fmt : Nat) (larger : Bool) (x y : Nat) : Nat :=
  match elemNum fmt x, elemNum fmt y with
  | .nan s, _ => nanElem fmt s
  | _, .nan s => nanElem fmt s
  | a, b =>
    if numLt a b then (if larger then y else x) else if numLt b a then (if larger then x else y) else if Config.zeroTie larger x y then x else y

/-- Whether a positive finite FP32 code lies within 2 units in the last place of a value v, where v is known by `mono`:
mono(v) = `goal`, for a rising `mono` (R124). -/
def within2 (mono : Num → Num) (goal : Num) (c : BitVec 32) : Bool :=
  let two := numMul (.fin false 2 0) (ulp32 c)
  let lo := numAdd (num32 c) (numNeg two)
  let hi := numAdd (num32 c) two
  let lowOk := numLt lo (.fin false 0 0) || !numLt goal (mono lo)
  lowOk && !numLt (mono hi) goal

/-- A class T result near `best`: the code that the free offset names, if it lies within 2 units of the exact value, or
`best` (R124). -/
def near (op : Nat) (x best : BitVec 32) (mono : Num → Num) (goal : Num) : BitVec 32 :=
  let c := BitVec.ofNat 32 (best.toNat + Config.transUlp op x % 5 - 2)
  if posFinite c && within2 mono goal c then c else best

/-- FP32 +∞. -/
def inf32 (neg : Bool) : BitVec 32 := BitVec.ofNat 32 (infCode fmtFP32 neg)
/-- FP32 NaN with a sign. -/
def nan32 (neg : Bool) : BitVec 32 := BitVec.ofNat 32 (nanCode fmtFP32 neg)

/-- The class T operations on an FP32 code (R124). -/
def transOp (op : Nat) (x : BitVec 32) : BitVec 32 :=
  let signed (neg : Bool) (y : BitVec 32) : BitVec 32 := if neg then y ||| 0x80000000 else y
  match op, num32 x with
  | _, .nan s => nan32 s
  | 0x12, .inf s => signed s 0
  | 0x12, .fin s m e =>
    if m = 0 then inf32 s
    else signed s (near op x (toFP32 (numDiv fmtFP32 (.fin false 1 0) (.fin false m e))) (fun v => numMul v (.fin false m e)) (.fin false 1 0))
  | 0x13, .inf s => if s then nan32 false else 0
  | 0x13, .fin s m e =>
    if m = 0 then inf32 s
    else if s then nan32 false
    else near op x (toFP32 (numDiv fmtFP32 (.fin false 1 0) (numSqrt (.fin false m e)))) (fun v => numMul (numMul v v) (.fin false m e)) (.fin false 1 0)
  | 0x14, .inf s => if s then nan32 false else inf32 false
  | 0x14, .fin s m e => if m = 0 then x else if s then nan32 false else near op x (fsqrt x) (fun v => numMul v v) (.fin false m e)
  | 0x15, _ => expOp x
  | 0x16, _ => logOp x
  | 0x17, _ => tanhOp x
  | _, _ => sigmoidOp x

/-- What CVT gives (R123, R143): va × vb in the target format. -/
def cvtElem (target : Nat) (mode : Round) (x y : Num) : Conv :=
  let v := num32 (toFP32 (numMul x y))
  match target with
  | 0 => toNarrow fmtE4M3 mode v
  | 1 => toNarrow fmtE5M2 mode v
  | 2 => toInteger 8 mode v
  | 3 => toInteger 4 mode v
  | 4 => toNarrow fmtBF16 mode v
  | _ => toNarrow fmtFP16 mode v

/-- Bits of a CVT target. -/
def cvtBits (target : Nat) : Nat :=
  match target with | 0 => 8 | 1 => 8 | 2 => 8 | 3 => 4 | _ => 16

/-- An INT32 result of an op; |va| and −va of the most negative number are free (R123, R124). -/
def intElem (op : Nat) (free : Nat) (pick : Bool) (x y : Nat) : Nat :=
  let a := toSigned 32 x
  let b := toSigned 32 y
  match op with
  | 0x01 => (x + y) % 2 ^ 32
  | 0x02 => ofSigned 32 (a - b)
  | 0x03 => ofSigned 32 (a * b)
  | 0x05 => if a < b then y else x
  | 0x06 => if a < b then x else y
  | 0x07 => if x = 2 ^ 31 then free else a.natAbs
  | 0x08 => if x = 2 ^ 31 then free else ofSigned 32 (-a)
  | 0x0A => x
  | 0x0B => if pick then x else y
  | _ => (toFP32 (.fin (decide (a < 0)) a.natAbs 0)).toNat

/-- A floating result of an op (R123, R124); `pick` is SEL's mask bit. ABS and NEG of a NaN give the code of R137 with its sign. -/
def floatElem (op fmt : Nat) (pick : Bool) (x y z : Nat) : Nat :=
  let top := if fmt = 1 then 2 ^ 15 else 2 ^ 31
  match op with
  | 0x01 => numElem fmt (numAdd (elemNum fmt x) (elemNum fmt y))
  | 0x02 => numElem fmt (numAdd (elemNum fmt x) (numNeg (elemNum fmt y)))
  | 0x03 => numElem fmt (numMul (elemNum fmt x) (elemNum fmt y))
  | 0x04 => numElem fmt (numAdd (numMul (elemNum fmt x) (elemNum fmt y)) (elemNum fmt z))
  | 0x05 => extremum fmt true x y
  | 0x06 => extremum fmt false x y
  | 0x07 => (match elemNum fmt x with | .nan s => nanElem fmt s | _ => x % top)
  | 0x08 => (match elemNum fmt x with | .nan s => nanElem fmt s | _ => if x < top then x + top else x - top)
  | 0x09 => (match elemNum fmt x with
    | .nan s => nanElem fmt s
    | .inf s => if s then 0 else x
    | .fin s m _ => if s || m == 0 then 0 else x)
  | 0x0A => x
  | 0x0B => if pick then x else y
  | _ => if fmt = 1 then numElem 1 (num32 (transOp op (toFP32 (elemNum 1 x)))) else (transOp op (BitVec.ofNat 32 x)).toNat

/-- A compare (R123): unordered is false. `b` is the value of the second floating operand. -/
def cmpElem (op fmt : Nat) (x y : Nat) (b : Num) : Bool :=
  if fmt = 2 then
    let a := toSigned 32 x
    let b := toSigned 32 y
    (match op with | 0x0C => decide (a < b) | 0x0D => decide (a ≤ b) | _ => decide (a = b))
  else
    let a := elemNum fmt x
    match op with
    | 0x0C => numLt a b
    | 0x0D => numLt a b || numEq a b
    | 0x0E => numEq a b
    | _ => match a with | .fin .. => true | _ => false

/-- Whether an op writes a mask register. -/
def isCompare (op : Nat) : Bool := decide (0x0C ≤ op) && decide (op ≤ 0x0F)
/-- Whether an op is of class T (R123). -/
def isTrans (op : Nat) : Bool := decide (0x12 ≤ op)
/-- Cycles that an op occupies its slot (R123). -/
def opCycles (op fmt : Nat) : Nat := if isTrans op then (if fmt = 1 then 8 else 4) else 1

/-- Width of the elements of a bundle's format. -/
def fmtWidth (fmt : Nat) : Nat := if fmt = 1 then 16 else 32

/-- What the arithmetic slot of a bundle gives: its elements, its compare bits, and what CVT counts. -/
structure ArithOut where
  elems : List VElem
  bits  : List Bool
  sats  : Nat
  nans  : Nat
  deriving DecidableEq, Repr, Inhabited

/-- The arithmetic slot (R123 to R125, R127). `sr` gives the rounding mode of element e. -/
def arith (v : VecUnit) (b : BitVec 128) (free : Nat) (sr : Nat → Round) : ArithOut :=
  let op := vbOp b
  let fmt := vbFmt b
  let w := fmtWidth fmt
  let mask := maskOf v (fin (fld b 30 28))
  let sel := maskOf v (fin (fld b 25 23))
  let va := v.v[(fin (fld b 17 13) : Fin 32)]
  let vb := v.v[(fin (fld b 22 18) : Fin 32)]
  let vc := v.v[(fin (fld b 27 23) : Fin 32)]
  let imm := bit b 33
  let one (e : Nat) : VElem × Bool × Conv :=
    if !enabledAt mask w e then ({ on := false, code := 0, st := .ok }, false, plainConv 0)
    else
      let x := vElem w e va
      let y := if imm then vbImm b else vElem w e vb
      let f := freeBits free (32 * e) w
      -- under BF16 the immediate stays an F32 value: operands are taken to FP32 before an op that rounds
      let yn := if imm then num32 (BitVec.ofNat 32 (vbImm b)) else elemNum fmt y
      let y := if imm && fmt == 1 then numElem 1 yn else y
      let pick := enabledAt sel w e
      if op = 0x10 then
        let t := vbImm b % 16
        let c := cvtElem t (if bit b 35 then sr e else .nearest) (elemNum fmt x) yn
        let n := cvtBits t
        ({ on := true, code := c.code % 2 ^ n + Config.cvtHigh t x y % 2 ^ (w - n) * 2 ^ n, st := .ok }, false, c)
      else if isCompare op then ({ on := true, code := f, st := .ok }, cmpElem op fmt x y yn, plainConv 0)
      else if fmt = 2 then ({ on := true, code := intElem op f pick x y, st := .ok }, false, plainConv 0)
      else if imm && fmt == 1 && decide (op ≤ 0x04) then
        let r := match op with
          | 0x01 => numAdd (elemNum 1 x) yn
          | 0x02 => numAdd (elemNum 1 x) (numNeg yn)
          | 0x03 => numMul (elemNum 1 x) yn
          | _ => numAdd (numMul (elemNum 1 x) yn) (elemNum 1 (vElem w e vc))
        ({ on := true, code := numElem 1 r, st := .ok }, false, plainConv 0)
      else ({ on := true, code := floatElem op fmt pick x y (vElem w e vc), st := .ok }, false, plainConv 0)
  let all := (List.range (2048 / w)).map one
  { elems := all.map fun p => p.1, bits := all.map fun p => p.2.1, sats := (all.filter fun p => p.2.2.sat).length,
    nans := (all.filter fun p => p.2.2.nan).length }

/-- One combination of the reduction unit in FP32 (R128). -/
def redStep (op : Nat) (x y : BitVec 32) : BitVec 32 :=
  match op with
  | 1 => fadd x y
  | 2 => fadd x y
  | 4 => BitVec.ofNat 32 (extremum 0 false x.toNat y.toNat)
  | _ => BitVec.ofNat 32 (extremum 0 true x.toNat y.toNat)

/-- A tree over neighbours (R128). -/
def redTree : Nat → Nat → List (BitVec 32) → BitVec 32
  | 0, _, xs => xs.headD 0
  | k + 1, op, xs =>
    match xs with
    | [] => 0
    | [x] => x
    | _ => redTree k op ((List.range (xs.length / 2)).map fun i => redStep op (xs.getD (2 * i) 0) (xs.getD (2 * i + 1) 0))

/-- What an element brings to the tree (R128): NaN elements stay out of MAX, MIN and AMAX. -/
def redLeaf (op : Nat) (on : Bool) (x : BitVec 32) : BitVec 32 :=
  let id := (redIdentity op).getD 0
  if !on then id
  else match op with
    | 1 => x
    | 2 => fmul x x
    | 5 => if isNaN32 x then id else BitVec.ofNat 32 (x.toNat % 2 ^ 31)
    | _ => if isNaN32 x then id else x

/-- The reduction of one source into a result register (R128): `xs` are the elements, of width `w`. -/
def reduceInto (op w : Nat) (xs : List VElem) (q : QReg) : QReg :=
  let vals := xs.map fun x => (x.on, if w = 16 then toFP32 (decodeNum fmtBF16 x.code) else BitVec.ofNat 32 x.code)
  let bad := (vals.filter fun p => p.1 && nonFinite32 p.2).length
  { value := redStep op q.value (redTree 8 op (vals.map fun p => redLeaf op p.1 p.2)),
    nonfinite := BitVec.ofNat 32 (addSat32 q.nonfinite.toNat bad) }

/-- An address register after a slot has used it (R120). -/
def bumpAreg (a : AReg) : AReg := { a with base := a.base + a.stride.signExtend 25 }

/-- The errors of a bundle's memory slots: poison and addresses beyond tile memory (R110, R125). -/
def slotError (xs : List VElem) (stores : List (Nat × Byte)) : Option Status :=
  match xs.find? fun x => x.on && x.st != .ok with
  | some x => some x.st
  | none => if stores.any fun p => decide (p.1 ≥ tmemSize) then some .addressRange else none

/-- What the elements of a bundle are that feeds the reduction unit (R128): floating values, integers, or the codes of a conversion or
the bits of a compare. -/
inductive RedSource where
  | floats | ints | codes
  deriving DecidableEq, Repr, Inhabited

/-- The source that a bundle is to the reduction unit. -/
def redSource (l : VLoopRun) (b : BitVec 128) : RedSource :=
  if vdRedSrc l.desc then (if fld b 83 81 == 7 || (fld b 83 81 == 0 && vbFmt b == 2) then .ints else .floats)
  else if isCompare (vbOp b) then .codes
  else if vbOp b = 0x10 then (if vbImm b % 16 = 2 ∨ vbImm b % 16 = 3 then .ints else .codes)
  else if vbFmt b = 2 ∧ vbOp b ≠ 0x11 then .ints else .floats

/-- The reduction of a source whose elements are no floating values, which the spec does not give: a value that depends on the op and the
elements alone, so that it is the same in every run (R128). An integer is neither NaN nor infinite. -/
def reduceOpen (src : RedSource) (op : Nat) (xs : List VElem) (q : QReg) : QReg :=
  let codes := xs.map fun x => if x.on then some x.code else none
  { value := Config.redOpen op codes q.value,
    nonfinite := if src = .ints then q.nonfinite else BitVec.ofNat 32 (addSat32 q.nonfinite.toNat (Config.redOpenCount op codes)) }

/-- Whether a bundle feeds the reduction unit (R128). -/
def feedsRed (l : VLoopRun) (b : BitVec 128) : Bool :=
  vdRedOp l.desc != 0 && (if vdRedSrc l.desc then bit b 72 else bit b 34 && vbOp b != 0)

/-- The position after a bundle: the next bundle, or the first of the next iteration. -/
def nextBundle (l : VLoopRun) (convs : Nat) : VLoopRun :=
  let wrap := decide (l.bundle + 1 ≥ l.body.length)
  { l with bundle := if wrap then 0 else l.bundle + 1, iter := if wrap then l.iter + 1 else l.iter, convs := convs }

/-- The parts of tile memory that a store slot writes. -/
def storeRanges (bs : List (Nat × Byte)) : List (Nat × Nat) := (runsOf bs).map fun r => (r.1, r.2.length)

/-- The bits of a compare as elements. -/
def cmpElems (bits : List Bool) (xs : List VElem) : List VElem := List.zipWith (fun c x => { x with code := b2n c }) bits xs

/-- One bundle issues (R121 to R128). A load sees the old content of a word that the same bundle stores to, which R102 allows (DESIGN
CHOICE). -/
def issueBundle (t : Fin 128) (seed : BitVec 64) (free : Nat) (l : VLoopRun) (b : BitVec 128) (s : State) : State :=
  let x := getTile s t
  let v := settle x.vec.cycle x.vec
  let op := vbOp b
  let fmt := vbFmt b
  let w := fmtWidth fmt
  let c := v.cycle
  let lv := bit b 72
  let sv := bit b 100
  let la : Fin 8 := fin (fld b 80 78)
  let sa : Fin 8 := fin (fld b 108 106)
  let ltype := fld b 83 81
  let lw := (loadShape ltype fmt).2
  let loads := if lv then loadElems x.mem free v.a[la].base.toNat ltype fmt (maskOf v (fin (fld b 86 84))) else []
  let per := 2048 / w
  let sr (e : Nat) : Round := tensorRound seed 0 (fld l.desc 111 96) ((fld l.desc 159 128 + l.convs * per + e) % 2 ^ 32) l.step
  let r := arith v b free sr
  let stores := if sv then storeBytes x.mem v.a[sa].base.toNat (fld b 111 109) fmt (maskOf v (fin (fld b 114 112))) v.v[(fin (fld b 105 101) : Fin 32)] else []
  let pl := packElems lw loads
  let pa := packElems w r.elems
  let at_ := c + (if isTrans op then opCycles op fmt - 1 + 8 else 4)
  let cmpBits := if w = 16 then BitVec.ofNat 128 ((r.bits.zip (List.range 128)).map fun p => b2n p.1 * 2 ^ p.2).sum else BitVec.ofNat 128 (halvesOf r.bits)
  let pend := (if lv then [VPend.vec (c + 6) (fin (fld b 77 73)) pl.2 pl.1] else []) ++
    (if op = 0 then [] else if isCompare op then [VPend.mask at_ (fin (fld b 10 8)) cmpBits] else [VPend.vec at_ (fin (fld b 12 8)) pa.2 pa.1])
  let a := if lv then updAt v.a la bumpAreg else v.a
  let a := if sv then updAt a sa bumpAreg else a
  let dst := vdRedDst l.desc
  let src := if vdRedSrc l.desc then loads else r.elems
  let feeds := feedsRed l b
  let q := if !feeds then v.q
    else updAt v.q dst fun q => match redSource l b with
      | .floats => reduceInto (vdRedOp l.desc) (if vdRedSrc l.desc then lw else w) src q
      | k => reduceOpen k (vdRedOp l.desc) (if isCompare op && !vdRedSrc l.desc then cmpElems r.bits src else src) q
  let used := if op = 0x10 && bit b 35 then l.convs + 1 else l.convs
  let v := { v with
    a := a, q := q, pend := v.pend ++ pend, cycle := c + opCycles op fmt, queue := v.queue.set 0 (nextBundle l used) }
  let busy := if op = 0 then 0 else opCycles op fmt
  let reds := if feeds then (src.filter fun y => y.on).length else 0
  let s := updTile t (fun y => { y with
    vec := v, mem := storeAll stores y.mem, run := y.run.map (ownStores (storeRanges stores)),
    counters := { y.counters with
      vecBundles := addSat y.counters.vecBundles 1, vecBusy := addSat y.counters.vecBusy busy,
      vecTrans := addSat y.counters.vecTrans (if isTrans op then busy else 0), redElems := addSat y.counters.redElems reds } }) s
  let s := countConv t r.sats r.nans s
  match slotError loads stores with
  | some st => updTile t (stopRun st) s
  | none => s

/-- VECTOR_BUNDLE_ISSUE (R126). -/
def execVectorBundleIssue (t : Fin 128) (s : State) : Host.Outcome State Fault Refusal :=
  go (match (getTile s t).vec.queue with
    | l :: _ =>
      (match l.body[l.bundle]? with
      | some b => if l.started && decide (l.iter < vdIter l.desc) then let f := takeFree s; issueBundle t s.num.srSeed f.2 l b f.1 else s
      | none => s)
    | [] => s)

/-- A loop ends: every result has reached its register, and the cycle is past the drain (R129). -/
def endLoop (v : VecUnit) : VecUnit :=
  let last := (v.pend.map pendAt).foldl max v.cycle
  { settle last v with cycle := last, queue := v.queue.tail }

/-- VECTOR_LOOP_END (R129). -/
def execVectorLoopEnd (t : Fin 128) (s : State) : Host.Outcome State Fault Refusal :=
  go (match (getTile s t).vec.queue with
    | l :: _ => if l.started && decide (vdIter l.desc ≤ l.iter) then updVec t endLoop s else s
    | [] => s)

/-- A loop that is handed over (R119). -/
def newLoop (d : BitVec 1024) (body : List (BitVec 128)) (step : Nat) : VLoopRun :=
  { desc := d, body := body, step := step, started := false, iter := 0, bundle := 0, convs := 0 }

/-- Whether the vector engine is idle (R109). -/
def vectorIdle (x : Tile) : Bool := x.vec.queue.isEmpty

/-- Whether a loop in the queue writes reduction register `q`. -/
def redPending (x : Tile) (q : Fin 8) : Bool :=
  x.vec.queue.any fun l => vdRedDst l.desc == q && (vdRedOp l.desc != 0 || vdRedClear l.desc)

/-- TMEM_WRITEBACK (R103, R173): a single-bit error is corrected and written back, a double-bit error poisons the word; in a tile's memory,
or in the row store of an engine, whose words keep the same code (that the row's event is theirs too is a DESIGN CHOICE). -/
def execTmemWriteback (m : Fin 144) (word : Nat) (twoBits : Bool) (s : State) : Host.Outcome State Fault Refusal :=
  let t : Fin 128 := fin m.val
  let e : Fin 16 := fin (m.val - 128)
  go (if m.val < 128 then
      if 64 * word ≥ tmemSize ∨ fenced s m.val then s
      else if twoBits then
        tileCount t (fun c => { c with tmemUe := addSat c.tmemUe 1 }) (updTile t (fun x => { x with mem := memPoison x.mem (64 * word) }) s)
      else tileCount t (fun c => { c with tmemCe := addSat c.tmemCe 1 }) s
    else if 64 * word ≥ 0x4000000 then s
    else if twoBits then
      let s := { s with mem := { s.mem with rowStore := updAt s.mem.rowStore e fun x => memPoison x (64 * word) } }
      engCount e (fun c => { c with rstoreUe := addSat c.rstoreUe 1 }) s
    else engCount e (fun c => { c with rstoreCe := addSat c.rstoreCe 1 }) s)

end Sys2Proof.Machine
end

