-- ==== Sys2Proof/Machine/Optimiser.lean ====
section
/-!
DEFINITION. Row optimisers (06: R217 to R226): log entries, the arithmetic of the four optimisers, and how an entry is optimised and
applied.
-/
namespace Sys2Proof.Machine

/-- OPT of an OPTIM_SET payload (R219). -/
def osOpt (o : BitVec 512) : Nat := fld o 13 12
/-- STATE_TYPE is BF16. -/
def osNarrow (o : BitVec 512) : Bool := bit o 14
/-- STATE_DVA. -/
def osState (o : BitVec 512) : Nat := fld o 111 64
/-- A field of 32 bits of an OPTIM_SET payload. -/
def osF32 (o : BitVec 512) (lo : Nat) : BitVec 32 := BitVec.ofNat 32 (fld o (lo + 31) lo)
/-- ADAM step offset T0. -/
def osT0 (o : BitVec 512) : Nat := fld o 351 288

/-- The optimiser of a table: SGD with LR 0 before any OPTIM_SET (R219). -/
def optimOf (s : State) (table : Nat) : BitVec 512 := ((findTable s table).bind fun t => t.optim).getD 0

/-- Z, the bytes of a state row (R220). -/
def stateSize (o d : BitVec 512) : Nat :=
  let w := if osNarrow o then 2 else 4
  match osOpt o with
  | 0 => 0
  | 1 => 32
  | 2 => tdDim d * w
  | _ => 2 * tdDim d * w

/-- The state row of local row `r` (R220). -/
def stateAddr (o d : BitVec 512) (r : Nat) : Nat := (osState o + r * stateSize o d) % 2 ^ 48

/-- ROW of a log entry (R217). -/
def leRow (x : LogEntry) : Nat := fld x.hdr 31 0
/-- TABLE. -/
def leTable (x : LogEntry) : Nat := fld x.hdr 43 32
/-- T2. -/
def leT2 (x : LogEntry) : Bool := bit x.hdr 44
/-- NEW. -/
def leNew (x : LogEntry) : Bool := bit x.hdr 45
/-- VALUES. -/
def leValues (x : LogEntry) : Bool := bit x.hdr 46
/-- VARIANT. -/
def leVariant (x : LogEntry) : Nat := fld x.hdr 55 48
/-- BASE_ROW. -/
def leBase (x : LogEntry) : Nat := fld x.hdr 95 64
/-- STEP. -/
def leStep (x : LogEntry) : Nat := fld x.hdr 191 128
/-- CLIP_S. -/
def leClip (x : LogEntry) : BitVec 32 := BitVec.ofNat 32 (fld x.hdr 223 192)

/-- Table row number of a local row (R175). -/
def tableRow (d : BitVec 512) (r : Nat) : Nat := tdRowBase d + r * tdRowStep d

/-- x^t in FP32, within 2 units in the last place (R221). -/
def fpow (x : BitVec 32) (t : Nat) : BitVec 32 :=
  match num32 x with
  | .fin s m e =>
    if m = 0 then 0
    else
      let v : Num := .fin (s && t % 2 == 1) (m ^ t) (e * t)
      near (0x100 + t) x (toFP32 v) id v
  | _ => x

/-- A square root, within 2 units in the last place (R221). -/
def rootNear (x : BitVec 32) : BitVec 32 := transOp 0x14 x

/-- New master values and state values of a row (R221): `ws` are the master values, `gs` the scaled gradient, `st` the state
values: nothing, a, the a_e, or the m_e and then the v_e. -/
def optimise (o : BitVec 512) (step : Nat) (ws gs st : List (BitVec 32)) : List (BitVec 32) × List (BitVec 32) :=
  let d := ws.length
  let lr := osF32 o 128
  let wd := osF32 o 160
  let eps := osF32 o 192
  let b1 := osF32 o 224
  let b2 := osF32 o 256
  let decay (w : BitVec 32) : BitVec 32 := fmul (fmul lr wd) w
  match osOpt o with
  | 0 => ((ws.zip gs).map fun x => fsub x.1 (fmul lr (fadd x.2 (fmul wd x.1))), [])
  | 1 =>
    let a := fadd (st.getD 0 0) (fmul (gs.foldl (fun acc g => ffma g g acc) 0) (recip32 d))
    let den := fadd (rootNear a) eps
    ((ws.zip gs).map fun x => fsub (fsub x.1 (fdiv (fmul lr x.2) den)) (decay x.1), [a])
  | 2 =>
    let as := (st.zip gs).map fun x => fadd x.1 (fmul x.2 x.2)
    (((ws.zip gs).zip as).map fun x => fsub (fsub x.1.1 (fdiv (fmul lr x.1.2) (fadd (rootNear x.2) eps))) (decay x.1.1), as)
  | _ =>
    let t := max 1 (step - osT0 o)
    let ms := ((st.take d).zip gs).map fun x => fadd (fmul b1 x.1) (fmul (fsub one32 b1) x.2)
    let vs := ((st.drop d).zip gs).map fun x => fadd (fmul b2 x.1) (fmul (fmul (fsub one32 b2) x.2) x.2)
    let c1 := fsub one32 (fpow b1 t)
    let c2 := fsub one32 (fpow b2 t)
    let w' (w m v : BitVec 32) : BitVec 32 :=
      fsub w (fmul lr (fadd (fdiv (fdiv m c1) (fadd (rootNear (fdiv v c2)) eps)) (fmul wd w)))
    ((ws.zip (ms.zip vs)).map fun x => w' x.1 x.2.1 x.2.2, ms ++ vs)

/-- State values of a state row (R220). -/
def stateValues (o d : BitVec 512) (bs : List Byte) : List (BitVec 32) :=
  let n := match osOpt o with | 0 => 0 | 1 => 1 | 2 => tdDim d | _ => 2 * tdDim d
  if osNarrow o && decide (osOpt o ≥ 2) then (List.range n).map fun i => BitVec.ofNat 32 (leNat (slice bs (2 * i) 2) * 65536)
  else (List.range n).map fun i => BitVec.ofNat 32 (leNat (slice bs (4 * i) 4))

/-- A state row of new values, and how many conversions saturated (R220). Padding keeps its bytes. -/
def stateBytes (o d : BitVec 512) (seed : BitVec 64) (row step : Nat) (old : List Byte) (vs : List (BitVec 32)) : List Byte × Nat :=
  if osNarrow o && decide (osOpt o ≥ 2) then
    let cs := (vs.zip (List.range vs.length)).map fun x =>
      toNarrow fmtBF16 (rowRound seed 2 (tdId d) (tableRow d row) x.2 step) (num32 x.1)
    (cs.flatMap fun c => leBytes 2 c.code, (cs.filter fun c => c.sat).length)
  else
    let bs := vs.flatMap fun v => bytesOf 4 v
    (bs ++ old.drop bs.length, 0)

/-- Master values of a row (R141, R221). `free` stands for what R139 leaves undefined in a record that it does not allow. -/
def masterValues (d : BitVec 512) (rec res : List Byte) (free : Nat) : List (BitVec 32) :=
  (List.range (tdDim d)).map fun e =>
    if tdType d ≥ 2 then plainValue (tdType d) rec e
    else if recLegal rec then masterValue (tdType d == 0) rec res e
    else BitVec.ofNat 32 (free >>> (32 * e))

/-- A row's new values: record, residual row and state row, with the counts of R158, R160 and R144. -/
structure NewRow where
  record : List Byte
  res    : List Byte
  state  : List Byte
  sat    : Nat
  flat   : Bool
  nonfinite : Bool
  deriving DecidableEq, Repr

/-- The new record and residual row of a row of new master values (R221, R158 to R160). -/
def newRecord (d : BitVec 512) (seed : BitVec 64) (row step : Nat) (ws : List (BitVec 32)) (rec res : List Byte) : Reencoded :=
  let round (e : Nat) : Round := rowRound seed 1 (tdId d) (tableRow d row) e step
  let keep : Reencoded := { record := rec, res := res, sat := 0, flat := false, nonfinite := true }
  if ws.any nonFinite32 then keep
  else match tdType d with
    | 2 =>
      let cs := (ws.zip (List.range ws.length)).map fun x => toNarrow fmtBF16 (round x.2) (num32 x.1)
      { record := cs.flatMap fun c => leBytes 2 c.code, res := [], sat := (cs.filter fun c => c.sat).length, flat := false, nonfinite := false }
    | 3 => { record := ws.flatMap fun w => bytesOf 4 w, res := [], sat := 0, flat := false, nonfinite := false }
    | k => reencode (k == 0) ws round

/-- The new values of an entry whose row has the data given (R221, R222). The current values of a NEW row count as +0 (R237). -/
def newRow (s : State) (x : LogEntry) (clip : BitVec 32) (rec res st : List Byte) (free : Nat) : NewRow :=
  let d := x.table.desc
  let o := optimOf s (leTable x)
  let seed := s.num.srSeed
  let gs := (List.range (tdDim d)).map fun e => fmul (BitVec.ofNat 32 (leNat (slice x.body (4 * e) 4))) clip
  let ws := if leNew x then gs.map fun _ => (0 : BitVec 32) else masterValues d rec res free
  let r := optimise o (leStep x) ws gs (stateValues o d st)
  let n := newRecord d seed (leRow x) (leStep x) r.1 rec res
  let b := stateBytes o d seed (leRow x) (leStep x) st r.2
  { record := n.record, res := n.res, state := b.1, sat := n.sat + b.2, flat := n.flat, nonfinite := n.nonfinite }

/-- Bursts of 256 B that a row of a plane needs and the row before it, at `prev`, does not (R223): a burst that two rows share counts once.
A row is an address and a length. -/
def freshBursts (x prev : Nat × Nat) : Nat :=
  let first (p : Nat × Nat) : Nat := p.1 / 256
  let last (p : Nat × Nat) : Nat := (p.1 + p.2 - 1) / 256
  if x.2 = 0 then 0
  else last x + 1 - first x - (if prev.2 = 0 then 0 else min (last x) (last prev) + 1 - max (first x) (first prev))

/-- The planes of an entry's row: addresses and sizes of record, residual row and state row. -/
def rowPlanes (s : State) (x : LogEntry) : List (Nat × Nat) :=
  let d := x.table.desc
  let o := optimOf s (leTable x)
  [(recAddr d (leRow x), recSize d), (resAddr d (leRow x), resSize d), (stateAddr o d (leRow x), stateSize o d)]

/-- Bursts of an entry's row, after the row served before it (R223). -/
def entryBursts (s : State) (prev : Option LogEntry) (x : LogEntry) : Nat :=
  let before := match prev with
    | some y => if leTable y = leTable x then rowPlanes s y else [(0, 0), (0, 0), (0, 0)]
    | none => [(0, 0), (0, 0), (0, 0)]
  (((rowPlanes s x).zip before).map fun p => freshBursts p.1 p.2).sum

/-- Bursts that reading an entry's row takes, after the entries `before` it, nearest first; a NEW row is not read (R223, R237). -/
def readBursts (s : State) (before : List LogEntry) (x : LogEntry) : Nat :=
  if leNew x then 0 else entryBursts s (before.find? fun y => !leNew y) x

/-- The bytes of an entry in its log (R217). -/
def entryData (x : LogEntry) : Data := clean (bytesOf 32 x.hdr ++ x.body)

/-- What working on an entry gives: a wait for a memory, a failure, or the entry. -/
inductive EntryRes where
  | wait
  | fail (st : Status)
  | ok (x : LogEntry)
  deriving DecidableEq, Repr, Inhabited

/-- The parts of an entry's work that are told apart: reading its row, writing its new values to the log, applying them, and its copy to
the deferred log. -/
def entryKey (x : LogEntry) (part : Nat) : Nat := opKey kOptim (4 * x.dva + part)

/-- An entry is optimised from the bytes of its row: its body takes the new values, with CLIP_S and VALUES set (R221, R222). -/
def optimiseRow (e : Fin 16) (clip : BitVec 32) (before : List LogEntry) (x : LogEntry) (bytes : List Byte) (s : State) : State × LogEntry :=
  let sizes := (rowPlanes s x).map fun p => p.2
  let rec_ := sizes.getD 0 0
  let res_ := sizes.getD 1 0
  let all := if leNew x then List.replicate sizes.sum 0 else bytes
  let f := takeFree s
  let n := newRow f.1 x clip (all.take rec_) ((all.drop rec_).take res_) (all.drop (rec_ + res_)) f.2
  let hdr := setFld (setFld x.hdr 223 192 clip.toNat) 46 46 1
  (engCount e (fun c => { c with
    rowSat := addSat c.rowSat n.sat, rowFlat := addSat c.rowFlat (b2n n.flat), rowNonfinite := addSat c.rowNonfinite (b2n n.nonfinite),
    updateBursts := addSat c.updateBursts (readBursts s before x) }) f.1,
   { x with hdr := hdr, body := n.record ++ n.res ++ n.state, unwritten := true })

/-- An entry of the update log is optimised (R222): the entry and its row are read. Poisoned data give UNCORRECTABLE (R285). -/
def optimiseEntry (e : Fin 16) (clip : BitVec 32) (before : List LogEntry) (x : LogEntry) (s : State) : State × EntryRes :=
  let rows := if leNew x then [] else ((rowPlanes s x).filter fun p => p.2 ≠ 0).map fun p => ioRead p.1 p.2
  let r := ioMany .cmd (whoEngine e) (entryKey x 0) (ioRead x.dva (32 + x.body.length) :: rows) s
  match r.2 with
  | .wait => (r.1, .wait)
  | .fail st => (r.1, .fail st)
  | .done ds =>
    if ds.any poisoned then (r.1, .fail .uncorrectable)
    else let o := optimiseRow e clip before x ((ds.drop 1).flatMap dataBytes) r.1; (o.1, .ok o.2)

/-- An optimised entry's CLIP_S, VALUES and new values are written to its log (R222). -/
def storeEntry (e : Fin 16) (x : LogEntry) (s : State) : State × EntryRes :=
  let w := ioMany .cmd (whoEngine e) (entryKey x 1) [ioWrite x.dva (entryData x)] s
  (w.1, match w.2 with | .wait => .wait | .fail st => .fail st | .done _ => .ok { x with unwritten := false })

/-- The key that inserts a delta row (R235, R237). -/
def deltaKey (x : LogEntry) : List Byte := leBytes 8 (leBase x + leVariant x * 2 ^ 32 + 2 ^ 40)

/-- The part of an optimised entry's body that belongs to plane `i`. -/
def planeBytes (sizes : List Nat) (x : LogEntry) (i : Nat) : List Byte := (x.body.drop ((sizes.take i).sum)).take (sizes.getD i 0)

/-- The writes that apply an optimised entry (R224): the delta key, record, residual row and state row. -/
def rowWrites (s : State) (x : LogEntry) : List IoOp :=
  let planes := rowPlanes s x
  let sizes := planes.map fun p => p.2
  let key := if leNew x then [ioWrite ((x.keyDva + 8 * leRow x) % 2 ^ 48) (clean (deltaKey x))] else []
  key ++ (List.range 3).filterMap fun i =>
    if sizes.getD i 0 = 0 then none else some (ioWrite ((planes.getD i (0, 0)).1) (clean (planeBytes sizes x i)))

/-- An entry's row has been written: it is counted, after the row written before it, and its record written through (R223, R225). -/
def rowWritten (e : Fin 16) (prev : Option LogEntry) (x : LogEntry) (s : State) : State :=
  let s' := engCount e (fun c => { c with
    deltaInserts := addSat c.deltaInserts (b2n (leNew x)), updateBursts := addSat c.updateBursts (entryBursts s prev x) }) s
  writeThrough (leTable x) (leRow x) x.table.version (clean (planeBytes ((rowPlanes s x).map fun p => p.2) x 0)) s'

/-- An optimised entry is applied (R224). -/
def applyNewRow (e : Fin 16) (prev : Option LogEntry) (x : LogEntry) (s : State) : State × EntryRes :=
  let r := ioMany .cmd (whoEngine e) (entryKey x 2) (rowWrites s x) s
  match r.2 with
  | .wait => (r.1, .wait)
  | .fail st => (r.1, .fail st)
  | .done _ => (rowWritten e prev x r.1, .ok x)

/-- CLIP_S of a step (R163, R217): clip / S. -/
def stepClip (p : Step) : BitVec 32 := fdiv ((p.decision.map fun d => d.clip).getD one32) p.lossScale

end Sys2Proof.Machine
end

