-- ==== Sys2Proof/Machine/Update.lean ====
section
/-!
DEFINITION. Ownership and updates (06): SCATTER and its keys, sort and merge, the optimiser commands, applying at COMMIT, and the
deferred-update log.
-/
namespace Sys2Proof.Machine

/-- What an engine keeps for a step. -/
def engStep (s : State) (e : Fin 16) (n : BitVec 64) : Option EngineStep := (getEng s e).steps.find? fun x => x.step == n

/-- An engine's part of a step changed by `f`, begun if there is none. -/
def updEngStep (e : Fin 16) (n : BitVec 64) (f : EngineStep → EngineStep) (s : State) : State :=
  let fresh : EngineStep :=
    { step := n, nextSeq := 0, tables := [], scatters := [], keys := [], sealed := false, formed := none, merged := false, norm := 0, nonfinite := false,
      entries := [], applied := 0 }
  updEng e (fun g => { g with steps :=
    if (g.steps.any fun x => x.step == n) then mapIf (fun x => x.step == n) f g.steps else g.steps ++ [f fresh] }) s

/-- GRAD_TYPE of a SCATTER (R210). -/
def sGradType (p : BitVec 1536) : Nat := fld p 7 6
/-- DELTA_EN of a SCATTER. -/
def sDelta (p : BitVec 1536) : Bool := bit p 9
/-- GRAD_SCALE. -/
def sScale (p : BitVec 1536) : BitVec 32 := BitVec.ofNat 32 (fld p 127 96)
/-- GRAD_DVA. -/
def sGrad (p : BitVec 1536) : Nat := fld p 559 512
/-- GRAD_STRIDE. -/
def sStride (p : BitVec 1536) : Nat := fld p 607 576
/-- V_g, the bytes of a gradient vector of `d` elements (R210). -/
def gradBytes (type d : Nat) : Nat := d * match type with | 0 => 2 | 1 => 2 | 2 => 4 | _ => 1

/-- A gradient element of a vector, widened exactly (R211). -/
def gradElem (type : Nat) (bs : List Byte) (e : Nat) : BitVec 32 :=
  match type with
  | 0 => BitVec.ofNat 32 (leNat (slice bs (2 * e) 2) * 65536)
  | 1 => toFP32 (decodeNum fmtFP16 (leNat (slice bs (2 * e) 2)))
  | 2 => BitVec.ofNat 32 (leNat (slice bs (4 * e) 4))
  | _ => toFP32 (decodeNum fmtE5M2 (leNat (slice bs e 1)))

/-- Keys that an admitted SCATTER may still write: one for each position that no bag has taken yet (R212). -/
def keysToCome (r : ScatterRun) : Nat := r.p1 - r.pos + (r.ready.map fun k => k.keys.length).getD 0

/-- Keys that stand in an engine's key area, or that admitted SCATTERs may still write (R212). -/
def keysHeld (g : Engine) : Nat := (g.steps.map fun x => x.keys.length + (x.scatters.map keysToCome).sum).sum

/-- The checks of a SCATTER (R212). A SCATTER that carries NO_STEP has no step to merge in and is refused (DEDUCED). -/
def scatterCheck (q : Fin 64) (c : Slot) (s : State) : State × Adm :=
  let p := c.pay
  let e := gEngine p
  let l := scatterLists p
  let step := slotStep s c
  let t := findTable s (gTable p)
  let d := (t.map fun t => (checkedVersion s t step 0).desc).getD 0
  let known := t.isSome && !tdDrop d
  let vg := gradBytes (sGradType p) (tdDim d)
  let mine := step.bind (engStep s e)
  let elsewhere := match step with
    | some n => (List.finRange 16).any fun f => f != e && (engStep s f n).any fun x => x.tables.contains (gTable p)
    | none => false
  let malformed :=
    fld p 15 10 != 0 || bit p 79 || fld p 95 80 != 0 || fld p 575 560 != 0 || fld p 767 640 != 0 || listsMalformed p l ||
    (gPool p != 3 && bit p 8) || sGrad p % 16 != 0 || sStride p % 16 != 0 || !posFinite (sScale p) || slotEarly c ||
    (known && (decide (sStride p < vg) || (!sDelta p && tdDelta d)))
  listAdmission q [
    (malformed, .malformed), (!known || (sDelta p && !tdDelta d), .addressRange),
    (tdFrozen d || tdReplica d || tdOwner d != nodeId s, .accessDenied), stepRules s c,
    (step.isNone || (mine.map fun x => x.sealed) == some true || elsewhere ||
      (sDelta p && (s.train.profile != 1 || (t.bind fun t => t.keyDva).isNone)), .stateConflict),
    (l.count == 0, .okNoOp)]
    l (fun p0 p1 =>
      let n := if gPool p = 0 then p1 - p0 else l.count
      [(decide (n ≠ 0 ∧ (n - 1) * sStride p + vg > fld p 639 608) ||
        decide ((keysHeld (getEng s e) + (p1 - p0)) * 32 > (s.rows.obj.keyBytes[e]).toNat), .bufferTooSmall)]) false s

/-- A SCATTER is admitted (R212): it joins its batch and takes the next SEQ of its engine and step. -/
def scatterAdmit (k : Cmd) (s : State) : State :=
  let p := k.slot.pay
  let e := gEngine p
  match findTable s (gTable p), k.step with
  | some t, some n =>
    let v := checkedVersion s t k.step 0
    let seq := ((engStep s e n).map fun x => x.nextSeq).getD 0
    let r : ScatterRun :=
      { cmd := k.id, slot := k.slot, table := v, keyDva := t.keyDva, seq := seq, p0 := k.info.getD 0 0, p1 := k.info.getD 1 0,
        next := 0, pos := k.info.getD 0 0, ready := none, failed := none, stop := none }
    let s := joinBatch t.id k.step k.id v.version s
    updEngStep e n (fun x => { x with nextSeq := seq + 1, tables := x.tables ++ [t.id], scatters := x.scatters ++ [r] }) s
  | _, _ => s

/-- SCATTER. -/
def scatterRule : OpRule := { check := scatterCheck, effect := scatterAdmit }

/-- SCATTER (R212). -/
def execScatter (sq : Fin 64) (c : Slot) (s : State) : Host.Outcome State Fault Refusal := go (commandAtHead 0x28 scatterRule sq c s)

/-- What a bag of a SCATTER gives: a wait, a stop of the command, a failure of the bag, or its keys, the positions without one and the
position after its last. -/
inductive BagKeys where
  | wait
  | stop (st : Status)
  | fails (st : Status)
  | ok (keys : List (BitVec 256)) (missing upTo : Nat)
  deriving DecidableEq, Repr, Inhabited

/-- A key (R213). -/
def mkKey (p : BitVec 1536) (r : ScatterRun) (pos row variant grad : Nat) (factor : BitVec 32) : BitVec 256 :=
  BitVec.ofNat 256 (row + gTable p * 2 ^ 32 + fld p 78 64 * 2 ^ 44 + sGradType p * 2 ^ 59 + grad * 2 ^ 64 + r.seq % 2 ^ 16 * 2 ^ 112 +
    pos * 2 ^ 128 + factor.toNat * 2 ^ 160 + variant * 2 ^ 192)

/-- The parts of a SCATTER's work that are told apart: a bag's range, its lists and gradients, and the writing of its keys. -/
def scatterKey (cmd part : Nat) : Nat := opKey kKeys (4 * cmd + part)

/-- The range of bag `k` of a list: first and last position, or how the bag or the command fails (R187). -/
def listRange (e : Fin 16) (l : Lists) (cmd k : Nat) (s : State) : State × Except BagKeys (Nat × Nat) :=
  if l.len ≠ 0 then (s, .ok (k * l.len, (k + 1) * l.len))
  else
    let r := ioMany .cmd (whoEngine e) (scatterKey cmd 0) [ioRead ((l.offs + 4 * k) % 2 ^ 48) 4, ioRead ((l.offs + 4 * k + 4) % 2 ^ 48) 4] s
    (r.1, match r.2 with
      | .wait => .error .wait
      | .fail st => .error (.stop st)
      | .done ds =>
        let x := leNat (dataBytes (ds.getD 0 []))
        let y := leNat (dataBytes (ds.getD 1 []))
        if ds.any poisoned then .error (.fails .dataPoison)
        else if y < x ∨ y > x + 1024 then .error (.fails .lengthRange)
        else .ok (x, y))

/-- The keys of one bag (R211, R213). -/
def scatterBag (e : Fin 16) (r : ScatterRun) (s : State) : State × BagKeys :=
  let p := r.slot.pay
  let l := scatterLists p
  let d := r.table.desc
  let vg := gradBytes (sGradType p) (tdDim d)
  let g := listRange e l r.cmd r.next s
  match g.2 with
  | .error k => (g.1, k)
  | .ok (a, b) =>
    let n := b - a
    if n = 0 then (g.1, .ok [] 0 b)
    else
      let ps := (List.range n).map fun i => a + i
      let gradOf (pos : Nat) : Nat := (sGrad p + (if gPool p = 0 then 2 ^ 48 + pos - r.p0 else r.next) * sStride p) % 2 ^ 48
      let idx := ps.map fun q => ioRead ((l.index + 4 * q) % 2 ^ 48) 4
      let wgt := if l.wgtSize = 0 then [] else ps.map fun q => ioRead ((l.wgt + q * l.wgtSize) % 2 ^ 48) l.wgtSize
      let var := if l.delta then [ioRead ((l.vars + r.next) % 2 ^ 48) 1] else []
      let grads := if gPool p = 0 then ps.map fun q => ioRead (gradOf q) vg else [ioRead (gradOf a) vg]
      let x := ioMany .cmd (whoEngine e) (scatterKey r.cmd 1) (idx ++ wgt ++ var ++ grads) g.1
      (x.1, match x.2 with
        | .wait => .wait
        | .fail st => .stop st
        | .done ds =>
          if ds.any poisoned then .fails .dataPoison
          else
            let rows := (ds.take n).map fun y => leNat (dataBytes y)
            let ws := (ds.drop n).take wgt.length
            let variant := if l.delta then leNat (dataBytes (ds.getD (n + wgt.length) [])) else 0
            let out (row : Nat) : Bool := !l.delta && decide (row ≥ tdRows d)
            if tdFail d && rows.any out then .fails .addressRange
            else
              let factor (i : Nat) : BitVec 32 :=
                match gPool p with
                | 2 => fmul (sScale p) (recip32 n)
                | 3 => fmul (sScale p) (weightValue (dataBytes (ws.getD i [])))
                | _ => sScale p
              let ks := (rows.zip (List.range n)).filterMap fun y =>
                if out y.1 then none else some (mkKey p r (a + y.2) y.1 variant (gradOf (a + y.2)) (factor y.2))
              .ok ks (rows.filter out).length b)

/-- A SCATTER of an engine's step changed by `f`. -/
def updScatter (e : Fin 16) (n : BitVec 64) (cmd : Nat) (f : ScatterRun → ScatterRun) (s : State) : State :=
  updEngStep e n (fun x => { x with scatters := mapIf (fun r => r.cmd == cmd) f x.scatters }) s

/-- The keys of a bag take the next places of the key area (R213). -/
def placeKeys (e : Fin 16) (n : BitVec 64) (cmd : Nat) (ks : List (BitVec 256)) (missing upTo : Nat) (s : State) : State :=
  let area := (s.rows.obj.keyBytes[e]).toNat
  let base := (s.rows.obj.keyDva[e]).toNat
  let pos := (getEng s e).keyPos
  let at_ (i : Nat) : Nat := (base + (pos + 32 * i) % max area 32) % 2 ^ 48
  let keyed : List SortKey := (ks.zip (List.range ks.length)).map fun k => { word := k.1, dva := at_ k.2 }
  let s := updScatter e n cmd (fun r => { r with pos := upTo, ready := some { keys := keyed, missing := missing, upTo := upTo } }) s
  updEng e (fun g => { g with keyPos := (pos + 32 * ks.length) % max area 32 }) s

/-- The keys of a bag are written into the key area (R213), and the next bag's turn comes; a region that fails stops the command
(R244). -/
def writeKeys (e : Fin 16) (n : BitVec 64) (cmd : Nat) (b : BagKeyList) (s : State) : State × Bool :=
  let r := ioMany .cmd (whoEngine e) (scatterKey cmd 2) (b.keys.map fun k => ioWrite k.dva (clean (bytesOf 32 k.word))) s
  match r.2 with
  | .wait => (r.1, false)
  | .fail st => (updScatter e n cmd (fun r => { r with ready := none, stop := some st }) r.1, false)
  | .done _ =>
    let s := updEngStep e n (fun x => { x with keys := x.keys ++ b.keys }) r.1
    let s := updScatter e n cmd (fun r => { r with next := r.next + 1, ready := none }) s
    (engCount e (fun c => { c with
      scatterKeys := addSat c.scatterKeys b.keys.length, scatterMissing := addSat c.scatterMissing b.missing }) s, true)

/-- The bags of a SCATTER are worked through, as far as no list, gradient or key has to be waited for. -/
def scatterBags : Nat → Fin 16 → BitVec 64 → Nat → State → State
  | 0, _, _, _, s => s
  | k + 1, e, n, cmd, s =>
    match ((engStep s e n).bind fun x => x.scatters.find? fun r => r.cmd == cmd) with
    | none => s
    | some r =>
      if r.next ≥ (scatterLists r.slot.pay).count ∨ r.stop.isSome then s
      else match r.ready with
        | some b => let w := writeKeys e n cmd b s; if w.2 then scatterBags k e n cmd w.1 else w.1
        | none =>
          let b := scatterBag e r s
          match b.2 with
          | .wait => b.1
          | .stop st => updScatter e n cmd (fun r => { r with stop := some st }) b.1
          | .fails st =>
            let s := engCount e (fun c => { c with bagFail := addSat c.bagFail 1 }) b.1
            scatterBags k e n cmd (updScatter e n cmd (fun r => { r with
              next := r.next + 1, failed := r.failed.orElse fun _ => some (r.next, st) }) s)
          | .ok ks missing upTo => scatterBags k e n cmd (placeKeys e n cmd ks missing upTo b.1)

/-- An engine's oldest SCATTER that may run, with its step. -/
def nextScatter (s : State) (e : Fin 16) : Option (BitVec 64 × ScatterRun) :=
  let all := (getEng s e).steps.flatMap fun x => x.scatters.map fun r => (x.step, r)
  (sortBy (fun x => x.2.cmd) (all.filter fun x => mayBegin s x.2.slot (some x.1))).head?

/-- SCATTER_KEYS_WRITTEN (R213): the engine's oldest SCATTER writes its keys and completes. -/
def execScatterKeysWritten (e : Fin 16) (s : State) : Host.Outcome State Fault Refusal :=
  go (match nextScatter s e with
    | none => s
    | some (n, r) =>
      let count := (scatterLists r.slot.pay).count
      let s := scatterBags (2 * count + 1) e n r.cmd (startCmd r.cmd s)
      match ((engStep s e n).bind fun x => x.scatters.find? fun y => y.cmd == r.cmd) with
      | none => s
      | some r =>
        if r.next < count ∧ r.stop.isNone then s
        else
          let s := updEngStep e n (fun x => { x with scatters := x.scatters.filter fun y => y.cmd != r.cmd }) s
          match r.stop, r.failed with
          | some st, _ => completeCmd r.cmd st r.next s
          | none, some (b, st) => completeCmd r.cmd st b s
          | none, none => completeCmd r.cmd .ok 0 s)

/-- An engine has merged a step, or its merge failed; MERGE commands that name it go on (R214). A failure that belongs to no MERGE
makes the module vote skip (R217). -/
def engineMerged (e : Fin 16) (n : BitVec 64) (st : Status) (s : State) : State :=
  let s := updEngStep e n (fun x => { x with merged := true }) s
  let mine (m : MergeCmd) : Bool := m.step == n && m.left.contains e
  let owned := s.rows.merges.any mine
  let next (m : MergeCmd) : MergeCmd :=
    { m with left := m.left.filter fun f => f != e, failed := m.failed.orElse fun _ => if fine st then none else some st }
  let ms := mapIf mine next s.rows.merges
  let s := { s with rows := { s.rows with merges := ms.filter fun m => !m.left.isEmpty } }
  let s := (ms.filter fun m => m.left.isEmpty).foldl (fun s m => completeCmd m.cmd (m.failed.getD .ok) 0 s) s
  if owned then s else stepFailure n 6 st s

/-- An engine is sealed for a step (R214). One that holds no key of the step merges at once. -/
def sealEngine (n : BitVec 64) (s : State) (e : Fin 16) : State :=
  match engStep s e n with
  | some x =>
    if x.sealed then s
    else
      let s := updEngStep e n (fun x => { x with sealed := true }) s
      if x.keys.isEmpty ∧ x.scatters.isEmpty then engineMerged e n .ok s else s
  | none => engineMerged e n .ok (updEngStep e n (fun x => { x with sealed := true }) s)

/-- Every engine that is not sealed is sealed, at the admission of the step's STEP_END (R214). -/
def sealAll (n : BitVec 64) (s : State) : State := (List.finRange 16).foldl (sealEngine n) s

/-- ENGINE_MASK of a MERGE or ROW_OPTIMISE, as engines. -/
def maskEngines (p : BitVec 1536) : List (Fin 16) := (List.finRange 16).filter fun e => bit p e.val

/-- A MERGE begins: it seals its engines (R214). -/
def startMerge (k : Cmd) (n : BitVec 64) (s : State) : State :=
  let es := maskEngines k.slot.pay
  let merged (e : Fin 16) : Bool := ((engStep s e n).map fun x => x.merged) == some true
  let m : MergeCmd := { cmd := k.id, step := n, left := es.filter fun e => !merged e, failed := none }
  let s := startCmd k.id s
  if m.left.isEmpty then completeCmd k.id .ok 0 s
  else es.foldl (sealEngine n) { s with rows := { s.rows with merges := s.rows.merges ++ [m] } }

/-- MERGE (R214). A MERGE that carries NO_STEP has no step to merge and is refused (DEDUCED). It begins, and seals, once its step lets it
(R29, R30); engines that have merged by then are done. -/
def mergeRule : OpRule :=
  { check := fun _ c s =>
      let step := slotStep s c
      let sealedOne := match step with
        | some n => (maskEngines c.pay).any fun e => ((engStep s e n).map fun x => x.sealed) == some true
        | none => true
      (s, checks [(fld c.pay 127 16 != 0, .malformed), stepRules s c, (sealedOne, .stateConflict), (fld c.pay 15 0 == 0, .okNoOp)])
    effect := fun k s => match k.step with
      | none => s
      | some n => if k.started || !mayBegin s k.slot k.step then s else startMerge k n s }

/-- MERGE (R214). -/
def execMerge (sq : Fin 64) (c : Slot) (s : State) : Host.Outcome State Fault Refusal := go (commandAtHead 0x29 mergeRule sq c s)

/-- A field of a key. -/
def keyF (k : SortKey) (hi lo : Nat) : Nat := fld k.word hi lo

/-- The sort key of R215: (TABLE, ROW, VARIANT, SOURCE, SEQ, POSITION). -/
def keyOrder (k : SortKey) : Nat :=
  ((((keyF k 43 32 * 2 ^ 32 + keyF k 31 0) * 2 ^ 8 + keyF k 199 192) * 2 ^ 15 + keyF k 58 44) * 2 ^ 16 + keyF k 127 112) * 2 ^ 32 + keyF k 159 128

/-- Whether two keys belong to one merged row (R215). -/
def sameRow (a b : SortKey) : Bool := keyF a 43 0 == keyF b 43 0 && keyF a 199 192 == keyF b 199 192

/-- Sorted keys cut into the runs of merged rows (R215). -/
def keyRuns : List SortKey → List (List SortKey)
  | [] => []
  | x :: rest => match keyRuns rest with
    | (y :: ys) :: more => if sameRow x y then (x :: y :: ys) :: more else [x] :: (y :: ys) :: more
    | more => [x] :: more

/-- The merged gradient of a run (R215). -/
def mergedGrad (d : Nat) (run : List (SortKey × List Byte)) : List (BitVec 32) :=
  run.foldl (fun g x =>
    let f := BitVec.ofNat 32 (keyF x.1 191 160)
    (g.zip (List.range d)).map fun y => fadd y.1 (fmul f (gradElem (keyF x.1 60 59) x.2 y.2))) (List.replicate d 0)

/-- What a merge has produced so far: entries, slots that NEW entries have taken, the sum of squares with its flag, the rows dropped,
and whether an entry found no room. -/
structure Merged where
  entries : List LogEntry
  taken   : List (Nat × Nat)
  norm    : BitVec 32
  nonfinite : Bool
  dropped : Nat
  full    : Bool
  deriving DecidableEq, Repr

/-- Where a run's row lies: an existing row, a slot to insert, or nowhere (R236, R237). -/
inductive RunSlot where
  | row (r : Nat)
  | new (r : Nat)
  | nowhere
  deriving DecidableEq, Repr

/-- The slot of a delta row in its bucket (R236, R237). -/
def runSlot (d : BitVec 512) (table variant base : Nat) (bucket : List Byte) (taken : List (Nat × Nat)) : RunSlot :=
  let first := deltaBucket d variant base
  match deltaWay bucket variant base with
  | some w => .row (first + w)
  | none =>
    match (List.range 8).find? fun w => !bit (BitVec.ofNat 64 (leNat (slice bucket (8 * w) 8))) 40 && !taken.contains (table, first + w) with
    | some w => .new (first + w)
    | none => .nowhere

/-- The table version and key plane to which a step's updates of a table apply (R226). -/
def stepTable (s : State) (n : BitVec 64) (table : Nat) : Option (TabVer × Nat) :=
  (findTable s table).map fun t => (checkedVersion s t (some n) 0, t.keyDva.getD 0)

/-- One run becomes an entry (R215 to R217, R237). `used` is what the log holds, `room` its size. -/
def mergeRun (s : State) (e : Fin 16) (n : BitVec 64) (used room : Nat) (m : Merged) (x : List (SortKey × List Byte) × List Byte) : Merged :=
  match x.1.head?, m.full with
  | some (k, _), false =>
    let table := keyF k 43 32
    match stepTable s n table with
    | none => m
    | some (v, key) =>
      let d := v.desc
      let base := keyF k 31 0
      let variant := keyF k 199 192
      match if tdDelta d then runSlot d table variant base x.2 m.taken else .row base with
      | .nowhere => { m with dropped := m.dropped + 1 }
      | slot =>
        let isNew := match slot with | .new _ => true | _ => false
        let row := match slot with | .new r => r | .row r => r | .nowhere => 0
        let g := mergedGrad (tdDim d) x.1
        let size := 32 + max (4 * tdDim d) (recSize d + resSize d + stateSize (optimOf s table) d)
        let held := used + (m.entries.map fun y => y.size).sum
        if held + size > room then { m with full := true }
        else
          let t2 := match xlatePeek (whoEngine e) (recAddr d row) s with | .ok y => y.tier == 2 | .error _ => false
          let hdr := BitVec.ofNat 256 (row + table * 2 ^ 32 + b2n t2 * 2 ^ 44 + b2n isNew * 2 ^ 45 + variant * 2 ^ 48 +
            (if tdDelta d then base else row) * 2 ^ 64 + v.version * 2 ^ 96 + n.toNat * 2 ^ 128)
          let y : LogEntry := { hdr := hdr, body := g.flatMap fun v => bytesOf 4 v, dva := 0, size := size, table := v, keyDva := key, unwritten := true }
          { m with
            entries := m.entries ++ [y], taken := if isNew then m.taken ++ [(table, row)] else m.taken,
            norm := g.foldl (fun acc v => ffma v v acc) m.norm, nonfinite := m.nonfinite || g.any nonFinite32 }
  | _, _ => m

/-- Places in a log region, one after the other from `pos`; an entry that would cross the end starts at the region's beginning. -/
def placeEntries (base room : Nat) : Nat → List LogEntry → List LogEntry × Nat
  | pos, [] => ([], pos)
  | pos, x :: xs =>
    let p := if pos + x.size > room then 0 else pos
    let r := placeEntries base room (p + x.size) xs
    ({ x with dva := (base + p) % 2 ^ 48 } :: r.1, r.2)

/-- Bytes that the entries of open steps occupy in an engine's update log. -/
def logUsed (g : Engine) : Nat := (g.steps.map fun x => (x.entries.map fun y => y.size).sum).sum

/-- The reads of a merged row: the bucket of a delta row (R236), and each key with its gradient vector. -/
def runReads (s : State) (n : BitVec 64) (run : List SortKey) : List IoOp :=
  let v := (run.head?.map fun k => keyF k 43 32).bind (stepTable s n)
  let d := (v.map fun x => x.1.desc).getD 0
  let key := (v.map fun x => x.2).getD 0
  let bucket := run.head?.map fun k => (key + 8 * deltaBucket d (keyF k 199 192) (keyF k 31 0)) % 2 ^ 48
  ioRead (bucket.getD 0) (if tdDelta d then 64 else 0) ::
    run.flatMap fun k => [ioRead k.dva 32, ioRead (keyF k 111 64) (gradBytes (keyF k 60 59) (tdDim d))]

/-- The runs with what has been read for them: each key's gradient vector, and the bucket. -/
def runData : List (List SortKey) → List Data → List (List (SortKey × List Byte) × List Byte)
  | [], _ => []
  | run :: rest, ds =>
    let grad (i : Nat) : List Byte := dataBytes (ds.getD (2 * i + 2) [])
    ((run.zip (List.range run.length)).map fun k => (k.1, grad k.2), dataBytes (ds.getD 0 [])) :: runData rest (ds.drop (2 * run.length + 1))

/-- The entries of a merge, as formed, are written into the update log (R217). -/
def writeMerged (e : Fin 16) (n : BitVec 64) (x : EngineStep) (full : Bool) (s : State) : State :=
  let w := ioMany .cmd (whoEngine e) (opKey kMerge (2 * n.toNat + 1)) (x.entries.map fun y => ioWrite y.dva (entryData y)) s
  match w.2 with
  | .wait => w.1
  | .fail st => engineMerged e n st w.1
  | .done _ =>
    let s := updEngStep e n (fun x => { x with entries := x.entries.map fun y => { y with unwritten := false } }) w.1
    let s := engCount e (fun c => { c with mergedRows := addSat c.mergedRows x.entries.length }) s
    engineMerged e n (if full then .bufferTooSmall else .ok) s

/-- The keys are merged: the entries of the step are formed from what has been read (R215 to R217). -/
def formEntries (e : Fin 16) (n : BitVec 64) (runs : List (List (SortKey × List Byte) × List Byte)) (s : State) : State :=
  let room := (s.rows.obj.logBytes[e]).toNat
  let base := (s.rows.obj.logDva[e]).toNat
  let start : Merged := { entries := [], taken := [], norm := 0, nonfinite := false, dropped := 0, full := false }
  let m := runs.foldl (mergeRun s e n (logUsed (getEng s e)) room) start
  let placed := placeEntries base room (getEng s e).logPos m.entries
  let s := updEng e (fun g => { g with logPos := placed.2 }) s
  let s := updEngStep e n (fun x => { x with entries := placed.1, formed := some m.full, norm := m.norm, nonfinite := m.nonfinite }) s
  engCount e (fun c => { c with deltaOverflow := addSat c.deltaOverflow m.dropped }) s

/-- A merge of a step goes on (R215 to R217): it reads the keys, the gradient vectors and the buckets, forms the entries and writes them. -/
def mergeStep (e : Fin 16) (n : BitVec 64) (x : EngineStep) (s : State) : State :=
  match x.formed with
  | some full => writeMerged e n x full s
  | none =>
    let runs := keyRuns (sortBy keyOrder x.keys)
    let r := ioMany .cmd (whoEngine e) (opKey kMerge (2 * n.toNat)) (runs.flatMap (runReads s n)) s
    match r.2 with
    | .wait => r.1
    | .fail st => engineMerged e n st r.1
    | .done ds =>
      if ds.any poisoned then engineMerged e n .dataPoison r.1
      else
        let s := formEntries e n (runData runs ds) r.1
        match engStep s e n with
        | some y => writeMerged e n y (y.formed == some true) s
        | none => s

/-- MERGE_COMPLETE (R215): the engine merges the oldest step for which it is sealed and all keys are written. -/
def execMergeComplete (e : Fin 16) (s : State) : Host.Outcome State Fault Refusal :=
  go (match (getEng s e).steps.find? fun x => x.sealed && !x.merged && x.scatters.isEmpty with
    | none => s
    | some x => mergeStep e x.step x s)

/-- The row part of a step's contribution, once every engine has merged (R216). -/
def rowPart (s : State) (n : BitVec 64) : Option NormTerm :=
  let xs := (List.finRange 16).map fun e => engStep s e n
  if xs.all fun x => (x.map fun y => y.merged) == some true then
    some { sumsq := (xs.map fun x => (x.map fun y => y.norm).getD 0).foldl (fun acc v => match acc with
             | none => some v
             | some a => some (fadd a v)) (none : Option (BitVec 32)) |>.getD 0,
           nonfinite := xs.any fun x => x.any fun y => y.nonfinite }
  else none

/-- An FP32 code that is finite and not negative. -/
def finiteNotNeg (x : BitVec 32) : Bool := match num32 x with | .fin s m _ => !s || m == 0 | _ => false

/-- Whether an OPTIM_SET breaks its encoding (R219). -/
def optimMalformed (o : BitVec 512) : Bool :=
  let adam := osOpt o == 3
  let beta (lo : Nat) : Bool := finiteNotNeg (osF32 o lo) && flt (osF32 o lo) one32
  let eps := osF32 o 192
  fld o 63 15 != 0 || fld o 127 112 != 0 || fld o 511 352 != 0 || osState o % 32 != 0 || (osOpt o == 0 && osState o != 0) ||
  !finiteNotNeg (osF32 o 128) || !finiteNotNeg (osF32 o 160) || !(eps == 0 || posFinite eps) ||
  (if adam then !beta 224 || !beta 256 else osF32 o 224 != 0 || osF32 o 256 != 0 || osT0 o != 0)

/-- OPTIM_SET (R219). -/
def optimSetRule : OpRule :=
  instantRule
    (fun c s => let o := setDesc c
      checks [(optimMalformed o, .malformed), (!tableDefined s (tdId o), .addressRange), (stepOpen s, .stateConflict), stepRules s c])
    (fun c s => updTable (tdId (setDesc c)) (fun t => { t with optim := some (setDesc c) }) s)

/-- OPTIM_SET (R219). -/
def execOptimSet (sq : Fin 64) (c : Slot) (s : State) : Host.Outcome State Fault Refusal := go (commandAtHead 0x2A optimSetRule sq c s)

/-- ROW_OPTIMISE (R222). One that carries NO_STEP has no log entries and is refused (DEDUCED). -/
def rowOptimiseRule : OpRule :=
  { check := fun _ c s => (s, checks [(fld c.pay 127 16 != 0 || slotEarly c, .malformed), stepRules s c, (slotNoStep c, .stateConflict)])
    effect := fun k s => match k.step with
      | none => s
      | some n =>
        let o : OptCmd := { cmd := k.id, step := n, mask := BitVec.ofNat 16 (fld k.slot.pay 15 0), found := false }
        { s with rows := { s.rows with optimises := s.rows.optimises ++ [o] } } }

/-- ROW_OPTIMISE (R222). -/
def execRowOptimise (sq : Fin 64) (c : Slot) (s : State) : Host.Outcome State Fault Refusal := go (commandAtHead 0x2B rowOptimiseRule sq c s)

/-- An engine's entry `i` of a step with those before it, nearest first. -/
def entryAt (x : EngineStep) (i : Nat) : Option (List LogEntry × LogEntry) := (x.entries[i]?).map fun y => ((x.entries.take i).reverse, y)

/-- The next entry that a ROW_OPTIMISE works on: T2 and VALUES both clear, or its new values not written yet; engines ascending, in log
order (R222). -/
def nextToOptimise (s : State) (n : BitVec 64) (mask : BitVec 16) : Option (Fin 16 × Nat) :=
  (List.finRange 16).findSome? fun e =>
    if bit mask e.val then
      (engStep s e n).bind fun x => (x.entries.findIdx? fun y => !leT2 y && (!leValues y || y.unwritten)).map fun i => (e, i)
    else none

/-- An engine's entry `i` of a step replaced. -/
def setEntry (e : Fin 16) (n : BitVec 64) (i : Nat) (y : LogEntry) (s : State) : State :=
  updEngStep e n (fun x => { x with entries := x.entries.set i y }) s

/-- One entry of the update log is optimised and written back to its log (R222), as far as nothing has to be waited for. -/
def optimiseOne (e : Fin 16) (n : BitVec 64) (i : Nat) (clip : BitVec 32) (before : List LogEntry) (y : LogEntry) (s : State) :
    State × EntryRes :=
  let o := if leValues y then (s, .ok y) else optimiseEntry e clip before y s
  match o.2 with
  | .ok z =>
    if z.unwritten then
      let w := storeEntry e z (setEntry e n i z o.1)
      match w.2 with
      | .ok v => (setEntry e n i v w.1, .ok v)
      | r => (w.1, r)
    else (o.1, .ok z)
  | r => (o.1, r)

/-- A ROW_OPTIMISE works through its entries, as far as nothing has to be waited for; it ends with `none`, a wait with `some ok`,
a failure with its status. -/
def optimiseAll : Nat → BitVec 64 → BitVec 16 → BitVec 32 → State → State × Option Status
  | 0, _, _, _, s => (s, some .ok)
  | k + 1, n, mask, clip, s =>
    match nextToOptimise s n mask with
    | none => (s, none)
    | some (e, i) => match (engStep s e n).bind fun x => entryAt x i with
      | none => (s, some .ok)
      | some (before, y) =>
        let r := optimiseOne e n i clip before y s
        match r.2 with
        | .wait => (r.1, some .ok)
        | .fail st => (r.1, some st)
        | .ok _ => optimiseAll k n mask clip r.1

/-- Entries of a step on all engines. -/
def entryCount (s : State) (n : BitVec 64) : Nat := ((List.finRange 16).map fun e => ((engStep s e n).map fun x => x.entries.length).getD 0).sum

/-- Whether a step earlier than `n` has not closed. -/
def earlierOpen (s : State) (n : BitVec 64) : Bool := s.train.steps.any fun p => decide (p.num.toNat < n.toNat) && p.state != .closed

/-- ROW_OPTIMISE_START (R222): the step has decided commit, and every earlier step has closed. -/
def execRowOptimiseStart (step : BitVec 64) (s : State) : Host.Outcome State Fault Refusal :=
  go (match s.rows.optimises.find? fun o => o.step == step, findStep s step with
    | some o, some p =>
      let held := match findCmd s o.cmd with | some c => !mayBegin s c.slot c.step | none => false
      if held || p.decision.isNone || p.state == .stOpen || p.state == .decidedSkip || p.state == .aborting || earlierOpen s step then s
      else
        let s := startCmd o.cmd s
        let found := o.found || (nextToOptimise s step o.mask).isSome
        let s := { s with rows := { s.rows with optimises := mapIf (fun x => x.cmd == o.cmd) (fun x => { x with found := found }) s.rows.optimises } }
        let r := optimiseAll (entryCount s step + 1) step o.mask (stepClip p) s
        let done (s : State) : State := { s with rows := { s.rows with optimises := s.rows.optimises.filter fun x => x.cmd != o.cmd } }
        match r.2 with
        | some .ok => r.1
        | some st => completeCmd o.cmd st 0 (done r.1)
        | none => completeCmd o.cmd (if found then .ok else .okNoOp) 0 (done r.1)
    | _, _ => s)

/-- An error within the local commit sequence (R27): the step will close TORN, with UNCORRECTABLE for poisoned data and INTERNAL
otherwise. -/
def commitError (n : BitVec 64) (st : Status) (s : State) : State :=
  updStep n (fun p => { p with torn := p.torn.orElse fun _ => some (if st = .uncorrectable then .uncorrectable else .internal) }) s

/-- The step that is in its local commit sequence, at item 2 (R39). -/
def applyingStep (s : State) : Option Step := s.train.steps.find? fun p => p.state == .committing && p.item == .item2 && p.torn.isNone

/-- ROW_APPLY_ENTRY (R224): the engine applies its next entry of the step in its commit sequence. -/
def execRowApplyEntry (e : Fin 16) (s : State) : Host.Outcome State Fault Refusal :=
  go (match applyingStep s with
    | none => s
    | some p => match engStep s e p.num with
      | none => s
      | some x => match entryAt x x.applied with
        | none => s
        | some (before, y) =>
          let o := optimiseOne e p.num x.applied (stepClip p) before y s
          match o.2 with
          | .wait => o.1
          | .fail st => commitError p.num st o.1
          | .ok y =>
            let r := applyNewRow e before.head? y o.1
            match r.2 with
            | .wait => r.1
            | .fail st => commitError p.num st r.1
            | .ok _ =>
              engCount e (fun c => { c with updateRows := addSat c.updateRows 1 })
                (updEngStep e p.num (fun x => { x with applied := x.applied + 1 }) r.1))

/-- Bytes of an entry in the deferred log (R228). -/
def deferSize (x : LogEntry) : Nat := 32 + 4 * tdDim x.table.desc

/-- Whether an entry goes to the deferred log: it rests in T2 and fits an empty log (R228). -/
def defers (s : State) (e : Fin 16) (x : LogEntry) : Bool := leT2 x && decide (deferSize x ≤ (s.rows.obj.deferBytes[e]).toNat)

/-- Bytes that an engine's deferred log holds. -/
def deferUsed (g : Engine) : Nat := (g.deferred.map deferSize).sum

/-- The distinct rows in the pending index (R228). -/
def pendingIndex (s : State) : List (Nat × Nat) :=
  ((List.finRange 16).flatMap fun e => (getEng s e).deferred.map fun x => (leTable x, leRow x)).eraseDups

/-- Whether the deferred log and the pending index have room for an entry (R228, R230). -/
def deferRoom (s : State) (e : Fin 16) (x : LogEntry) : Bool :=
  decide (deferUsed (getEng s e) + deferSize x ≤ (s.rows.obj.deferBytes[e]).toNat) &&
  (let ix := pendingIndex s; ix.contains (leTable x, leRow x) || decide (ix.length < 1048576))

/-- The first entry of a step on an engine that item 1 still has to move. -/
def nextToDefer (s : State) (e : Fin 16) (n : BitVec 64) : Option (Nat × LogEntry) :=
  (engStep s e n).bind fun x => (x.entries.findIdx? (defers s e)).bind fun i => x.entries[i]?.map fun y => (i, y)

/-- An entry moves into the deferred log (R228); a failing region ends the commit sequence (R244). -/
def deferEntry (e : Fin 16) (n : BitVec 64) (clip : BitVec 32) (i : Nat) (x : LogEntry) (s : State) : State × Bool :=
  let r := if ioBusy s (whoEngine e) (entryKey x 3) then (s, .done []) else ioMany .cmd (whoEngine e) (entryKey x 0) [ioRead x.dva (32 + x.body.length)] s
  match r.2 with
  | .wait => (r.1, false)
  | .fail st => (commitError n st r.1, false)
  | .done ds =>
    if ds.any poisoned then (commitError n .uncorrectable r.1, false)
    else
      let room := (s.rows.obj.deferBytes[e]).toNat
      let base := (s.rows.obj.deferDva[e]).toNat
      let y := { x with hdr := setFld x.hdr 223 192 clip.toNat, size := deferSize x }
      let placed := placeEntries base room (getEng s e).deferPos [y]
      let y := placed.1.headD y
      let w := ioMany .cmd (whoEngine e) (entryKey x 3) [ioWrite y.dva (entryData y)] r.1
      match w.2 with
      | .wait => (w.1, false)
      | .fail st => (commitError n st w.1, false)
      | .done _ =>
        let s := updEngStep e n (fun z => { z with entries := dropIdx z.entries i }) w.1
        let s := updEng e (fun g => { g with deferred := g.deferred ++ [y], deferPos := placed.2 }) s
        (engCount e (fun c => { c with deferEntries := addSat c.deferEntries 1 }) s, true)

/-- An engine moves its T2 entries while there is room. -/
def deferAll : Nat → Fin 16 → BitVec 64 → BitVec 32 → State → State
  | 0, _, _, _, s => s
  | k + 1, e, n, clip, s =>
    match nextToDefer s e n with
    | none => s
    | some (i, x) =>
      if deferRoom s e x then let r := deferEntry e n clip i x s; if r.2 then deferAll k e n clip r.1 else r.1
      else s

/-- Whether item 1 of step `n` waits for deferred entries of step n − DEFER_DELAY and earlier (R230). -/
def boundWaits (s : State) (n : BitVec 64) : Bool :=
  (List.finRange 16).any fun e => (getEng s e).deferred.any fun x => decide (leStep x + s.rows.obj.deferDelay.toNat ≤ n.toNat)

/-- Whether item 1 of step `n` waits for room (R230). -/
def roomWaits (s : State) (n : BitVec 64) : Bool :=
  (List.finRange 16).any fun e => match nextToDefer s e n with | some (_, x) => !deferRoom s e x | none => false

/-- Whether the local commit sequence of step `n` waits for an EXPORT: one tagged with it, or one that carries NO_STEP and was admitted
before the step, whose record is to hold the state before it (R242). -/
def exportWaits (s : State) (n : BitVec 64) : Bool := s.rows.exports.any fun x => x.step == some n || x.step.isNone

/-- A step that has to wait for a drain that has stopped cannot go on: its commit sequence fails with what stopped the drain (DEDUCED from
R27 and R285). A wait for the memory that a move needs is no such wait. -/
def drainLost (n : BitVec 64) (s : State) : State :=
  match s.rows.drainStopped with
  | some x => if roomWaits s n || boundWaits s n then commitError n x.st s else s
  | none => s

/-- Item 1 of the local commit sequence (R39, R228, R230): entries move as far as there is room; with nothing left to move or to wait
for, item 2 follows. -/
def commitItem1 (n : BitVec 64) (s : State) : State :=
  match findStep s n with
  | none => s
  | some p =>
    if exportWaits s n then s else
    let s := (List.finRange 16).foldl (fun s e => deferAll (entryCount s n + 1) e n (stepClip p) s) s
    let left := (List.finRange 16).any fun e => (nextToDefer s e n).isSome
    if left ∨ boundWaits s n then drainLost n s else updStep n (fun p => { p with item := .item2 }) s

/-- Whether every engine has applied every entry of a step (R225). -/
def allApplied (s : State) (n : BitVec 64) : Bool :=
  (List.finRange 16).all fun e => match engStep s e n with | some x => decide (x.applied ≥ x.entries.length) | none => true

/-- The order of a drain batch: record address, and for each row by step (R229). -/
def drainOrder (xs : List LogEntry) : List LogEntry := sortBy (fun x => recAddr x.table.desc (leRow x) * 2 ^ 64 + leStep x) xs

/-- Whether two entries are of one row. -/
def sameEntryRow (x y : LogEntry) : Bool := leTable x == leTable y && leRow x == leRow y

/-- Whether a drain on engine `e` may take an entry: no drain under way holds its row, and no other engine has an entry of the row of an
earlier step, so that each row's entries apply in step order (R229, R233). -/
def mayTake (s : State) (e : Fin 16) (x : LogEntry) : Bool :=
  !inBatch s (leTable x) (leRow x) &&
  (List.finRange 16).all fun f => f == e || !((getEng s f).deferred.any fun y => sameEntryRow x y && decide (leStep y < leStep x))

/-- An access cut at the boundaries of its windows: 4 KiB for T2 (R229, R290), 2 KiB otherwise; each part with its window's size. -/
def windowCuts (s : State) (e : Fin 16) : Nat → Nat → Nat → List (Nat × Nat × Nat)
  | 0, _, _ => []
  | k + 1, a, n =>
    if n = 0 then []
    else
      let g := match xlatePeek (whoEngine e) a s with | .ok t => if t.tier == 2 then 4096 else 2048 | .error _ => 2048
      let m := min n (g - a % g)
      (g, a, m) :: windowCuts s e k (a + m) (n - m)

/-- A part joins the window it lies in. -/
def addWindow (x : Nat × Nat × Nat) : List (Nat × Nat × Nat) → List (Nat × Nat × Nat)
  | [] => [x]
  | w :: ws =>
    if w.1 = x.1 ∧ w.2.1 / x.1 = x.2.1 / x.1 then
      let a := min w.2.1 x.2.1
      (x.1, a, max (w.2.1 + w.2.2) (x.2.1 + x.2.2) - a) :: ws
    else w :: addWindow x ws

/-- The reads of row data that serve entries together, grouped into windows (R229). A NEW row is not read (R237). -/
def drainWindows (s : State) (e : Fin 16) (xs : List LogEntry) : List (Nat × Nat) :=
  let rows := xs.flatMap fun x => if leNew x then [] else rowPlanes s x
  let parts := rows.flatMap fun p => windowCuts s e (p.2 / 2048 + 2) p.1 p.2
  (parts.foldl (fun ws x => addWindow x ws) []).map fun w => w.2

/-- The drain of engine `e` with a number. -/
def findDrain (s : State) (e : Fin 16) (n : Nat) : Option Drain := (getEng s e).drains.find? fun d => d.n == n

/-- A drain begins with the entries that it may take, if there are any. -/
def startDrain (e : Fin 16) (n : Nat) (xs : List LogEntry) (s : State) : State :=
  let ys := drainOrder (xs.filter (mayTake s e))
  if ys.isEmpty ∨ (findDrain s e n).isSome then s
  else updEng e (fun g => { g with drains := g.drains ++ [{ n := n, entries := ys, windows := drainWindows s e ys, read := false }] }) s

/-- The entries of a drain with their new values (R221, R229), from the row data in `m`: each row's entries follow one another, the next
beginning with the values of the one before. -/
def drainValues (e : Fin 16) : List LogEntry → List LogEntry → Mem → State → State × List LogEntry
  | _, [], _, s => (s, [])
  | before, x :: xs, m, s =>
    let planes := rowPlanes s x
    let o := optimiseRow e (leClip x) before x (planes.flatMap fun p => dataBytes (memRead m p.1 p.2)) s
    let sizes := planes.map fun p => p.2
    let put (m : Mem) (i : Nat) : Mem := memWrite m (planes.getD i (0, 0)).1 (clean (planeBytes sizes o.2 i))
    let r := drainValues e (x :: before) xs ((List.range 3).foldl put m) o.1
    (r.1, o.2 :: r.2)

/-- The entries of a drain that write their rows back: each row's last. -/
def lastOfRow : List LogEntry → List LogEntry
  | [] => []
  | x :: xs => if xs.any (sameEntryRow x) then lastOfRow xs else x :: lastOfRow xs

/-- Rows that a drain has written, one after another (R223, R225). -/
def drainWritten (e : Fin 16) : Option LogEntry → List LogEntry → State → State
  | _, [], s => s
  | prev, x :: xs, s => drainWritten e (some x) xs (rowWritten e prev x s)

/-- Rows without deferred entries are pending no longer: the probes that were held for them go on (R231). -/
def settleForwards (s : State) : State :=
  let settled (r : Nat × Nat) : Bool := (deferredOn s r.1 r.2).isEmpty
  let free (g : Engine) : Engine :=
    let gone := g.forwards.filter settled
    { g with
      forwards := g.forwards.filter fun r => !settled r,
      cores := g.cores.map fun c => { c with threads := c.threads.map fun t => t.map fun t => gone.foldl (fun t r => releaseHeld r.1 r.2 t) t } }
  (List.finRange 16).foldl (fun s e => updEng e free s) s

/-- The drain stops until the rows of these tables have been imported (R42, R229); the first status stands. -/
def stopDrain (st : Status) (ts : List Nat) (s : State) : State :=
  let before := s.rows.drainStopped
  { s with rows := { s.rows with
    drainStopped := some { tables := ((before.map fun x => x.tables).getD [] ++ ts).eraseDups, st := (before.map fun x => x.st).getD st } } }

/-- What a failing drain does: it stops (DESIGN CHOICE: the spec does not say what a failing drain does), and a step of the entries that
is in its commit sequence or publishes meets the failure (R285). -/
def drainFailed (d : Drain) (st : Status) (s : State) : State :=
  let s := stopDrain st (d.entries.map leTable) s
  let mine := s.train.steps.filter fun p => d.entries.any fun x => leStep x == p.num.toNat
  mine.foldl (fun s p => match p.state with
    | .committing => commitError p.num st s
    | .publishing => updStep p.num (fun p => { p with publishFail := p.publishFail.orElse fun _ => some st }) s
    | _ => s) s

/-- A drain changed by `f`. -/
def updDrain (e : Fin 16) (n : Nat) (f : Drain → Drain) (s : State) : State :=
  updEng e (fun g => { g with drains := mapIf (fun d => d.n == n) f g.drains }) s

/-- The operations of a drain that are told apart: its reads, and its writes. -/
def drainKey (n part : Nat) : Nat := opKey kDrain (2 * n + part)

/-- A drain reads its entries and their rows (R229); poisoned data give UNCORRECTABLE (R285). -/
def readDrain (e : Fin 16) (d : Drain) (s : State) : State × IoRes :=
  let ops := (d.windows.map fun w => (ioRead w.1 w.2).one) ++ d.entries.map fun x => ioRead x.dva (32 + x.body.length)
  let r := ioMany .cmd (whoEngine e) (drainKey d.n 0) ops s
  match r.2 with
  | .done ds =>
    if ds.any poisoned then (r.1, .fail .uncorrectable)
    else
      let m := (d.windows.zip ds).foldl (fun m x => memWrite m x.1.1 x.2) Mem.empty
      let v := drainValues e [] d.entries m r.1
      (updDrain e d.n (fun d => { d with entries := v.2, read := true }) v.1, .done [])
  | x => (r.1, x)

/-- A drain writes its rows back and through, and its entries are freed (R229). -/
def writeDrain (e : Fin 16) (d : Drain) (s : State) : State × IoRes :=
  let last := lastOfRow d.entries
  let r := ioMany .cmd (whoEngine e) (drainKey d.n 1) (last.flatMap (rowWrites s)) s
  match r.2 with
  | .done _ =>
    let s := drainWritten e none last r.1
    let s := engCount e (fun c => { c with deferApplied := addSat c.deferApplied d.entries.length }) s
    let free (g : Engine) : Engine :=
      { g with
        deferred := g.deferred.filter fun x => !(d.entries.any fun y => y.dva == x.dva), drains := g.drains.filter fun y => y.n != d.n }
    (settleForwards (updEng e free s), .done [])
  | x => (r.1, x)

/-- A drain goes on, as far as nothing has to be waited for; a failure stops the draining. -/
def runDrain (e : Fin 16) (n : Nat) (s : State) : State × IoRes :=
  match findDrain s e n with
  | none => (s, .done [])
  | some d =>
    let r := if d.read then (s, .done []) else readDrain e d s
    let w := match r.2, findDrain r.1 e n with
      | .done _, some d => writeDrain e d r.1
      | x, _ => (r.1, x)
    match w.2 with
    | .fail st => (drainFailed d st w.1, w.2)
    | _ => w

/-- Whether deferred logs drain (R229, R232, R382). -/
def drains (s : State) : Bool := s.rows.drainStopped.isNone && s.host.dev != .held && !s.host.heldDue

/-- DEFER_DRAIN_BATCH (R229): the drains under way on the engine go on, or the next batch of its oldest entries begins. -/
def execDeferDrainBatch (e : Fin 16) (s : State) : Host.Outcome State Fault Refusal :=
  go (if !drains s then s
    else
      let s := if (getEng s e).drains.isEmpty then startDrain e 0 ((getEng s e).deferred.take s.rows.obj.deferBatch.toNat) s else s
      (getEng s e).drains.foldl (fun s d => if drains s then (runDrain e d.n s).1 else s) s)

/-- DEFER_FORWARD (R231): the entries of a row that a probe met are applied at once, ahead of the batch. -/
def execDeferForward (e : Fin 16) (table : Fin 4096) (row : Nat) (s : State) : Host.Outcome State Fault Refusal :=
  let wanted := (List.finRange 16).any fun f => (getEng s f).forwards.contains (table.val, row)
  let n := 1 + 2 * (table.val + 4096 * row)
  go (if !drains s || !wanted then s
    else
      let s := startDrain e n ((getEng s e).deferred.filter fun x => leTable x == table.val && leRow x == row) s
      (runDrain e n s).1)

/-- Whether ROWS of a delta table is 8 × 2ⁿ (R235). -/
def deltaRowsOk (rows : Nat) : Bool := decide (rows % 8 = 0) && popcount 64 rows == 1

/-- DELTA_MAP (R235). -/
def deltaMapRule : OpRule :=
  instantRule
    (fun c s =>
      let p := c.pay
      let d := ((findTable s (fld p 11 0)).map fun t => t.cur.desc).getD 0
      checks [
        (fld p 63 12 != 0 || fld p 127 112 != 0 || fld p 255 128 != 0 || fld p 111 64 % 64 != 0, .malformed),
        (!tableDefined s (fld p 11 0) || !tdDelta d, .addressRange), stepRules s c, (!deltaRowsOk (tdRows d), .lengthRange),
        (stepOpen s, .stateConflict)])
    (fun c s => updTable (fld c.pay 11 0) (fun t => { t with keyDva := some (fld c.pay 111 64) }) s)

/-- DELTA_MAP (R235). -/
def execDeltaMap (sq : Fin 64) (c : Slot) (s : State) : Host.Outcome State Fault Refusal := go (commandAtHead 0x2C deltaMapRule sq c s)

/-- What the engines keep for a step goes with it, and its batch retires (R42, R178, R217). -/
def rowsCloseStep (n : BitVec 64) (s : State) : State :=
  let s := (List.finRange 16).foldl (fun s e => updEng e (fun g => { g with steps := g.steps.filter fun x => x.step != n }) s) s
  { s with rows := { s.rows with batches := s.rows.batches.filter fun b => b.step != some n } }

/-- Bytes of which nothing is known, by a key (log entry 3). -/
def freeData (key n : Nat) : Data := clean ((List.range n).map (Config.lostByte key))

/-- The log entries of a step with their engines: those of the update log, and those that item 1 has moved into the deferred log (R42). -/
def stepEntries (s : State) (n : BitVec 64) : List (Fin 16 × LogEntry) :=
  (List.finRange 16).flatMap fun e =>
    (((engStep s e n).map fun x => x.entries).getD [] ++ (getEng s e).deferred.filter fun x => leStep x == n.toNat).map fun y => (e, y)

/-- Where the rows and the log entries of a step lie in the module's own memories, as (address, length): codes, residual planes, optimiser
state, and the entries. -/
def tornPlaces (s : State) (n : BitVec 64) : List (Nat × Nat) :=
  (stepEntries s n).flatMap fun x => ((x.2.dva, x.2.size) :: rowPlanes s x.2).flatMap fun p => (pieces p.1 p.2).filterMap fun q =>
    match xlatePeek (whoEngine x.1) q.1 s with
    | .error _ => none
    | .ok t => if t.tier.val < 2 then some (t.pa, q.2) else none

/-- After TORN the rows of the step, their ember and staging copies and the log entries of the step are undefined (R42): they hold free
values. What is left of the step in the deferred log keeps the rows it is for, so that an import can discard it (R243). -/
def tearRows (n : BitVec 64) (s : State) : State :=
  let tearAt (s : State) (p : Nat × Nat) : State := { placeWrite p.1 (freeData s.free p.2) s with free := s.free + 1 }
  let tearCopies (s : State) (x : Fin 16 × LogEntry) : State :=
    let d := x.2.table.desc
    let one (m : Mem) : Mem := (copiesIn s m (leTable x.2) (leRow x.2) x.2.table.version).foldl
      (fun m off => memWrite m off (freeData s.free (recSize d))) m
    { s with free := s.free + 1, mem := { s.mem with rowStore := s.mem.rowStore.map one } }
  let tearBody (k : Nat) (x : LogEntry) : LogEntry :=
    if leStep x = n.toNat then { x with body := dataBytes (freeData (k + x.dva) x.body.length) } else x
  let s' := (stepEntries s n).foldl tearCopies ((tornPlaces s n).foldl tearAt s)
  let s' := (List.finRange 16).foldl (fun t e => updEng e (fun g => { g with deferred := g.deferred.map (tearBody t.free) }) t) s'
  { s' with free := s'.free + 1 }

/-- The tables whose rows a TORN step leaves undefined: those that an import has to restore (R43, R229). -/
def tornTables (s : State) (n : BitVec 64) : List Nat := ((stepEntries s n).map fun x => leTable x.2).eraseDups

/-- The accesses of a drain are given up. -/
def forgetDrain (e : Fin 16) (s : State) (d : Drain) : State :=
  ioForget (whoEngine e) (drainKey d.n 1) (ioForget (whoEngine e) (drainKey d.n 0) s)

/-- While HELD the drain stops (R232, R382): what it has not read it will read again, and rows that it was writing it will write again. -/
def haltDrains (s : State) : State :=
  (List.finRange 16).foldl (fun s e =>
    updEng e (fun g => { g with drains := g.drains.filter fun d => d.read }) ((getEng s e).drains.foldl (forgetDrain e) s)) s

/-- Deferred entries that `keep` does not keep are discarded on every engine, from the drains under way too. -/
def dropDeferred (keep : LogEntry → Bool) (s : State) : State :=
  let one (s : State) (e : Fin 16) : State :=
    let hit := (getEng s e).drains.filter fun d => !d.entries.all keep
    let s := hit.foldl (forgetDrain e) s
    let cut (d : Drain) : Drain := { d with entries := d.entries.filter keep }
    updEng e (fun g => { g with
      deferred := g.deferred.filter keep, drains := (g.drains.map cut).filter fun d => !d.entries.isEmpty }) s
  settleForwards ((List.finRange 16).foldl one s)

/-- Every deferred entry is discarded (R232); how many there were. -/
def discardDeferred (s : State) : State :=
  let n := ((List.finRange 16).map fun e => (getEng s e).deferred.length).sum
  updRowObj (fun o => { o with deferLost := addSat o.deferLost n }) (dropDeferred (fun _ => false) s)

/-- The update-log and deferred entries of a table are discarded on every engine (R233, R243). -/
def discardTable (table : Nat) (s : State) : State :=
  let keep (x : LogEntry) : Bool := leTable x != table
  let clear (g : Engine) : Engine := { g with steps := g.steps.map fun x => { x with entries := x.entries.filter keep } }
  (List.finRange 16).foldl (fun s e => updEng e clear s) (dropDeferred keep s)

/-- The import of a table restarts a drain that stopped, once no affected table is left (R229). -/
def restartDrain (table : Nat) (s : State) : State :=
  let left (x : DrainStop) : Option DrainStop :=
    let ts := x.tables.filter fun t => t != table
    if ts.isEmpty then none else some { x with tables := ts }
  { s with rows := { s.rows with drainStopped := s.rows.drainStopped.bind left } }

end Sys2Proof.Machine
end

