-- ==== Sys2Proof/Machine/Records.lean ====
section
/-!
DEFINITION. Export and import of records (06: R240 to R243).
-/
namespace Sys2Proof.Machine

/-- KIND of an EXPORT or IMPORT is DENSE. -/
def xDense (p : BitVec 1536) : Bool := fld p 1 0 == 1
/-- TABLE_ID. -/
def xTable (p : BitVec 1536) : Nat := fld p 27 16
/-- FIRST of an EXPORT. -/
def xFirst (p : BitVec 1536) : Nat := fld p 63 32
/-- COUNT of an EXPORT. -/
def xCount (p : BitVec 1536) : Nat := fld p 95 64
/-- DENSE_BYTES. -/
def xBytes (p : BitVec 1536) : Nat := fld p 159 128

/-- The live copy of a shard entry, as a tile offset (R112). -/
def liveCopy (x : Shard) : Nat := if x.sel then x.b.toNat else x.a.toNat

/-- The shard entry that a tile and an entry number name. -/
def shardOf (s : State) (tile entry : Nat) : Shard := (getTile s (fin tile)).shards[(fin entry : Fin 64)]

/-- Record, residual row and state row sizes of a table (R240). -/
def rowSizes (s : State) (t : TabVer) : Nat × Nat × Nat :=
  (recSize t.desc, resSize t.desc, stateSize (optimOf s (tdId t.desc)) t.desc)

/-- Payload bytes of an EXPORT (R240). -/
def exportBytes (s : State) (p : BitVec 1536) : Nat :=
  if xDense p then xBytes p
  else match findTable s (xTable p) with
    | some t => let z := rowSizes s t.cur; xCount p * (z.1 + z.2.1 + z.2.2)
    | none => 0

/-- EXPORT (R240, R242). -/
def exportRule : OpRule :=
  { check := fun _ c s =>
      let p := c.pay
      let dense := xDense p
      let sh := shardOf s (fld p 102 96) (fld p 109 104)
      let rows := ((findTable s (xTable p)).map fun t => tdRows t.cur.desc).getD 0
      (s, checks [
        (decide (fld p 1 0 ≥ 2) || fld p 15 2 != 0 || fld p 31 28 != 0 || bit p 103 || fld p 127 110 != 0 || fld p 191 176 != 0 ||
          fld p 255 224 != 0 || fld p 319 304 != 0 || fld p 511 384 != 0 || (dense && xTable p != 0) ||
          (dense && xBytes p % 64 != 0) || fld p 303 256 % 64 != 0, .malformed),
        (if dense then fenced s (fld p 102 96) || !sh.defined || decide (liveCopy sh + xBytes p > tmemSize)
          else !tableDefined s (xTable p) || decide (xFirst p + xCount p > rows), .addressRange),
        stepRules s c, (slotNoStep c && stepOpen s, .stateConflict),
        ((if dense then xBytes p else xCount p) == 0, .okNoOp),
        (decide (128 + exportBytes s p > fld p 383 320), .bufferTooSmall)])
    effect := fun k s =>
      let x : ExportRun :=
        { cmd := k.id, slot := k.slot, step := k.step,
          table := if xDense k.slot.pay then none else (findTable s (xTable k.slot.pay)).map fun t => t.cur, data := none, written := false }
      { s with rows := { s.rows with exports := s.rows.exports ++ [x] } } }

/-- EXPORT (R240). -/
def execExportCmd (sq : Fin 64) (c : Slot) (s : State) : Host.Outcome State Fault Refusal := go (commandAtHead 0x30 exportRule sq c s)

/-- The 128-byte header of a record, COMMITTED being 0 (R241). -/
def exportHeader (s : State) (x : ExportRun) (payload : List Byte) : List Byte :=
  let p := x.slot.pay
  let body := match x.table with
    | some t =>
      let d := t.desc
      let o := optimOf s (tdId d)
      let z := rowSizes s t
      leBytes 8 (tableRow d (xFirst p)) ++ leBytes 4 (tdRowStep d) ++ leBytes 4 (xCount p) ++
        leBytes 4 (tdId d + tdType d * 2 ^ 16 + fld d 37 32 * 2 ^ 18 + osOpt o * 2 ^ 24 + b2n (osNarrow o) * 2 ^ 26) ++ leBytes 4 0 ++
        leBytes 4 z.1 ++ leBytes 4 z.2.1 ++ leBytes 4 z.2.2 ++ leBytes 4 0
    | none =>
      leBytes 8 (fld p 223 192) ++ leBytes 4 0 ++ leBytes 4 0 ++ leBytes 4 0 ++ leBytes 4 (fld p 175 160) ++
        leBytes 16 0
  let kind := if x.table.isSome then 0 else 1
  let front := leBytes 4 0x45585348 ++ leBytes 2 1 ++ leBytes 2 kind ++ bytesOf 8 s.train.lastCommitted ++ body ++
    leBytes 8 payload.length ++ sha256 payload
  front ++ bytesOf 4 (crc32c front) ++ leBytes 28 0

/-- The reads that give a record's payload (R241): all records, all residual rows, all state rows; or the live copy. -/
def exportReads (s : State) (x : ExportRun) : List IoOp :=
  let p := x.slot.pay
  match x.table with
  | some t =>
    let z := rowSizes s t
    let o := optimOf s (tdId t.desc)
    let f := xFirst p
    let n := xCount p
    [ioRead (recAddr t.desc f) (n * z.1), ioRead (resAddr t.desc f) (n * z.2.1), ioRead (stateAddr o t.desc f) (n * z.2.2)]
  | none => []

/-- The deferred entries of a table on engine `e` are drained for an export (R242), as far as nothing has to be waited for. -/
def drainTable (cmd table : Nat) (acc : State × Option Status) (e : Fin 16) : State × Option Status :=
  match acc.2 with
  | some _ => acc
  | none =>
    let s := startDrain e (2 + 2 * cmd) ((getEng acc.1 e).deferred.filter fun x => leTable x == table) acc.1
    let r := runDrain e (2 + 2 * cmd) s
    (r.1, match r.2 with | .fail st => some st | _ => none)

/-- An export ends. -/
def endExport (cmd : Nat) (st : Status) (s : State) : State :=
  completeCmd cmd st 0 { s with rows := { s.rows with exports := s.rows.exports.filter fun x => x.cmd != cmd } }

/-- The keys that tell an export's reads, its writes and its last write apart, and an import's writes. -/
def exportKey (cmd part : Nat) : Nat := opKey kCmd (4 * cmd + part)

/-- An export changed by `f`. -/
def updExport (cmd : Nat) (f : ExportRun → ExportRun) (s : State) : State :=
  { s with rows := { s.rows with exports := mapIf (fun y => y.cmd == cmd) f s.rows.exports } }

/-- An export's payload and header are written (R241). -/
def writeExport (x : ExportRun) (d : Data) (s : State) : State :=
  let dest := fld x.slot.pay 303 256
  let w := ioMany .cmd whoFront (exportKey x.cmd 1) [ioWrite ((dest + 128) % 2 ^ 48) d, ioWrite dest (clean (exportHeader s x (dataBytes d)))] s
  match w.2 with
  | .wait => w.1
  | .fail st => endExport x.cmd st w.1
  | .done _ => updExport x.cmd (fun y => { y with written := true }) w.1

/-- An export captures its shard (R241, R242): the rows, or the live copy. -/
def captureExport (x : ExportRun) (s : State) : State × IoRes :=
  match x.table with
  | some _ => ioMany .cmd whoFront (exportKey x.cmd 0) (exportReads s x) s
  | none =>
    let tile := fld x.slot.pay 102 96
    (s, .done [memRead (getTile s (fin tile)).mem (liveCopy (shardOf s tile (fld x.slot.pay 109 104))) (xBytes x.slot.pay)])

/-- EXPORT_CAPTURE (R241, R242): with every earlier step closed and the table's deferred entries drained, payload and header are
written. -/
def execExportCapture (cmd : Nat) (s : State) : Host.Outcome State Fault Refusal :=
  go (match s.rows.exports.find? fun x => x.cmd == cmd && !x.written with
    | none => s
    | some x =>
      let waits := match x.step with | some n => earlierOpen s n | none => false
      if waits || !mayBegin s x.slot x.step then s
      else
        let s := startCmd cmd s
        match x.data with
        | some d => writeExport x d s
        | none =>
          let table := x.table.map fun t => tdId t.desc
          let has (s : State) : Bool := match table with
            | some t => (List.finRange 16).any fun e => (getEng s e).deferred.any fun y => leTable y == t
            | none => false
          let r := if has s ∧ drains s then (List.finRange 16).foldl (drainTable cmd (table.getD 0)) (s, none) else (s, none)
          match r.2 with
          | some st => endExport cmd st r.1
          | none =>
            if has r.1 then r.1
            else
              let c := captureExport x r.1
              match c.2 with
              | .wait => c.1
              | .fail st => endExport cmd st c.1
              | .done ds =>
                if ds.any poisoned then endExport cmd .uncorrectable c.1
                else writeExport x ds.flatten (updExport cmd (fun y => { y with data := some ds.flatten }) c.1))

/-- EXPORT_COMMIT (R241): the byte that holds COMMITTED is written as 1, and the EXPORT completes. -/
def execExportCommit (cmd : Nat) (s : State) : Host.Outcome State Fault Refusal :=
  go (match s.rows.exports.find? fun x => x.cmd == cmd && x.written with
    | none => s
    | some x =>
      let w := ioMany .cmd whoFront (exportKey cmd 2) [ioWrite ((fld x.slot.pay 303 256 + 100) % 2 ^ 48) (clean [1])] s
      match w.2 with
      | .wait => w.1
      | .fail st => endExport cmd st w.1
      | .done _ => endExport cmd .ok w.1)

/-- A field of a record header. -/
def hdrF (h : List Byte) (hi lo : Nat) : Nat := fld (BitVec.ofNat 1024 (leNat h)) hi lo

/-- Whether a record header is wrong for an IMPORT (R243, item 2). -/
def importBad (s : State) (p : BitVec 1536) (h : List Byte) : Bool :=
  let t := findTable s (xTable p)
  let d := (t.map fun t => t.cur.desc).getD 0
  let o := optimOf s (xTable p)
  hdrF h 31 0 != 0x45585348 || hdrF h 47 32 != 1 || hdrF h 49 48 != fld p 1 0 || hdrF h 799 768 != (crc32c (h.take 96)).toNat ||
  hdrF h 800 800 != 1 ||
  (!xDense p && tableDefined s (xTable p) &&
    (hdrF h 273 272 != tdType d || hdrF h 279 274 != fld d 37 32 || hdrF h 281 280 != osOpt o || hdrF h 282 282 != b2n (osNarrow o)))

/-- Whether an IMPORT payload breaks its encoding (R243). -/
def importReserved (p : BitVec 1536) : Bool :=
  decide (fld p 1 0 ≥ 2) || fld p 15 4 != 0 || fld p 31 28 != 0 || bit p 39 || fld p 63 46 != 0 || fld p 127 112 != 0 || fld p 511 192 != 0

/-- Why an IMPORT's target fails, once the record is verified (R243, items 3 to 5), if it does. -/
def importTarget (s : State) (p : BitVec 1536) (h : List Byte) : Adm :=
  let bytes := hdrF h 511 448
  let sh := shardOf s (fld p 38 32) (fld p 45 40)
  let d := ((findTable s (xTable p)).map fun t => t.cur.desc).getD 0
  checks [
    (if xDense p then fenced s (fld p 38 32) || !sh.defined || decide (liveCopy sh + bytes > tmemSize) else !tableDefined s (xTable p), .addressRange),
    (!xDense p && tdReplica d, .accessDenied), (decide (128 + bytes > fld p 191 128), .lengthRange)]

/-- The checks of an IMPORT (R243), with the reads of header and payload; the record goes on to the effect. -/
def importCheck (q : Fin 64) (c : Slot) (s : State) : State × Adm :=
  let p := c.pay
  if stepOpen s || !slotNoStep c then (s, .refuse .stateConflict 0)
  else if importReserved p then (s, .refuse .malformed 0)
  else
    let r := ioReadOne .cmd whoFront (opKey kCheck q.val) (fld p 111 64) 128 s
    match r.2 with
    | .wait => (r.1, .wait)
    | .fail st => (r.1, .refuse st 0)
    | .done _ =>
      let h := dataBytes r.2.data
      if poisoned r.2.data then (r.1, .refuse .dataPoison 0)
      else if importBad s p h then (r.1, .refuse .malformed 0)
      else
        let b := ioReadOne .cmd whoFront (opKey kCheck (64 + q.val)) ((fld p 111 64 + 128) % 2 ^ 48) (hdrF h 511 448) r.1
        match b.2 with
        | .wait => (b.1, .wait)
        | .fail st => (b.1, .refuse st 0)
        | .done _ =>
          let d := dataBytes b.2.data
          if poisoned b.2.data then (b.1, .refuse .dataPoison 0)
          else if sha256 d ≠ slice h 64 32 then (b.1, .refuse .malformed 0)
          else match importTarget s p h with
            | .accept => (b.1, .admitWith ((h ++ d).map fun b => b.toNat))
            | x => (b.1, x)

/-- The local row of the target that row `i` of a record is for (R243), if any. -/
def importTo (t : TabVer) (h : List Byte) (i : Nat) : Option Nat :=
  let n := hdrF h 191 128 + i * hdrF h 223 192
  let base := tdRowBase t.desc
  let step := tdRowStep t.desc
  let r := (n - base) / step
  if n < base ∨ (n - base) % step ≠ 0 ∨ r ≥ tdRows t.desc then none else some r

/-- The writes of row `i` of a record into local row `r`: record, residual row and state row. -/
def importWrites (s : State) (t : TabVer) (h d : List Byte) (i r : Nat) : List (Nat × List Byte) :=
  let z := rowSizes s t
  let count := hdrF h 255 224
  let o := optimOf s (tdId t.desc)
  [(recAddr t.desc r, slice d (i * z.1) z.1), (resAddr t.desc r, slice d (count * z.1 + i * z.2.1) z.2.1),
   (stateAddr o t.desc r, slice d (count * (z.1 + z.2.1) + i * z.2.2) z.2.2)]

/-- The rows of a ROWS import are written, one after another (R243): how far it has come, and how it ended, if it has. -/
def importRows (t : TabVer) (h d : List Byte) : Nat → ImportRun → State → State × ImportRun × Option Status
  | 0, m, s => (s, m, some .ok)
  | k + 1, m, s =>
    if m.row ≥ hdrF h 255 224 then (s, m, some .ok)
    else match importTo t h m.row with
      | none => importRows t h d k { m with row := m.row + 1 } s
      | some r =>
        let ws := importWrites s t h d m.row r
        let w := ioMany .cmd whoFront (exportKey m.cmd 3) ((ws.filter fun x => !x.2.isEmpty).map fun x => ioWrite x.1 (clean x.2)) s
        match w.2 with
        | .wait => (w.1, m, none)
        | .fail st => (w.1, m, some st)
        | .done _ =>
          let s := writeThrough (tdId t.desc) r t.version (clean ((ws.headD (0, [])).2)) w.1
          importRows t h d k { m with row := m.row + 1, written := m.written + 1 } s

/-- The progress of an import kept, or forgotten once it has ended. -/
def keepImport (m : ImportRun) (on : Bool) (s : State) : State :=
  let rest := s.rows.imports.filter fun x => x.cmd != m.cmd
  { s with rows := { s.rows with imports := if on then rest ++ [m] else rest } }

/-- A ROWS import begins: the entries of the table are discarded, and a drain that has stopped for it goes on (R229, R233, R243). -/
def beginImport (cmd table : Nat) (s : State) : State × ImportRun :=
  match s.rows.imports.find? fun x => x.cmd == cmd with
  | some m => (s, m)
  | none => (restartDrain table (discardTable table s), { cmd := cmd, row := 0, written := 0 })

/-- LAST_COMMITTED_STEP and RESTORE_REQUIRED after a record has been imported (R243). -/
def importDone (p : BitVec 1536) (h : List Byte) (s : State) : State :=
  let s := if bit p 2 then { s with train := { s.train with lastCommitted := BitVec.ofNat 64 (hdrF h 127 64) } } else s
  if bit p 3 then updRowObj (fun o => { o with restoreRequired := false }) s else s

/-- What an IMPORT does with a verified record (R243): `none` while it waits for a write. -/
def importEffect (k : Cmd) (s : State) : State × Option (Status × Nat) :=
  let p := k.slot.pay
  let bs := k.info.map fun x => BitVec.ofNat 8 x
  let h := bs.take 128
  let d := bs.drop 128
  if xDense p then
    let t : Fin 128 := fin (fld p 38 32)
    let s := updTile t (fun x => { x with mem := memWrite x.mem (liveCopy (shardOf s (fld p 38 32) (fld p 45 40))) (clean d) }) s
    (importDone p h s, some (.ok, 0))
  else match findTable s (xTable p) with
    | none => (importDone p h s, some (.ok, 0))
    | some t =>
      let b := beginImport k.id t.id s
      let r := importRows t.cur h d (hdrF h 255 224 + 1) b.2 b.1
      match r.2.2 with
      | none => (keepImport r.2.1 true r.1, none)
      | some st =>
        let s := keepImport r.2.1 false r.1
        (if fine st then importDone p h s else s, some (st, r.2.1.written))

/-- IMPORT. -/
def importRule : OpRule := { check := importCheck, effect := runAtOnce importEffect }

/-- IMPORT (R243). -/
def execImportCmd (sq : Fin 64) (c : Slot) (s : State) : Host.Outcome State Fault Refusal := go (commandAtHead 0x31 importRule sq c s)

end Sys2Proof.Machine
end

