-- ==== Sys2Proof/Machine/Sequencer.lean ====
section
/-!
DEFINITION. Tile programs and the sequencer (03: R105 to R112): TILE_RUN, program start and stop, re-execution of early
optimisers (01: R36) and the sequencer's instructions.
-/
namespace Sys2Proof.Machine

/-- TILE_MASK of a TILE_RUN payload (R105). -/
def runMask (p : BitVec 1536) : Nat := fld p 127 0
/-- ENTRY. -/
def runEntry (p : BitVec 1536) : Nat := fld p 152 128
/-- ARGS element k. -/
def runArg (p : BitVec 1536) (k : Nat) : BitVec 64 := BitVec.ofNat 64 (fld p (64 * k + 255) (64 * k + 192))

/-- The tiles of a mask, ascending. -/
def tilesOf (mask : Nat) : List (Fin 128) := (List.finRange 128).filter fun t => mask.testBit t.val

/-- Admission of a TILE_RUN (R106): the checks, and the wait for room in every queue. -/
def tileRunCheck (_ : Fin 64) (c : Slot) (s : State) : State × Adm :=
  let p := c.pay
  let d := checks [
    (fld p 191 153 != 0 || fld p 767 704 != 0 || runEntry p % 4 != 0, .malformed),
    (decide (runEntry p ≥ tmemSize) || runMask p &&& s.dict.keep.tilesFenced.toNat != 0, .addressRange),
    stepRules s c, (runMask p == 0, .okNoOp)]
  (s, if d = .accept ∧ (tilesOf (runMask p)).any (fun t => decide ((getTile s t).progs.length ≥ 8)) then .wait else d)

/-- A TILE_RUN is admitted into the queue of every tile of its mask (R106). -/
def tileRunAdmit (k : Cmd) (s : State) : State :=
  let ts := tilesOf (runMask k.slot.pay)
  let p : Prog := { cmd := k.id, slot := k.slot, step := k.step, redo := false }
  let s := ts.foldl (fun s t => updTile t (fun x => { x with progs := x.progs ++ [p] }) s) s
  { s with tile := { s.tile with cmds := s.tile.cmds ++ [{ cmd := k.id, left := ts, failed := none }] } }

/-- TILE_RUN. -/
def tileRunRule : OpRule := { check := tileRunCheck, effect := tileRunAdmit }

/-- TILE_RUN (R106). -/
def execTileRun (sq : Fin 64) (c : Slot) (s : State) : Host.Outcome State Fault Refusal := go (commandAtHead 0x10 tileRunRule sq c s)

/-- Tile `t` starts a program (R108): the counter at ENTRY, g1 to g31 at 0, an empty instruction buffer. -/
def beginRun (p : Prog) (x : Tile) : Tile :=
  { x with
    g := .replicate 32 0, ibuf := [],
    run := some { prog := p, pc := runEntry p.slot.pay, phase := slotPhase p.slot, cycles := 0, ready := .replicate 32 0,
                  wait := .none, stopping := none, failed := false, stored := [] } }

/-- The first early command of an open step in DECIDED_COMMIT that must run again on tile `t` (R36). -/
def redoFor (s : State) (t : Fin 128) : Option (Step × EarlyRun) :=
  s.train.steps.findSome? fun p =>
    if p.state = .decidedCommit then (p.earlies.find? fun e => e.redo.contains t).map fun e => (p, e) else none

/-- TILE_PROGRAM_START (R106): the program at the head of a tile's queue starts, unless it is held or a re-execution comes
first (R29, R30, R36). -/
def execTileProgramStart (t : Fin 128) (s : State) : Host.Outcome State Fault Refusal :=
  let x := getTile s t
  go (match x.progs, x.run with
    | p :: _, none =>
      let begun := match findCmd s p.cmd with | some c => c.started | none => false
      if (redoFor s t).isSome || !(begun || mayBegin s p.slot p.step) then s
      else
        let early := startsEarly s p.slot p.step
        let s' := startCmd p.cmd (updTile t (beginRun p) s)
        match findCmd s p.cmd with
        | some c => if early then noteEarly c [t] s' else s'
        | none => s'
    | _, _ => s)

/-- EARLY_REDO (R36): a re-execution starts on a tile that runs nothing, under phase OPTIMISE. It is counted once per
command. -/
def execEarlyRedo (t : Fin 128) (s : State) : Host.Outcome State Fault Refusal :=
  go (match (getTile s t).run, redoFor s t with
    | none, some (p, e) =>
      let prog : Prog := { cmd := e.cmd, slot := e.slot, step := some p.num, redo := true }
      let next (e : EarlyRun) : EarlyRun := { e with redo := e.redo.filter fun u => u ≠ t, running := e.running ++ [t], counted := true }
      let s := updStep p.num (fun p => { p with earlies := mapIf (fun x => x.cmd == e.cmd) next p.earlies }) (updTile t (beginRun prog) s)
      if e.counted then s else { s with train := { s.train with earlyRedo := addSat s.train.earlyRedo 1 } }
    | _, _ => s)

/-- Whether every unit of a tile is idle (R110). -/
def unitsIdle (s : State) (t : Fin 128) : Bool := arrayIdle s t && vectorIdle (getTile s t) && moverIdle (getTile s t)

/-- Tile `t` of a TILE_RUN has stopped; with the last tile the command completes (R107). -/
def tileDone (t : Fin 128) (cmd : Nat) (st : Status) (s : State) : State :=
  let note (c : TileCmd) : TileCmd :=
    let failed := if fine st then c.failed else match c.failed with
      | some (u, x) => if t.val < u then some (t.val, st) else some (u, x)
      | none => some (t.val, st)
    { c with left := c.left.filter fun u => u ≠ t, failed := failed }
  let cmds := mapIf (fun c => c.cmd == cmd) note s.tile.cmds
  let s := { s with tile := { s.tile with cmds := cmds.filter fun c => !(c.cmd == cmd && c.left.isEmpty) } }
  match cmds.find? fun c => c.cmd == cmd && c.left.isEmpty with
  | none => s
  | some c => match c.failed with
    | none => completeCmd cmd .ok 0 s
    | some (u, x) => completeCmd cmd x u s

/-- A re-execution has stopped on tile `t`; its failure counts as that of a command of the step (R36, R46). -/
def redoDone (t : Fin 128) (p : Prog) (st : Status) (s : State) : State :=
  match p.step with
  | none => s
  | some n =>
    let s := updStep n (fun q => { q with earlies := mapIf (fun e => e.cmd == p.cmd) (fun e => { e with running := e.running.filter fun u => u ≠ t }) q.earlies }) s
    stepFailure n 9 st s

/-- TILE_PROGRAM_STOP (R107, R110, R118): the program has ended and every unit is idle. -/
def execTileProgramStop (t : Fin 128) (s : State) : Host.Outcome State Fault Refusal :=
  go (match (getTile s t).run with
    | none => s
    | some r => match r.stopping with
      | none => s
      | some st =>
        if !unitsIdle s t then s
        else
          let quit (x : Tile) : Tile :=
            { x with
              run := none, progs := if r.prog.redo then x.progs else x.progs.tail,
              mover := { x.mover with ahead := [], fetches := x.mover.fetches.map fun f => { f with keep := false } },
              counters := { x.counters with tileFault := addSat x.counters.tileFault (b2n (st == .internal)) } }
          let s := updTile t quit s
          if r.prog.redo then redoDone t r.prog st s else tileDone t r.prog.cmd st s)

/-- OP of an instruction word (R109). -/
def iOp (w : BitVec 32) : Nat := fld w 31 26
/-- GD. -/
def iGd (w : BitVec 32) : Fin 32 := fin (fld w 25 21)
/-- GA. -/
def iGa (w : BitVec 32) : Fin 32 := fin (fld w 20 16)
/-- GB. -/
def iGb (w : BitVec 32) : Fin 32 := fin (fld w 15 11)
/-- IMM. -/
def iImm (w : BitVec 32) : BitVec 16 := BitVec.ofNat 16 (fld w 15 0)

/-- The running program of tile `t` changed by `f`. -/
def updRun (t : Fin 128) (f : Run → Run) (s : State) : State := updTile t (fun x => { x with run := x.run.map f }) s

/-- A scalar register; g0 reads as 0 (R108). -/
def gReg (x : Tile) (g : Fin 32) : BitVec 64 := if g = 0 then 0 else x.g[g]

/-- A scalar register is written; writes to g0 are ignored (R108). -/
def setG (t : Fin 128) (g : Fin 32) (v : BitVec 64) (s : State) : State :=
  if g = 0 then s else updTile t (fun x => { x with g := x.g.set g v }) s

/-- The program goes on with the next instruction. -/
def seqNext (t : Fin 128) (s : State) : State := updRun t (fun r => { r with pc := r.pc + 4 }) s

/-- A result is written and the program goes on. -/
def seqSet (t : Fin 128) (g : Fin 32) (v : BitVec 64) (s : State) : State := seqNext t (setG t g v s)

/-- An instruction stops the program with an error (R110). -/
def seqFail (t : Fin 128) (st : Status) (s : State) : State := updTile t (stopRun st) s

/-- The program waits (R109). -/
def seqPark (t : Fin 128) (w : SeqWait) (s : State) : State := updRun t (fun r => { r with wait := w }) s

/-- The number of the line of instruction memory that holds an address. -/
def lineOf (pc : Nat) : Nat := pc / 64 * 64

/-- What the sequencer finds at its program counter (R108, R110): an instruction word, from the buffered line where there is one, or the
status it stops with. A word that the program itself has written is a free value: the effect of writing one's own instructions is
undefined. -/
def fetched (s : State) (x : Tile) (r : Run) : Except Status (BitVec 32) :=
  if r.pc ≥ tmemSize then .error .addressRange
  else
    let line := match x.ibuf.find? fun l => l.addr == lineOf r.pc with
      | some l => l.bytes
      | none => memRead x.mem (lineOf r.pc) 64
    let d := dslice line (r.pc - lineOf r.pc) 4
    if r.stored.any fun w => overlaps w.1 w.2 r.pc 4 then .ok (BitVec.ofNat 32 (Config.freeNat s.free))
    else if poisoned d then .error .dataPoison
    else .ok (BitVec.ofNat 32 (leNat (dataBytes d)))

/-- The line of the program counter is in the instruction buffer, which holds 128; a miss costs 12 cycles (R108). The oldest line leaves
a full buffer (DESIGN CHOICE: the spec names none). -/
def fillLine (x : Tile) (r : Run) : Tile × Run :=
  if x.ibuf.any fun l => l.addr == lineOf r.pc then (x, r)
  else
    let all := x.ibuf ++ [{ addr := lineOf r.pc, bytes := memRead x.mem (lineOf r.pc) 64 }]
    ({ x with ibuf := all.drop (all.length - 128) }, { r with cycles := r.cycles + 12 })

/-- The cycles after one instruction that uses the registers `gs`: one, after the wait for the loads into them (R109). -/
def issueCycles (r : Run) (gs : List (Fin 32)) : Nat := (gs.map fun g => r.ready[g]).foldl max r.cycles + 1

/-- Whether the sequencer of a tile runs an instruction now: a program runs, is not stopping and does not wait; a wait for
room in a unit lets the same instruction try again. -/
def seqRunning (r : Run) : Bool := r.stopping.isNone && (r.wait == .none || r.wait == .unitFull)

/-- One instruction (R109): where the word at the program counter satisfies `is`, its registers `gs` are awaited, the
instruction is counted and `act` runs. A word that cannot be fetched stops the program (R110). -/
def seqInstr (t : Fin 128) (is : BitVec 32 → Bool) (gs : List (Fin 32)) (act : Tile → Run → State → State) (s : State) : State :=
  let x := getTile s t
  match x.run with
  | none => s
  | some r =>
    if !seqRunning r then s
    else match fetched s x r with
      | .error st => seqFail t st s
      | .ok w =>
        if !is w then s
        else
          let f := fillLine x r
          let r' := { f.2 with cycles := issueCycles f.2 gs, wait := .none }
          let x' := { f.1 with run := some r', counters := { x.counters with seqInstr := addSat x.counters.seqInstr 1 } }
          act x' r' (updTile t (fun _ => x') { s with free := s.free + 1 })

/-- A word of opcode `op` with fields GD, GA and IMM. -/
def isImm (op : Nat) (gd ga : Fin 32) (imm : BitVec 16) (w : BitVec 32) : Bool :=
  iOp w == op && iGd w == gd && iGa w == ga && iImm w == imm

/-- A word of opcode `op` with fields GD, GA and GB. -/
def isReg (op : Nat) (gd ga gb : Fin 32) (w : BitVec 32) : Bool := iOp w == op && iGd w == gd && iGa w == ga && iGb w == gb

/-- An instruction that computes gd from ga and gb. -/
def seqAlu (op : Nat) (f : BitVec 64 → BitVec 64 → BitVec 64) (t : Fin 128) (gd ga gb : Fin 32) (s : State) : State :=
  seqInstr t (isReg op gd ga gb) [gd, ga, gb] (fun x _ s => seqSet t gd (f (gReg x ga) (gReg x gb)) s) s

/-- An instruction that computes gd from ga and IMM. -/
def seqAluImm (op : Nat) (f : BitVec 64 → BitVec 16 → BitVec 64) (t : Fin 128) (gd ga : Fin 32) (imm : BitVec 16) (s : State) : State :=
  seqInstr t (isImm op gd ga imm) [gd, ga] (fun x _ s => seqSet t gd (f (gReg x ga) imm) s) s

/-- STOP (R109, R110): the status is IMM[7:0], or INTERNAL where that is not registered. -/
def execStop (t : Fin 128) (imm : BitVec 16) (s : State) : Host.Outcome State Fault Refusal :=
  go (seqInstr t (fun w => iOp w == 0x00 && iImm w == imm) []
    (fun _ _ s => updRun t (fun r => { r with stopping := some ((statusOf (fld imm 7 0)).getD .internal) }) s) s)

/-- NOP of the sequencer. -/
def execSeqNop (t : Fin 128) (s : State) : Host.Outcome State Fault Refusal :=
  go (seqInstr t (fun w => iOp w == 0x01) [] (fun _ _ s => seqNext t s) s)

/-- ADD. -/
def execAdd (t : Fin 128) (gd ga gb : Fin 32) (s : State) : Host.Outcome State Fault Refusal := go (seqAlu 0x02 (· + ·) t gd ga gb s)

/-- ADDI. -/
def execAddi (t : Fin 128) (gd ga : Fin 32) (imm : BitVec 16) (s : State) : Host.Outcome State Fault Refusal :=
  go (seqAluImm 0x03 (fun a i => a + i.signExtend 64) t gd ga imm s)

/-- SUB. -/
def execSub (t : Fin 128) (gd ga gb : Fin 32) (s : State) : Host.Outcome State Fault Refusal := go (seqAlu 0x04 (· - ·) t gd ga gb s)

/-- MUL. -/
def execMul (t : Fin 128) (gd ga gb : Fin 32) (s : State) : Host.Outcome State Fault Refusal := go (seqAlu 0x05 (· * ·) t gd ga gb s)

/-- AND. -/
def execAnd (t : Fin 128) (gd ga gb : Fin 32) (s : State) : Host.Outcome State Fault Refusal := go (seqAlu 0x06 (· &&& ·) t gd ga gb s)

/-- OR. -/
def execOr (t : Fin 128) (gd ga gb : Fin 32) (s : State) : Host.Outcome State Fault Refusal := go (seqAlu 0x07 (· ||| ·) t gd ga gb s)

/-- XOR. -/
def execXor (t : Fin 128) (gd ga gb : Fin 32) (s : State) : Host.Outcome State Fault Refusal := go (seqAlu 0x08 (· ^^^ ·) t gd ga gb s)

/-- SHLI. -/
def execShli (t : Fin 128) (gd ga : Fin 32) (imm : BitVec 16) (s : State) : Host.Outcome State Fault Refusal :=
  go (seqAluImm 0x09 (fun a i => a <<< fld i 5 0) t gd ga imm s)

/-- SHRI. -/
def execShri (t : Fin 128) (gd ga : Fin 32) (imm : BitVec 16) (s : State) : Host.Outcome State Fault Refusal :=
  go (seqAluImm 0x0A (fun a i => a >>> fld i 5 0) t gd ga imm s)

/-- LUI. -/
def execLui (t : Fin 128) (gd : Fin 32) (imm : BitVec 16) (s : State) : Host.Outcome State Fault Refusal :=
  go (seqInstr t (fun w => iOp w == 0x0B && iGd w == gd && iImm w == imm) [gd]
    (fun _ _ s => seqSet t gd (imm.signExtend 64 <<< 16) s) s)

/-- The address of an LD or ST. -/
def seqAddr (x : Tile) (ga : Fin 32) (imm : BitVec 16) : Nat := (gReg x ga + imm.signExtend 64).toNat

/-- The errors of an LD or ST address (R110). -/
def seqAddrError (a : Nat) : Option Status := firstFail [(a % 8 != 0, .malformed), (decide (a ≥ tmemSize), .addressRange)]

/-- LD (R109): the result comes 8 cycles after issue. -/
def execLd (t : Fin 128) (gd ga : Fin 32) (imm : BitVec 16) (s : State) : Host.Outcome State Fault Refusal :=
  go (seqInstr t (isImm 0x0C gd ga imm) [gd, ga] (fun x r s =>
    let a := seqAddr x ga imm
    match seqAddrError a with
    | some st => seqFail t st s
    | none =>
      let d := memRead x.mem a 8
      if poisoned d then seqFail t .dataPoison s
      else updRun t (fun q => { q with ready := q.ready.set gd (r.cycles + 7) }) (seqSet t gd (BitVec.ofNat 64 (leNat (dataBytes d))) s)) s)

/-- ST (R109). -/
def execSt (t : Fin 128) (gd ga : Fin 32) (imm : BitVec 16) (s : State) : Host.Outcome State Fault Refusal :=
  go (seqInstr t (isImm 0x0D gd ga imm) [gd, ga] (fun x _ s =>
    let a := seqAddr x ga imm
    match seqAddrError a with
    | some st => seqFail t st s
    | none =>
      let s := updTile t (fun y => { y with mem := memWrite y.mem a (clean (bytesOf 8 (gReg x gd))) }) s
      seqNext t (ownWrite t a 8 s)) s)

/-- A branch (R109): taken, it costs 2 further cycles. -/
def seqBranch (op : Nat) (cond : BitVec 64 → BitVec 64 → Bool) (t : Fin 128) (gd ga : Fin 32) (imm : BitVec 16) (s : State) : State :=
  seqInstr t (isImm op gd ga imm) [gd, ga] (fun x r s =>
    if cond (gReg x gd) (gReg x ga) then
      updRun t (fun q => { q with pc := (BitVec.ofNat 64 r.pc + 4 * imm.signExtend 64).toNat, cycles := q.cycles + 2 }) s
    else seqNext t s) s

/-- BEQ. -/
def execBeq (t : Fin 128) (gd ga : Fin 32) (imm : BitVec 16) (s : State) : Host.Outcome State Fault Refusal :=
  go (seqBranch 0x0E (fun a b => a == b) t gd ga imm s)

/-- BNE. -/
def execBne (t : Fin 128) (gd ga : Fin 32) (imm : BitVec 16) (s : State) : Host.Outcome State Fault Refusal :=
  go (seqBranch 0x0F (fun a b => a != b) t gd ga imm s)

/-- BLTU. -/
def execBltu (t : Fin 128) (gd ga : Fin 32) (imm : BitVec 16) (s : State) : Host.Outcome State Fault Refusal :=
  go (seqBranch 0x10 (fun a b => decide (a < b)) t gd ga imm s)

/-- JR (R109, R110): counted as a taken branch, with 2 further cycles (DEDUCED: R109 does not name it). -/
def execJr (t : Fin 128) (ga : Fin 32) (s : State) : Host.Outcome State Fault Refusal :=
  go (seqInstr t (fun w => iOp w == 0x11 && iGa w == ga) [ga] (fun x _ s =>
    let a := (gReg x ga).toNat
    if a % 4 ≠ 0 then seqFail t .malformed s else updRun t (fun q => { q with pc := a, cycles := q.cycles + 2 }) s) s)

/-- The step tag that a program carries (R17). -/
def progTag (p : Prog) : Nat := slotStepTag p.slot

/-- SYS with a selector that neither checks nor clears the window (R109, R155). Selector 15 stops the program. -/
def sysValue (t : Fin 128) (x : Tile) (r : Run) (k : Nat) : Option (BitVec 64) :=
  if k ≤ 7 then some (runArg r.prog.slot.pay k)
  else match k with
    | 8 => some (BitVec.ofNat 64 t.val)
    | 9 => some (BitVec.ofNat 64 (r.cycles - 1))
    | 10 => some (BitVec.ofNat 64 (progTag r.prog))
    | 11 => some (BitVec.ofNat 64 r.phase)
    | 12 => some (x.window.zeroExtend 64)
    | _ => none

/-- SYS (R109): selectors 0 to 12, and 15, which is malformed (R155). -/
def execSys (t : Fin 128) (gd : Fin 32) (imm : BitVec 16) (s : State) : Host.Outcome State Fault Refusal :=
  go (seqInstr t (fun w => iOp w == 0x12 && iGd w == gd && iImm w == imm && fld imm 3 0 != 13 && fld imm 3 0 != 14) [gd] (fun x r s =>
    match sysValue t x r (fld imm 3 0) with
    | some v => seqSet t gd v s
    | none => seqFail t .malformed s) s)

/-- SYS 13 (R155): the window is compared with ga and cleared. -/
def execSysWindowCheck (t : Fin 128) (gd ga : Fin 32) (s : State) : Host.Outcome State Fault Refusal :=
  go (seqInstr t (fun w => iOp w == 0x12 && iGd w == gd && iGa w == ga && fld w 3 0 == 13) [gd, ga] (fun x _ s =>
    let hit := s.num.wideReplayEnable != 0 && decide (x.window.toNat > (gReg x ga).toNat % 2 ^ 32)
    let s := updTile t (fun y => { y with window := 0, counters := { y.counters with wideReplay := addSat y.counters.wideReplay (b2n hit) } }) s
    seqSet t gd (BitVec.ofNat 64 (b2n hit)) s) s)

/-- SYS 14 (R155): the window is returned and cleared. -/
def execSysWindowClear (t : Fin 128) (gd : Fin 32) (s : State) : Host.Outcome State Fault Refusal :=
  go (seqInstr t (fun w => iOp w == 0x12 && iGd w == gd && fld w 3 0 == 14) [gd] (fun x _ s =>
    seqSet t gd (x.window.zeroExtend 64) (updTile t (fun y => { y with window := 0 }) s)) s)

/-- A descriptor of `n` bytes at an offset, or why the program stops (R110). -/
def descriptorAt (x : Tile) (a n : Nat) : Except Status Nat :=
  if a + n > tmemSize then .error .addressRange
  else
    let d := memRead x.mem a n
    if poisoned d then .error .dataPoison else .ok (leNat (dataBytes d))

/-- An instruction that hands a unit the descriptor at ga (R109): it waits while the unit's queue is full; a failed check
stops the program (R110). -/
def seqHand (op n : Nat) (full : Tile → Bool) (check : State → Tile → Nat → Option Status) (give : Run → Nat → State → State)
    (t : Fin 128) (ga : Fin 32) (s : State) : State :=
  if (getTile s t).run.any seqRunning && full (getTile s t) then
    (match (getTile s t).run with
    | some r => (match fetched s (getTile s t) r with
      | .ok w => if iOp w == op && iGa w == ga then seqPark t .unitFull s else s
      | .error st => seqFail t st s)
    | none => s)
  else
    seqInstr t (fun w => iOp w == op && iGa w == ga) [ga] (fun x r s =>
      match descriptorAt x (gReg x ga).toNat n with
      | .error st => seqFail t st s
      | .ok d => match check s x d with
        | some st => seqFail t st s
        | none => seqNext t (give r d s)) s

/-- The step number of a program for the stochastic generator; 0 for NO_STEP (R127). -/
def progStep (p : Prog) : Nat := (p.step.map BitVec.toNat).getD 0

/-- PASS (R77, R78). -/
def execPass (t : Fin 128) (ga : Fin 32) (s : State) : Host.Outcome State Fault Refusal :=
  go (seqHand 0x13 64 (fun x => decide (x.arr.queue.length ≥ 4)) (fun s x d => passCheck s x.arr (BitVec.ofNat 512 d))
    (fun r d s => updArr t (acceptPass (BitVec.ofNat 512 d) (progStep r.prog)) s) t ga s)

/-- MOVE (R114, R115). -/
def execMove (t : Fin 128) (ga : Fin 32) (s : State) : Host.Outcome State Fault Refusal :=
  go (seqHand 0x14 64 (fun x => decide (x.mover.queue.length ≥ 8)) (fun s _ d => moveCheck s (BitVec.ofNat 512 d))
    (fun _ d s => updMover t (acceptMove (BitVec.ofNat 512 d) s.mem.xlate.order (mayRunAhead s)) s) t ga s)

/-- VLOOP (R119, R120). -/
def execVloop (t : Fin 128) (ga : Fin 32) (s : State) : Host.Outcome State Fault Refusal :=
  go (seqHand 0x15 128 (fun x => decide (x.vec.queue.length ≥ 2)) (fun _ x d => loopCheck x.mem (BitVec.ofNat 1024 d))
    (fun r d s => updTile t (fun x => { x with vec := { x.vec with
      queue := x.vec.queue ++ [newLoop (BitVec.ofNat 1024 d) (loopBody x.mem (BitVec.ofNat 1024 d)) (progStep r.prog)] } }) s) t ga s)

/-- Block counter that an immediate names. -/
def bcIndex (imm : BitVec 16) : Fin 32 := fin (fld imm 4 0)

/-- A word of opcode `op` with fields GA and IMM. -/
def isGaImm (op : Nat) (ga : Fin 32) (imm : BitVec 16) (w : BitVec 32) : Bool := iOp w == op && iGa w == ga && iImm w == imm

/-- A word of opcode `op` with fields GD and IMM. -/
def isGdImm (op : Nat) (gd : Fin 32) (imm : BitVec 16) (w : BitVec 32) : Bool := iOp w == op && iGd w == gd && iImm w == imm

/-- BCSET. -/
def execBcset (t : Fin 128) (ga : Fin 32) (imm : BitVec 16) (s : State) : Host.Outcome State Fault Refusal :=
  go (seqInstr t (isGaImm 0x16 ga imm) [ga] (fun x _ s =>
    seqNext t (updTile t (fun y => { y with bc := y.bc.set (bcIndex imm) (BitVec.ofNat 32 (gReg x ga).toNat) }) s)) s)

/-- BCWAIT: it goes on at once if the counter is high enough. -/
def execBcwait (t : Fin 128) (ga : Fin 32) (imm : BitVec 16) (s : State) : Host.Outcome State Fault Refusal :=
  go (seqInstr t (isGaImm 0x17 ga imm) [ga] (fun x _ s =>
    let least : BitVec 32 := BitVec.ofNat 32 (gReg x ga).toNat
    if least ≤ x.bc[bcIndex imm] then seqNext t s else seqPark t (.bc (bcIndex imm) least) s) s)

/-- What the running program of a tile waits for. -/
def waitOf (s : State) (t : Fin 128) : SeqWait :=
  match (getTile s t).run with
  | some r => if r.stopping.isNone then r.wait else .none
  | none => .none

/-- A wait ends and the program goes on with the next instruction. -/
def seqResume (t : Fin 128) (s : State) : State := updRun t (fun r => { r with wait := .none, pc := r.pc + 4 }) s

/-- BCWAIT_RESUME. -/
def execBcwaitResume (t : Fin 128) (s : State) : Host.Outcome State Fault Refusal :=
  go (match waitOf s t with
    | .bc i least => if least ≤ bcOf s t i then seqResume t s else s
    | _ => s)

/-- BCREAD. -/
def execBcread (t : Fin 128) (gd : Fin 32) (imm : BitVec 16) (s : State) : Host.Outcome State Fault Refusal :=
  go (seqInstr t (isGdImm 0x18 gd imm) [gd] (fun x _ s => seqSet t gd (x.bc[bcIndex imm].zeroExtend 64) s) s)

/-- PHASE (R18, R110). -/
def execPhase (t : Fin 128) (imm : BitVec 16) (s : State) : Host.Outcome State Fault Refusal :=
  go (seqInstr t (fun w => iOp w == 0x19 && iImm w == imm) [] (fun _ _ s =>
    if fld imm 3 0 = 13 then seqFail t .malformed s
    else seqNext t (updRun t (fun r => { r with phase := fld imm 3 0 }) s)) s)

/-- Whether each unit that a mask names is idle (R109): bit 0 array, bit 1 vector engine, bit 2 mover. -/
def unitsDone (s : State) (t : Fin 128) (units : BitVec 3) : Bool :=
  (!bit units 0 || arrayIdle s t) && (!bit units 1 || vectorIdle (getTile s t)) && (!bit units 2 || moverIdle (getTile s t))

/-- FENCE. -/
def execFence (t : Fin 128) (imm : BitVec 16) (s : State) : Host.Outcome State Fault Refusal :=
  go (seqInstr t (fun w => iOp w == 0x1A && iImm w == imm) [] (fun _ _ s =>
    let units : BitVec 3 := BitVec.ofNat 3 (fld imm 2 0)
    if unitsDone s t units then seqNext t s else seqPark t (.fence units) s) s)

/-- FENCE_RESUME. -/
def execFenceResume (t : Fin 128) (s : State) : Host.Outcome State Fault Refusal :=
  go (match waitOf s t with
    | .fence units => if unitsDone s t units then seqResume t s else s
    | _ => s)

/-- What REDRD reads (R109). -/
def redValue (x : Tile) (imm : BitVec 16) : BitVec 64 :=
  let q := x.vec.q[(fin (fld imm 2 0) : Fin 8)]
  if bit imm 3 then q.nonfinite.zeroExtend 64 else q.value.zeroExtend 64

/-- REDRD. -/
def execRedrd (t : Fin 128) (gd : Fin 32) (imm : BitVec 16) (s : State) : Host.Outcome State Fault Refusal :=
  go (seqInstr t (isGdImm 0x1B gd imm) [gd] (fun x _ s =>
    if redPending x (fin (fld imm 2 0)) then seqPark t (.redrd gd imm) s else seqSet t gd (redValue x imm) s) s)

/-- REDRD_RESUME. -/
def execRedrdResume (t : Fin 128) (s : State) : Host.Outcome State Fault Refusal :=
  go (match waitOf s t with
    | .redrd gd imm =>
      if redPending (getTile s t) (fin (fld imm 2 0)) then s else seqResume t (setG t gd (redValue (getTile s t) imm) s)
    | _ => s)

/-- The decision and loss scale of a program's step, open or closed, and whether the step may still decide (R111, R167). -/
def progDecision (s : State) (p : Prog) : Option Decision × BitVec 32 × Bool :=
  match p.step with
  | none => (none, one32, false)
  | some n =>
    match findStep s n with
    | some q => (q.decision, q.lossScale, q.state != .aborting && q.state != .closed)
    | none => match s.train.past.find? fun q => q.num == n with
      | some q => (q.decision, q.lossScale, false)
      | none => (none, one32, false)

/-- What VERD does (R111, R167): a value, a wait, or the end of the program with STATE_CONFLICT. -/
def verdValue (s : State) (p : Prog) (k : Nat) : Option (Except Status (BitVec 64)) :=
  let d := progDecision s p
  let clip := some (.ok ((one32).zeroExtend 64))
  let zero : Option (Except Status (BitVec 64)) := some (.ok 0)
  if p.step.isNone then (if k = 2 ∨ k = 3 then clip else zero)
  else if k = 3 then some (.ok (d.2.1.zeroExtend 64))
  else match d.1 with
    | some v => (match k with
      | 0 => some (.ok (BitVec.ofNat 64 (1 + 2 * b2n v.skip + 4 * v.cause.toNat)))
      | 1 => some (.ok (v.norm.zeroExtend 64))
      | _ => some (.ok (v.clip.zeroExtend 64)))
    | none =>
      if k = 0 then zero
      else if slotEarly p.slot then (if k = 2 then clip else zero)
      else if d.2.2 then none
      else some (.error .stateConflict)

/-- VERD (R111). -/
def execVerd (t : Fin 128) (gd : Fin 32) (imm : BitVec 16) (s : State) : Host.Outcome State Fault Refusal :=
  go (seqInstr t (isGdImm 0x1C gd imm) [gd] (fun _ r s =>
    match verdValue s r.prog (fld imm 1 0) with
    | some (.ok v) => seqSet t gd v s
    | some (.error st) => seqFail t st s
    | none => seqPark t (.verd gd imm) s) s)

/-- VERD_RESUME (R111). -/
def execVerdResume (t : Fin 128) (s : State) : Host.Outcome State Fault Refusal :=
  go (match (getTile s t).run with
    | none => s
    | some r => match waitOf s t with
      | .verd gd imm => (match verdValue s r.prog (fld imm 1 0) with
        | some (.ok v) => seqResume t (setG t gd v s)
        | some (.error st) => seqFail t st s
        | none => s)
      | _ => s)

/-- The shard entry that an immediate names. -/
def shardIndex (imm : BitVec 16) : Fin 64 := fin (fld imm 5 0)

/-- SHARDDEF (R110, R112). -/
def execSharddef (t : Fin 128) (ga gb : Fin 32) (imm : BitVec 16) (s : State) : Host.Outcome State Fault Refusal :=
  go (seqInstr t (fun w => iOp w == 0x1D && iGa w == ga && iGb w == gb && fld w 10 0 == fld imm 10 0) [ga, gb] (fun x _ s =>
    if stepOpen s then seqFail t .stateConflict s
    else
      let e : Shard := { defined := true, a := gReg x ga, b := gReg x gb, sel := false, marks := [] }
      seqNext t (updTile t (fun y => { y with shards := y.shards.set (shardIndex imm) e }) s)) s)

/-- SHARDGET (R112): the live copy, or the shadow copy with a mark for the program's step while that is open. -/
def execShardget (t : Fin 128) (gd : Fin 32) (imm : BitVec 16) (s : State) : Host.Outcome State Fault Refusal :=
  go (seqInstr t (isGdImm 0x1E gd imm) [gd] (fun x r s =>
    let e := x.shards[shardIndex imm]
    if !e.defined then seqFail t .addressRange s
    else if !bit imm 6 then seqSet t gd (if e.sel then e.b else e.a) s
    else
      let mark (e : Shard) : Shard := match r.prog.step with
        | some n => if (findStep s n).isSome && !e.marks.contains n then { e with marks := e.marks ++ [n] } else e
        | none => e
      seqSet t gd (if e.sel then e.a else e.b) (updTile t (fun y => { y with shards := updAt y.shards (shardIndex imm) mark }) s)) s)

/-- SEQ_RESERVED_OPCODE (R110). -/
def execSeqReservedOpcode (t : Fin 128) (s : State) : Host.Outcome State Fault Refusal :=
  go (seqInstr t (fun w => decide (iOp w ≥ 0x1F)) [] (fun _ _ s => seqFail t .malformed s) s)

end Sys2Proof.Machine
end

