-- ==== Sys2Proof/Machine/Steps.lean ====
section
/-!
DEFINITION. Opening and sealing a step (01: R20 to R26), and its phase record in the ring (R54, R55).
-/
namespace Sys2Proof.Machine

/-- The ring slot of a sequence number (R54). -/
def ringSlot (q : BitVec 64) : Fin 1024 := fin q.toNat

/-- The phase record of a step changed by `f`. A step that is still open when 1,024 later ones have begun shares its slot with the newest of
them, and what it has to record goes into that one's record (DESIGN CHOICE: R54 gives the slot, and does not say what then becomes of the
older step's record). -/
def updRecord (p : Step) (f : PhaseRec → PhaseRec) (s : State) : State :=
  { s with train := { s.train with ring := updAt s.train.ring (ringSlot p.ring) f } }

/-- STEP of a STEP_BEGIN or STEP_END (R23, R25). -/
def stepNumOf (c : Slot) : BitVec 64 := BitVec.ofNat 64 (fld c.pay 63 0)

/-- Whether a STEP_BEGIN or STEP_END carries NO_STEP or another tag than its step's (R360). -/
def stepTagWrong (c : Slot) : Bool := slotNoStep c || slotStepTag c != fld c.pay 15 0

/-- Whether a STEP_BEGIN breaks its encoding (R23). -/
def stepBeginMalformed (c : Slot) : Bool :=
  decide (fld c.pay 71 64 > 2) || fld c.pay 79 74 != 0 || fld c.pay 127 96 != 0 || fld c.pay 191 176 != 0 ||
  (bit c.pay 73 && fld c.pay 175 128 % 128 != 0)

/-- Whether a STEP_BEGIN meets the admission conditions (R21, R43). -/
def stepMayOpen (s : State) (c : Slot) : Bool :=
  let n := stepNumOf c
  decide (s.train.steps.length < 2) && decide (s.train.lastCommitted < n) &&
  s.train.steps.all (fun p => decide (p.num < n) && p.num.toNat % 65536 != n.toNat % 65536) &&
  fld c.pay 71 64 == s.train.profile.toNat && !s.rows.obj.restoreRequired

/-- The step that a STEP_BEGIN opens (R20, R23, R35, R165). -/
def newStep (s : State) (c : Slot) : Step :=
  { num := stepNumOf c, ring := s.train.ringHead, profile := BitVec.ofNat 8 (fld c.pay 71 64),
    early := bit c.pay 72 && s.train.earlyOptimise == 1, record := bit c.pay 73, recordDva := BitVec.ofNat 48 (fld c.pay 175 128),
    group := BitVec.ofNat 16 (fld c.pay 95 80), state := .stOpen, closedToWork := false, endCmd := none, forceSkip := false,
    errSkip := false, voteSent := false, abort := none, abortHeld := false, exchDead := false, decision := none,
    lossScale := if s.num.lossMode = 1 then s.num.lossScale else one32, norms := [], earlies := [], item := .item1, torn := none,
    publishFail := none, outcome := .stillOpen, recordWait := none }

/-- A step opens: its record takes the next place in the ring (R54). What an earlier exchange that failed under this tag left behind
goes. -/
def openStep (c : Slot) (s : State) : State :=
  let p := newStep s c
  let fresh : PhaseRec := { PhaseRec.zero with step := p.num, startNs := s.now, profile := p.profile }
  let s := updRecord p (fun _ => fresh) { s with train := { s.train with steps := s.train.steps ++ [p], ringHead := s.train.ringHead + 1 } }
  let stale (x : Exchange) : Bool := x.done && x.step.toNat % 65536 == p.num.toNat % 65536
  { s with links := { s.links with exchanges := s.links.exchanges.filter fun x => !stale x } }

/-- STEP_BEGIN (R21, R24). -/
def stepBeginRule : OpRule :=
  { check := fun _ c s => (s, checks [(stepTagWrong c, .malformed), (stepBeginMalformed c, .malformed), (!stepMayOpen s c, .stateConflict)])
    effect := fun k s => completeCmd k.id .ok 0 (openStep k.slot s) }

/-- STEP_BEGIN (R21). -/
def execStepBegin (sq : Fin 64) (c : Slot) (s : State) : Host.Outcome State Fault Refusal := go (commandAtHead 0x01 stepBeginRule sq c s)

/-- A step is sealed by its STEP_END: no engine takes further keys for it, and its record shows FORCE_SKIP (R26, R55, R214). -/
def sealByEnd (k : Cmd) (s : State) : State :=
  let n := stepNumOf k.slot
  let force := bit k.slot.pay 64
  match findStep s n with
  | none => s
  | some p =>
    let s := updStep n (fun p => { p with closedToWork := true, endCmd := some k.id, forceSkip := force }) (startCmd k.id s)
    sealAll n (updRecord p (fun r => { r with forced := force }) s)

/-- STEP_END (R26). -/
def stepEndRule : OpRule :=
  { check := fun _ c s =>
      let sealedOrGone := match findStep s (stepNumOf c) with | some p => p.closedToWork | none => true
      (s, checks [(stepTagWrong c, .malformed), (fld c.pay 127 65 != 0, .malformed), (sealedOrGone, .stateConflict)])
    effect := sealByEnd }

/-- STEP_END (R26). -/
def execStepEnd (sq : Fin 64) (c : Slot) (s : State) : Host.Outcome State Fault Refusal := go (commandAtHead 0x02 stepEndRule sq c s)

end Sys2Proof.Machine
end

