-- ==== Sys2Proof/Machine/Rules.lean ====
section
/-!
DEFINITION. The opcodes with their rules (10: R367), fetching slots (R357, R358), the retry of a waiting slot (R363), and the held
commands that run at once when their step lets them start.
-/
namespace Sys2Proof.Machine

/-- The rule of an opcode (R367). -/
def ruleOf (op : Nat) : Option OpRule :=
  match op with
  | 0x00 => some nopRule
  | 0x01 => some stepBeginRule
  | 0x02 => some stepEndRule
  | 0x10 => some tileRunRule
  | 0x18 => some copyRule
  | 0x19 => some inlineRule
  | 0x20 => some tableSetRule
  | 0x21 => some gatherRule
  | 0x22 => some prescanRule
  | 0x23 => some emberRefreshRule
  | 0x28 => some scatterRule
  | 0x29 => some mergeRule
  | 0x2A => some optimSetRule
  | 0x2B => some rowOptimiseRule
  | 0x2C => some deltaMapRule
  | 0x30 => some exportRule
  | 0x31 => some importRule
  | 0x38 => some slotSetRule
  | 0x39 => some slotExtendRule
  | 0x3A => some histAppendRule
  | 0x3B => some histWalkRule
  | 0x40 => some groupSetRule
  | 0x41 => some collectiveRule
  | 0x50 => some fwBlockRule
  | _ => none

/-- The rule under which a slot is admitted; one with an opcode outside the list fails before its rule is asked (R363, item 3). -/
def slotRule (c : Slot) : OpRule := (ruleOf (slotOpcode c)).getD nopRule

/-- The opcodes whose work is done at once, and MERGE, whose run seals and starts once its step lets it (R29, R30, R235). -/
def isInstant (op : Nat) : Bool := [0x00, 0x19, 0x20, 0x29, 0x2A, 0x2C, 0x31, 0x38, 0x39, 0x40, 0x50].contains op

/-- The commands that run at once begin, as far as their steps let them (R29, R30, R445), and those that wait for memory go on. -/
def runHeld (s : State) : State :=
  (s.host.cmds.filter fun k => isInstant (slotOpcode k.slot)).foldl
    (fun s k => if (findCmd s k.id).isSome then (slotRule k.slot).effect k s else s) s

/-- A queue that fails is disabled and sets EV_QUEUE (R357). -/
def disableSq (q : Fin 64) (s : State) : State :=
  setEvent 1 { s with host := { s.host with sqs := updAt s.host.sqs q fun x => { x with enable := false, waiting := none } } }

/-- SLOT_FETCH (R357): the slot at HEAD reaches the head of its queue; a failed fetch disables the queue. -/
def execSlotFetch (q : Fin 64) (r : FetchResult) (s : State) : Host.Outcome State Fault Refusal :=
  go (if !mayAdmit s q then s
    else match r with
      | .failed => disableSq q s
      | .slot c => useTurn q (admitSlot (slotRule c) q c s))

/-- ADMISSION_RETRY (R363): a waiting slot is checked again in full. In DRAINING it meets STATE_CONFLICT (R377). Its turn comes like
that of another head (R358). -/
def execAdmissionRetry (q : Fin 64) (s : State) : Host.Outcome State Fault Refusal :=
  go (match s.host.sqs[q].waiting with
    | none => s
    | some c =>
      let live := s.host.dev == .running || s.host.dev == .updating || s.host.dev == .draining
      if !live || !s.host.sqs[q].enable || !mayRetry s q then s
      else
        let s := { s with host := { s.host with sqs := updAt s.host.sqs q fun x => { x with waiting := none } } }
        useTurn q (admitSlot (slotRule c) q c s))

/-- NOP (R367). -/
def execNop (sq : Fin 64) (c : Slot) (s : State) : Host.Outcome State Fault Refusal := go (commandAtHead 0x00 nopRule sq c s)

end Sys2Proof.Machine
end

