-- ==== Sys2Proof/Machine/Verdict.lean ====
section
/-!
DEFINITION. The VERDICT exchange and the decision (01: R28, R31, R32, R36, R45; 04: R161, R162; 09: R332 to R335).
-/
namespace Sys2Proof.Machine

/-- What a member has formed of an exchange: the sum of squares, the non-finite flag and the vote (R334). -/
structure Totals where
  sumsq : BitVec 32
  nonfinite : Bool
  vote : Bool
  deriving DecidableEq, Repr

/-- The dense sum of squares of a step's FUSE_NORM descriptors, in admission order (R332); `none` while one has not completed. -/
def densePart (p : Step) : Option NormTerm :=
  let parts := sortBy (fun x => x.order) p.norms
  if parts.all fun x => x.term.isSome then
    some (parts.foldl (fun t x => match x.term with
      | some y => { sumsq := fadd t.sumsq y.sumsq, nonfinite := t.nonfinite || y.nonfinite }
      | none => t) { sumsq := 0, nonfinite := false })
  else none

/-- A step's contribution once it is due (R31, R45, R333), with its vote. -/
def contribution (s : State) (p : Step) : Option (NormTerm × Bool) :=
  if !p.closedToWork ∨ p.voteSent ∨ p.exchDead then none
  else if p.state = .aborting then some ({ sumsq := 0, nonfinite := false }, true)
  else if p.state ≠ .stOpen then none
  else match densePart p, rowPart s p.num with
    | some d, some r => some ({ sumsq := fadd d.sumsq r.sumsq, nonfinite := d.nonfinite || r.nonfinite }, p.forceSkip || p.errSkip)
    | _, _ => none

/-- The decision that totals give (R162). -/
def decide162 (n : Numerics) (scale : BitVec 32) (t : Totals) : Decision :=
  let norm := fmul (fsqrt t.sumsq) (fdiv one32 scale)
  let cause := 4 * b2n t.vote + b2n t.nonfinite + 2 * b2n (flt n.normAbsurd norm)
  let clip : BitVec 32 :=
    if cause ≠ 0 then 0 else if n.maxNorm = 0 then one32 else if fle norm n.maxNorm then one32 else fdiv n.maxNorm norm
  { skip := decide (cause ≠ 0), cause := BitVec.ofNat 8 cause, norm := norm, clip := clip }

/-- Decisions are counted (R171). -/
def countDecision (d : Decision) (s : State) : State :=
  let n := s.num
  { s with num := { n with
      verdNonfinite := addSat n.verdNonfinite (b2n (bit d.cause 0)), verdAbsurd := addSat n.verdAbsurd (b2n (bit d.cause 1)),
      verdClipped := addSat n.verdClipped (b2n (!d.skip && flt d.clip one32)) } }

/-- Unstarted OPTIMISE- and COMMIT-tagged commands of a step that skips complete (R28). -/
def endSkipped (n : BitVec 64) (s : State) : State :=
  let out := s.host.cmds.filter fun c => c.step == some n && !c.started && (slotPhase c.slot == 9 || slotPhase c.slot == 10)
  endCmds (out.map fun c => { cmd := c.id, st := .verdictSkipped, detail := 0, drop := true }) s

/-- One early command that is no TILE_RUN is executed again (R36): in flight once more, with the same operands and no record of its own.
It queues behind whatever its unit still has of the first execution. -/
def redoEarly (n : BitVec 64) (e : EarlyRun) (s : State) : State :=
  let k : Cmd :=
    { info := e.info, id := s.host.nextCmd, sq := e.sq, slot := e.slot, step := some n, started := false, xorder := s.mem.xlate.order, redo := true }
  let count (q : Step) : Step := { q with earlies := mapIf (fun x => x.cmd == e.cmd) (fun x => { x with counted := true }) q.earlies }
  (slotRule e.slot).effect k (updStep n count { s with
    host := { s.host with cmds := s.host.cmds ++ [k], nextCmd := s.host.nextCmd + 1 },
    train := { s.train with earlyRedo := addSat s.train.earlyRedo 1 } })

/-- The early commands of a step that are no TILE_RUN, executed again in the order in which they started (R36). -/
def redoEarlies (p : Step) (s : State) : State :=
  (p.earlies.filter fun e => slotOpcode e.slot != 0x10).foldl (fun s e => redoEarly p.num e s) s

/-- The decision reaches a step (R27, R28, R32, R36): at a clip the tiles run their early programs again (`redoFor`), and the other early
commands go back to their units. -/
def deliverDecision (p : Step) (d : Decision) (s : State) : State :=
  let clipped := !d.skip && flt d.clip one32
  let redo (e : EarlyRun) : EarlyRun := if clipped then { e with redo := e.ran } else e
  let s := updStep p.num (fun q => { q with
    decision := some d, state := if d.skip then .decidedSkip else .decidedCommit, earlies := q.earlies.map redo }) s
  let s := updRecord p (fun r => { r with skipCause := d.cause, norm := d.norm, clip := d.clip }) s
  let s := countDecision d s
  let s := if clipped then redoEarlies p s else s
  runHeld (if d.skip then endSkipped p.num s else s)

/-- The totals of an exchange reach this member (R334, R335): it decides if its step still waits for that. -/
def finishExchange (x : Exchange) (t : Totals) (s : State) : State :=
  let s := { s with links := { s.links with exchanges := s.links.exchanges.filter fun y => y.step != x.step } }
  let s := linkCount (fun c => { c with exchanges := addSat c.exchanges 1 }) s
  match findStep s x.step with
  | some p => if p.state = .stOpen ∧ p.voteSent then deliverDecision p (decide162 s.num p.lossScale t) s else s
  | none => s

/-- An exchange changed by `f`. -/
def updExchange (n : BitVec 64) (f : Exchange → Exchange) (s : State) : State :=
  { s with links := { s.links with exchanges := mapIf (fun x => x.step == n) f s.links.exchanges } }

/-- Whether a message belongs to an exchange (R334). -/
def forExchange (x : Exchange) (down : Bool) (m : VerdictMsg) : Bool :=
  m.group == x.group && m.tag.toNat == x.step.toNat % 65536 && m.down == down

/-- The exchange of a step fails on this member (R45, R335): nothing further is sent for it, and its messages are of no use. -/
def failExchange (n : BitVec 64) (st : Status) (s : State) : State :=
  let ofIt (m : VerdictMsg) : Bool := s.links.exchanges.any fun x => x.step == n && (forExchange x false m || forExchange x true m)
  let s := { s with links := { s.links with msgs := s.links.msgs.filter fun m => !ofIt m } }
  let s := updExchange n (fun x => { x with done := true }) s
  abortStep n st false (updStep n (fun p => { p with exchDead := true }) s)

/-- The parent and the children of a rank in a tree of `m` members (R330, R334). -/
def treeParent (r : Nat) : Option Nat := if r = 0 then none else some ((r - 1) / 2)
/-- The children of a rank. -/
def treeChildren (m r : Nat) : List Nat := [2 * r + 1, 2 * r + 2].filter fun c => decide (c < m)

/-- A VERDICT message to a node (R308, R334); `none` if unroutable. -/
def sendVerdict (x : Exchange) (down : Bool) (node : Nat) (t : Totals) (s : State) : Option State :=
  sendPacket .inject (mkPacket s
    { type := 2, vc := 1, dst := node, flow := 0, group := x.group.toNat, kind := b2n down, aux := x.step.toNat % 65536,
      body := t.sumsq.toNat + b2n t.nonfinite * 2 ^ 32 + b2n t.vote * 2 ^ 33 } []) s

/-- VERDICT messages to several nodes. -/
def sendVerdicts (x : Exchange) (down : Bool) (t : Totals) : List Nat → State → Option State
  | [], s => some s
  | n :: ns, s => (sendVerdict x down n t s).bind (sendVerdicts x down t ns)

/-- The messages that the children of an exchange have sent, in rank order; `none` while one is missing. -/
def childTotals (s : State) (x : Exchange) (nodes : List Nat) : Option (List VerdictMsg) :=
  nodes.foldr (fun n acc => match acc, s.links.msgs.find? fun m => forExchange x false m && m.node.toNat == n with
    | some ms, some m => some (m :: ms)
    | _, _ => none) (some [])

/-- The totals that a member forms: its own contribution, the left child's and the right child's (R334, item 2). -/
def formTotals (own : NormTerm) (vote : Bool) (ms : List VerdictMsg) : Totals :=
  ms.foldl (fun t m => { sumsq := fadd t.sumsq m.sumsq, nonfinite := t.nonfinite || m.nonfinite, vote := t.vote || m.vote })
    { sumsq := own.sumsq, nonfinite := own.nonfinite, vote := vote }

/-- The messages of an exchange are used up. -/
def dropMsgs (x : Exchange) (down : Bool) (s : State) : State :=
  { s with links := { s.links with msgs := s.links.msgs.filter fun m => !forExchange x down m } }

/-- Whether this member can reach its parent and its children in an exchange (R335). -/
def treeRoutable (s : State) (g : Group) : Bool :=
  let around := (treeParent g.rank).toList ++ treeChildren g.members.length g.rank
  around.all fun r => let d := g.members.getD r 0; d == nodeId s || (routePort s .inject d 0).isSome

/-- An exchange goes on as far as its messages let it (R334). -/
def pumpVerdict (n : BitVec 64) (s : State) : State :=
  match s.links.exchanges.find? fun x => x.step == n && !x.done with
  | none => s
  | some x => match findGroup s x.group.toNat, x.own with
    | some g, some own =>
      let node (r : Nat) : Nat := g.members.getD r 0
      let kids := (treeChildren g.members.length g.rank).map node
      if !treeRoutable s g then failExchange n .peerUnreachable s
      else if x.upSent then
        (match s.links.msgs.find? (forExchange x true) with
        | none => s
        | some m =>
          let t : Totals := { sumsq := m.sumsq, nonfinite := m.nonfinite, vote := m.vote }
          match sendVerdicts x true t kids s with
          | none => failExchange n .peerUnreachable s
          | some s => finishExchange x t (dropMsgs x true s))
      else match childTotals s x kids with
        | none => s
        | some ms =>
          let t := formTotals own x.vote ms
          let s := dropMsgs x false s
          match treeParent g.rank with
          | none => match sendVerdicts x true t kids s with
            | none => failExchange n .peerUnreachable s
            | some s => finishExchange x t s
          | some r => match sendVerdict x false (node r) t s with
            | none => failExchange n .peerUnreachable s
            | some s => updExchange n (fun x => { x with upSent := true }) s
    | _, _ => s

/-- A step's contribution enters its exchange if it is due (R333); an undefined VERDICT_GROUP fails the exchange (R335). -/
def contribute (n : BitVec 64) (s : State) : State :=
  match findStep s n with
  | none => s
  | some p => match contribution s p with
    | none => s
    | some (own, vote) =>
      let x : Exchange := { step := n, group := p.group, own := some own, vote := vote, dueAt := s.now, upSent := false, done := false }
      let s := updStep n (fun p => { p with voteSent := true }) s
      let s := { s with links := { s.links with exchanges := s.links.exchanges.filter (fun y => y.step != n) ++ [x] } }
      if (findGroup s p.group.toNat).isNone then failExchange n .peerUnreachable s else pumpVerdict n s

/-- VERDICT_CONTRIBUTION (R333). -/
def execVerdictContribution (step : BitVec 64) (s : State) : Host.Outcome State Fault Refusal := go (contribute step s)

/-- A VERDICT message at its destination (R327, R334): one of a group or sender that this module does not know is foreign, and one of
an exchange that has failed here is dropped. -/
def verdictIn (down : Bool) (k : Packet) (s : State) : State :=
  let m : VerdictMsg :=
    { group := BitVec.ofNat 16 (pkGroup k), tag := BitVec.ofNat 16 (pkAux k % 65536), node := BitVec.ofNat 15 (pkSrc k), down := down,
      sumsq := BitVec.ofNat 32 (pkBody k 287 256), nonfinite := bit k.hdr 288, vote := bit k.hdr 289 }
  match findGroup s (pkGroup k) with
  | none => linkCount (fun c => { c with foreign := addSat c.foreign 1 }) s
  | some g =>
    if !g.members.contains (pkSrc k) then linkCount (fun c => { c with foreign := addSat c.foreign 1 }) s
    else if s.links.exchanges.any fun x => x.done && forExchange x down m then s
    else
      let s := { s with links := { s.links with msgs := s.links.msgs ++ [m] } }
      match s.links.exchanges.find? fun x => !x.done && forExchange x down m with
      | some x => pumpVerdict x.step s
      | none => s

/-- Whether a packet is a VERDICT message of a KIND. -/
def isVerdict (kind : Nat) (k : Packet) : Bool := pkType k == 2 && pkKind k == kind

/-- VERDICT_UP_RX (R334). -/
def execVerdictUpRx (p : Fin 17) (s : State) : Host.Outcome State Fault Refusal := go (arrive p (isVerdict 0) (verdictIn false) s)

/-- VERDICT_DOWN_RX (R334). -/
def execVerdictDownRx (p : Fin 17) (s : State) : Host.Outcome State Fault Refusal := go (arrive p (isVerdict 1) (verdictIn true) s)

/-- VERDICT_TIMEOUT (R335). -/
def execVerdictTimeout (step : BitVec 64) (s : State) : Host.Outcome State Fault Refusal :=
  go (match s.links.exchanges.find? fun x => x.step == step && !x.done with
    | none => s
    | some x =>
      if x.dueAt + 1000000 * s.links.collTimeoutMs.toNat ≤ s.now then
        failExchange step .linkTimeout (linkCount (fun c => { c with verdictTimeouts := addSat c.verdictTimeouts 1 }) s)
      else s)

end Sys2Proof.Machine
end

