-- ==== Sys2Proof/Machine/Abandon.lean ====
section
/-!
DEFINITION. Ending every admitted command at once (10: R376, R382, R385, R386), and the fault that takes the module out of service.
-/
namespace Sys2Proof.Machine

/-- Commands that `p` selects complete with a status, in admission order, whatever their units are doing. -/
def pushAll (p : Cmd → Bool) (st : Status) (detail : Nat) (s : State) : State :=
  let out := s.host.cmds.filter p
  let s := { s with host := { s.host with cmds := s.host.cmds.filter fun c => !p c } }
  out.foldl (fun s c => retire c st detail s) s

/-- The accumulators of an abandoned pass: free values from number `k` on (R386). -/
def freeAcc (k : Nat) : Vector (Vector (BitVec 32) 128) 2048 :=
  .ofFn fun v => .ofFn fun c => BitVec.ofNat 32 (Config.freeNat (k + 128 * v.val + c.val))

/-- A tile's passes are abandoned (R386). -/
def abandonPasses (k : Nat) (a : ArrayUnit) : ArrayUnit :=
  { a with
    queue := [], openGroup := none, groups := [], feed := [], rowq := [], chain := (freeChain a).chain, flights := [], acc := freeAcc k,
    outq := [], poison := false }

/-- A tile's program stops as on an error (R386). -/
def haltTile (s : State) (t : Fin 128) : State :=
  let x := getTile s t
  let s := updTile t (fun x => { stopRun .stateConflict x with progs := [] }) s
  if x.arr.queue.isEmpty then s
  else { updTile t (fun x => { x with arr := abandonPasses s.free x.arr }) s with free := s.free + 262144 }

/-- Whether a GATHER has bags under way: dispatched, and not ended. -/
def bagsRun (r : GatherRun) : Bool := decide (r.ended < r.next)

/-- A row engine dispatches no further bags; those dispatched end (R386). -/
def haltEngine (g : Engine) : Engine :=
  let keep (x : EngineCmd) : Option EngineCmd :=
    match x with
    | .gather r => if bagsRun r then some (.gather { r with stop := r.stop.orElse fun _ => some .stateConflict }) else none
    | .refresh _ => none
  { g with queue := g.queue.filterMap keep, prescans := [], steps := g.steps.map fun x => { x with scatters := [] } }

/-- The row engines stop their commands. -/
def haltRows (r : Rows) : Rows :=
  { r with
    engines := r.engines.map haltEngine, merges := [], optimises := [], exports := [], imports := [], batches := r.batches.filter fun b => b.step.isSome }

/-- The history commands stop (R259, R386). -/
def haltHistory (h : History) : History :=
  { h with cmds := [], fwd := [], slots := h.slots.map fun x => x.map fun y => { y with stall := none } }

/-- The collective descriptors end and send ABORT (R344, R346, R386). -/
def haltColls (s : State) : State :=
  (List.finRange 4).foldl (fun s u => s.links.units[u].queue.foldl (fun s c => endColl u c .stateConflict 0 (sendAborts c none 0 s)) s) s

/-- What an engine fetches ahead for commands that end here is not wanted any more (R299). -/
def haltAhead (e : Fin 16) (s : State) : State :=
  let g := getEng s e
  let idle := g.queue.filterMap fun x => match x with | .gather r => if bagsRun r then none else some r.cmd | .refresh _ => none
  let ids := g.prescans.flatMap fun r => r.fetches.flatMap fun f => f.reqs.filterMap fun q => q.req
  idle.foldl (fun s c => dropLines e c s) (ids.foldl (fun s id => orphanReq .ahead id s) s)

/-- Every unit stops the work of commands that have ended; accesses that such work waits for serve nobody any more. Records that are being
written go on (R54). -/
def haltUnits (s : State) : State :=
  let s := (List.finRange 16).foldl (fun s e => haltAhead e s) (haltColls s)
  let s := { s with rows := haltRows s.rows, hist := haltHistory s.hist, tile := { s.tile with cmds := [] } }
  let s := (List.finRange 128).foldl haltTile s
  (s.mem.io.filter fun p => !ofRecord p.who p.key).foldl (fun s p => ioForget p.who p.key s) s

/-- The COPYs stop and complete once their requests have ended (R386). -/
def haltCopies (s : State) : State :=
  (List.finRange 16).foldl (fun s k => s.host.engines[k].queue.foldl (fun s r => stopCopy k r.cmd .stateConflict s) s) s

/-- An engine's requests on the PCIe link are lost (R382): its COPYs end, and T2 requests fail as through an invalid translation. -/
def loseEngine (s : State) (k : Fin 16) : State :=
  let g := s.host.engines[k]
  let far := g.waiting ++ g.slots.filterMap fun x => match x with | .far id _ => some id | .copy .. => none
  let own := (g.slots.flatMap fun x => match x with | .copy _ _ _ _ _ ids _ => ids | .far .. => []) ++
    g.queue.flatMap fun r => r.acks.flatMap fun a => a.1
  let s := updEngine k (fun g => { g with queue := [], slots := [], waiting := [] }) s
  let s := far.foldl (fun s id => endReq id .addressRange [] s) s
  let s := own.foldl (fun s id => orphanReq .nobody id s) s
  g.queue.foldl (fun s r => completeCmd r.cmd .stateConflict r.moved (ioForget (whoCopy k) r.cmd s)) s

/-- Requests on the PCIe link are lost (R382). The deferred drain only stops: it gives up what it has asked for (R232). -/
def loseRequests (s : State) : State := (List.finRange 16).foldl loseEngine (haltDrains s)

/-- DETAIL of a command that re-initialisation or RELEASE ends (R374). -/
def endedDetail : Nat := 2 ^ 64 - 1

/-- Whether REINIT and RELEASE end a command at once: STEP_END completes with its step, and COPY after its requests (R386). -/
def endsAtOnce (c : Cmd) : Bool := slotOpcode c.slot != 0x02 && slotOpcode c.slot != 0x18

/-- Every admitted command ends (R386, item 3). What DETAIL a COPY has, which R386 and R374 both name, is inferred (DEDUCED: the
bytes). -/
def abandonAll (s : State) : State := haltCopies (haltUnits (pushAll endsAtOnce .stateConflict endedDetail s))

/-- A step is sealed without a STEP_END (R382, R386). -/
def sealStep (n : BitVec 64) (s : State) : State :=
  match findStep s n with
  | some p => if p.closedToWork then s else sealAll n (updStep n (fun p => { p with closedToWork := true }) s)
  | none => s

/-- REINIT resolves a step (R386, item 4). -/
def reinitStep (s : State) (p : Step) : State :=
  let s := sealStep p.num s
  match p.state with
  | .stOpen => contribute p.num (abortStep p.num .stateConflict false s)
  | .decidedCommit => abortStep p.num .stateConflict false s
  | _ => s

/-- Whether a step is in its local commit sequence or publishes. -/
def committing (s : State) : Bool := s.train.steps.any fun p => p.state == .committing || p.state == .publishing

/-- Whether REINIT has commands to end or steps to resolve. -/
def reinitLeft (s : State) : Bool :=
  (s.host.cmds.any endsAtOnce) || (s.host.engines.toList.any fun g => g.queue.any fun r => r.stop.isNone) ||
  s.train.steps.any fun p => !p.closedToWork || p.state == .stOpen || p.state == .decidedCommit

/-- REINIT's items 3 and 4, once every step that commits has closed (R386). -/
def reinitGo (s : State) : State :=
  match s.host.dev, s.host.session.op with
  | .draining, some (.reinit ..) =>
    if committing s ∨ !reinitLeft s then s else let s := abandonAll s; s.train.steps.foldl reinitStep s
  | _, _ => s

/-- The device faults (R376): every admitted command completes with INTERNAL. -/
def enterFaulted (s : State) : State :=
  let s := haltUnits (pushAll (fun _ => true) .internal 0 (setDev .faulted s))
  let far (x : CopySlot) : Bool := match x with | .far .. => true | .copy .. => false
  let drop (g : CopyEngine) : CopyEngine := { g with queue := [], slots := g.slots.filter far }
  { s with host := { s.host with engines := s.host.engines.map drop, heldDue := false } }

/-- DEVICE_FAULT (R376). -/
def execDeviceFault (s : State) : Host.Outcome State Fault Refusal := go (if s.host.dev = .off then s else enterFaulted s)

end Sys2Proof.Machine
end

