-- ==== Sys2Proof/Machine/Train.lean ====
section
/-!
DEFINITION. The local commit sequence, publishing and the closing of a step (01: R27, R39 to R47, R54 to R55; 04: R166).
-/
namespace Sys2Proof.Machine

/-- The command that is running for a step, if any has not completed; STEP_BEGIN and STEP_END do not count. -/
def cmdsOf (s : State) (n : BitVec 64) : List Cmd := s.host.cmds.filter fun c => c.step == some n

/-- Whether a command of a step with a phase tag has not completed. -/
def phaseLeft (s : State) (n : BitVec 64) (phase : Nat) : Bool := (cmdsOf s n).any fun c => slotPhase c.slot == phase

/-- Whether every re-execution of a step has ended (R36). -/
def redosDone (p : Step) : Bool := p.earlies.all fun e => e.redo.isEmpty && e.running.isEmpty

/-- Whether a step may enter COMMITTING (R27). -/
def mayCommit (s : State) (p : Step) : Bool :=
  p.state == .decidedCommit && p.closedToWork && !phaseLeft s p.num 9 && redosDone p && !earlierOpen s p.num

/-- COMMIT_START (R27, R39): the step enters COMMITTING and item 1 begins. -/
def execCommitStart (step : BitVec 64) (s : State) : Host.Outcome State Fault Refusal :=
  go (match findStep s step with
    | some p => if mayCommit s p then commitItem1 step (updStep step (fun p => { p with state := .committing }) s) else s
    | none => s)

/-- COMMIT_LOG_WAIT_END (R39, R230): item 1 goes on as far as the deferred log has room. -/
def execCommitLogWaitEnd (step : BitVec 64) (s : State) : Host.Outcome State Fault Refusal :=
  go (match findStep s step with
    | some p => if p.state = .committing ∧ p.item = .item1 ∧ p.torn.isNone then commitItem1 step s else s
    | none => s)

/-- The selectors of the shards that a step's optimisers wrote are inverted (R34, R112). -/
def flipShards (n : BitVec 64) (s : State) : State :=
  let f (x : Shard) : Shard := if x.marks.contains n then { x with sel := !x.sel, marks := x.marks.filter fun m => m != n } else x
  { s with tile := { s.tile with tiles := s.tile.tiles.map fun t => { t with shards := t.shards.map f } } }

/-- A step that does not commit leaves the selectors as they are (R34). -/
def unmarkShards (n : BitVec 64) (s : State) : State :=
  let f (x : Shard) : Shard := { x with marks := x.marks.filter fun m => m != n }
  { s with tile := { s.tile with tiles := s.tile.tiles.map fun t => { t with shards := t.shards.map f } } }

/-- 16,777,216.0, the largest loss scale (R166). -/
def maxScale : BitVec 32 := 0x4B800000

/-- Growth of the loss scale at item 4 (R166). -/
def growScale (n : Numerics) : Numerics :=
  if n.lossMode ≠ 1 then n
  else
    let c := n.lossClean.toNat + 1
    if c ≥ n.lossInterval.toNat then
      let v := fmul n.lossScale n.lossFactor
      { n with lossScale := if flt maxScale v then maxScale else v, lossClean := 0, lossUp := addSat n.lossUp 1 }
    else { n with lossClean := BitVec.ofNat 32 c }

/-- Reduction of the loss scale when a step closes SKIPPED with cause bit 0 (R166). -/
def cutScale (n : Numerics) : Numerics :=
  if n.lossMode ≠ 1 then n
  else
    let v := fdiv n.lossScale n.lossFactor
    { n with lossScale := if flt v one32 then one32 else v, lossClean := 0, lossDown := addSat n.lossDown 1 }

/-- Items 3 to 5 of the local commit sequence (R39); the step goes to PUBLISHING and held COMMIT-tagged commands may start. -/
def finishCommit (n : BitVec 64) (s : State) : State :=
  let s := flipShards n s
  let s := { s with num := growScale s.num, train := { s.train with lastCommitted := n } }
  runHeld (updStep n (fun p => { p with state := .publishing, item := .done }) s)

/-- LOCAL_COMMIT_COMPLETE (R39, R225): every engine has applied the step's entries. -/
def execLocalCommitComplete (step : BitVec 64) (s : State) : Host.Outcome State Fault Refusal :=
  go (match findStep s step with
    | some p =>
      if p.state = .committing ∧ p.item = .item2 ∧ p.torn.isNone ∧ allApplied s step then finishCommit step s else s
    | none => s)

/-- The value of an outcome (R41). -/
def outcomeCode : StepOutcome → Nat
  | .stillOpen => 0 | .committed => 1 | .skipped => 2 | .aborted => 3 | .held => 4 | .torn => 5

/-- The outcome with which a step may close now (R27), if it may. -/
def mayClose (s : State) (p : Step) : Option StepOutcome :=
  let idle := p.closedToWork && (cmdsOf s p.num).isEmpty
  match p.state with
  | .decidedSkip => if idle then some .skipped else none
  | .committing => if p.torn.isSome then some .torn else none
  | .publishing => if phaseLeft s p.num 10 then none else some .committed
  | .aborting => if idle && p.earlies.all (fun e => e.running.isEmpty) then some (if p.abortHeld then .held else .aborted) else none
  | _ => none

/-- The status of STEP_END (R41). -/
def closeStatus (p : Step) : StepOutcome → Status
  | .committed => p.publishFail.getD .ok
  | .skipped => .verdictSkipped
  | .aborted => p.abort.getD .internal
  | .held => .stateConflict
  | .torn => p.torn.getD .internal
  | .stillOpen => .ok

/-- DETAIL of STEP_END (R374): outcome, skip cause, and whether the record could not be written. -/
def closeDetail (p : Step) (failed : Bool) : Nat :=
  outcomeCode p.outcome + (p.decision.map fun d => d.cause.toNat).getD 0 * 2 ^ 8 + b2n failed * 2 ^ 16

/-- The phase record of a step as it stands (R54, R55): an open step's re-executions are counted live. -/
def recordAt (s : State) (q : BitVec 64) : PhaseRec :=
  let r := s.train.ring[ringSlot q]
  match s.train.steps.find? fun p => p.ring == q with
  | some p => { r with earlyUsed := !p.earlies.isEmpty, earlyRedos := min (p.earlies.filter fun e => e.counted).length 65535 }
  | none => r

/-- A phase record as 1,024 bits (R55). -/
def recordBits (r : PhaseRec) : BitVec 1024 :=
  let phases := ((List.finRange 16).map fun p => r.phaseNs[p] * 2 ^ (32 * p.val)).sum
  BitVec.ofNat 1024 (r.step.toNat + r.startNs % 2 ^ 64 * 2 ^ 64 + r.wallNs * 2 ^ 128 + r.idleNs * 2 ^ 160 + outcomeCode r.outcome * 2 ^ 192 +
    r.profile.toNat * 2 ^ 200 + b2n r.saturated * 2 ^ 208 + b2n r.earlyUsed * 2 ^ 209 + b2n r.publishFailed * 2 ^ 210 +
    b2n r.forced * 2 ^ 211 + r.skipCause.toNat * 2 ^ 224 + r.earlyRedos * 2 ^ 232 + phases * 2 ^ 256 + r.norm.toNat * 2 ^ 768 +
    r.clip.toNat * 2 ^ 800)

/-- Outcomes are counted (R56). -/
def countOutcome (o : StepOutcome) (t : Train) : Train :=
  match o with
  | .committed => { t with stepsCommitted := addSat t.stepsCommitted 1 }
  | .skipped => { t with stepsSkipped := addSat t.stepsSkipped 1 }
  | .aborted => { t with stepsAborted := addSat t.stepsAborted 1 }
  | .held => { t with stepsAborted := addSat t.stepsAborted 1 }
  | .torn => { t with stepsTorn := addSat t.stepsTorn 1 }
  | .stillOpen => t

/-- What an outcome does to the rest of the module (R42, R43, R166, R229, R497). -/
def applyOutcome (p : Step) (o : StepOutcome) (s : State) : State :=
  let s := unmarkShards p.num s
  match o with
  | .skipped =>
    if (p.decision.map fun d => bit d.cause 0) == some true then { s with num := cutScale s.num } else s
  | .torn =>
    let halt := stopDrain .internal (tornTables s p.num) s
    endUnstartedOf p.num (tearRows p.num { halt with rows := { halt.rows with obj := { halt.rows.obj with restoreRequired := true } } })
  | _ => s

/-- The key under which the front end writes the record of a step (R54). -/
def recordKey (p : Step) : Nat := opKey kRecord p.num.toNat

/-- The bytes of a step's record (R55). -/
def recordData (p : Step) (s : State) : Data := clean (bytesOf 128 (recordBits (recordAt s p.ring)))

/-- The write to RECORD_DVA begins or goes on (R54): to T0, T1 or T2, and how far it has come. -/
def writePhaseRecord (p : Step) (s : State) : State × IoRes :=
  ioAccess .cmd whoFront (recordKey p) { ioWrite p.recordDva.toNat (recordData p s) with hi := 2 } s

/-- A closed step stops being open (R20, R27): its STEP_END completes, and what its programs may still ask for stays known. -/
def leaveStep (p : Step) (failed : Bool) (s : State) : State :=
  let past : PastStep := { num := p.num, decision := p.decision, lossScale := p.lossScale }
  let runs (n : BitVec 64) : Bool := !(cmdsOf s n).isEmpty
  let t := s.train
  let s := { s with train := { t with
    steps := t.steps.filter fun q => q.num != p.num, past := (past :: t.past.filter fun q => q.num != p.num).filter fun q => runs q.num } }
  match p.endCmd with
  | some id => completeCmd id (closeStatus p p.outcome) (closeDetail p failed) s
  | none => s

/-- A step closes with an outcome (R41, R54): final record, counters, and the write of the record, for whose acknowledgement its
STEP_END waits; where no STEP_END waits the write is posted. A REINIT that waited for it goes on (R386). -/
def closeStep (p : Step) (o : StepOutcome) (s : State) : State :=
  let n := p.num
  let final (r : PhaseRec) : PhaseRec :=
    { r with
      outcome := o, publishFailed := o == .committed && p.publishFail.isSome, earlyUsed := !p.earlies.isEmpty,
      earlyRedos := min (p.earlies.filter fun e => e.counted).length 65535 }
  let s := updRecord p final { s with train := countOutcome o s.train }
  let s := rowsCloseStep n (applyOutcome p o s)
  let s := updStep n (fun q => { q with state := .closed, outcome := o }) s
  let p := { p with outcome := o, state := .closed }
  let s :=
    if !p.record then leaveStep p false s
    else if p.endCmd.isNone then leaveStep p false (postWrite whoFront (recordKey p) p.recordDva.toNat (recordData p s) s)
    else
      let w := writePhaseRecord p s
      match w.2 with
      | .fail _ => leaveStep p true (countRecordFail (ioForget whoFront (recordKey p) w.1))
      | _ => updStep n (fun q => { q with recordWait := some (recordKey p) }) w.1
  reinitGo (runHeld s)

/-- STEP_CLOSE (R27, R41, R45): a step that may close closes; a contribution that is due is sent first. -/
def execStepClose (step : BitVec 64) (s : State) : Host.Outcome State Fault Refusal :=
  let s := contribute step s
  go (match findStep s step with
    | none => s
    | some p => match mayClose s p with
      | some o => closeStep p o s
      | none => s)

/-- RECORD_WRITE_ACK (R54): the write of a closed step's record has been acknowledged, or has failed. One that waits for its translation
goes on. -/
def execRecordWriteAck (step : BitVec 64) (ok : Bool) (s : State) : Host.Outcome State Fault Refusal :=
  go (match findStep s step with
    | none => s
    | some p => match p.recordWait with
      | none => s
      | some key =>
        let w := writePhaseRecord p s
        match w.2, ok with
        | .done _, true => leaveStep p false (ioForget whoFront key w.1)
        | .fail _, false => leaveStep p true (countRecordFail (ioForget whoFront key w.1))
        | _, _ => w.1)

end Sys2Proof.Machine
end

