-- ==== Sys2Proof/Machine/Session.lean ====
section
/-!
DEFINITION. Front-end resets and the session (10: R351, R376, R378 to R386, R388; 01: R47).
-/
namespace Sys2Proof.Machine

/-- The host interface changed by `f`. -/
def updHost (f : HostIf → HostIf) (s : State) : State := { s with host := f s.host }

/-- The session changed by `f`. -/
def updSession (f : Session → Session) (s : State) : State := updHost (fun h => { h with session := f h.session }) s

/-- Whether the function answers memory requests of the host: with power (R8), and outside D3hot (R350). -/
def functionAnswers (s : State) : Bool := s.host.dev != .off && !s.host.pcie.d3hot

/-- Whether BAR0's registers other than STATE answer (R377). -/
def bar0Open (s : State) : Bool := functionAnswers s && s.host.dev != .booting

/-- The session record takes a copy of the queues (R379). -/
def copyQueues (s : State) : State := updSession (fun x => { x with recSq := s.host.sqs, recCq := s.host.cqs }) s

/-- A step of a module whose front end is reset (R47, R382): it is sealed, and one in OPEN aborts with outcome HELD. -/
def holdStep (s : State) (p : Step) : State :=
  let s := sealStep p.num s
  if p.state = .stOpen then contribute p.num (abortStep p.num .stateConflict true s) else contribute p.num s

/-- BAR0, the queue registers, fences and slots fetched and not admitted are lost (R351); a mailbox request in progress loses its
response (R410). What a region of the record showed of a comparison is presented anew (DEDUCED). -/
def clearFront (s : State) : State :=
  let lost (b : Mailbox) : Nat := b.orphans + b2n b.busy
  let s := updDict (fun d => { d with mailbox := { Mailbox.reset with orphans := lost d.mailbox } }) s
  let s := updHost (fun h => { h with bar0 := .reset, sqs := .replicate 64 .reset, cqs := .replicate 64 .reset, arb := 0, arbUsed := 0 }) s
  updSession (fun x => { x with
    result := .ok, select := 0, tagAddr := 0, reading := none,
    regions := x.regions.map fun r => { r with verified := false, mismatch := false } }) s

/-- A front-end reset (R351, R381, R382, R388). In RUNNING every open step is resolved and HELD follows; in UPDATING and in a drain it
comes when that ends. That COPYs in flight end in every state is inferred (DEDUCED). -/
def frontEndReset (s : State) : State :=
  if s.host.dev = .off then s else
  let s := hostCount (fun c => { c with frontEndResets := addSat c.frontEndResets 1 }) s
  let first := !s.host.heldDue && (s.host.dev == .running || s.host.dev == .updating)
  let s := clearFront (if first then copyQueues s else s)
  let due := match s.host.dev with
    | .running => true
    | .draining => true
    | .updating => s.host.session.live
    | _ => false
  let s := updHost (fun h => { h with heldDue := h.heldDue || due }) s
  let s := if s.host.dev = .running then s.train.steps.foldl holdStep s else s
  loseRequests s

/-- PERST_N_ASSERT (R351): one front-end reset; the link goes down. -/
def execPerstNAssert (s : State) : Host.Outcome State Fault Refusal :=
  go (if s.host.pcie.perst then s
    else frontEndReset (updHost (fun h => { h with pcie := { perst := true, linkUp := false, cto := 0, d3hot := false } }) s))

/-- PERST_N_DEASSERT: the link trains and the host may enumerate the module again. Without power nothing trains (R8). -/
def execPerstNDeassert (s : State) : Host.Outcome State Fault Refusal :=
  go (updHost (fun h => { h with pcie := { h.pcie with perst := false, linkUp := h.dev != .off } }) s)

/-- Configuration space is cleared (R350, R351). -/
def clearConfigSpace (s : State) : State := updHost (fun h => { h with pcie := { h.pcie with cto := 0, d3hot := false } }) s

/-- HOT_RESET (R351). -/
def execHotReset (s : State) : Host.Outcome State Fault Refusal :=
  go (frontEndReset (clearConfigSpace s))

/-- PCIE_LINK_DOWN (R351). -/
def execPcieLinkDown (s : State) : Host.Outcome State Fault Refusal :=
  go (frontEndReset (updHost (fun h => { h with pcie := { h.pcie with linkUp := false } }) (clearConfigSpace s)))

/-- FUNCTION_LEVEL_RESET (R350, R351). -/
def execFunctionLevelReset (s : State) : Host.Outcome State Fault Refusal :=
  go (frontEndReset (clearConfigSpace s))

/-- Whether a step no longer keeps the module from HELD: it has closed or waits in item 1 (R382, R232). -/
def restsForHeld (p : Step) : Bool := p.state == .closed || (p.state == .committing && p.item == .item1 && p.torn.isNone)

/-- ENTER_HELD (R382). -/
def execEnterHeld (s : State) : Host.Outcome State Fault Refusal :=
  go (if s.host.heldDue ∧ s.host.dev = .running ∧ s.train.steps.all restsForHeld then enterHeldNow s else s)

/-- HOST_WATCHDOG_EXPIRY (R383): as a front-end reset, with the link and configuration space as they are. -/
def execHostWatchdogExpiry (s : State) : Host.Outcome State Fault Refusal :=
  let h := s.host
  go (if h.dev = .running ∧ !h.heldDue ∧ h.watchdogMs ≠ 0 ∧ h.lastBeat + 1000000 * h.watchdogMs.toNat ≤ s.now then frontEndReset s else s)

/-- HEARTBEAT (R354, R383). -/
def execHeartbeat (_ : BitVec 64) (s : State) : Host.Outcome State Fault Refusal :=
  go (if bar0Open s then updHost (fun h => { h with lastBeat := s.now }) s else s)

/-- A session operation is done (R378). -/
def sessionDone (st : Status) (s : State) : State := updSession (fun x => { x with op := none, result := st }) s

/-- The session and its record end (R378, R385). -/
def endSession (s : State) : State :=
  updSession (fun x => { x with live := false, regions := .replicate 192 .none, reading := none, held := [] }) s

/-- Whether a write of SESSION_OP counts now (R378). -/
def sessionFree (s : State) : Bool := bar0Open s && s.host.session.op.isNone

/-- The device enters RUNNING; the host watchdog counts from here (R383; from when it counts is inferred, DEDUCED). -/
def enterRunning (s : State) : State := setDev .running (updHost (fun h => { h with lastBeat := s.now }) s)

/-- A session record starts at SESSION_AREA (R378, R379): what stood there is lost, and what stands there from now on is a free value. -/
def startRecord (s : State) : State :=
  { s with free := s.free + 1, mem := { s.mem with t1 := memWrite s.mem.t1 s.host.sessionArea.toNat (freeData s.free (2 ^ 20)) } }

/-- SESSION_OPEN (R378). -/
def execSessionOpen (s : State) : Host.Outcome State Fault Refusal :=
  go (if !sessionFree s then s
    else if s.host.dev ≠ .ready then sessionDone .stateConflict s
    else if s.host.sessionArea = 0 then sessionDone .addressRange s
    else
      let s := updSession (fun x => { x with id := x.id + 1 }) (endSession s)
      enterRunning (sessionDone .ok (startRecord (updSession (fun x => { x with live := true }) s))))

/-- SESSION_CLOSE (R378): fetching stops at once, and the drain goes on. -/
def execSessionClose (s : State) : Host.Outcome State Fault Refusal :=
  go (if !sessionFree s then s
    else if s.host.dev ≠ .running ∨ s.host.heldDue ∨ stepOpen s then sessionDone .stateConflict s
    else setDev .draining (sessionDone .ok s))

/-- A submission queue at RESUME (R384, item 1): a restored one holds nothing new until its TAIL doorbell is written (DEDUCED). -/
def resumeSq (x r : SQueue) (verified : Bool) : SQueue :=
  let h := if verified then r.head else 0
  { x with head := h, tail := if x.rung then x.tail else h, fence := none }

/-- A completion queue at RESUME (R384, item 2). -/
def resumeCq (x r : CQueue) (verified : Bool) : CQueue :=
  if verified then { x with tail := r.tail, phase := r.phase } else { x with tail := 0, phase := true }

/-- A region of a session. -/
def regionAt (s : State) (k : Nat) : Region := s.host.session.regions[(fin k : Fin 192)]

/-- The held completions that RESUME writes, and how many it discards (R384, item 5). -/
def resumeHeld (s : State) : List Completion × Nat :=
  let live (c : Completion) : Bool := s.host.sqs[c.sq].enable && (s.host.cqs[(fin s.host.sqs[c.sq].cq.toNat : Fin 64)]).enable
  let out := s.host.session.held.filter live
  (out, s.host.session.held.length - out.length)

/-- RESUME (R384). -/
def resume (s : State) : State :=
  let x := s.host.session
  let ver (k : Nat) : Bool := (regionAt s k).verified
  let sqs := Vector.ofFn fun (q : Fin 64) => resumeSq s.host.sqs[q] x.recSq[q] (ver q.val)
  let cqs := Vector.ofFn fun (q : Fin 64) => resumeCq s.host.cqs[q] x.recCq[q] (ver (64 + q.val))
  let far := Vector.ofFn fun (k : Fin 64) => if ver (128 + k.val) then s.mem.farMap[k] else setFld s.mem.farMap[k] 0 0 0
  let s := updHost (fun h => { h with sqs := sqs, cqs := cqs }) { s with mem := { s.mem with farMap := far } }
  let s := enterRunning s
  let r := resumeHeld s
  let s := updHost (fun h => { h with done := r.1 ++ h.done }) s
  let s := if r.2 = 0 then s else setEvent 3 (hostCount (fun c => { c with heldCqDropped := addSat c.heldCqDropped r.2 }) s)
  let keep (g : Region) : Region := if g.verified then { g with verified := false } else .none
  let s := updSession (fun x => { x with held := [], regions := x.regions.map keep }) s
  hostCount (fun c => { c with sessionsResumed := addSat c.sessionsResumed 1 }) s

/-- SESSION_RESUME (R384). -/
def execSessionResume (s : State) : Host.Outcome State Fault Refusal :=
  go (if !sessionFree s then s
    else if s.host.dev ≠ .held then sessionDone .stateConflict s
    else runHeld (sessionDone .ok (resume s)))

/-- A step that waits in item 1 when the session is released closes as TORN with INTERNAL (R232). -/
def tearWaiting (s : State) : State :=
  let tear (p : Step) : Step := if p.state = .committing then { p with torn := p.torn.orElse fun _ => some .internal } else p
  { s with train := { s.train with steps := s.train.steps.map tear } }

/-- RELEASE (R385, items 1 to 6). -/
def release (s : State) : State :=
  let s := tearWaiting (discardDeferred (abandonAll (setDev .draining s)))
  let s := { s with hist := { s.hist with slots := .replicate 256 none } }
  updSession (fun x => { x with op := some .release, held := [], regions := .replicate 192 .none }) s

/-- SESSION_RELEASE (R385). -/
def execSessionRelease (s : State) : Host.Outcome State Fault Refusal :=
  go (if !sessionFree s then s else if s.host.dev ≠ .held then sessionDone .stateConflict s else release s)

/-- SESSION_REINIT (R386). -/
def execSessionReinit (s : State) : Host.Outcome State Fault Refusal :=
  go (if !sessionFree s then s
    else if s.host.dev ≠ .running ∧ s.host.dev ≠ .draining then sessionDone .stateConflict s
    else
      let after := s.host.dev == .draining
      let s := hostCount (fun c => { c with reinits := addSat c.reinits 1 }) (setDev .draining s)
      reinitGo (updSession (fun x => { x with op := some (.reinit s.now after) }) s))

/-- REINIT_TIMEOUT (R386). -/
def execReinitTimeout (s : State) : Host.Outcome State Fault Refusal :=
  go (match s.host.session.op with
    | some (.reinit t _) => if t + 100000000 ≤ s.now then enterFaulted (sessionDone .internal s) else s
    | _ => s)

/-- Whether a CQ has room for a record (R359). -/
def cqRoom (x : CQueue) : Bool :=
  let n := queueSize x.sizeLog2
  x.enable && decide ((x.tail.toNat + n - x.head.toNat) % n < n - 1)

/-- The CQ that receives a completion (R356). -/
def cqOf (s : State) (c : Completion) : Fin 64 := fin s.host.sqs[c.sq].cq.toNat

/-- The first completion, in completion order, that its CQ can take (R359). -/
def writable (s : State) : Option Completion := s.host.done.find? fun c => cqRoom s.host.cqs[cqOf s c]

/-- Whether every unit has ended the work of ended commands. -/
def unitsQuiet (s : State) : Bool :=
  s.host.cmds.isEmpty && s.train.steps.isEmpty && (s.tile.tiles.toList.all fun t => t.run.isNone && t.progs.isEmpty) &&
  (s.rows.engines.toList.all fun g => g.queue.isEmpty) && s.host.engines.toList.all fun g => g.queue.isEmpty

/-- The queues after REINIT (R386, item 5). -/
def reinitQueues (s : State) : State :=
  updHost (fun h => { h with
    sqs := h.sqs.map fun q => { q with enable := false, head := 0, tail := 0, rung := false, waiting := none, fence := none },
    cqs := h.cqs.map fun q => { q with enable := false, tail := 0, head := 0, phase := true, news := 0 } }) s

/-- Whether a completion is still to be written: its CQ is enabled and has no room yet (R386, item 5). -/
def owesRecords (s : State) : Bool := s.host.done.any fun c => s.host.cqs[cqOf s c].enable

/-- The device goes back to READY when a drain ends. Completions that RELEASE ends commands with go the way of the held ones (R385), and
those whose CQ is not enabled are discarded with the session (DESIGN CHOICE). -/
def drainToReady (s : State) : State :=
  setDev .ready (updHost (fun h => { h with heldDue := false, done := [] }) (disableQueues (endSession s)))

/-- DRAIN_END (R376, R378, R385, R386, R388). -/
def execDrainEnd (s : State) : Host.Outcome State Fault Refusal :=
  let s := reinitGo s
  go (if s.host.dev ≠ .draining then s
    else match s.host.session.op with
      | none =>
        if s.host.cmds.isEmpty ∧ s.host.done.isEmpty ∧ s.host.sqs.toList.all (fun q => q.waiting.isNone) then drainToReady s else s
      | some .release =>
        if unitsQuiet s then
          hostCount (fun c => { c with sessionsReleased := addSat c.sessionsReleased 1 }) (sessionDone .ok (drainToReady s))
        else s
      | some (.reinit _ after) =>
        if !unitsQuiet s ∨ owesRecords s then s
        else
          let s := sessionDone .ok (reinitQueues s)
          if after then drainToReady s else if s.host.heldDue then enterHeldNow (copyQueues s) else enterRunning s)

end Sys2Proof.Machine
end

