-- ==== Sys2Proof/Machine/FrontEnd.lean ====
section
/-!
DEFINITION. The host's registers and apertures (10): queue configuration and doorbells (R356, R357), completion records and interrupts
(R359, R361), region headers (R380), BAR2 (R355), and what the global registers read as (R354).
-/
namespace Sys2Proof.Machine

/-- A submission queue changed by `f`. -/
def updSq (q : Fin 64) (f : SQueue → SQueue) (s : State) : State := updHost (fun h => { h with sqs := updAt h.sqs q f }) s

/-- A completion queue changed by `f`. -/
def updCq (q : Fin 64) (f : CQueue → CQueue) (s : State) : State := updHost (fun h => { h with cqs := updAt h.cqs q f }) s

/-- Whether ENABLE of a queue may be set with a SIZE_LOG2 (R356). -/
def mayEnable (s : State) (log2 : Nat) : Bool :=
  (s.host.dev == .running || s.host.dev == .held || s.host.dev == .updating) && decide (4 ≤ log2) && decide (log2 ≤ 12)

/-- SQ_CONFIG_WRITE (R356): word 0 is BASE and word 1 the rest; while ENABLE is 1 only ENABLE changes. -/
def execSqConfigWrite (q : Fin 64) (word : Fin 8) (v : BitVec 64) (s : State) : Host.Outcome State Fault Refusal :=
  go (if !bar0Open s then s
    else match word with
      | 0 => updSq q (fun x => if x.enable then x else { x with base := v }) s
      | 1 => updSq q (fun x =>
          let y := if x.enable then x
            else { x with sizeLog2 := BitVec.ofNat 4 (fld v 3 0), cq := BitVec.ofNat 6 (fld v 9 4), weight := BitVec.ofNat 4 (fld v 13 10) }
          let on := bit v 14 && (x.enable || mayEnable s y.sizeLog2.toNat)
          { y with enable := on, waiting := if on then y.waiting else none }) s
      | _ => s)

/-- CQ_CONFIG_WRITE (R356). -/
def execCqConfigWrite (q : Fin 64) (word : Fin 8) (v : BitVec 64) (s : State) : Host.Outcome State Fault Refusal :=
  go (if !bar0Open s then s
    else match word with
      | 0 => updCq q (fun x => if x.enable then x else { x with base := v }) s
      | 1 => updCq q (fun x =>
          let y := if x.enable then x
            else { x with
              sizeLog2 := BitVec.ofNat 4 (fld v 3 0), vector := BitVec.ofNat 8 (fld v 11 4), irqCount := BitVec.ofNat 16 (fld v 47 32),
              irqDelay := BitVec.ofNat 16 (fld v 63 48) }
          { y with enable := bit v 12 && (x.enable || mayEnable s y.sizeLog2.toNat) }) s
      | _ => s)

/-- SQ_TAIL_DOORBELL (R357). -/
def execSqTailDoorbell (q : Fin 64) (v : BitVec 64) (s : State) : Host.Outcome State Fault Refusal :=
  let n := fld v 15 0
  go (if !bar0Open s then s
    else if n ≥ queueSize s.host.sqs[q].sizeLog2 then disableSq q s
    else updSq q (fun x => { x with tail := BitVec.ofNat 16 n, rung := true }) s)

/-- CQ_HEAD_DOORBELL (R357). -/
def execCqHeadDoorbell (q : Fin 64) (v : BitVec 64) (s : State) : Host.Outcome State Fault Refusal :=
  let n := fld v 15 0
  go (if !bar0Open s then s
    else if n ≥ queueSize s.host.cqs[q].sizeLog2 then setEvent 1 (updCq q (fun x => { x with enable := false }) s)
    else updCq q (fun x => { x with head := BitVec.ofNat 16 n }) s)

/-- A completion record (R361) as a 256-bit word. -/
def completionBits (s : State) (c : Completion) (phase : Bool) : BitVec 256 :=
  BitVec.ofNat 256 (c.tag.toNat + c.opcode.toNat * 2 ^ 16 + c.sq.val * 2 ^ 24 + statusCode c.status * 2 ^ 32 +
    (s.host.sqs[c.sq]).head.toNat * 2 ^ 48 + c.detail.toNat * 2 ^ 64 + c.user.toNat * 2 ^ 128 + b2n phase * 2 ^ 255)

/-- A CQ raises its vector where its count of new records asks for it (R359). -/
def countNews (q : Fin 64) (s : State) : State :=
  let x := s.host.cqs[q]
  let x := { x with news := x.news + 1, oldest := if x.news = 0 then s.now else x.oldest }
  if x.irqCount ≠ 0 ∧ x.irqCount.toNat ≤ x.news then raiseVector x.vector (updCq q (fun _ => { x with news := 0 }) s) else updCq q (fun _ => x) s

/-- A record is written into its CQ (R359, R361). -/
def writeRecord (c : Completion) (s : State) : State :=
  let q := cqOf s c
  let x := s.host.cqs[q]
  let s := emit (.hostWrite ((x.base.toNat + 32 * x.tail.toNat) % 2 ^ 64) (clean (bytesOf 32 (completionBits s c x.phase))) false) s
  let next := (x.tail.toNat + 1) % queueSize x.sizeLog2
  countNews q (updCq q (fun x => { x with tail := BitVec.ofNat 16 next, phase := if next = 0 then !x.phase else x.phase }) s)

/-- A completion leaves those that are due. -/
def dropDone (c : Completion) (s : State) : State := updHost (fun h => { h with done := dropFirst (fun x => x == c) h.done }) s

/-- Whether completions become held ones: in HELD, and from the front-end reset that leads there on (R382). -/
def holdsRecords (s : State) : Bool :=
  s.host.dev == .held || (s.host.heldDue && (s.host.dev == .running || s.host.dev == .updating || (match s.host.session.op with
    | some (.reinit _ after) => !after
    | _ => false)))

/-- Whether completions are discarded: in a RELEASE, and in a drain after CLOSE that has lost its host (R385, R388). -/
def dropsRecords (s : State) : Bool :=
  s.host.dev == .draining && match s.host.session.op with
    | some .release => true
    | some (.reinit _ after) => after && s.host.heldDue
    | none => s.host.heldDue

/-- A completion becomes a held one. The record has room for 4,096 (R379): those of admitted commands, which are no more than that, and
others as far as there is room beside them (DESIGN CHOICE: the spec does not say which are left out). -/
def holdRecord (c : Completion) (s : State) : State :=
  let held := s.host.session.held
  if c.admitted || decide (held.length + inFlight s < 4096) then updSession (fun x => { x with held := held ++ [c] }) (dropDone c s) else dropDone c s

/-- COMPLETION_RECORD_WRITE (R359, R382, R384, R388): the next record is written, held or discarded. -/
def execCompletionRecordWrite (s : State) : Host.Outcome State Fault Refusal :=
  go (settleReady (if holdsRecords s then
      match s.host.done with
      | c :: _ => holdRecord c s
      | [] => s
    else if dropsRecords s then (match s.host.done with | c :: _ => dropDone c s | [] => s)
    else match writable s with
      | some c => writeRecord c (dropDone c s)
      | none => s))

/-- CQ_IRQ_DELAY (R359). -/
def execCqIrqDelay (q : Fin 64) (s : State) : Host.Outcome State Fault Refusal :=
  let x := s.host.cqs[q]
  go (if x.irqCount ≠ 0 ∧ x.irqDelay ≠ 0 ∧ x.news ≠ 0 ∧ x.oldest + 1000 * x.irqDelay.toNat ≤ s.now then
      raiseVector x.vector (updCq q (fun x => { x with news := 0 }) s)
    else s)

/-- Region `k` changed by `f`. -/
def updRegion (k : Fin 192) (f : Region → Region) (s : State) : State :=
  updSession (fun x => { x with regions := updAt x.regions k f }) s

/-- REGION_TAG_ADDR_WRITE (R380). -/
def execRegionTagAddrWrite (v : BitVec 64) (s : State) : Host.Outcome State Fault Refusal :=
  let x := s.host.session
  let k : Fin 192 := fin (min x.select.toNat 191)
  go (if x.reading.isSome ∨ (s.host.dev ≠ .running ∧ s.host.dev ≠ .held) ∨ v.toNat % 64 ≠ 0 then s
    else
      let s := updSession (fun x => { x with tagAddr := v }) s
      if v = 0 then updRegion k (fun _ => .none) s
      else emit (.hostRead v.toNat 64) (updSession (fun x => { x with reading := some k }) s))

/-- The hash of a region header as read, if it could be read (R380). -/
def headerHash : HostResult → Option (BitVec 256)
  | .data d => if poisoned d then none else some (sha256Word (dataBytes (dslice d 0 64)))
  | _ => none

/-- REGION_HEADER_READ (R380): in RUNNING the hash is registered, in HELD it is compared. -/
def execRegionHeaderRead (r : HostResult) (s : State) : Host.Outcome State Fault Refusal :=
  go (match s.host.session.reading with
    | none => s
    | some k =>
      let s := updSession (fun x => { x with reading := none }) s
      let h := headerHash r
      match s.host.dev with
      | .running => updRegion k (fun _ => { hash := h, verified := false, mismatch := false }) s
      | .held =>
        updRegion k (fun g => let same := h.isSome && g.hash == h; { g with verified := same, mismatch := !same }) s
      | _ => s)

/-- REGION_STATE of a region (R354, R380). -/
def regionState (g : Region) : Nat := if g.mismatch then 3 else if g.verified then 2 else if g.hash.isSome then 1 else 0

/-- Whether the BAR2 aperture is open (R354, R377). -/
def bar2Open (s : State) : Bool :=
  s.host.bar0.bar2Enable && match s.host.dev with
    | .off | .booting | .faulted => false
    | _ => true

/-- The device physical address of an aperture offset (R355). -/
def bar2Addr (s : State) (off : BitVec 36) : Nat := (s.host.bar0.bar2Base.toNat * 2 ^ 30 + off.toNat) % 2 ^ 48

/-- Whether a BAR2 access is denied (R355). -/
def bar2Denied (s : State) (c : AccClass) (off : BitVec 36) (n : Nat) (write : Bool) : Bool :=
  !bar2Open s || decide (2 ^ 36 < off.toNat + n) || (pieces (bar2Addr s off) n).any fun p => (accessFails s c p.1 p.2 write).isSome

/-- A denied access is counted (R355). -/
def countBar2 (s : State) : State := hostCount (fun c => { c with bar2Denied := addSat c.bar2Denied 1 }) s

/-- BAR2_READ (R355): its pieces are read where they lie, the far window through the copy engines (R290), and the answer waits for all of
them. -/
def execBar2Read (off : BitVec 36) (len : Nat) (s : State) : Host.Outcome State Fault Refusal :=
  let a := bar2Addr s off
  go (if !functionAnswers s then s
    else if len = 0 then emit (.bar2Data []) s
    else if bar2Denied s .bar2R off len false then emit (.bar2Data (List.replicate len (0xFF, false))) (countBar2 s)
    else let f := freshId s; postPhys (.bar2 f.2 (pieces a len).length) .bar2R whoFront false a len [] f.1)

/-- BAR2_WRITE (R355). -/
def execBar2Write (off : BitVec 36) (bytes : List Byte) (poisoned : Bool) (s : State) : Host.Outcome State Fault Refusal :=
  let a := bar2Addr s off
  go (if !functionAnswers s then s
    else if bar2Denied s .bar2W off bytes.length true then countBar2 s
    else postPhys .nobody .bar2W whoFront true a bytes.length (bytes.map fun b => (b, poisoned)) s)

/-- The code of a device state (R375). -/
def devCode : DevState → Nat
  | .off => 0 | .booting => 1 | .ready => 2 | .running => 3 | .held => 4 | .draining => 5 | .faulted => 6 | .updating => 7

/-- FENCED: bit q is set while SQ q is fenced (R354). -/
def fencedMask (s : State) : Nat := ((List.finRange 64).map fun q => b2n (s.host.sqs[q]).fence.isSome * 2 ^ q.val).sum

/-- IN_FLIGHT (R354, R358): held completions count until they are written. -/
def inFlightNow (s : State) : Nat := inFlight s + (s.host.session.held.filter fun c => c.admitted).length

/-- What a global register reads as (R354); in BOOTING only STATE answers (R377). -/
def globalRead (s : State) (off : Nat) : Nat :=
  let x := s.host.session
  let b := s.host.bar0
  if !bar0Open s ∧ off ≠ 0 then 0
  else match off with
    | 0x000 => devCode s.host.dev + b2n (stepOpen s) * 2 ^ 4 + b2n s.rows.obj.restoreRequired * 2 ^ 5 + b2n x.live * 2 ^ 6
    | 0x010 => statusCode x.result + b2n x.op.isSome * 2 ^ 8 + x.id.toNat * 2 ^ 32
    | 0x018 => fencedMask s
    | 0x020 => b.events.toNat
    | 0x028 => b.eventVector.toNat + b.eventEnable.toNat * 2 ^ 8
    | 0x030 => b2n b.bar2Enable + b.bar2Base.toNat * 2 ^ 30
    | 0x040 => x.select.toNat
    | 0x048 => x.tagAddr.toNat
    | 0x050 => regionState (regionAt s x.select.toNat) + b2n x.reading.isSome * 2 ^ 2
    | 0x058 => inFlightNow s
    | _ => 0

/-- A configuration register of an SQ as it reads (R356). -/
def sqConfigRead (x : SQueue) : BitVec 512 :=
  BitVec.ofNat 512 (x.base.toNat + x.sizeLog2.toNat * 2 ^ 64 + x.cq.toNat * 2 ^ 68 + x.weight.toNat * 2 ^ 74 + b2n x.enable * 2 ^ 78 +
    x.head.toNat * 2 ^ 96)

/-- A configuration register of a CQ as it reads (R356). -/
def cqConfigRead (x : CQueue) : BitVec 512 :=
  BitVec.ofNat 512 (x.base.toNat + x.sizeLog2.toNat * 2 ^ 64 + x.vector.toNat * 2 ^ 68 + b2n x.enable * 2 ^ 76 + x.irqCount.toNat * 2 ^ 96 +
    x.irqDelay.toNat * 2 ^ 112 + x.tail.toNat * 2 ^ 128 + b2n x.phase * 2 ^ 144)

end Sys2Proof.Machine
end

