-- ==== Sys2Proof/Machine/Alerts.lean ====
section
/-!
DEFINITION. Clock domains, what runs, and the alerts (12: R425, R428, R432, R448).
-/
namespace Sys2Proof.Machine

/-- Clocks and power changed by `f`. -/
def updClk (f : Clocks → Clocks) (s : State) : State := { s with clk := f s.clk }

/-- Whether the rails are up. -/
def powered (s : State) : Bool := s.clk.rails == .up

/-- The source multiplexer of a domain (R425). -/
def muxOf (s : State) : Domain → Mux
  | .control => s.clk.control
  | .arith => s.clk.arith
  | .memCtl => s.clk.memCtl

/-- The source multiplexer of a domain changed by `f`. -/
def updMux (d : Domain) (f : Mux → Mux) (s : State) : State :=
  match d with
  | .control => updClk (fun c => { c with control := f c.control }) s
  | .arith => updClk (fun c => { c with arith := f c.arith }) s
  | .memCtl => updClk (fun c => { c with memCtl := f c.memCtl }) s

/-- Whether a multiplexer input runs: the root loop's (R427, R430), or REFCLK. -/
def sourceRuns (s : State) (loop : Bool) : Bool := if loop then s.clk.root.enabled else s.clk.refclk

/-- Whether a domain has a clock: its source runs, and, while its multiplexer switches, the new source too (R428). -/
def domainRuns (s : State) (d : Domain) : Bool :=
  powered s && sourceRuns s (muxOf s d).onLoop && (match (muxOf s d).target with | some t => sourceRuns s t | none => true)

/-- Whether the control domain, with the management cores and the dictionary server, runs. -/
def controlRuns (s : State) : Bool := domainRuns s .control

/-- Whether ALERT_N is asserted (R448). -/
def alertLine (s : State) : Bool := (s.clk.alerts &&& s.clk.alertMask) != 0

/-- A change of the alert registers; an assertion of ALERT_N sets EV_ALERT (R448). -/
def withAlerts (f : Clocks → Clocks) (s : State) : State :=
  let s' := updClk f s
  if !alertLine s && alertLine s' then setEvent 2 s' else s'

/-- A bit of ALERT_STATUS is set (R448). -/
def raiseAlert (k : Nat) (s : State) : State := withAlerts (fun c => { c with alerts := c.alerts ||| (1#16 <<< k) }) s

/-- A bit of ALERT_STATUS is set while its condition holds, and the condition is noted. -/
def noteAlert (k : Nat) (holds : Bool) (s : State) : State :=
  let s := updClk (fun c => { c with holding := if holds then c.holding ||| (1#16 <<< k) else c.holding &&& ~~~(1#16 <<< k) }) s
  if holds then raiseAlert k s else s

/-- Whether the condition of an alert holds now (R448); a failed lock is an event and never holds. -/
def alertHolds (s : State) (k : Nat) : Bool :=
  match k with
  | 0 => !s.clk.refclk
  | 4 => s.clk.lastSkip.any fun t => decide (s.now ≤ t + 100000000)
  | 5 => [Domain.control, .arith, .memCtl].any fun d => (muxOf s d).hung && !domainRuns s d
  | 6 => false
  | _ => bit s.clk.holding k

/-- The alerts that a mask names clear where their conditions no longer hold (R448). -/
def clearAlerts (mask : BitVec 16) (s : State) : State :=
  let stay := (List.range 16).filter fun k => bit s.clk.alerts k && (!bit mask k || alertHolds s k)
  withAlerts (fun c => { c with alerts := BitVec.ofNat 16 ((stay.map fun k => 2 ^ k).sum) }) s

/-- The power counters changed by `f`. -/
def powerCount (f : PowerCounters → PowerCounters) (s : State) : State := updClk (fun c => { c with counters := f c.counters }) s

end Sys2Proof.Machine
end

