-- ==== Sys2Proof/Machine/ClockTree.lean ====
section
/-!
DEFINITION. Loops and multiplexers, loss of the reference, resets and power-up (12: R427 to R439).
-/
namespace Sys2Proof.Machine

/-- A clock loop. -/
def loopOf (s : State) : LoopId → Loop
  | .root => s.clk.root
  | .memPhy k => s.clk.memPhy[k]
  | .linkPhy p => s.clk.linkPhy[p]
  | .pcie => s.clk.pciePhy

/-- A clock loop changed by `f`. -/
def updLoop (l : LoopId) (f : Loop → Loop) (s : State) : State :=
  match l with
  | .root => updClk (fun c => { c with root := f c.root }) s
  | .memPhy k => updClk (fun c => { c with memPhy := updAt c.memPhy k f }) s
  | .linkPhy p => updClk (fun c => { c with linkPhy := updAt c.linkPhy p f }) s
  | .pcie => updClk (fun c => { c with pciePhy := f c.pciePhy }) s

/-- Boot ends in FAULTED (R427, R457, R458). -/
def stopBoot (s : State) : State := enterFaulted (updBoot (fun b => { b with phase := .stopped }) s)

/-- A PHY loop has not locked within 5 ms (R427): it is enabled again, and after three attempts it stays off with LOCK_FAIL. A stack
that cannot be trained ends boot (R457). -/
def phyLate (l : LoopId) (s : State) : State :=
  let x := loopOf s l
  if x.fails + 1 < 3 then updLoop l (fun x => { Loop.start s.now with fails := x.fails + 1 }) s
  else
    let s := raiseAlert 6 (updLoop l (fun _ => { Loop.off with fails := 3 }) s)
    match l with
    | .memPhy _ => if s.host.dev = .booting then stopBoot s else s
    | _ => s

/-- A check that passes: three in a row lock the loop (R427), and the root loop leaves coasting (R431). -/
def lockPass (l : LoopId) (s : State) : State :=
  let n := (loopOf s l).passes + 1
  if n < 3 then updLoop l (fun x => { x with passes := n }) s
  else
    let s := updLoop l (fun x => { x with passes := 3, locked := true, fails := 0 }) s
    match l with
    | .root => updClk (fun c => { c with coasting := false }) s
    | _ => s

/-- A check that fails (R427). -/
def lockFail (l : LoopId) (s : State) : State :=
  let x := loopOf s l
  let s := updLoop l (fun x => { x with passes := 0, locked := false }) s
  if x.locked then
    powerCount (fun c => { c with lockRetries := addSat c.lockRetries 1 }) (updLoop l (fun x => { x with since := s.now }) s)
  else if l ≠ .root ∧ x.since + 5000000 ≤ s.now then phyLate l s
  else s

/-- LOCK_CHECK (R427): the count of a window of 4,096 REFCLK cycles passes only at 4,096. -/
def execLockCheck (l : LoopId) (edges : Nat) (s : State) : Host.Outcome State Fault Refusal :=
  go (if !powered s ∨ !s.clk.refclk ∨ !(loopOf s l).enabled then s
    else if edges = 4096 then lockPass l s else lockFail l s)

/-- ROOT_LOCK_TIMEOUT (R427): 5 ms without a lock, while no domain selects the loop (R429). -/
def execRootLockTimeout (s : State) : Host.Outcome State Fault Refusal :=
  let x := s.clk.root
  let used := [Domain.control, .arith, .memCtl].any fun d => (muxOf s d).onLoop || (muxOf s d).target == some true
  go (if !powered s ∨ !x.enabled ∨ x.locked ∨ used ∨ s.now < x.since + 5000000 then s
    else if x.fails + 1 < 3 then updLoop .root (fun x => { Loop.start s.now with fails := x.fails + 1 }) s
    else stopBoot (raiseAlert 6 (updLoop .root (fun _ => { Loop.off with fails := 3 }) s)))

/-- MUX_SELECT (R428, R429): firmware changes a select; the first half waits for falling edges of the old clock. -/
def execMuxSelect (d : Domain) (sel : Bool) (s : State) : Host.Outcome State Fault Refusal :=
  let m := muxOf s d
  go (if !controlRuns s ∨ m.target.isSome ∨ m.onLoop = sel then s else updMux d (fun m => { m with target := some sel }) s)

/-- MUX_SWITCH_DONE (R428): both halves have seen their edges. -/
def execMuxSwitchDone (d : Domain) (s : State) : Host.Outcome State Fault Refusal :=
  go (match (muxOf s d).target with
    | some t => if domainRuns s d then updMux d (fun m => { m with onLoop := t, target := none }) s else s
    | none => s)

/-- CLOCK_HANG_DETECT (R432): the clock monitor runs on REFCLK. -/
def execClockHangDetect (d : Domain) (s : State) : Host.Outcome State Fault Refusal :=
  go (if !powered s ∨ !s.clk.refclk ∨ (muxOf s d).hung ∨ domainRuns s d then s
    else raiseAlert 5 (updMux d (fun m => { m with hung := true }) s))

/-- A PHY loop without its reference. -/
def unlockLoop (l : Loop) : Loop := { l with passes := 0, locked := false }

/-- T1 loses its contents (R430): every byte is a free value from now on. -/
def loseT1 (s : State) : State := { s with free := s.free + 1, mem := { s.mem with t1 := memLose s.free } }

/-- REFCLK is lost (R430). -/
def loseReference (s : State) : State :=
  let s := updClk (fun c => { c with
    refclk := false, coasting := true, root := unlockLoop c.root, memPhy := c.memPhy.map unlockLoop, linkPhy := c.linkPhy.map unlockLoop,
    pciePhy := unlockLoop c.pciePhy }) s
  let s := powerCount (fun c => { c with refLostEvents := addSat c.refLostEvents 1 }) (raiseAlert 0 s)
  let s := (List.finRange 16).foldl (fun s p => portDown p s) s
  let s := enterFaulted (if s.host.dev = .booting then updBoot (fun b => { b with phase := .stopped }) s else s)
  let up := s.host.pcie.linkUp || !s.host.pcie.perst
  let s := updHost (fun h => { h with pcie := { h.pcie with linkUp := false, cto := 0, d3hot := false } }) s
  let s := if up then frontEndReset s else s
  loseT1 (updHost (fun h => { h with done := [] }) s)

/-- REF_LOSS_DETECT (R430): the loss monitor counts edges in windows of 1,024 cycles of the control clock. -/
def execRefLossDetect (edges : Nat) (s : State) : Host.Outcome State Fault Refusal :=
  go (if edges < 256 ∧ s.clk.refclk ∧ controlRuns s ∧ s.clk.control.onLoop then loseReference s else s)

/-- REFCLK_RETURN (R431): the loops may lock again; the alert stays. -/
def execRefclkReturn (s : State) : Host.Outcome State Fault Refusal :=
  let again (l : Loop) : Loop := { l with since := s.now, passes := 0 }
  go (if s.clk.refclk then s
    else updClk (fun c => { c with
      refclk := true, root := again c.root, memPhy := c.memPhy.map again, linkPhy := c.linkPhy.map again, pciePhy := again c.pciePhy }) s)

/-- The field-network settings of a module in a slot (R421). -/
def Persistent.ofSlot (slot : BitVec 5) : Persistent :=
  { Persistent.default with
    fnMac := 0x024853000000 + BitVec.ofNat 48 slot.toNat,
    plca := { Plca.default with id := if slot.toNat % 16 = 15 then 255 else BitVec.ofNat 8 (slot.toNat % 16 + 1) } }

/-- What no reset and no loss of power touches (R433, R439, R453): the flash and the fuses. -/
def Boot.kept (b : Boot) : Boot := { Boot.reset with flash := b.flash, ownerKey := b.ownerKey, fusedEpoch := b.fusedEpoch }

/-- A state in which everything but flash and fuses starts again; the commands waiting, the record of what left the module, the free
values taken and the pins stay. -/
def freshState (s : State) : State :=
  { State.reset with
    pending := s.pending, free := s.free, out := s.out, boot := s.boot.kept,
    host := { HostIf.reset with pcie := { perst := s.host.pcie.perst, linkUp := false, cto := 0, d3hot := false } },
    clk := { Clocks.reset with refclk := s.clk.refclk, pwrEn := s.clk.pwrEn, rails := s.clk.rails, thermtrip := s.clk.thermtrip,
                               slotId := s.clk.slotId } }

/-- A device reset (R433, R434): it keeps flash, fuses, the persistent objects, RESET_CAUSE, RESET_COUNT and the rails. -/
def resetDevice (cause : BitVec 8) (s : State) : State :=
  let n := freshState s
  { n with
    dict := { n.dict with keep := s.dict.keep, plcaSet := s.dict.keep.plca, plcaNow := s.dict.keep.plca },
    clk := { n.clk with resetCause := cause, resetCount := (s.clk.resetCount + 1) % 2 ^ 32 } }

/-- DEVICE_RESET_ASSERT (R434): 10 ms after the answer. -/
def execDeviceResetAssert (s : State) : Host.Outcome State Fault Refusal :=
  go (match s.clk.resetDue with
    | some (t, cause) => if t ≤ s.now ∧ controlRuns s then resetDevice cause s else s
    | none => s)

/-- The rails go off (R438, R439, R447): everything but flash and fuses is lost. -/
def railsOff (s : State) : State :=
  let n := freshState s
  emit .railsOff { n with
    host := { n.host with dev := .off },
    clk := { n.clk with rails := .off, root := .off, pciePhy := .off } }

/-- PWR_EN_RISE (R436): an edge below 36 V, or within 100 ms of the last power-down (R439), starts nothing; outside R436's other
conditions the behaviour is not defined (R9). -/
def execPwrEnRise (vinMv : Nat) (refclk : Bool) (lowMs : Nat) (s : State) : Host.Outcome State Fault Refusal :=
  if s.clk.pwrEn then .next s
  else
    let s := updClk (fun c => { c with pwrEn := true, refclk := refclk }) s
    if vinMv < 36000 ∨ lowMs < 100 then .next s
    else if 44000 < vinMv ∨ !refclk ∨ !s.host.pcie.perst then .fault .outsideSpecification
    else .next (updClk (fun c => { c with rails := .ramping }) s)

/-- POR_RELEASE (R437, R487): power-on reset is released, SLOT_ID is sampled, and the boot ROM runs. -/
def execPorRelease (slotId : BitVec 5) (s : State) : Host.Outcome State Fault Refusal :=
  go (if s.clk.rails ≠ .ramping then s
    else
      let n := freshState s
      let keep := Persistent.ofSlot slotId
      { n with clk := { n.clk with rails := .up, slotId := slotId }, dict := { n.dict with keep := keep, plcaSet := keep.plca, plcaNow := keep.plca } })

/-- PWR_EN_FALL (R438, R447): the rails go off and THERMTRIP_N is released. -/
def execPwrEnFall (s : State) : Host.Outcome State Fault Refusal :=
  let s := updClk (fun c => { c with pwrEn := false, thermtrip := false }) s
  go (if s.clk.rails = .off then s else railsOff s)

/-- VIN_UNDERVOLTAGE (R439). -/
def execVinUndervoltage (s : State) : Host.Outcome State Fault Refusal := go (if s.clk.rails = .off then s else railsOff s)

/-- THERMTRIP (R447): THERMTRIP_N is asserted and the rails go off. The comparator is active once the rails are up (R437). -/
def execThermtrip (s : State) : Host.Outcome State Fault Refusal :=
  go (if powered s then railsOff (updClk (fun c => { c with thermtrip := true }) s) else s)

end Sys2Proof.Machine
end

