-- ==== Sys2Proof/Machine/Power.lean ====
section
/-!
DEFINITION. Power modes, the governor, parking and temperatures (12: R440 to R447).
-/
namespace Sys2Proof.Machine

/-- The ceiling of a power mode in watts (R440). -/
def modeWatts (m : BitVec 8) : Nat := match m.toNat with | 0 => 2000 | 1 => 1600 | _ => 1200

/-- The divider of a power mode (R440). -/
def modeDiv (m : BitVec 8) : Nat := match m.toNat with | 0 => 6 | 1 => 7 | _ => 8

/-- The effective ceiling (R446). -/
def ceilingNow (s : State) : Nat := if s.clk.throttled then min s.clk.modeCeiling 1200 else s.clk.modeCeiling

/-- ARITH_CLOCK_KHZ (R425, R440, R450). -/
def arithKhz (s : State) : Nat :=
  if !s.clk.arith.onLoop then 100000
  else if s.clk.coasting then 250000
  else match s.clk.div with | 6 => 1000000 | 7 => Config.balancedKhz | _ => 750000

/-- A change of POWER_MODE starts (R441): towards a lower ceiling, ceiling and divider change before the rail. -/
def startMode (m : BitVec 8) (s : State) : State :=
  if s.clk.mode < m then
    updClk (fun c => { c with mode := m, changing := true, modeCeiling := modeWatts m, div := modeDiv m }) s
  else updClk (fun c => { c with mode := m, changing := true }) s

/-- POWER_MODE_CHANGE_DONE (R441): the rail has settled; towards a higher ceiling, divider and ceiling follow. -/
def execPowerModeChangeDone (s : State) : Host.Outcome State Fault Refusal :=
  go (if s.clk.changing ∧ controlRuns s then
      answerWaiting 0x1002 1 .ok (updClk (fun c => { c with
        changing := false, modeNow := c.mode, modeCeiling := modeWatts c.mode, div := modeDiv c.mode }) s)
    else s)

/-- The mean of a list of numbers, rounded down; 0 for an empty list. -/
def mean (xs : List Nat) : Nat := xs.sum / xs.length

/-- VIN_MV: the input voltage averaged over the last millisecond (R494). -/
def vinMv (s : State) : Nat := mean (s.clk.sensors.samples.map Prod.fst)
/-- IIN_MA: the input current averaged over the last millisecond. -/
def iinMa (s : State) : Nat := mean (s.clk.sensors.samples.map Prod.snd)
/-- PIN_MW: the product of the two (R494). -/
def pinMw (s : State) : Nat := vinMv s * iinMa s / 1000
/-- The input power averaged over the last millisecond, in microwatts (R442). -/
def meanPower (s : State) : Nat := mean (s.clk.sensors.samples.map fun x => x.1 * x.2)

/-- A sample of voltage and current joins the last hundred, 10 µs apart, and its energy is counted (R442, R452). -/
def takeSample (mv ma : Nat) (s : State) : State :=
  let units := s.clk.energyRest + mv * ma
  powerCount (fun c => { c with energyMj := addSat c.energyMj (units / 100000000) })
    (updClk (fun c => { c with
      sensors := { c.sensors with samples := ((mv, ma) :: c.sensors.samples).take 100 }, energyRest := units % 100000000 }) s)

/-- The governor skips arithmetic cycles over the next 10 µs (R442): at least one and at most 7 in 8, in how many periods of the control
clock the spec leaves open; both are free values within those bounds. -/
def skipCycles (s : State) : State :=
  let cycles := arithKhz s / 100
  let f := takeFree s
  let g := takeFree f.1
  let k := 1 + f.2 % max 1 (cycles * 7 / 8)
  let least := ceilDiv (k * 2500) (max 1 cycles)
  let periods := least + g.2 % (max least (min k 2500) + 1 - least)
  let s := updClk (fun c => { c with lastSkip := some s.now }) g.1
  raiseAlert 4 (powerCount (fun c => { c with skippedCycles := addSat c.skippedCycles k, throttleNs := addSat c.throttleNs (4 * periods) }) s)

/-- GOVERNOR_SAMPLE (R442, R448): it skips cycles while the mean power exceeds the ceiling or the current 57 A. -/
def execGovernorSample (mv ma : Nat) (s : State) : Host.Outcome State Fault Refusal :=
  go (if !powered s then s
    else
      let s := takeSample mv ma s
      let s := noteAlert 1 (decide (vinMv s < 36000) || decide (44000 < vinMv s)) s
      if 1000000 * ceilingNow s < meanPower s ∨ 57000 < ma then skipCycles s else s)

/-- Whether a PARK 1 write is refused (R443). -/
def parkConflict (s : State) : Bool :=
  stepOpen s || (s.host.cmds.any fun c => slotOpcode c.slot != 0x18 && slotOpcode c.slot != 0x19) ||
  s.rows.engines.toList.any fun g => !g.deferred.isEmpty

/-- Whether a waiting write is one of PARK with a value. -/
def parkWrite (v : Byte) (w : WaitingWrite) : Bool := waitsOn 0x1002 4 w && w.value == [v]

/-- A parked module wakes where a command or a write of PARK 0 wants it (R445). -/
def wakeIfWanted (s : State) : State :=
  let cmds := s.host.cmds.any fun c => !runsParked (slotOpcode c.slot)
  if s.clk.park = .parked ∧ (cmds ∨ s.dict.waiting.any (parkWrite 0)) then updClk (fun c => { c with park := .waking }) s else s

/-- MODULE_PARKED (R443): the units are gated and the write is answered; what came meanwhile wakes the module again. -/
def execModuleParked (s : State) : Host.Outcome State Fault Refusal :=
  go (if s.clk.park ≠ .parking then s
    else
      let s := updClk (fun c => { c with park := .parked }) s
      let s := powerCount (fun c => { c with parkEntries := addSat c.parkEntries 1 }) s
      wakeIfWanted (answerWhere (parkWrite 1) .ok s))

/-- WAKE_COMPLETE (R445): commands that waited for it begin; a PARK 1 write that came meanwhile parks the module again. -/
def execWakeComplete (s : State) : Host.Outcome State Fault Refusal :=
  go (if s.clk.park ≠ .waking then s
    else
      let s := answerWhere (parkWrite 0) .ok (updClk (fun c => { c with park := .awake }) s)
      if s.dict.waiting.any (parkWrite 1) then updClk (fun c => { c with park := .parking }) s else runHeld s)

/-- TJ_MAX (R450). -/
def tjMax (s : State) : Int := s.clk.sensors.tjQuad.toList.foldl max s.clk.sensors.tjQuad[0]

/-- Whether the converter limits the power (R495). -/
def converterHot (s : State) : Bool := decide ((105000 : Int) < (Config.converterTemp s.now).toInt)

/-- The thermal throttle after a sample (R446). -/
def throttleStep (s : State) : State :=
  let cool := decide (tjMax s < 100000) && !converterHot s
  if 108000 ≤ tjMax s ∨ converterHot s then updClk (fun c => { c with throttled := true, coolSince := none }) s
  else if !s.clk.throttled ∨ !cool then updClk (fun c => { c with coolSince := none }) s
  else
    let since := s.clk.coolSince.getD s.now
    if since + 10000000 ≤ s.now then updClk (fun c => { c with throttled := false, coolSince := none }) s
    else updClk (fun c => { c with coolSince := some since }) s

/-- THERMAL_SAMPLE (R446, R495). -/
def execThermalSample (quads stackTemps : List Int) (s : State) : Host.Outcome State Fault Refusal :=
  go (if !powered s then s
    else
      let tj := Vector.ofFn fun (i : Fin 4) => quads.getD i.val 0
      let st := Vector.ofFn fun (i : Fin 8) => stackTemps.getD i.val 0
      let s := updClk (fun c => { c with sensors := { c.sensors with tjQuad := tj, stackTemp := st } }) s
      let s := noteAlert 2 (decide (100000 ≤ tjMax s)) s
      let s := noteAlert 3 (decide (108000 ≤ tjMax s) || converterHot s) s
      throttleStep (noteAlert 7 (st.toList.any fun t => decide (85000 ≤ t)) s))

end Sys2Proof.Machine
end

