-- ==== Sys2Proof/Machine/BootSeq.lean ====
section
/-!
DEFINITION. The boot sequence (13: R457 to R459, R462 to R464, R472, R473).
-/
namespace Sys2Proof.Machine

/-- A persistent object: its index, subindex and size (R396). -/
def persistentObjects : List (Nat × Nat × Nat) :=
  [(0x0102, 1, 1), (0x0200, 1, 6), (0x0200, 2, 1), (0x0200, 3, 1), (0x0200, 4, 1), (0x0200, 5, 1), (0x3001, 1, 16), (0x3001, 4, 4),
   (0x3001, 6, 16), (0x4000, 1, 2)]

/-- The encoded value of a persistent object. -/
def keptValue (p : Persistent) (index sub : Nat) : List Byte :=
  match index, sub with
  | 0x0102, _ => bytesOf 1 p.roles
  | 0x0200, 1 => (bytesOf 6 p.fnMac).reverse
  | 0x0200, 2 => bytesOf 1 p.plca.id
  | 0x0200, 3 => bytesOf 1 p.plca.count
  | 0x0200, 4 => bytesOf 1 p.plca.timer
  | 0x0200, 5 => bytesOf 1 p.plca.burst
  | 0x3001, 1 => bytesOf 16 p.tilesFenced
  | 0x3001, 4 => bytesOf 4 p.fenceGen
  | 0x3001, 6 => bytesOf 16 p.unfencePending
  | 0x4000, _ => bytesOf 2 p.nodeId
  | _, _ => []

/-- The persistent objects with one of them set to an encoded value. -/
def setKept (index sub : Nat) (v : List Byte) (p : Persistent) : Persistent :=
  let n := leNat v
  match index, sub with
  | 0x0102, _ => { p with roles := BitVec.ofNat 8 n }
  | 0x0200, 1 => { p with fnMac := BitVec.ofNat 48 (leNat v.reverse) }
  | 0x0200, 2 => { p with plca := { p.plca with id := BitVec.ofNat 8 n } }
  | 0x0200, 3 => { p with plca := { p.plca with count := BitVec.ofNat 8 n } }
  | 0x0200, 4 => { p with plca := { p.plca with timer := BitVec.ofNat 8 n } }
  | 0x0200, 5 => { p with plca := { p.plca with burst := BitVec.ofNat 8 n } }
  | 0x3001, 1 => { p with tilesFenced := BitVec.ofNat 128 n }
  | 0x3001, 4 => { p with fenceGen := BitVec.ofNat 32 n }
  | 0x3001, 6 => { p with unfencePending := BitVec.ofNat 128 n }
  | 0x4000, _ => { p with nodeId := BitVec.ofNat 16 n }
  | _, _ => p

/-- The encoded values of all persistent objects, by rising index and subindex. -/
def keptBytes (p : Persistent) : List Byte := (persistentObjects.map fun o => keptValue p o.1 o.2.1).flatten

/-- The bank that is not `b`. -/
def otherOf (b : Bool) : Bool := !b

/-- What the boot ROM does with the boot record before it tries a bank, and the banks it may try, in order (R458). The flag says that
the first is a trial boot. -/
def bootChoice (s : State) : State × List Bool × Bool :=
  match bootRec s.boot.flash with
  | none => (s, [false, true], false)
  | some (_, r) =>
    let n := otherOf r.confirmed
    let last (st : Nat) : List Bool := if st = 2 then [n] else []
    if r.trial ∧ r.tries then
      (writeBootRec (fun r => { r with tries := false }) s, [n, r.confirmed], true)
    else if r.trial then
      (writeBootRec (fun r => { setRecState n 2 r with trial := false }) s, r.confirmed :: last 2, false)
    else (s, r.confirmed :: last (recState r n), false)

/-- The boot ROM tries banks in order (R458): a bank that fails is noted with its reason, and one refused by its epoch is written
INVALID. A bank counted as failed since the reset is passed over (R459). -/
def tryBanks : List Bool → State → State × Option Bool
  | [], s => (s, none)
  | b :: bs, s =>
    if s.boot.failedBanks.contains b then tryBanks bs s
    else
      let data := s.boot.flash.banks[bankIx b]
      let why := bankFailure s data
      if why = 0 then (s, some b)
      else
        let stale := why == 4 && decide (imEpoch (bankBlock data 0) < s.boot.fusedEpoch.toNat)
        let s := if stale then writeBootRec (setRecState b 5) s else s
        tryBanks bs (updBoot (fun x => { x with failedBanks := b :: x.failedBanks, reason := why }) s)

/-- The measurements of the image (R473: registers 0 to 2 and 6). -/
def measureImage (d : BankData) (s : State) : State :=
  let h := bankBlock d 0
  let fuses := leBytes 4 Config.bootRomVersion.toNat ++ slice Config.imageKey 0 32 ++ slice s.boot.ownerKey 0 32 ++ bytesOf 2 s.boot.fusedEpoch
  let s := extendMeas 0 (sha256 fuses) s
  let s := extendMeas 1 (sha256 h) s
  let s := extendMeas 2 (sha256 (imageBody d h)) s
  extendMeas 6 (sha256 (leBytes 16 Config.unitSerial ++ slice Config.identityKey 0 32)) s

/-- The config-store records that the running firmware reads (R472): those of its own format, or else those of the newest older
format, which it writes again in its own. That a value is converted to itself is the model's (DESIGN CHOICE). -/
def storeRecords (s : State) : List StoreRec :=
  let fmt := s.boot.settings
  let own := s.boot.flash.store.filter fun r => r.format == fmt
  let older := s.boot.flash.store.filter fun r => decide (r.format < fmt)
  let newest := older.foldl (fun m r => max m r.format.toNat) 0
  if own.isEmpty then (older.filter fun r => r.format.toNat == newest).map fun r => { r with format := fmt } else own

/-- The persistent objects as the config store gives them. -/
def storedObjects (slot : BitVec 5) (rs : List StoreRec) : Persistent :=
  rs.foldl (fun p r => setKept r.index r.sub r.value p) (Persistent.ofSlot slot)

/-- Tiles marked by TILE_UNFENCE return (R133). -/
def unfenceTiles (p : Persistent) : Persistent :=
  let fenced := p.tilesFenced &&& ~~~p.unfencePending
  { p with tilesFenced := fenced, unfencePending := 0, fenceGen := if fenced = p.tilesFenced then p.fenceGen else p.fenceGen + 1 }

/-- Management firmware reads the config store and applies the persistent objects (R457, step 6). -/
def loadSettings (s : State) : State :=
  let rs := storeRecords s
  let p := storedObjects s.clk.slotId rs
  let q := unfenceTiles p
  let s := rs.foldl (fun s r => storeRecord r.index r.sub r.value s) s
  let s := if p = q then s
    else [(1 : Nat), 4, 6].foldl (fun s sub => storeRecord 0x3001 sub (keptValue q 0x3001 sub) s) s
  let s := updDict (fun d => { d with keep := q, plcaSet := q.plca, plcaNow := q.plca }) s
  extendMeas 4 (sha256 (keptBytes q)) s

/-- The protection blob is chosen and measured, and the hold begins (R457, steps 7 and 8; R462, R464). -/
def beginHold (s : State) : State :=
  let c := chosenBlob s
  let d := match c.1 with | some b => sha256 b | none => List.replicate 32 0
  let s := extendMeas 3 d s
  updBoot (fun b => { b with
    phase := .hold, blob := c.1, protSource := BitVec.ofNat 8 c.2.1, protVersion := BitVec.ofNat 32 ((c.1.map blobVersion).getD 0),
    nextWindows := c.2.2.1, holdEnd := s.now + 1000000 * c.2.2.2, bootHold := false, began := s.now - b.began }) s

/-- Whether the boot ROM runs on loop clocks (R437, step 6). -/
def clocksReady (s : State) : Bool :=
  powered s && s.clk.root.locked && [Domain.control, .memCtl, .arith].all fun d => (muxOf s d).onLoop && (muxOf s d).target.isNone

/-- BOOT_START (R457): steps 1 to 7, up to the hold. -/
def execBootStart (s : State) : Host.Outcome State Fault Refusal :=
  go (if s.host.dev ≠ .booting ∨ s.boot.phase ≠ .rom ∨ !clocksReady s then s
    else
      let c := bootChoice (updBoot (fun b => { b with meas := .replicate 8 (.replicate 32 0) }) s)
      match tryBanks c.2.1 c.1 with
      | (s, none) => stopBoot s
      | (s, some b) =>
        let data := s.boot.flash.banks[bankIx b]
        let h := bankBlock data 0
        let s := updBoot (fun x => { x with
          bank := b, trialBoot := c.2.2 && c.2.1.head? == some b, fallback := !x.failedBanks.isEmpty,
          imageVersion := BitVec.ofNat 32 (imVersion h), settings := BitVec.ofNat 16 (imSettings h) }) s
        beginHold (loadSettings (measureImage data s)))

/-- BOOT_REPORT (R476). -/
def bootReport (s : State) : List Byte :=
  let b := s.boot
  leBytes 8 (b2n b.bank + 2 * b2n b.trialBoot + 4 * b2n b.fallback + 8 * b2n b.watchdog + 2 ^ 8 * (b.reason % 256) + 2 ^ 16 * (min b.readyMs 65535))

/-- The boot hold ends (R457, steps 9 to 11): the windows apply, PROT_LOCK is set, and memory and link training begin. -/
def endHold (s : State) : State :=
  let s := updBoot (fun b => { b with windows := b.nextWindows, protLock := true, phase := .training, bootHold := false, began := s.now - b.began }) s
  let s := extendMeas 5 (sha256 (bootReport s ++ bytesOf 1 s.boot.protSource)) s
  let s := updClk (fun c => { c with memPhy := c.memPhy.map (wantLoop s.now) }) s
  ((List.finRange 16).filter (portEnabled s)).foldl (fun s p => trainPort p s) s

/-- BOOT_HOLD_EXPIRY (R464). -/
def execBootHoldExpiry (s : State) : Host.Outcome State Fault Refusal :=
  go (if s.boot.phase = .hold ∧ !s.boot.bootHold ∧ s.boot.holdEnd ≤ s.now then endHold s else s)

/-- A write of BOOT_HOLD (R464): 1 extends the hold, and 0 ends the extension, with the hold if HOLD_MS is over. -/
def applyBootHold (on : Bool) (s : State) : State :=
  if s.boot.phase ≠ .hold then s
  else
    let s' := updBoot (fun b => { b with bootHold := on }) s
    if !on ∧ s.boot.bootHold ∧ s.boot.holdEnd ≤ s.now then endHold s' else s'

/-- Whether a port has been through its training during boot (R457, step 11). -/
def portBooted (s : State) (p : Fin 16) : Bool :=
  !portEnabled s p || (getPort s p).trained || (getPort s p).state == .active || decide (3 ≤ (s.clk.linkPhy[p]).fails)

/-- BOOT_READY (R457, steps 10 to 12): memory is trained and cleared (R435), and every enabled port has left TRAINING once. -/
def execBootReady (s : State) : Host.Outcome State Fault Refusal :=
  go (if s.host.dev = .booting ∧ s.boot.phase = .training ∧ s.clk.memPhy.toList.all (fun l => l.locked) ∧ (List.finRange 16).all (portBooted s) then
      setDev .ready (updBoot (fun b => { b with phase := .done, readyMs := s.now / 1000000 }) s)
    else s)

/-- BOOT_WATCHDOG_EXPIRY (R459): boot starts again, and the bank that ran counts as failed. The boot that follows clears T1 again (R435). -/
def execBootWatchdogExpiry (s : State) : Host.Outcome State Fault Refusal :=
  let b := s.boot
  go (if s.host.dev ≠ .booting ∨ (b.phase ≠ .rom ∧ b.phase ≠ .training) ∨ s.now < b.began + 30000000000 then s
    else
      let failed := if b.phase = .training then b.bank :: b.failedBanks else b.failedBanks
      let s := { s with boot := { b.kept with phase := .rom, began := s.now, watchdog := true, failedBanks := failed, reason := 5 } }
      { s with links := { s.links with ports := .replicate 16 { Port.reset with since := s.now } }, mem := { s.mem with t1 := MemSys.reset.t1 } })

end Sys2Proof.Machine
end

