-- ==== Sys2Proof/Machine/ObjTypes.lean ====
section
/-!
DEFINITION. What an object of the dictionary is (11: R391 to R396): its description, its value, and what a write of it does.
-/
namespace Sys2Proof.Machine

/-- How a write of an object is answered (R396, R398). -/
inductive Applied where
  /-- at once, its action having ended -/
  | answered (st : Status)
  /-- OK at once, while its action runs on -/
  | started
  /-- when its action has ended -/
  | action
  /-- when the config store has committed it -/
  | store
  deriving DecidableEq, Repr, Inhabited

/-- An object. `ty`, `elem` and `acc` are the codes of R393 and R394, `esize` the bytes of an element or of the whole value where it
is no array, `max` the largest encoded value and `fixed` whether every value has that size. Of a write, `denied` says that a role
forbids it, `conflict` that its chapter forbids it now, `form` that its encoding holds and `range` that the value is in range. -/
structure ObjDef where
  index : Nat
  sub   : Nat
  ty    : Nat
  elem  : Nat
  esize : Nat
  acc   : Nat
  max   : Nat
  fixed : Bool
  keep  : Bool
  boot  : Bool
  read  : State → Except Status (List Byte)
  denied : List Byte → State → Bool
  conflict : List Byte → State → Bool
  form  : List Byte → State → Bool
  range : List Byte → State → Bool
  write : Chan → List Byte → State → State × Applied

/-- The size of a scalar type (R393). -/
def scalarSize (ty : Nat) : Nat := match ty with | 1 => 1 | 2 => 2 | 3 => 4 | 4 => 8 | 5 => 4 | 6 => 4 | _ => 0

/-- An array's encoding (R393). -/
def arrBytes (elem esize : Nat) (xs : List Nat) : List Byte := leBytes 2 xs.length ++ [BitVec.ofNat 8 elem, 0] ++ xs.flatMap (leBytes esize)

/-- The elements of an encoded array. -/
def arrVals (esize : Nat) (v : List Byte) : List Nat := (List.range (leNat (v.take 2))).map fun i => leNat (slice v (4 + esize * i) esize)

/-- An object that is only read. -/
def roAt (index sub ty size : Nat) (read : State → Except Status (List Byte)) : ObjDef :=
  { index := index, sub := sub, ty := ty, elem := 0, esize := size, acc := 1, max := size, fixed := true, keep := false, boot := false,
    read := read, denied := fun _ _ => false, conflict := fun _ _ => false, form := fun _ _ => true, range := fun _ _ => true,
    write := fun _ _ s => (s, .answered .ok) }

/-- A scalar that is only read. -/
def roNum (index sub ty : Nat) (read : State → Nat) : ObjDef :=
  roAt index sub ty (scalarSize ty) fun s => .ok (leBytes (scalarSize ty) (read s))

/-- A byte string of a fixed size that is only read. -/
def roBlob (index sub size : Nat) (read : State → Except Status (List Byte)) : ObjDef := roAt index sub 8 size read

/-- An array that is only read, of at most `n` elements. -/
def roArr (index sub elem esize n : Nat) (fixed : Bool) (read : State → List Nat) : ObjDef :=
  { roAt index sub 9 (4 + n * esize) (fun s => .ok (arrBytes elem esize (read s))) with elem := elem, esize := esize, fixed := fixed }

/-- A counter (R99). -/
def counter (index sub : Nat) (read : State → Nat) : ObjDef := roNum index sub 4 read

/-- An array of counters (R99). -/
def counters (index sub n : Nat) (read : State → List Nat) : ObjDef := roArr index sub 4 8 n true read

/-- A scalar that is read and written. -/
def rwNum (index sub ty : Nat) (read : State → Nat) (range : Nat → Bool) (set : Nat → State → State) : ObjDef :=
  { roNum index sub ty read with acc := 2, range := fun v _ => range (leNat v), write := fun _ v s => (set (leNat v) s, .answered .ok) }

/-- A byte string of a fixed size that is read and written. -/
def rwBlob (index sub size : Nat) (read : State → List Byte) (set : List Byte → State → State) : ObjDef :=
  { roBlob index sub size (fun s => .ok (read s)) with acc := 2, write := fun _ v s => (set v s, .answered .ok) }

/-- An array that is read and written, of at most `n` elements, or of exactly `n` where `fixed` says so: another count is out of range
(R301, R393). -/
def rwArr (index sub elem esize n : Nat) (fixed : Bool) (read : State → List Nat) (range : List Nat → Bool)
    (set : List Nat → State → State) : ObjDef :=
  { roArr index sub elem esize n false read with
    acc := 2, range := fun v _ =>
      decide (leNat (v.take 2) ≤ n) && (!fixed || leNat (v.take 2) == n) && range (arrVals esize v),
    write := fun _ v s => (set (arrVals esize v) s, .answered .ok) }

/-- Whether an encoded array has its type, and the length that its count asks for (R393). -/
def arrayForm (o : ObjDef) (v : List Byte) : Bool :=
  decide (4 ≤ v.length) && leNat (slice v 2 1) == o.elem && leNat (slice v 3 1) == 0 && v.length == 4 + o.esize * leNat (v.take 2)

/-- Whether an encoded value keeps R393; an array of too many elements keeps it, and is out of range (R98). -/
def encodingOk (o : ObjDef) (v : List Byte) : Bool :=
  (if o.ty = 9 then arrayForm o v else true) && (!o.fixed || v.length == o.max) && decide (v.length ≤ 262144)

/-- The status of an object's last action that has ended, once none runs (R13). -/
def actionStatus (index sub : Nat) (s : State) : Except Status (List Byte) :=
  if actionRuns s index sub then .error .stateConflict
  else .ok (leBytes 1 (statusCode (((s.dict.statuses.find? fun x => x.index == index && x.sub == sub).map fun x => x.status).getD .ok)))

/-- A CMD object (R13): its value has a type and size. -/
def cmdObj (index sub ty size : Nat) (write : Chan → List Byte → State → State × Applied) : ObjDef :=
  { roAt index sub ty size (actionStatus index sub) with acc := 5, write := write }

/-- An object that is not written while any step is open. -/
def whileClosed (o : ObjDef) : ObjDef := { o with conflict := fun v s => stepOpen s || o.conflict v s }

/-- An object that BOOTING serves (R397). -/
def inBoot (o : ObjDef) : ObjDef := { o with boot := true }

/-- A persistent object (R396): it takes its value at once and is answered once the config store has it. -/
def persistent (o : ObjDef) : ObjDef :=
  { o with keep := true, write := fun c v s => ((o.write c v s).1, if o.acc = 1 then .answered .ok else .store) }

end Sys2Proof.Machine
end

