-- ==== Sys2Proof/Machine/ObjCounters.lean ====
section
/-!
DEFINITION. The counters as objects of the dictionary (01 to 14: the tables of R57, R99, R134, R171, R206, R245, R272, R302, R349, R390,
R422, R452, R477).
-/
namespace Sys2Proof.Machine

/-- An array counter of the tiles. -/
def arrCtr (sub : Nat) (f : ArrCounters → Nat) : ObjDef := counters 0x6200 sub 128 fun s => s.tile.tiles.toList.map fun t => f t.arr.counters
/-- A tile counter. -/
def tileCtr (index sub : Nat) (f : TileCounters → Nat) : ObjDef := counters index sub 128 fun s => s.tile.tiles.toList.map fun t => f t.counters
/-- A row-engine counter. -/
def engCtr (index sub : Nat) (f : EngineCounters → Nat) : ObjDef := counters index sub 16 fun s => s.rows.engines.toList.map fun g => f g.counters
/-- A stack or far counter. -/
def memCtr8 (index sub : Nat) (f : MemCounters → Vector Nat 8) : ObjDef := counters index sub 8 fun s => (f s.mem.counters).toList
/-- A translation counter. -/
def memCtr4 (sub : Nat) (f : MemCounters → Vector Nat 4) : ObjDef := counters 0x6501 sub 4 fun s => (f s.mem.counters).toList
/-- A port counter. -/
def portCtr (sub : Nat) (f : PortCounters → Vector Nat 16) : ObjDef := counters 0x6600 sub 16 fun s => (f s.links.counters).toList
/-- A counter of all links. -/
def linkCtr (sub : Nat) (f : PortCounters → Nat) : ObjDef := counter 0x6601 sub fun s => f s.links.counters
/-- A collective unit's counter. -/
def unitCtr (sub : Nat) (f : CollCounters → Vector Nat 4) : ObjDef := counters 0x6602 sub 4 fun s => (f s.links.unitCounters).toList
/-- A queue counter. -/
def queueCtr (sub : Nat) (f : HostCounters → Vector Nat 64) : ObjDef := counters 0x6700 sub 64 fun s => (f s.host.counters).toList
/-- A session counter. -/
def hostCtr (sub : Nat) (f : HostCounters → Nat) : ObjDef := counter 0x6701 sub fun s => f s.host.counters
/-- A management counter. -/
def mgmtCtr (sub : Nat) (f : MgmtCounters → Nat) : ObjDef := counter 0x6800 sub fun s => f s.dict.counters
/-- A power counter. -/
def powerCtr (sub : Nat) (f : PowerCounters → Nat) : ObjDef := counter 0x6900 sub fun s => f s.clk.counters
/-- A kindle counter. -/
def kindleCtr (sub : Nat) (f : KindleCounters → Nat) : ObjDef := counter 0x6A00 sub fun s => f s.boot.counters
/-- A history counter. -/
def histCtr (sub : Nat) (f : HistCounters → Nat) : ObjDef := counter 0x6400 sub fun s => f s.hist.counters

/-- Step, verdict and module counters (R56, R171, R245). -/
def stepCounters : List ObjDef :=
  [counter 0x6100 1 fun s => s.train.stepsCommitted, counter 0x6100 2 fun s => s.train.stepsSkipped,
   counter 0x6100 3 fun s => s.train.stepsAborted, counter 0x6100 4 fun s => s.train.stepsTorn, counter 0x6100 5 fun s => s.train.earlyRedo,
   counter 0x6100 6 fun s => s.train.commitLogWaitNs, counter 0x6100 7 fun s => s.train.recordWriteFail,
   counter 0x6101 1 fun s => s.train.ringHead.toNat,
   counter 0x6102 1 fun s => s.num.lossUp, counter 0x6102 2 fun s => s.num.lossDown, counter 0x6102 3 fun s => s.num.verdNonfinite,
   counter 0x6102 4 fun s => s.num.verdAbsurd, counter 0x6102 5 fun s => s.num.verdClipped,
   counter 0x6103 1 fun s => s.rows.obj.boundWaitNs, counter 0x6103 2 fun s => s.rows.obj.deferLost,
   counter 0x6103 3 fun s => s.rows.obj.replicaMismatch, counter 0x6103 4 fun s => s.rows.obj.replicaRefetch]

/-- Array and Weave counters (R99). -/
def arrayCounters : List ObjDef :=
  [arrCtr 0x01 fun c => c.active, arrCtr 0x02 fun c => c.snuff, arrCtr 0x03 fun c => c.west, arrCtr 0x04 fun c => c.north,
   arrCtr 0x05 fun c => c.drain, arrCtr 0x06 fun c => c.bubble, arrCtr 0x07 fun c => c.vectors, arrCtr 0x08 fun c => c.passes,
   arrCtr 0x09 fun c => c.wloads, arrCtr 0x0A fun c => c.accSat, arrCtr 0x0B fun c => c.zbSkip, arrCtr 0x0C fun c => c.zbLate,
   arrCtr 0x0D fun c => c.zbReplay, arrCtr 0x0E fun c => c.zbReplayCycles, arrCtr 0x0F fun c => c.zbLimit,
   tileCtr 0x6201 1 fun c => c.weaveFlits, tileCtr 0x6201 2 fun c => c.weaveStall]

/-- Tile counters (R134, R171). -/
def tileCounters : List ObjDef :=
  [tileCtr 0x6202 0x01 fun c => c.seqInstr, tileCtr 0x6202 0x02 fun c => c.seqWait, tileCtr 0x6202 0x03 fun c => c.vecBundles,
   tileCtr 0x6202 0x04 fun c => c.vecBusy, tileCtr 0x6202 0x05 fun c => c.vecTrans, tileCtr 0x6202 0x06 fun c => c.redElems,
   tileCtr 0x6202 0x07 fun c => c.moveBytes, tileCtr 0x6202 0x08 fun c => c.moveFull, tileCtr 0x6202 0x09 fun c => c.tmemConflict,
   tileCtr 0x6202 0x0A fun c => c.tmemCe, tileCtr 0x6202 0x0B fun c => c.tmemUe, tileCtr 0x6202 0x0C fun c => c.tileFault,
   tileCtr 0x6203 1 fun c => c.satCount, tileCtr 0x6203 2 fun c => c.nanConvert, tileCtr 0x6203 3 fun c => c.wideReplay]

/-- Row-engine counters (R171, R206, R245). -/
def engineCounters : List ObjDef :=
  [engCtr 0x6300 0x01 fun c => c.gatherBags, engCtr 0x6300 0x02 fun c => c.rowsPooled, engCtr 0x6300 0x03 fun c => c.emberHits,
   engCtr 0x6300 0x04 fun c => c.stagingHits, engCtr 0x6300 0x05 fun c => c.rowMisses, engCtr 0x6300 0x06 fun c => c.missingRows,
   engCtr 0x6300 0x07 fun c => c.deltaRows, engCtr 0x6300 0x08 fun c => c.bagFail, engCtr 0x6300 0x09 fun c => c.poolBusy,
   engCtr 0x6300 0x0A fun c => c.poolIdle, engCtr 0x6300 0x0B fun c => c.threadYield, engCtr 0x6300 0x0C fun c => c.probeRetry,
   engCtr 0x6300 0x0D fun c => c.bankSaturation, engCtr 0x6300 0x0E fun c => c.waitlistFull, engCtr 0x6300 0x0F fun c => c.prescanRows,
   engCtr 0x6300 0x10 fun c => c.prescanFull, engCtr 0x6300 0x11 fun c => c.emberInstalls, engCtr 0x6300 0x12 fun c => c.missSampleDrop,
   engCtr 0x6300 0x13 fun c => c.rstoreCe, engCtr 0x6300 0x14 fun c => c.rstoreUe,
   engCtr 0x6301 0x01 fun c => c.scatterKeys, engCtr 0x6301 0x02 fun c => c.scatterMissing, engCtr 0x6301 0x03 fun c => c.mergedRows,
   engCtr 0x6301 0x04 fun c => c.updateRows, engCtr 0x6301 0x05 fun c => c.updateBursts, engCtr 0x6301 0x06 fun c => c.writeThroughs,
   engCtr 0x6301 0x07 fun c => c.deferEntries, engCtr 0x6301 0x08 fun c => c.deferApplied, engCtr 0x6301 0x09 fun c => c.deferForwards,
   engCtr 0x6301 0x0A fun c => c.deltaInserts, engCtr 0x6301 0x0B fun c => c.deltaOverflow,
   engCtr 0x6310 1 fun c => c.rowSat, engCtr 0x6310 2 fun c => c.rowFlat, engCtr 0x6310 3 fun c => c.rowNonfinite]

/-- History, stack, translation and far counters (R272, R302). -/
def memoryCounters : List ObjDef :=
  [histCtr 1 fun c => c.appends, histCtr 2 fun c => c.appendPos, histCtr 3 fun c => c.walks, histCtr 4 fun c => c.walkPos,
   histCtr 5 fun c => c.bytes, histCtr 6 fun c => c.requests, histCtr 7 fun c => c.stalls, histCtr 8 fun c => c.stallNs,
   histCtr 9 fun c => c.stallFails, histCtr 0x0A fun c => c.walkWaitNs,
   memCtr8 0x6500 0x01 fun c => c.rdBursts, memCtr8 0x6500 0x02 fun c => c.wrBursts, memCtr8 0x6500 0x03 fun c => c.activates,
   memCtr8 0x6500 0x04 fun c => c.pageHits, memCtr8 0x6500 0x05 fun c => c.busy, memCtr8 0x6500 0x06 fun c => c.memCe,
   memCtr8 0x6500 0x07 fun c => c.memUe, memCtr8 0x6500 0x08 fun c => c.poisonReads, memCtr8 0x6500 0x09 fun c => c.dieCe,
   memCtr8 0x6500 0x0A fun c => c.scrubCe,
   memCtr4 1 fun c => c.xlateHits, memCtr4 2 fun c => c.xlateMisses, memCtr4 3 fun c => c.xlateWalkNs, memCtr4 4 fun c => c.runaheadDrop,
   memCtr8 0x6502 1 fun c => c.farRequests, memCtr8 0x6502 2 fun c => c.farBytes, memCtr8 0x6502 3 fun c => c.farSlotFull]

/-- Link and collective counters (R349). -/
def linkCounters : List ObjDef :=
  [portCtr 1 fun c => c.txFlits, portCtr 2 fun c => c.rxFlits, portCtr 3 fun c => c.fecCorrected, portCtr 4 fun c => c.fecUncorrected,
   portCtr 5 fun c => c.replays, portCtr 6 fun c => c.downs, portCtr 7 fun c => c.stalls, portCtr 8 fun c => c.fwd,
   portCtr 9 fun c => c.protoErr,
   linkCtr 1 fun c => c.routeDrop, linkCtr 2 fun c => c.hopDrop, linkCtr 3 fun c => c.e2eCrc, linkCtr 4 fun c => c.foreign,
   linkCtr 5 fun c => c.remoteDenied, linkCtr 6 fun c => c.exchanges, linkCtr 7 fun c => c.verdictTimeouts,
   unitCtr 0x01 fun c => c.descriptors, unitCtr 0x02 fun c => c.txBytes, unitCtr 0x03 fun c => c.rxBytes, unitCtr 0x04 fun c => c.sat,
   unitCtr 0x05 fun c => c.timeout, unitCtr 0x06 fun c => c.mismatch, unitCtr 0x07 fun c => c.holdNs, unitCtr 0x08 fun c => c.staged,
   unitCtr 0x09 fun c => c.remoteReads, unitCtr 0x0A fun c => c.remoteWrites]

/-- Host, management, power and kindle counters (R390, R422, R452, R477). -/
def hostCounters : List ObjDef :=
  [queueCtr 1 fun c => c.admitted, queueCtr 2 fun c => c.refused, queueCtr 3 fun c => c.fenced, queueCtr 4 fun c => c.cqFullNs,
   counters 0x6700 5 16 fun s => s.host.counters.copyBytes.toList,
   hostCtr 1 fun c => c.frontEndResets, hostCtr 2 fun c => c.heldEntries, hostCtr 3 fun c => c.sessionsResumed,
   hostCtr 4 fun c => c.sessionsReleased, hostCtr 5 fun c => c.reinits, hostCtr 6 fun c => c.heldCqDropped, hostCtr 7 fun c => c.bar2Denied,
   mgmtCtr 1 fun c => c.rxFrames, mgmtCtr 2 fun c => c.txFrames, mgmtCtr 3 fun c => c.rxDropped, mgmtCtr 4 fun c => c.rxBad,
   mgmtCtr 5 fun c => c.duplicates, mgmtCtr 6 fun c => c.notifySent, mgmtCtr 7 fun c => c.mbOps,
   powerCtr 1 fun c => c.skippedCycles, powerCtr 2 fun c => c.throttleNs, powerCtr 3 fun c => c.thermThrottleNs,
   powerCtr 4 fun c => c.parkEntries, powerCtr 5 fun c => c.parkedNs, powerCtr 6 fun c => c.energyMj, powerCtr 7 fun c => c.refLostEvents,
   powerCtr 8 fun c => c.lockRetries,
   kindleCtr 1 fun c => c.blocksIn, kindleCtr 2 fun c => c.blocksOut, kindleCtr 3 fun c => c.crcErr, kindleCtr 4 fun c => c.dropped]

/-- The counters of 0x6100 to 0x6FFF, which COUNTER_SNAPSHOT latches (R413). -/
def counterObjects : List ObjDef :=
  stepCounters ++ arrayCounters ++ tileCounters ++ engineCounters ++ memoryCounters ++ linkCounters ++ hostCounters

end Sys2Proof.Machine
end

