-- ==== Sys2Proof/Machine/ObjState.lean ====
section
/-!
DEFINITION. What the status objects read as, and what a write of a control object does where it is more than a new value (01, 03, 05, 06,
07, 08, 09, 11, 12, 13).
-/
namespace Sys2Proof.Machine

/-- The bytes of a text. -/
def textBytes (t : String) : List Byte := t.toList.map fun c => BitVec.ofNat 8 c.toNat

/-- CLOCK_STATUS (R451). -/
def clockStatus (s : State) : Nat :=
  let c := s.clk
  let ports := (List.finRange 16).filter (portEnabled s)
  b2n c.control.onLoop + b2n c.memCtl.onLoop * 2 + b2n c.arith.onLoop * 4 + b2n c.root.locked * 8 + b2n c.coasting * 16 + b2n (bit c.alerts 0) * 32 +
  b2n (c.memPhy.toList.all fun l => l.locked) * 64 + b2n (ports.all fun p => (c.linkPhy[p]).locked) * 128 + b2n c.pciePhy.locked * 256 +
  b2n c.control.hung * 2 ^ 9 + b2n c.memCtl.hung * 2 ^ 10 + b2n c.arith.hung * 2 ^ 11 + c.div * 2 ^ 12

/-- A mask of the positions that `p` selects. -/
def bitMask (n : Nat) (p : Nat → Bool) : Nat := ((List.range n).map fun i => b2n (p i) * 2 ^ i).sum

/-- Whether a tile has a running or queued program (R130). -/
def tileBusy (s : State) (t : Fin 128) : Bool := (getTile s t).run.isSome || !(getTile s t).progs.isEmpty

/-- A tile that has just been fenced (R132): its contents are lost and its block counters hold 0; its counters stay. -/
def fencedTile (x : Tile) : Tile :=
  { Tile.reset with counters := x.counters, arr := { ArrayUnit.reset with counters := x.arr.counters } }

/-- TILE_FENCE takes effect (R131, R132). -/
def fenceTile (t : Fin 128) (s : State) : State :=
  updTile t fencedTile (updDict (fun d => { d with keep := { d.keep with
    tilesFenced := d.keep.tilesFenced ||| (1#128 <<< t.val), fenceGen := d.keep.fenceGen + 1 } }) s)

/-- A tile is marked for return at the next device reset (R133). -/
def unfenceTile (t : Fin 128) (s : State) : State :=
  updDict (fun d => { d with keep := { d.keep with unfencePending := d.keep.unfencePending ||| (1#128 <<< t.val) } }) s

/-- RING_CLEAR (R56). -/
def clearRing (s : State) : State := { s with train := { s.train with ring := .replicate 1024 .zero, ringHead := 0 } }

/-- RING_RECORD (R56): a record not yet begun, or overwritten, is refused. -/
def ringRecord (s : State) : Except Status (List Byte) :=
  let q := s.train.ringSelect
  if s.train.ringHead ≤ q ∨ q.toNat + 1024 < s.train.ringHead.toNat then .error .addressRange else .ok (bytesOf 128 (recordBits (recordAt s q)))

/-- TABLE_INFO (R205). -/
def tableInfo (s : State) : List Byte :=
  match findTable s s.rows.obj.tableSelect.toNat with
  | none => leBytes 16 0
  | some t =>
    let prev := (t.prev.map fun p => p.version).getD 0
    let bound := (t.prev.map fun p => batchesOn s t.id p.version).getD 0
    leBytes 16 (t.cur.version + prev * 2 ^ 32 + b2n t.prev.isSome * 2 ^ 64 + b2n (tdDrop t.cur.desc) * 2 ^ 65 +
      b2n (tdReplica t.cur.desc) * 2 ^ 66 + b2n (!t.bcasts.isEmpty) * 2 ^ 67 + b2n t.stale * 2 ^ 68 + bound * 2 ^ 96)

/-- TABLE_DESC (R204). -/
def tableDesc (s : State) : Except Status (List Byte) :=
  match findTable s s.rows.obj.tableSelect.toNat with
  | some t => if tdDrop t.cur.desc then .error .addressRange else .ok (bytesOf 64 t.cur.desc)
  | none => .error .addressRange

/-- Whether an engine has a command queued or running (R204). -/
def engineBusy (s : State) : Bool :=
  (s.rows.engines.toList.any fun g => !g.queue.isEmpty || !g.prescans.isEmpty || g.steps.any fun x => !x.scatters.isEmpty) ||
  !s.rows.merges.isEmpty || !s.rows.optimises.isEmpty

/-- A memory with every byte of [a, a + n) zero. -/
def zeroRange (a n : Nat) (m : Mem) : Mem :=
  let out (x : Nat) : Bool := decide (x < a) || decide (a + n ≤ x)
  { m with cells := m.cells.filter (fun c => out c.1), poison := m.poison.filter fun w => out (64 * w) }

/-- EMBER_SETS takes a value: every tag of every engine, of an ember row or of a staged one, is cleared (R194, R204). -/
def setEmberSets (n : Nat) (s : State) : State :=
  let clear (m : Mem) : Mem := zeroRange 0x3000000 0x100000 (zeroRange 0 (64 * max n s.rows.obj.emberSets) m)
  updRowObj (fun o => { o with emberSets := n }) { s with mem := { s.mem with rowStore := s.mem.rowStore.map clear } }

/-- SLOT_DESC (R270). -/
def slotDesc (s : State) : Except Status (List Byte) :=
  match getSlot s (fin s.hist.select.toNat) with
  | some x => .ok (bytesOf 64 (setFld x.desc 8 8 0))
  | none => .error .addressRange

/-- SLOT_INFO (R271). -/
def slotInfo (s : State) : List Byte :=
  let i : Fin 256 := fin s.hist.select.toNat
  match getSlot s i with
  | none => leBytes 32 0
  | some x =>
    let mark (m : Option SlotMark) (at_ : Nat) : Nat := (m.map fun k => k.step.toNat % 2 ^ 16 * 2 ^ at_ + k.tail % 2 ^ 32 * 2 ^ (at_ + 16)).getD 0
    leBytes 32 (1 + b2n x.stall.isSome * 2 + b2n (slotBusy s i) * 4 + (appendsOn s i).length % 16 * 2 ^ 8 + x.length % 2 ^ 32 * 2 ^ 32 +
      slotTail s i % 2 ^ 32 * 2 ^ 64 + hdPages x.desc * 2 ^ 96 + hdGcount x.desc * 2 ^ 112 + b2n x.mark0.isSome * 2 ^ 128 +
      b2n x.mark1.isSome * 2 ^ 129 + mark x.mark0 144 + mark x.mark1 192)

/-- PORT_STATUS of a port (R348). -/
def portStatus (x : Port) : Nat :=
  let st := match x.state with | .disabled => 0 | .down => 1 | .training => 2 | .up => 3 | .active => 4
  st + x.peerNode.toNat * 2 ^ 3 + x.peerPort.toNat * 2 ^ 18 + b2n x.reversed * 2 ^ 22

/-- Ports that have left the population are DISABLED, and those that have joined it are DOWN (R315, R317). -/
def settlePorts (s : State) : State :=
  (List.finRange 16).foldl (fun s p =>
    let st := (getPort s p).state
    if !portEnabled s p then (if st = .disabled then s else dropPort .disabled p s)
    else if st = .disabled then updPort p (fun x => clearPort .down s.now x) s
    else s) s

/-- NODE_ID takes a value (R311): groups are undefined and ACTIVE ports repeat the identity exchange. -/
def setNodeId (n : Nat) (s : State) : State :=
  let s := updDict (fun d => { d with keep := { d.keep with nodeId := BitVec.ofNat 16 n } }) s
  let s := { s with links := { s.links with groups := [] } }
  ((List.finRange 16).filter fun p => (getPort s p).state == .active).foldl (fun s p => sendIdent p s) s

/-- Whether NODE_ID may not be written (R311). -/
def nodeIdConflict (s : State) : Bool :=
  stepOpen s || s.links.units.toList.any fun u => !u.queue.isEmpty || !u.remote.isEmpty || !u.waiting.isEmpty

/-- GROUP_INFO (R348). -/
def groupInfo (s : State) : Except Status (List Byte) :=
  match findGroup s s.links.groupSelect.toNat with
  | some g => .ok (leBytes 8 (g.members.length % 65536 + g.rank * 2 ^ 16 + g.seq.toNat * 2 ^ 32))
  | none => .error .addressRange

/-- The numbers of the open steps, ascending (R56). -/
def openSteps (s : State) : List Nat := sortBy id (s.train.steps.map fun p => p.num.toNat)

/-- Whether walks that an invalidation has made stale still run (R298). -/
def staleWalks (s : State) : Bool := s.mem.xlate.walks.any fun w => w.stale

/-- A write that has removed cached entries is complete once the older walks have ended (R298). -/
def afterWalks (s : State) : State × Applied := (s, if staleWalks s then .action else .answered .ok)

/-- The pages that a value of PT_INVALIDATE names (R298). -/
def invalidated (v p : Nat) : Bool := v == 2 ^ 64 - 1 || p == v / pageSize

/-- FW_PROGRESS (R476). -/
def fwProgress (s : State) : List Byte :=
  let p : Progress := match s.boot.recv with
    | some r => { blocks := r.blocks, next := r.next, inFlash := r.inFlash, source := r.source, status := 0, dropped := droppedMask r }
    | none => s.boot.progress
  leBytes 16 (p.blocks + p.next * 2 ^ 16 + p.inFlash * 2 ^ 32 + p.source * 2 ^ 48 + p.status * 2 ^ 56 + p.dropped * 2 ^ 64)

/-- A device reset is scheduled (R434). -/
def scheduleReset (c : Chan) (s : State) : State :=
  let cause := match c with | .fn _ => 1 | .mailbox => 2
  startAction 0x1000 1 (updClk (fun k => { k with resetDue := some (s.now + 10000000, cause) }) s)

/-- ATTEST_SIGN starts (R474). -/
def startSigning (s : State) : State := startAction 0x7004 4 (updBoot (fun b => { b with signing := some (attestBody s) }) s)

/-- The counters of a snapshot (R413). -/
def snapCounters (s : State) : List Snapped :=
  counterObjects.filterMap fun o => match o.read s with
    | .ok v => some { index := o.index, sub := o.sub, value := v }
    | .error _ => none

/-- COUNTER_SNAPSHOT (R413). -/
def takeSnapshot (c : Chan) (s : State) : State := updChan c (fun x => { x with snap := some (snapCounters s), snapNs := s.now }) s

/-- Whether an F32 code is a power of two from 2^lo to 2^hi. -/
def powerCode (lo hi : Nat) (v : Nat) : Bool := v % 2 ^ 23 == 0 && decide (127 + lo ≤ v / 2 ^ 23) && decide (v / 2 ^ 23 ≤ 127 + hi)

/-- Whether a number is a power of two within bounds. -/
def powerOf (lo hi v : Nat) : Bool := popcount 64 v == 1 && decide (lo ≤ v) && decide (v ≤ hi)

/-- A 16-element register array from encoded elements. -/
def vec16 (xs : List Nat) : Vector (BitVec 64) 16 := .ofFn fun i => BitVec.ofNat 64 (xs.getD i.val 0)

/-- Whether a region array changes where the region holds entries (R244). -/
def regionConflict (cur : RowObjects → Vector (BitVec 64) 16) (holds : Engine → Bool) (v : List Byte) (s : State) : Bool :=
  v.length == 132 && (List.finRange 16).any fun e => (vec16 (arrVals 8 v))[e] != (cur s.rows.obj)[e] && holds (getEng s e)

/-- A region array changes: where an element changes, its region starts anew. -/
def changeRegion (cur : RowObjects → Vector (BitVec 64) 16) (put : Vector (BitVec 64) 16 → RowObjects → RowObjects) (anew : Engine → Engine)
    (xs : List Nat) (s : State) : State :=
  let v := vec16 xs
  let changed := (List.finRange 16).filter fun e => v[e] != (cur s.rows.obj)[e]
  changed.foldl (fun s e => updEng e anew s) (updRowObj (put v) s)

end Sys2Proof.Machine
end

