-- ==== Sys2Proof/Machine/ObjConfig.lean ====
section
/-!
DEFINITION. The objects of the dictionary that are no counters (the object tables of 01 to 14).
-/
namespace Sys2Proof.Machine

/-- A text that is only read. -/
def roText (sub max : Nat) (t : String) : ObjDef := { roAt 0x0100 sub 7 max (fun _ => .ok (textBytes t)) with fixed := false }

/-- The persistent objects changed by `f`. -/
def updKeep (f : Persistent → Persistent) (s : State) : State := updDict (fun d => { d with keep := f d.keep }) s

/-- A PLCA setting (R400, R421). -/
def plcaObj (sub : Nat) (range : Nat → Bool) : ObjDef :=
  persistent (inBoot (rwNum 0x0200 sub 1 (fun s => leNat (keptValue s.dict.keep 0x0200 sub)) range
    fun n s => updKeep (setKept 0x0200 sub (leBytes 1 n)) s))

/-- Identity, roles and field network (R418, R421). -/
def identityObjects : List ObjDef :=
  [inBoot (roText 1 64 "Huamastan Microsystems"), inBoot (roText 2 64 "HSX4-512"), inBoot (roNum 0x0100 3 2 fun _ => 0x0451),
   inBoot { roAt 0x0100 4 7 16 (fun _ => .ok (leBytes 16 Config.unitSerial)) with fixed := true },
   inBoot (roNum 0x0100 5 1 fun _ => Config.siliconStep.toNat), inBoot (roNum 0x0100 6 1 fun s => s.clk.slotId.toNat),
   inBoot (roNum 0x0100 7 2 fun _ => 1),
   inBoot (roNum 0x0101 1 3 fun _ => Config.bootRomVersion.toNat), inBoot (roNum 0x0101 2 3 fun s => s.boot.imageVersion.toNat),
   inBoot (roNum 0x0101 3 3 fun s => s.boot.imageVersion.toNat),
   persistent (rwNum 0x0102 1 1 (fun s => s.dict.keep.roles.toNat) (fun n => decide (n ≤ 7))
     fun n s => updKeep (fun k => { k with roles := BitVec.ofNat 8 n }) s),
   persistent (inBoot { rwBlob 0x0200 1 6 (fun s => keptValue s.dict.keep 0x0200 1) (fun v s => updKeep (setKept 0x0200 1 v) s) with
     range := fun v _ => byteField v 0 1 % 2 == 0 }),
   plcaObj 2 fun n => decide (n ≤ 15) || n == 255, plcaObj 3 fun n => decide (1 ≤ n) && decide (n ≤ 16), plcaObj 4 fun n => decide (20 ≤ n),
   plcaObj 5 fun n => decide (n ≤ 8),
   inBoot (rwBlob 0x0200 6 6 (fun s => (bytesOf 6 s.dict.notifyMac).reverse)
     fun v s => updDict (fun d => { d with notifyMac := BitVec.ofNat 48 (leNat v.reverse) }) s),
   inBoot (rwArr 0x0200 7 3 4 16 false (fun s => s.dict.notifyList.map BitVec.toNat) (fun xs => xs.all fun x => decide (x < 2 ^ 24))
     fun xs s => updDict (fun d => { d with notifyList := xs.map (BitVec.ofNat 32) }) s)]

/-- Host interface (R389). -/
def hostObjects : List ObjDef :=
  [inBoot (roNum 0x0210 1 1 fun s => devCode s.host.dev),
   { rwNum 0x0210 2 4 (fun s => s.host.sessionArea.toNat) (fun n => n % 2 ^ 20 == 0 && decide (n < 0x8000000000))
       (fun n s => updHost (fun h => { h with sessionArea := BitVec.ofNat 64 n }) s) with conflict := fun _ s => s.host.dev != .ready },
   rwNum 0x0210 3 3 (fun s => s.host.watchdogMs.toNat) (fun n => n == 0 || (decide (10 ≤ n) && decide (n ≤ 60000)))
     fun n s => updHost (fun h => { h with watchdogMs := BitVec.ofNat 32 n, lastBeat := s.now }) s,
   roNum 0x0210 4 3 fun s => s.host.session.id.toNat]

/-- A write of POWER_MODE (R441). -/
def writeMode (n : Nat) (s : State) : State × Applied :=
  let m := BitVec.ofNat 8 n
  if s.clk.mode = m then (s, .answered .ok) else (startMode m s, .action)

/-- A write of PARK (R443, R445); one that meets a change of the parked condition waits for it. -/
def writePark (n : Nat) (s : State) : State × Applied :=
  match s.clk.park, n with
  | .awake, 0 => (s, .answered .ok)
  | .awake, _ => (updClk (fun c => { c with park := .parking }) s, .action)
  | .parked, 0 => (updClk (fun c => { c with park := .waking }) s, .action)
  | .parked, _ => (s, .answered .ok)
  | _, _ => (s, .action)

/-- Whether a PARK write is refused (R443). -/
def parkWriteConflict (v : List Byte) (s : State) : Bool := leNat v == 1 && (s.clk.park == .awake || s.clk.park == .waking) && parkConflict s

/-- Clocks, resets, power and temperatures (R450, R495). -/
def clockObjects : List ObjDef :=
  [inBoot { cmdObj 0x1000 1 1 1 (fun c _ s => (scheduleReset c s, .started)) with range := fun v _ => leNat v == 0xA5 },
   roNum 0x1000 2 1 fun s => s.clk.resetCause.toNat, roNum 0x1000 3 3 fun s => s.clk.resetCount,
   inBoot (roNum 0x1001 1 3 clockStatus), roNum 0x1001 2 3 arithKhz,
   { rwNum 0x1002 1 1 (fun s => s.clk.mode.toNat) (fun n => decide (n ≤ 2)) (fun _ s => s) with
       conflict := fun _ s => s.clk.changing, write := fun _ v s => writeMode (leNat v) s },
   roNum 0x1002 2 1 fun s => s.clk.modeNow.toNat, roNum 0x1002 3 2 ceilingNow,
   { rwNum 0x1002 4 1 (fun s => b2n (s.clk.park == .parked || s.clk.park == .parking)) (fun n => decide (n ≤ 1)) (fun _ s => s) with
       conflict := parkWriteConflict, write := fun _ v s => writePark (leNat v) s },
   roNum 0x1003 1 3 vinMv, roNum 0x1003 2 3 iinMa, roNum 0x1003 3 3 pinMw,
   roArr 0x1003 4 5 4 4 true fun s => s.clk.sensors.tjQuad.toList.map (ofSigned 32), roNum 0x1003 5 5 fun s => ofSigned 32 (tjMax s),
   roArr 0x1003 6 5 4 8 true fun s => s.clk.sensors.stackTemp.toList.map (ofSigned 32),
   roNum 0x1003 7 5 fun s => (Config.coolantIn s.now).toNat, roNum 0x1003 8 5 fun s => (Config.coolantOut s.now).toNat,
   roNum 0x1003 9 5 fun s => (Config.converterTemp s.now).toNat,
   roNum 0x1004 1 2 fun s => s.clk.alerts.toNat,
   rwNum 0x1004 2 2 (fun s => s.clk.alertMask.toNat) (fun n => decide (n ≤ 0xFF)) fun n s =>
     withAlerts (fun c => { c with alertMask := BitVec.ofNat 16 n }) s,
   { cmdObj 0x1004 3 2 2 (fun _ v s => (clearAlerts (BitVec.ofNat 16 (leNat v)) s, .answered .ok)) with
       range := fun v _ => decide (leNat v ≤ 0xFF) }]

/-- Memory and translation (R301, R417). -/
def memoryObjects : List ObjDef :=
  [whileClosed { rwNum 0x2001 1 4 (fun s => s.mem.xlate.ptRoot.toNat) (fun n => n % 32768 == 0 && decide (n < 0x8000000000)) (fun _ s => s) with
     write := fun _ v s => afterWalks (setPtRoot (BitVec.ofNat 64 (leNat v)) s) },
   { cmdObj 0x2001 2 4 8 (fun _ v s => afterWalks (invalidate (invalidated (leNat v)) s)) with
     form := fun v _ => leNat v == 2 ^ 64 - 1 || (leNat v % 2 ^ 21 == 0 && decide (leNat v < 2 ^ 48)) },
   rwArr 0x2001 3 8 32 32 false (fun s => s.mem.xlate.spans.map BitVec.toNat) (fun xs => spansOk (xs.map (BitVec.ofNat 256)))
     fun xs s => updXlate (fun x => { x with spans := xs.map (BitVec.ofNat 256) }) s,
   whileClosed (rwArr 0x2002 1 8 16 64 true (fun s => s.mem.farMap.toList.map BitVec.toNat) (fun xs => xs.all fun x => farEntryOk (BitVec.ofNat 128 x))
     fun xs s => { s with mem := { s.mem with farMap := .ofFn fun i => BitVec.ofNat 128 (xs.getD i.val 0) } }),
   rwNum 0x2003 1 2 (fun s => s.mem.stackCtl.scrubPeriod.toNat) (fun n => decide (n ≤ 168)) fun n s =>
     updStacks (fun x => { x with scrubPeriod := BitVec.ofNat 16 n }) s,
   roArr 0x2003 2 8 16 16 false fun s => s.mem.stackCtl.ueLog.map BitVec.toNat,
   cmdObj 0x2003 3 1 1 fun _ _ s => (updStacks (fun x => { x with ueLog := [] }) s, .answered .ok),
   rwNum 0x2004 1 1 (fun s => s.mem.runaheadEnable.toNat) (fun n => decide (n ≤ 1)) fun n s =>
     { s with mem := { s.mem with runaheadEnable := BitVec.ofNat 8 n } }]

/-- TILE_FENCE (R131): it is answered once the config store has the new mask (R396). -/
def writeFence (v : List Byte) (s : State) : State × Applied :=
  if fenced s (leNat v) then (s, .answered .okNoOp) else (fenceTile (fin (leNat v)) s, .store)

/-- TILE_UNFENCE (R133). -/
def writeUnfence (v : List Byte) (s : State) : State × Applied :=
  if fenced s (leNat v) then (unfenceTile (fin (leNat v)) s, .store) else (s, .answered .okNoOp)

/-- Whether TILE_FENCE is refused (R131). -/
def fenceConflict (v : List Byte) (s : State) : Bool := stepOpen s || (decide (leNat v < 128) && tileBusy s (fin (leNat v)))

/-- Tiles (R98, R130). -/
def tileObjects : List ObjDef :=
  [persistent (roBlob 0x3001 1 16 fun s => .ok (bytesOf 16 s.dict.keep.tilesFenced)),
   { cmdObj 0x3001 2 2 2 (fun _ v s => writeFence v s) with conflict := fenceConflict, range := fun v _ => decide (leNat v ≤ 127) },
   { cmdObj 0x3001 3 2 2 (fun _ v s => writeUnfence v s) with conflict := fun _ s => stepOpen s, range := fun v _ => decide (leNat v ≤ 127) },
   persistent (roNum 0x3001 4 3 fun s => s.dict.keep.fenceGen.toNat),
   roBlob 0x3001 5 16 fun s => .ok (leBytes 16 (bitMask 128 fun t => tileBusy s (fin t))),
   persistent (roBlob 0x3001 6 16 fun s => .ok (bytesOf 16 s.dict.keep.unfencePending)),
   rwNum 0x3010 1 1 (fun s => s.tile.zbPredict.toNat) (fun n => decide (n ≤ 1)) fun n s =>
     { s with tile := { s.tile with zbPredict := BitVec.ofNat 8 n } },
   rwArr 0x3010 2 2 2 256 false (fun s => s.tile.zbOff.map BitVec.toNat) (fun _ => true) fun xs s =>
     { s with tile := { s.tile with zbOff := xs.map (BitVec.ofNat 16) } }]

/-- A gather object (R204). -/
def gatherObj (sub ty : Nat) (read : RowObjects → Nat) (range : Nat → Bool) (put : Nat → RowObjects → RowObjects) : ObjDef :=
  rwNum 0x3100 sub ty (fun s => read s.rows.obj) range fun n s => updRowObj (put n) s

/-- Row engines: gather (R204). -/
def gatherObjects : List ObjDef :=
  [{ rwNum 0x3100 1 3 (fun s => s.rows.obj.emberSets) (powerOf 4096 262144) setEmberSets with conflict := fun _ s => engineBusy s },
   gatherObj 2 1 (fun o => o.hitShift.toNat) (fun n => decide (n ≤ 15)) fun n o => { o with hitShift := BitVec.ofNat 8 n },
   gatherObj 3 1 (fun o => o.missShift.toNat) (fun n => decide (n ≤ 15)) fun n o => { o with missShift := BitVec.ofNat 8 n },
   gatherObj 4 4 (fun o => o.ringDva.toNat) (fun n => n % 8 == 0 && decide (n < 2 ^ 48)) fun n o => { o with ringDva := BitVec.ofNat 64 n },
   gatherObj 5 3 (fun o => o.ringEntries.toNat) (fun n => n == 0 || powerOf 1024 16777216 n) fun n o => { o with ringEntries := BitVec.ofNat 32 n },
   roArr 0x3100 6 4 8 16 true fun s => s.rows.engines.toList.map fun g => g.missHead,
   gatherObj 7 1 (fun o => o.prescanEnable.toNat) (fun n => decide (n ≤ 1)) fun n o => { o with prescanEnable := BitVec.ofNat 8 n },
   gatherObj 8 4 (fun o => o.replicateMax.toNat) (fun n => decide (n ≤ 68719476736)) fun n o => { o with replicateMax := BitVec.ofNat 64 n },
   rwNum 0x3101 1 2 (fun s => s.rows.obj.tableSelect.toNat) (fun n => decide (n ≤ 4095)) fun n s =>
     updRowObj (fun o => { o with tableSelect := BitVec.ofNat 16 n }) s,
   roBlob 0x3101 2 16 fun s => .ok (tableInfo s), roBlob 0x3101 3 64 tableDesc]

/-- A region array (R244). -/
def regionObj (sub : Nat) (cur : RowObjects → Vector (BitVec 64) 16) (put : Vector (BitVec 64) 16 → RowObjects → RowObjects)
    (holds : Engine → Bool) (anew : Engine → Engine) (range : Nat → Bool) : ObjDef :=
  whileClosed { rwArr 0x5030 sub 4 8 16 true (fun s => (cur s.rows.obj).toList.map BitVec.toNat) (fun xs => xs.all range)
      (changeRegion cur put anew) with conflict := regionConflict cur holds }

/-- Whether a DVA is 64-byte aligned. -/
def dva64 (n : Nat) : Bool := n % 64 == 0 && decide (n < 2 ^ 48)
/-- Whether a size is a multiple of 64. -/
def size64 (n : Nat) : Bool := n % 64 == 0

/-- An update object (R244). -/
def updateObj (index sub ty : Nat) (read : RowObjects → Nat) (range : Nat → Bool) (put : Nat → RowObjects → RowObjects) : ObjDef :=
  whileClosed (rwNum index sub ty (fun s => read s.rows.obj) range fun n s => updRowObj (put n) s)

/-- Row engines: updates (R244). -/
def updateObjects : List ObjDef :=
  let keys (g : Engine) : Bool := g.steps.any fun x => !x.keys.isEmpty
  let log (g : Engine) : Bool := g.steps.any fun x => !x.entries.isEmpty
  let deferred (g : Engine) : Bool := !g.deferred.isEmpty
  [regionObj 1 (fun o => o.keyDva) (fun v o => { o with keyDva := v }) keys (fun g => { g with keyPos := 0 }) dva64,
   regionObj 2 (fun o => o.keyBytes) (fun v o => { o with keyBytes := v }) keys (fun g => { g with keyPos := 0 }) size64,
   regionObj 3 (fun o => o.logDva) (fun v o => { o with logDva := v }) log (fun g => { g with logPos := 0 }) dva64,
   regionObj 4 (fun o => o.logBytes) (fun v o => { o with logBytes := v }) log (fun g => { g with logPos := 0 }) size64,
   regionObj 5 (fun o => o.deferDva) (fun v o => { o with deferDva := v }) deferred (fun g => { g with deferPos := 0 }) dva64,
   regionObj 6 (fun o => o.deferBytes) (fun v o => { o with deferBytes := v }) deferred (fun g => { g with deferPos := 0 }) size64,
   updateObj 0x5030 7 1 (fun o => o.deferDelay.toNat) (fun n => decide (1 ≤ n) && decide (n ≤ 8)) fun n o => { o with deferDelay := BitVec.ofNat 8 n },
   updateObj 0x5030 8 1 (fun o => o.deferForward.toNat) (fun n => decide (n ≤ 1)) fun n o => { o with deferForward := BitVec.ofNat 8 n },
   updateObj 0x5030 9 3 (fun o => o.deferBatch.toNat) (fun n => decide (64 ≤ n) && decide (n ≤ 65536)) fun n o => { o with deferBatch := BitVec.ofNat 32 n },
   updateObj 0x5031 1 1 (fun o => o.replicaAudit.toNat) (fun n => decide (n ≤ 1)) fun n o => { o with replicaAudit := BitVec.ofNat 8 n },
   updateObj 0x5031 2 1 (fun o => o.refetchLimit.toNat) (fun n => decide (1 ≤ n) && decide (n ≤ 8)) fun n o => { o with refetchLimit := BitVec.ofNat 8 n },
   roNum 0x5032 1 1 fun s => b2n s.rows.obj.restoreRequired]

/-- The history cache (R270). -/
def historyObjects : List ObjDef :=
  [rwNum 0x3200 1 1 (fun s => s.hist.select.toNat) (fun _ => true) fun n s => updHist (fun h => { h with select := BitVec.ofNat 8 n }) s,
   roBlob 0x3200 2 64 slotDesc, roBlob 0x3200 3 32 fun s => .ok (slotInfo s),
   roBlob 0x3200 4 32 fun s => .ok (leBytes 32 (bitMask 256 fun i => (getSlot s (fin i)).isSome)),
   roBlob 0x3200 5 32 fun s => .ok (leBytes 32 (bitMask 256 fun i => ((getSlot s (fin i)).bind fun x => x.stall).isSome))]

/-- The links changed by `f`. -/
def updLinks (f : Links → Links) (s : State) : State := { s with links := f s.links }

/-- Entry `i` of a routing table, by its object (R312, R348). -/
def setRoute (index sub i : Nat) (v : BitVec 32) (r : Routes) : Routes :=
  match index, sub with
  | 0x4010, 1 => { r with groupInject := r.groupInject.setIfInBounds i v }
  | 0x4010, 2 => { r with groupB := r.groupB.setIfInBounds i v }
  | 0x4010, 3 => { r with groupC := r.groupC.setIfInBounds i v }
  | 0x4011, 1 => { r with memberInject := r.memberInject.setIfInBounds i v }
  | 0x4011, 2 => { r with memberB := r.memberB.setIfInBounds i v }
  | 0x4011, 3 => { r with memberC := r.memberC.setIfInBounds i v }
  | _, _ => r

/-- A write of a routing table goes on by `n` entries, in ascending order (R312); what is left of it. -/
def advanceRoute : Nat → RouteWrite → Routes → RouteWrite × Routes
  | 0, w, r => (w, r)
  | n + 1, w, r =>
    match w.values[w.next]? with
    | some v => advanceRoute n { w with next := w.next + 1 } (setRoute w.index w.sub w.next v r)
    | none => (w, r)

/-- Writes of routing tables that `p` selects go on by `n` entries. -/
def advanceRoutes (p : RouteWrite → Bool) (n : Nat) (s : State) : State :=
  let one (acc : List RouteWrite × Routes) (w : RouteWrite) : List RouteWrite × Routes :=
    if p w then
      let r := advanceRoute n w acc.2
      (if r.1.next < r.1.values.length then acc.1 ++ [r.1] else acc.1, r.2)
    else (acc.1 ++ [w], acc.2)
  let r := s.links.routeWrites.foldl one ([], s.links.routes)
  updLinks (fun l => { l with routeWrites := r.1, routes := r.2 }) s

/-- The writes under way of a routing table are finished. -/
def finishRoutes (index sub : Nat) (s : State) : State := advanceRoutes (fun w => w.index == index && w.sub == sub) 256 s

/-- A routing table (R312): a write begins once an earlier one of the table is done, and its answer waits for its last entry. -/
def routeObj (index sub n : Nat) (read : Routes → List (BitVec 32)) : ObjDef :=
  { rwArr index sub 3 4 n true (fun s => (read s.links.routes).map BitVec.toNat) (fun xs => xs.all fun x => decide (x < 2 ^ 17)) (fun _ s => s) with
    write := fun _ v s =>
      let w : RouteWrite := { index := index, sub := sub, values := (arrVals 4 v).map (BitVec.ofNat 32), next := 0 }
      (updLinks (fun l => { l with routeWrites := l.routeWrites ++ [w] }) (finishRoutes index sub s), .action) }

/-- Links and collectives (R348). -/
def linkObjects : List ObjDef :=
  [persistent { rwNum 0x4000 1 2 (fun s => s.dict.keep.nodeId.toNat) (fun n => decide (n ≤ 32767)) setNodeId with
     conflict := fun _ s => nodeIdConflict s },
   whileClosed (rwNum 0x4000 2 1 (fun s => s.links.linkPorts.toNat) (fun n => n == 12 || n == 16) fun n s =>
     settlePorts (updLinks (fun l => { l with linkPorts := BitVec.ofNat 8 n }) s)),
   whileClosed (rwNum 0x4000 3 2 (fun s => s.links.portDisable.toNat) (fun _ => true) fun n s =>
     settlePorts (updLinks (fun l => { l with portDisable := BitVec.ofNat 16 n }) s)),
   roArr 0x4000 4 3 4 16 true fun s => s.links.ports.toList.map portStatus,
   rwNum 0x4000 5 1 (fun s => s.links.hopLimit.toNat) (fun n => decide (1 ≤ n)) fun n s => updLinks (fun l => { l with hopLimit := BitVec.ofNat 8 n }) s,
   routeObj 0x4010 1 128 fun r => r.groupInject.toList,
   routeObj 0x4010 2 128 fun r => r.groupB.toList,
   routeObj 0x4010 3 128 fun r => r.groupC.toList,
   routeObj 0x4011 1 256 fun r => r.memberInject.toList,
   routeObj 0x4011 2 256 fun r => r.memberB.toList,
   routeObj 0x4011 3 256 fun r => r.memberC.toList,
   rwNum 0x4020 1 3 (fun s => s.links.collTimeoutMs.toNat) (fun n => decide (1 ≤ n) && decide (n ≤ 600000)) fun n s =>
     updLinks (fun l => { l with collTimeoutMs := BitVec.ofNat 32 n }) s,
   rwNum 0x4020 2 3 (fun s => s.links.remoteTimeoutUs.toNat) (fun n => decide (10 ≤ n) && decide (n ≤ 1000000)) fun n s =>
     updLinks (fun l => { l with remoteTimeoutUs := BitVec.ofNat 32 n }) s,
   rwNum 0x4021 1 2 (fun s => s.links.groupSelect.toNat) (fun n => decide (n ≤ 4095)) fun n s =>
     updLinks (fun l => { l with groupSelect := BitVec.ofNat 16 n }) s,
   roBlob 0x4021 2 8 groupInfo,
   whileClosed (rwNum 0x5040 1 1 (fun s => s.links.deterministic.toNat) (fun n => decide (n ≤ 1)) fun n s =>
     updLinks (fun l => { l with deterministic := BitVec.ofNat 8 n }) s)]

/-- The training step changed by `f`. -/
def updTrain (f : Train → Train) (s : State) : State := { s with train := f s.train }

/-- A numerics object (R170). -/
def numObj (index sub ty : Nat) (read : Numerics → Nat) (range : Nat → Bool) (put : Nat → Numerics → Numerics) : ObjDef :=
  rwNum index sub ty (fun s => read s.num) range fun n s => { s with num := put n s.num }

/-- The training step and numerics (R56, R170). -/
def trainingObjects : List ObjDef :=
  [whileClosed (rwNum 0x5000 1 1 (fun s => s.train.profile.toNat) (fun n => decide (n ≤ 2)) fun n s => updTrain (fun t => { t with profile := BitVec.ofNat 8 n }) s),
   whileClosed (rwNum 0x5000 2 1 (fun s => s.train.earlyOptimise.toNat) (fun n => decide (n ≤ 1)) fun n s =>
     updTrain (fun t => { t with earlyOptimise := BitVec.ofNat 8 n }) s),
   roNum 0x5000 3 4 fun s => s.train.lastCommitted.toNat, roArr 0x5000 4 4 8 2 false openSteps,
   whileClosed (numObj 0x5020 1 4 (fun x => x.srSeed.toNat) (fun _ => true) fun n x => { x with srSeed := BitVec.ofNat 64 n }),
   whileClosed (numObj 0x5020 2 1 (fun x => x.lossMode.toNat) (fun n => decide (n ≤ 1)) fun n x => { x with lossMode := BitVec.ofNat 8 n }),
   whileClosed (numObj 0x5020 3 6 (fun x => x.lossScale.toNat) (powerCode 0 24) fun n x => { x with lossScale := BitVec.ofNat 32 n, lossClean := 0 }),
   whileClosed (numObj 0x5020 4 6 (fun x => x.lossFactor.toNat) (powerCode 1 8) fun n x => { x with lossFactor := BitVec.ofNat 32 n }),
   whileClosed (numObj 0x5020 5 3 (fun x => x.lossInterval.toNat) (fun n => decide (1 ≤ n) && decide (n ≤ 1000000)) fun n x =>
     { x with lossInterval := BitVec.ofNat 32 n }),
   roNum 0x5020 6 3 fun s => s.num.lossClean.toNat,
   whileClosed (numObj 0x5021 1 6 (fun x => x.maxNorm.toNat) (fun n => decide (n < 0x7F800000)) fun n x => { x with maxNorm := BitVec.ofNat 32 n }),
   whileClosed (numObj 0x5021 2 6 (fun x => x.normAbsurd.toNat) (fun n => decide (0 < n) && decide (n < 0x7F800000)) fun n x =>
     { x with normAbsurd := BitVec.ofNat 32 n }),
   numObj 0x5022 1 1 (fun x => x.wideReplayEnable.toNat) (fun n => decide (n ≤ 1)) fun n x => { x with wideReplayEnable := BitVec.ofNat 8 n },
   rwNum 0x6101 2 4 (fun s => s.train.ringSelect.toNat) (fun _ => true) fun n s => updTrain (fun t => { t with ringSelect := BitVec.ofNat 64 n }) s,
   roBlob 0x6101 3 128 ringRecord,
   { cmdObj 0x6101 4 1 1 (fun _ _ s => (clearRing s, .answered .ok)) with conflict := fun _ s => stepOpen s }]

/-- Counter snapshots (R413); what the reading channel sees of the two values is `readObject`'s. -/
def snapshotObjects : List ObjDef :=
  [cmdObj 0x6000 1 1 1 fun c _ s => (takeSnapshot c s, .answered .ok),
   cmdObj 0x6000 2 1 1 fun c _ s => (updChan c (fun x => { x with snap := none, snapNs := 0 }) s, .answered .ok),
   roNum 0x6000 3 1 fun _ => 0, roNum 0x6000 4 4 fun _ => 0]

/-- PROT_INSTALL (R465): a blob that passes is written by its action. -/
def writeInstall (v : List Byte) (s : State) : State × Applied :=
  match installFails s v with
  | some st => (s, .answered st)
  | none => (s, .action)

/-- Firmware (R476). -/
def firmwareObjects : List ObjDef :=
  let pair (f : BootRec → Nat × Nat) (s : State) : List Nat :=
    match bootRec s.boot.flash with | some (_, r) => [(f r).1, (f r).2] | none => [0, 0]
  let version (st : BitVec 8) (v : BitVec 32) : Nat := if st = 0 then 0 else v.toNat
  [roNum 0x7000 1 1 fun s => b2n s.boot.bank,
   roArr 0x7000 2 1 1 2 true (pair fun r => (r.stateA.toNat, r.stateB.toNat)),
   roArr 0x7000 3 3 4 2 true (pair fun r => (version r.stateA r.versionA, version r.stateB r.versionB)),
   roNum 0x7000 4 2 fun s => s.boot.fusedEpoch.toNat, inBoot (roBlob 0x7000 5 8 fun s => .ok (bootReport s)),
   { cmdObj 0x7001 1 1 1 (fun _ v s => (startReceive (leNat v) s, .started)) with
       denied := fun v s => leNat v == 1 && !hasRole s 0, conflict := fun _ s => receiveConflict s,
       range := fun v _ => leNat v == 1 || leNat v == 2 },
   { cmdObj 0x7001 2 1 1 (fun _ _ s => (endReceive .stateConflict s, .answered .ok)) with conflict := fun _ s => s.boot.recv.isNone },
   { cmdObj 0x7001 3 1 1 (fun _ _ s => (activate s, .answered .ok)) with conflict := fun _ s => activateConflict s },
   { cmdObj 0x7001 4 1 1 (fun _ _ s => (s, .action)) with conflict := fun _ s => !s.boot.trialBoot },
   roBlob 0x7001 5 16 fun s => .ok (fwProgress s),
   rwNum 0x7002 1 2 (fun s => s.boot.kindleParent.toNat) (fun n => decide (n ≤ 32767) || n == 0xFFFF) fun n s =>
     updBoot (fun b => { b with kindleParent := BitVec.ofNat 16 n }) s,
   { rwArr 0x7002 2 2 2 16 false (fun s => s.boot.kindleChildren.map BitVec.toNat) (fun _ => true)
       (fun xs s => updBoot (fun b => { b with kindleChildren := xs.map (BitVec.ofNat 16) }) s) with conflict := fun _ s => s.boot.recv.isSome },
   { rwNum 0x7002 3 4 (fun s => s.boot.kindleArea.toNat) (fun n => n % 2 ^ 23 == 0 && decide (n < 0x8000000000))
       (fun n s => updBoot (fun b => { b with kindleArea := BitVec.ofNat 64 n }) s) with conflict := fun _ s => s.boot.recv.isSome }]

/-- Protection, measurement and attestation (R476). -/
def securityObjects : List ObjDef :=
  let report (s : State) : Except Status (List Byte) :=
    if s.boot.signing.isSome then .error .stateConflict else match s.boot.report with | some r => .ok r | none => .error .addressRange
  let nonce (s : State) : Except Status (List Byte) := if s.boot.signing.isSome then .error .stateConflict else .ok s.boot.nonce
  [inBoot (roNum 0x7003 1 1 fun s => b2n s.boot.protLock), roNum 0x7003 2 1 fun s => s.boot.protSource.toNat,
   roNum 0x7003 3 3 fun s => s.boot.protVersion.toNat,
   roArr 0x7003 4 8 32 64 false fun s => s.boot.windows.map BitVec.toNat,
   { cmdObj 0x7003 5 8 10032 (fun _ v s => writeInstall v s) with fixed := false, range := fun v _ => decide (8016 ≤ v.length) && decide (v.length ≤ 10032) },
   inBoot { rwBlob 0x7003 6 32 (fun s => s.boot.ownerKey) (fun v s => updBoot (fun b => { b with ownerKey := v }) s) with
     acc := 3, conflict := fun _ s => !noOwner s },
   inBoot { rwNum 0x7003 7 1 (fun s => b2n s.boot.bootHold) (fun n => decide (n ≤ 1)) (fun n s => applyBootHold (n == 1) s) with acc := 3 },
   inBoot (cmdObj 0x7003 8 1 1 fun _ _ s => if s.boot.phase = .hold then (endHold s, .answered .ok) else (s, .answered .okNoOp)),
   roArr 0x7004 1 8 32 8 true fun s => s.boot.meas.toList.map leNat,
   cmdObj 0x7004 2 8 32 fun _ v s => (extendMeas 7 v s, .answered .ok),
   { rwBlob 0x7004 3 32 (fun s => s.boot.nonce) (fun v s => updBoot (fun b => { b with nonce := v }) s) with
     read := nonce, conflict := fun _ s => s.boot.signing.isSome },
   cmdObj 0x7004 4 1 1 fun _ _ s => (startSigning s, .started),
   roBlob 0x7004 5 8240 report, inBoot (roBlob 0x7004 6 32 fun _ => .ok (slice Config.identityKey 0 32)),
   { roBlob 0x7004 7 65536 (fun _ => .ok (Config.identityCert.take 65536)) with fixed := false }]

/-- Every object but the subindexes 0, in the order of the chapters. -/
def objects : List ObjDef :=
  identityObjects ++ hostObjects ++ clockObjects ++ memoryObjects ++ tileObjects ++ gatherObjects ++ updateObjects ++ historyObjects ++
  linkObjects ++ trainingObjects ++ snapshotObjects ++ counterObjects ++ firmwareObjects ++ securityObjects

/-- The highest subindex of an index (R392). -/
def highestSub (index : Nat) : Nat := ((objects.filter fun o => o.index == index).map fun o => o.sub).foldl max 0

/-- Subindex 0 of an index (R392); BOOTING serves it where it serves an object of the index (DEDUCED). -/
def subZero (index : Nat) : ObjDef :=
  { roNum index 0 1 (fun _ => highestSub index) with boot := (objects.filter fun o => o.index == index).any fun o => o.boot }

/-- The object at an index and subindex (R391). -/
def findObject (index sub : Nat) : Option ObjDef :=
  if sub = 0 then (if objects.any fun o => o.index == index then some (subZero index) else none)
  else objects.find? fun o => o.index == index && o.sub == sub

end Sys2Proof.Machine
end

