-- ==== Sys2Proof/Machine/Dictionary.lean ====
section
/-!
DEFINITION. Reading and writing objects (11: R392, R395 to R398, R407, R413, R419), and the commands that write one object.
-/
namespace Sys2Proof.Machine

/-- Whether the server serves a channel (R377, R397, R457): the field network from the end of stage-1 on, the mailbox with BAR0. -/
def serves (s : State) (c : Chan) : Bool :=
  controlRuns s && s.host.dev != .off && match c with
    | .fn _ => !(s.host.dev == .booting && s.boot.phase == .rom)
    | .mailbox => bar0Open s

/-- Whether the mailbox may not write an index (R418, R419). -/
def roleForbids (s : State) (o : ObjDef) : Bool :=
  let i := o.index
  let guarded := (decide (0x1000 ≤ i) && decide (i ≤ 0x1FFF) && !(i == 0x1000 && o.sub == 1)) ||
    (i == 0x4000 && (o.sub == 1 || o.sub == 2 || o.sub == 3)) || i == 0x4010 || i == 0x4011 || (decide (0x7000 ≤ i) && decide (i ≤ 0x7FFF))
  i == 0x0102 || (guarded && !hasRole s 2)

/-- Whether BOOTING keeps an object back (R397). -/
def bootForbids (s : State) (o : ObjDef) : Bool := s.host.dev == .booting && !o.boot

/-- Whether access rights or roles forbid a write (R13, R392, item 2). -/
def writeDenied (c : Chan) (o : ObjDef) (v : List Byte) (s : State) : Bool :=
  o.acc == 1 || (o.acc == 3 && s.boot.protLock) || (c == .mailbox && roleForbids s o) || o.denied v s

/-- Whether a state forbids a write (R392, item 3). -/
def writeConflict (o : ObjDef) (v : List Byte) (s : State) : Bool :=
  bootForbids s o || (o.acc == 5 && actionRuns s o.index o.sub) || o.conflict v s

/-- The first check that a write fails (R392). -/
def writeFails (c : Chan) (o : ObjDef) (v : List Byte) (s : State) : Option Status :=
  firstFail [(writeDenied c o v s, .accessDenied), (writeConflict o v s, .stateConflict), (!encodingOk o v || !o.form v s, .malformed),
    (!o.range v s, .lengthRange)]

/-- The value of an object on a channel (R392, R397, R413). -/
def readObject (c : Chan) (o : ObjDef) (s : State) : Except Status (List Byte) :=
  let ch := chanState s c
  if o.acc = 4 then .error .accessDenied
  else if bootForbids s o then .error .stateConflict
  else match o.index, o.sub with
    | 0x6000, 3 => .ok (leBytes 1 (b2n ch.snap.isSome))
    | 0x6000, 4 => .ok (leBytes 8 ch.snapNs)
    | i, j => match ch.snap.bind fun xs => xs.find? fun x => x.index == i && x.sub == j with
      | some x => .ok x.value
      | none => o.read s

/-- The value of a listed object, as a notification carries it (R407). -/
def liveValue (s : State) (e : BitVec 32) : Option (List Byte) :=
  (findObject (fld e 15 0) (fld e 23 16)).bind fun o => match o.read s with | .ok v => some v | .error _ => none

/-- The values that listed objects have when the list or the address is written (R407). -/
def listObjects (s : State) : State :=
  let base (e : BitVec 32) : Option Notified :=
    let old := s.dict.notified.find? fun x => x.index == fld e 15 0 && x.sub == fld e 23 16
    (liveValue s e).map fun v => { index := fld e 15 0, sub := fld e 23 16, value := v, at_ := old.bind fun x => x.at_ }
  updDict (fun d => { d with notified := s.dict.notifyList.filterMap base }) s

/-- A write that has passed its checks takes effect and is answered, or waits (R395, R396, R398). -/
def applyWrite (w : WaitingWrite) (o : ObjDef) (s : State) : State :=
  let r := o.write w.ch w.value s
  let s := if o.index = 0x0200 ∧ (o.sub = 6 ∨ o.sub = 7) then listObjects r.1 else r.1
  let wait (w : WaitingWrite) (s : State) : State :=
    updDict (fun d => { d with waiting := d.waiting ++ [w] }) (if o.acc = 5 then startAction o.index o.sub s else s)
  match r.2 with
  | .answered st => answerWrite w st (if o.acc = 5 then endAction o.index o.sub st s else s)
  | .started => answerWrite w .ok s
  | .action => wait w s
  | .store => wait { w with store := true } s

/-- A whole value is written to an object (R392). -/
def writeObject (w : WaitingWrite) (s : State) : State :=
  match findObject w.index w.sub with
  | none => answerWrite w .addressRange s
  | some o => match writeFails w.ch o w.value s with
    | some st => answerWrite w st s
    | none => applyWrite w o s

/-- A whole value reaches an object on a channel that is served. -/
def writeRow (c : Chan) (index sub : Nat) (v : List Byte) (s : State) : State :=
  if serves s c then writeObject { ch := c, req := none, index := index, sub := sub, value := v, store := false } s else s

/-- RING_CLEAR (R56). -/
def execRingClear (ch : Chan) (v : List Byte) (s : State) : Host.Outcome State Fault Refusal := go (writeRow ch 0x6101 4 v s)
/-- TILE_FENCE (R131). -/
def execTileFence (ch : Chan) (v : List Byte) (s : State) : Host.Outcome State Fault Refusal := go (writeRow ch 0x3001 2 v s)
/-- TILE_UNFENCE (R133). -/
def execTileUnfence (ch : Chan) (v : List Byte) (s : State) : Host.Outcome State Fault Refusal := go (writeRow ch 0x3001 3 v s)
/-- A write of LOSS_SCALE (R170). -/
def execLossScaleWrite (ch : Chan) (v : List Byte) (s : State) : Host.Outcome State Fault Refusal := go (writeRow ch 0x5020 3 v s)
/-- A write of EMBER_SETS (R204). -/
def execEmberSetsWrite (ch : Chan) (v : List Byte) (s : State) : Host.Outcome State Fault Refusal := go (writeRow ch 0x3100 1 v s)
/-- PT_INVALIDATE (R298). -/
def execPtInvalidate (ch : Chan) (v : List Byte) (s : State) : Host.Outcome State Fault Refusal := go (writeRow ch 0x2001 2 v s)
/-- A write of PT_ROOT (R298). -/
def execPtRootWrite (ch : Chan) (v : List Byte) (s : State) : Host.Outcome State Fault Refusal := go (writeRow ch 0x2001 1 v s)
/-- A write of XLATE_SPANS (R297). -/
def execXlateSpansWrite (ch : Chan) (v : List Byte) (s : State) : Host.Outcome State Fault Refusal := go (writeRow ch 0x2001 3 v s)
/-- A write of FAR_MAP (R289). -/
def execFarMapWrite (ch : Chan) (v : List Byte) (s : State) : Host.Outcome State Fault Refusal := go (writeRow ch 0x2002 1 v s)
/-- MEM_UE_LOG_CLEAR (R287). -/
def execMemUeLogClear (ch : Chan) (v : List Byte) (s : State) : Host.Outcome State Fault Refusal := go (writeRow ch 0x2003 3 v s)
/-- A write of NODE_ID (R311). -/
def execNodeIdWrite (ch : Chan) (v : List Byte) (s : State) : Host.Outcome State Fault Refusal := go (writeRow ch 0x4000 1 v s)
/-- A write of LINK_PORTS (R317). -/
def execLinkPortsWrite (ch : Chan) (v : List Byte) (s : State) : Host.Outcome State Fault Refusal := go (writeRow ch 0x4000 2 v s)
/-- A write of PORT_DISABLE (R317). -/
def execPortDisableWrite (ch : Chan) (v : List Byte) (s : State) : Host.Outcome State Fault Refusal := go (writeRow ch 0x4000 3 v s)

/-- Index and subindex of a routing table (R348). -/
def routeIndex : RouteTable → Nat × Nat
  | .groupInject => (0x4010, 1) | .groupB => (0x4010, 2) | .groupC => (0x4010, 3)
  | .memberInject => (0x4011, 1) | .memberB => (0x4011, 2) | .memberC => (0x4011, 3)

/-- A write of a routing table (R312). -/
def execRoutingTableWrite (ch : Chan) (which : RouteTable) (v : List Byte) (s : State) : Host.Outcome State Fault Refusal :=
  go (writeRow ch (routeIndex which).1 (routeIndex which).2 v s)
/-- COUNTER_SNAPSHOT (R413). -/
def execCounterSnapshot (ch : Chan) (v : List Byte) (s : State) : Host.Outcome State Fault Refusal := go (writeRow ch 0x6000 1 v s)
/-- COUNTER_LIVE (R413). -/
def execCounterLive (ch : Chan) (v : List Byte) (s : State) : Host.Outcome State Fault Refusal := go (writeRow ch 0x6000 2 v s)
/-- DEVICE_RESET (R434). -/
def execDeviceReset (ch : Chan) (v : List Byte) (s : State) : Host.Outcome State Fault Refusal := go (writeRow ch 0x1000 1 v s)
/-- A write of POWER_MODE (R441). -/
def execPowerModeWrite (ch : Chan) (v : List Byte) (s : State) : Host.Outcome State Fault Refusal := go (writeRow ch 0x1002 1 v s)
/-- A write of PARK that asks for parking (R443). -/
def execParkEnter (ch : Chan) (v : List Byte) (s : State) : Host.Outcome State Fault Refusal := go (writeRow ch 0x1002 4 v s)
/-- A write of PARK that asks for waking (R445). -/
def execParkExit (ch : Chan) (v : List Byte) (s : State) : Host.Outcome State Fault Refusal := go (writeRow ch 0x1002 4 v s)
/-- ALERT_CLEAR (R448). -/
def execAlertClear (ch : Chan) (v : List Byte) (s : State) : Host.Outcome State Fault Refusal := go (writeRow ch 0x1004 3 v s)
/-- A write of BOOT_HOLD (R464). -/
def execBootHoldWrite (ch : Chan) (v : List Byte) (s : State) : Host.Outcome State Fault Refusal := go (writeRow ch 0x7003 7 v s)
/-- BOOT_CONTINUE (R464). -/
def execBootContinue (ch : Chan) (v : List Byte) (s : State) : Host.Outcome State Fault Refusal := go (writeRow ch 0x7003 8 v s)
/-- A write of OWNER_KEY (R453, R464). -/
def execOwnerKeyWrite (ch : Chan) (v : List Byte) (s : State) : Host.Outcome State Fault Refusal := go (writeRow ch 0x7003 6 v s)
/-- PROT_INSTALL (R465). -/
def execProtInstall (ch : Chan) (v : List Byte) (s : State) : Host.Outcome State Fault Refusal := go (writeRow ch 0x7003 5 v s)
/-- FW_RECEIVE from PCIe (R468). -/
def execFwReceivePcie (ch : Chan) (v : List Byte) (s : State) : Host.Outcome State Fault Refusal := go (writeRow ch 0x7001 1 v s)
/-- FW_RECEIVE from the kindle parent (R468). -/
def execFwReceiveKindle (ch : Chan) (v : List Byte) (s : State) : Host.Outcome State Fault Refusal := go (writeRow ch 0x7001 1 v s)
/-- FW_ABORT (R468). -/
def execFwAbort (ch : Chan) (v : List Byte) (s : State) : Host.Outcome State Fault Refusal := go (writeRow ch 0x7001 2 v s)
/-- FW_ACTIVATE (R471). -/
def execFwActivate (ch : Chan) (v : List Byte) (s : State) : Host.Outcome State Fault Refusal := go (writeRow ch 0x7001 3 v s)
/-- FW_CONFIRM (R471). -/
def execFwConfirm (ch : Chan) (v : List Byte) (s : State) : Host.Outcome State Fault Refusal := go (writeRow ch 0x7001 4 v s)
/-- MEAS_EXTEND (R473). -/
def execMeasExtend (ch : Chan) (v : List Byte) (s : State) : Host.Outcome State Fault Refusal := go (writeRow ch 0x7004 2 v s)
/-- ATTEST_SIGN (R474). -/
def execAttestSign (ch : Chan) (v : List Byte) (s : State) : Host.Outcome State Fault Refusal := go (writeRow ch 0x7004 4 v s)

/-- A waiting write leaves the list. -/
def dropWaiting (w : WaitingWrite) (s : State) : State := updDict (fun d => { d with waiting := dropFirst (fun x => x == w) d.waiting }) s

/-- Whether a write is one of a PLCA setting (R400). -/
def plcaSetting (w : WaitingWrite) : Bool := w.index == 0x0200 && decide (2 ≤ w.sub) && decide (w.sub ≤ 5)

/-- The records that a waiting write puts into the config store (R396): for TILE_FENCE and TILE_UNFENCE the tile objects (R133). -/
def commitRecords (w : WaitingWrite) (s : State) : State :=
  let s := if plcaSetting w then updDict (fun d => { d with plcaSet := (setKept w.index w.sub w.value { d.keep with plca := d.plcaSet }).plca }) s else s
  if w.index = 0x3001 then [(1 : Nat), 4, 6].foldl (fun s sub => storeRecord 0x3001 sub (keptValue s.dict.keep 0x3001 sub) s) s
  else storeRecord w.index w.sub w.value s

/-- CONFIG_STORE_COMMIT (R396): the oldest waiting value is in flash, and its write is answered. -/
def execConfigStoreCommit (s : State) : Host.Outcome State Fault Refusal :=
  go (match s.dict.waiting.find? fun w => w.store with
    | none => s
    | some w =>
      if !controlRuns s then s
      else
        let s := commitRecords w (dropWaiting w s)
        answerWrite w .ok (if w.index = 0x3001 then endAction w.index w.sub .ok s else s))

/-- Whether the action that a write waits for can end (R298, R312, R465, R471). -/
def actionOver (s : State) (w : WaitingWrite) : Bool :=
  !w.store && match w.index, w.sub with
    | 0x2001, _ => !staleWalks s
    | 0x7003, 5 => true
    | 0x7001, 4 => true
    | 0x4010, _ => true
    | 0x4011, _ => true
    | _, _ => false

/-- What an action does as it ends. -/
def finishAction (w : WaitingWrite) (s : State) : State :=
  match w.index, w.sub with
  | 0x7003, 5 => updFlash (fun f => { f with owner := f.owner.set (installSlot s) (some w.value) }) s
  | 0x7001, 4 => confirm s
  | 0x4010, sub => finishRoutes 0x4010 sub s
  | 0x4011, sub => finishRoutes 0x4011 sub s
  | _, _ => s

/-- CMD_ACTION_END (R398): an action ends and its write is answered. -/
def execCmdActionEnd (s : State) : Host.Outcome State Fault Refusal :=
  go (match s.dict.waiting.find? (actionOver s) with
    | none => s
    | some w =>
      if !controlRuns s then s
      else
        let ended (s : State) : State := if actionRuns s w.index w.sub then endAction w.index w.sub .ok s else s
        answerWrite w .ok (ended (finishAction w (dropWaiting w s))))

/-- The first listed object whose value has changed and that may be notified (R407). -/
def notifyDue (s : State) : Option (Notified × List Byte) :=
  s.dict.notified.findSome? fun x => match liveValue s (BitVec.ofNat 32 (x.index + x.sub * 2 ^ 16)) with
    | some v => if v ≠ x.value ∧ x.at_.all (fun t => decide (t + 100000000 ≤ s.now)) then some (x, v) else none
    | none => none

/-- A NOTIFY message (R407). -/
def notifyMessage (seq index sub : Nat) (v : List Byte) : Vmp :=
  { hdr := vmpHeader 4 seq index sub 0 0 (min v.length 1024) v.length 0 (decide (v.length ≤ 1024)), data := v.take 1024 }

/-- NOTIFY_SEND (R407). -/
def execNotifySend (s : State) : Host.Outcome State Fault Refusal :=
  go (if s.dict.notifyMac = 0 ∨ !controlRuns s ∨ !s.clk.refclk then s
    else match notifyDue s with
      | none => s
      | some (x, v) =>
        let sent (y : Notified) : Notified := if y.index == x.index && y.sub == x.sub then { y with value := v, at_ := some s.now } else y
        let m := notifyMessage s.dict.notifySeq.toNat x.index x.sub v
        let s := updDict (fun d => { d with notified := d.notified.map sent, notifySeq := d.notifySeq + 1 }) s
        sendVmp (.fn s.dict.notifyMac) m (mgmtCount (fun c => { c with notifySent := addSat c.notifySent 1 }) s))

/-- PLCA_BEACON (R400): the coordinator sends it, and settings whose writes have been answered come into force. A module whose PLCA is off
sends none, and takes the settings over with the beacons of the segment. -/
def execPlcaBeacon (s : State) : Host.Outcome State Fault Refusal :=
  let p := s.dict.plcaNow
  go (if !controlRuns s then s
    else
      let s := if p.id = 0 ∧ s.clk.refclk then emit (.beacon p.count.toNat) s else s
      updDict (fun d => { d with plcaNow := d.plcaSet }) s)

end Sys2Proof.Machine
end

