-- ==== Sys2Proof/Machine/Server.lean ====
section
/-!
DEFINITION. The dictionary server's messages (11: R402 to R408), the mailbox and the other BAR0 registers (10: R353, R354; 11: R409,
R410), and the mirror (R411, R412).
-/
namespace Sys2Proof.Machine

/-- Whether a channel is one of the field network. -/
def onFieldNet : Chan → Bool
  | .fn _ => true
  | .mailbox => false

/-- The most data bytes of a message on a channel (R401, R410). -/
def pathLimit (c : Chan) : Nat := if onFieldNet c then 1024 else 16384

/-- The header with an OP. -/
def withOp (op : Nat) (m : Vmp) : Vmp := { m with hdr := setFld m.hdr 7 4 op }

/-- Whether a request is malformed as a message (R402). -/
def vmpMalformed (c : Chan) (m : Vmp) : Bool :=
  let h := m.hdr
  let op := vmOp h
  fld h 3 0 != 1 || fld h 15 9 != 0 || fld h 127 112 != 0 || fld h 175 160 != 0 || fld h 255 224 != 0 || decide (pathLimit c < vmLength h) ||
  ((op == 1 || op == 6) && decide (m.data.length < vmLength h)) || (op != 5 && op != 6 && vmAddr h != 0)

/-- A bad request on the field network is counted (R402). -/
def countBad (c : Chan) (s : State) : State := if onFieldNet c then mgmtCount (fun k => { k with rxBad := addSat k.rxBad 1 }) s else s

/-- Whether two requests are the same (R404). -/
def sameRequest (a b : BitVec 256) : Bool :=
  vmSeq a == vmSeq b && vmOp a == vmOp b && vmIndex a == vmIndex b && vmSub a == vmSub b && vmOffset a == vmOffset b

/-- A request without data or value is answered with a status. -/
def respondStatus (c : Chan) (m : Vmp) (st : Status) (s : State) : State := respond c m.hdr (vmpResponse m.hdr st [] (vmTotal m.hdr) false) s

/-- Whether a request repeats one that is still being served: the memory operation that the server waits for, or a write that waits for its
action or the config store (R398, R404). -/
def repeats (s : State) (c : Chan) (h : BitVec 256) : Bool :=
  (s.dict.serving.any fun x => x.ch == c && sameRequest x.msg.hdr h) || s.dict.waiting.any fun w => w.ch == c && w.req.any (sameRequest h)

/-- A request is served by `f` (R402, R404): one that repeats an answered request is answered again from the cache, one that repeats a
request still being served is discarded, and a malformed one is refused. Each is a use of its channel (R398). -/
def serveVmp (c : Chan) (m : Vmp) (f : State → State) (s : State) : State :=
  match (chanState s c).kept.find? fun k => sameRequest k.request m.hdr with
  | some k => sendVmp c k.response (mgmtCount (fun n => { n with duplicates := addSat n.duplicates 1 }) (updChan c (fun x => x) s))
  | none =>
    if onFieldNet c ∧ repeats s c m.hdr then s
    else if vmpMalformed c m then respondStatus c m .malformed (countBad c s)
    else f s

/-- A READ from the latch (R403). -/
def readLatch (c : Chan) (m : Vmp) (l : ReadLatch) (s : State) : State :=
  let off := vmOffset m.hdr
  let total := l.value.length
  if total ≤ off then respondStatus c m .lengthRange s
  else
    let d := (l.value.drop off).take (vmLength m.hdr)
    respond c m.hdr (vmpResponse m.hdr .ok d total (decide (off + d.length = total))) s

/-- READ (R403). -/
def serveGet (c : Chan) (m : Vmp) (s : State) : State :=
  let index := vmIndex m.hdr
  let sub := vmSub m.hdr
  if vmOffset m.hdr = 0 then
    let s := updChan c (fun x => { x with latch := none }) s
    match findObject index sub with
    | none => respondStatus c m .addressRange s
    | some o => match readObject c o s with
      | .error st => respondStatus c m st s
      | .ok v =>
        let l : ReadLatch := { index := index, sub := sub, value := v, taken := s.now }
        readLatch c m l (updChan c (fun x => { x with latch := some l }) s)
  else match findObject index sub with
    | none => respondStatus c m .addressRange s
    | some o =>
      if bootForbids s o then respondStatus c m .stateConflict s
      else match (chanState s c).latch with
        | some l =>
          if l.index = index ∧ l.sub = sub ∧ s.now < l.taken + 1000000000 then readLatch c m l s else respondStatus c m .stateConflict s
        | none => respondStatus c m .stateConflict s

/-- The checks of the first segment of a write (R392, items 1 to 3; R403). -/
def firstSegment (c : Chan) (m : Vmp) (s : State) : Option Status :=
  let total := vmTotal m.hdr
  match findObject (vmIndex m.hdr) (vmSub m.hdr) with
  | none => some .addressRange
  | some o =>
    let v := m.data.take (vmLength m.hdr)
    firstFail [(writeDenied c o v s, .accessDenied), (writeConflict o v s, .stateConflict),
      (decide (262144 < total) || (o.fixed && total != o.max), .malformed), (decide (o.max < total), .lengthRange)]

/-- A segment joins the bytes before it; the last one applies the value (R403). -/
def takeSegment (c : Chan) (m : Vmp) (before : List Byte) (s : State) : State :=
  let h := m.hdr
  let v := before ++ m.data.take (vmLength h)
  let total := vmTotal h
  let clear (s : State) : State := updChan c (fun x => { x with wbuf := none, lost := none }) s
  if total < v.length ∨ (vmFinal h ∧ v.length ≠ total) then respondStatus c m .malformed (clear s)
  else if vmFinal h then
    writeObject { ch := c, req := some h, index := vmIndex h, sub := vmSub h, value := v, store := false } (clear s)
  else
    let b : WriteBuf := { index := vmIndex h, sub := vmSub h, total := total, value := v, last := s.now }
    respondStatus c m .ok (updChan c (fun x => { x with wbuf := some b, lost := none }) s)

/-- Whether a segment goes on where a buffer stands (R403). -/
def nextSegment (b : WriteBuf) (h : BitVec 256) : Bool :=
  b.index == vmIndex h && b.sub == vmSub h && b.total == vmTotal h && b.value.length == vmOffset h

/-- A write buffer that has been idle for 1 s is discarded (R403). -/
def expireBuffer (now : Nat) (x : ChanState) : ChanState :=
  match x.wbuf with
  | some b => if b.last + 1000000000 ≤ now then { x with wbuf := none, lost := some b } else x
  | none => x

/-- WRITE (R403). -/
def servePut (c : Chan) (m : Vmp) (s : State) : State :=
  let h := m.hdr
  let s := updChan c (expireBuffer s.now) s
  if vmOffset h = 0 then
    let s := updChan c (fun x => { x with wbuf := none, lost := none }) s
    match firstSegment c m s with
    | some st => respondStatus c m st s
    | none => takeSegment c m [] s
  else match (chanState s c).wbuf with
    | none =>
      let gone := (chanState s c).lost.any fun b => nextSegment b h
      respondStatus c m (if gone then .stateConflict else .malformed) (updChan c (fun x => { x with lost := none }) s)
    | some b =>
      if nextSegment b h then takeSegment c m b.value s
      else respondStatus c m .malformed (updChan c (fun x => { x with wbuf := none }) s)

/-- Whether the mirror holds an object (R412). -/
def mirrored (o : ObjDef) : Bool :=
  (o.acc == 1 || o.acc == 2) && (decide (o.ty ≤ 6) || (o.ty == 9 && decide (o.elem ≤ 6))) && !(o.index == 0x6000 && o.sub != 0)

/-- The description of an object (R394). -/
def describe (o : ObjDef) : List Byte :=
  leBytes 16 (o.ty + o.elem * 2 ^ 8 + o.acc * 2 ^ 16 + b2n o.keep * 2 ^ 19 + b2n o.boot * 2 ^ 20 + b2n (mirrored o) * 2 ^ 21 + o.max * 2 ^ 32)

/-- DESCRIBE (R394). -/
def serveDescribe (c : Chan) (m : Vmp) (s : State) : State :=
  match findObject (vmIndex m.hdr) (vmSub m.hdr) with
  | none => respondStatus c m .addressRange s
  | some o =>
    if bootForbids s o then respondStatus c m .stateConflict s
    else respond c m.hdr (vmpResponse m.hdr .ok (describe o) 16 true) s

/-- Whether a memory operation of the field network is malformed (R406, item 1). -/
def memOpMalformed (h : BitVec 256) : Bool :=
  let a := vmAddr h
  let n := vmLength h
  a % 32 != 0 || n % 32 != 0 || n == 0 || decide (1024 < n) || decide (2048 < a % 2048 + n) || vmIndex h != 0 || vmSub h != 0 ||
  vmOffset h != 0 || vmTotal h != 0

/-- Why a memory operation of the field network fails (R406). -/
def memOpFails (c : AccClass) (h : BitVec 256) (write : Bool) (s : State) : Option Status :=
  if memOpMalformed h then some .malformed
  else match accessFails s c (vmAddr h) (vmLength h) write with
    | some st => some st
    | none => if s.host.dev = .booting then some .stateConflict else none

/-- The memory operation that the server waits for is answered once its access has ended (R406). -/
def settleServing (s : State) : State :=
  match s.dict.serving with
  | none => s
  | some x => match reqEnded s x.req with
    | none => s
    | some (st, d) =>
      let s := forgetReq x.req (updDict (fun d => { d with serving := none }) s)
      if vmOp x.msg.hdr = 5 ∧ fine st then
        respond x.ch x.msg.hdr (vmpResponse x.msg.hdr (if poisoned d then .dataPoison else .ok) (dataBytes d) 0 true) s
      else respondStatus x.ch x.msg st s

/-- MEM_READ and MEM_WRITE (R406): a request to the memory where the address lies, the far window through the copy engines, for whose end
the server waits. -/
def serveMem (write : Bool) (c : Chan) (m : Vmp) (s : State) : State :=
  let k : AccClass := if write then .fieldW else .fieldR
  match memOpFails k m.hdr write s with
  | some st => respondStatus c m st s
  | none =>
    let a := vmAddr m.hdr
    let e : XEntry := { pa := a, tier := physTier a, write := true, runahead := false, node := 0 }
    let p := postReq k whoFront write e (vmLength m.hdr) (if write then clean (m.data.take (vmLength m.hdr)) else []) s
    settleServing (updDict (fun d => { d with serving := some { ch := c, msg := m, req := p.2 } }) p.1)

/-- A memory operation is one of the field network: the mailbox refuses it (R406). -/
def fieldOnly (c : Chan) (m : Vmp) (f : State → State) (s : State) : State := if onFieldNet c then f s else respondStatus c m .unknownOpcode s

/-- The answer to a DISCOVER (R408). -/
def discoverData (s : State) : List Byte :=
  leBytes 32 (Config.unitSerial % 2 ^ 128 + s.clk.slotId.toNat * 2 ^ 128 + devCode s.host.dev * 2 ^ 136 + nodeId s % 2 ^ 15 * 2 ^ 144 +
    s.dict.keep.roles.toNat * 2 ^ 160)

/-- DISCOVER as a request of a channel (R408). -/
def serveDiscover (c : Chan) (m : Vmp) (s : State) : State := respond c m.hdr (vmpResponse m.hdr .ok (discoverData s) 32 true) s

/-- A request with an OP that no request has (R402). -/
def serveUnknown (c : Chan) (m : Vmp) (s : State) : State := respondStatus c m .unknownOpcode (countBad c s)

/-- A request is served by its OP (R402). -/
def serveOp (c : Chan) (m : Vmp) (s : State) : State :=
  match vmOp m.hdr with
  | 0 => serveGet c m s
  | 1 => servePut c m s
  | 3 => serveDescribe c m s
  | 5 => fieldOnly c m (serveMem false c m) s
  | 6 => fieldOnly c m (serveMem true c m) s
  | 7 => serveDiscover c m s
  | _ => serveUnknown c m s

/-- A request is served (R402, R404). -/
def serveMessage (c : Chan) (m : Vmp) (s : State) : State := serveVmp c m (serveOp c m) s

/-- Whether a mailbox request may be served: one at a time is (R410), so none while one that has left the queue has no answer. -/
def mailboxFree (s : State) : Bool :=
  decide (s.dict.mailbox.orphans + b2n s.dict.mailbox.busy ≤ (s.dict.queue.filter fun q => !onFieldNet q.ch).length)

/-- The waiting request that is served next, and the others: the first that may be. -/
def nextWaiting (s : State) : List WaitingRequest → Option (WaitingRequest × List WaitingRequest)
  | [] => none
  | q :: qs => if onFieldNet q.ch || mailboxFree s then some (q, qs) else (nextWaiting s qs).map fun x => (x.1, q :: x.2)

/-- The requests that wait are served in the order of their arrival, up to a memory operation that has to wait (R398, R404, R410). -/
def serveQueue : Nat → State → State
  | 0, s => s
  | n + 1, s =>
    if s.dict.serving.isSome then s
    else match nextWaiting s s.dict.queue with
      | none => s
      | some (q, qs) => serveQueue n (serveMessage q.ch q.msg (updDict (fun d => { d with queue := qs }) s))

/-- The server goes on: it answers the memory operation that it waited for, and serves what waits behind it. -/
def serverGo (s : State) : State := serveQueue s.dict.queue.length (settleServing s)

/-- A request takes its turn at the server (R398, R404, R410): of the field network's, 32 may wait. -/
def takeRequest (c : Chan) (m : Vmp) (s : State) : State :=
  let s := serverGo s
  if onFieldNet c ∧ repeats s c m.hdr then s
  else if s.dict.serving.isNone ∧ (onFieldNet c ∨ s.dict.mailbox.orphans = 0) then serveMessage c m s
  else if onFieldNet c ∧ 32 ≤ (s.dict.queue.filter fun q => onFieldNet q.ch).length then
    mgmtCount (fun k => { k with rxDropped := addSat k.rxDropped 1 }) s
  else updDict (fun d => { d with queue := d.queue ++ [{ ch := c, msg := m }] }) s

/-- A request of the mailbox is taken (R409, R410), unless one is in progress. -/
def takeBoxed (m : Vmp) (s : State) : State :=
  if s.dict.mailbox.busy then s else takeRequest .mailbox m (updDict (fun d => { d with mailbox := { d.mailbox with busy := true } }) s)

/-- Whether the port accepts a frame with this message (R399): untagged, of EtherType 0x88B5, and to the module's address, or broadcast for
DISCOVER. -/
def acceptsFrame (s : State) (f : FnFrame) (m : Vmp) : Bool :=
  !f.tagged && f.etherType == 0x88B5 && (f.dst == s.dict.keep.fnMac || (f.dst == 0xFFFFFFFFFFFF && vmOp m.hdr == 7))

/-- A message arrives on a channel (R399, R402): a frame is accepted and counted, or leaves no trace; RESPONSE and NOTIFY are discarded on the
field network. -/
def receive (c : Chan) (f : FnFrame) (m : Vmp) (s : State) : State :=
  if !serves s c then s
  else if !onFieldNet c then takeBoxed m s
  else if !acceptsFrame s f m then s
  else
    let s := mgmtCount (fun k => { k with rxFrames := addSat k.rxFrames 1 }) s
    if vmOp m.hdr = 2 ∨ vmOp m.hdr = 4 then countBad c s else takeRequest c m s

/-- VMP_READ (R403). -/
def execVmpRead (ch : Chan) (m : VmpRx) (s : State) : Host.Outcome State Fault Refusal := go (receive ch m.frame (withOp 0 m.msg) s)
/-- VMP_WRITE (R403). -/
def execVmpWrite (ch : Chan) (m : VmpRx) (s : State) : Host.Outcome State Fault Refusal := go (receive ch m.frame (withOp 1 m.msg) s)
/-- VMP_DESCRIBE (R394). -/
def execVmpDescribe (ch : Chan) (m : VmpRx) (s : State) : Host.Outcome State Fault Refusal := go (receive ch m.frame (withOp 3 m.msg) s)
/-- MEM_READ (R406). -/
def execMemRead (ch : Chan) (m : VmpRx) (s : State) : Host.Outcome State Fault Refusal := go (receive ch m.frame (withOp 5 m.msg) s)
/-- MEM_WRITE (R406). -/
def execMemWrite (ch : Chan) (m : VmpRx) (s : State) : Host.Outcome State Fault Refusal := go (receive ch m.frame (withOp 6 m.msg) s)
/-- DISCOVER (R408). -/
def execDiscover (mac : BitVec 48) (m : VmpRx) (s : State) : Host.Outcome State Fault Refusal :=
  go (receive (.fn mac) m.frame (withOp 7 m.msg) s)

/-- UNSOLICITED_OP_RX (R402): RESPONSE and NOTIFY are discarded on the field network; the mailbox, and a reserved OP, get UNKNOWN_OPCODE. -/
def execUnsolicitedOpRx (ch : Chan) (m : VmpRx) (s : State) : Host.Outcome State Fault Refusal :=
  let op := vmOp m.msg.hdr
  go (if op = 2 ∨ op = 4 ∨ 8 ≤ op then receive ch m.frame m.msg s else s)

/-- FN_FRAME_DISCARD (R399): a frame that is not accepted leaves no trace; one that is accepted is no such frame, and is received. -/
def execFnFrameDiscard (mac : BitVec 48) (m : VmpRx) (s : State) : Host.Outcome State Fault Refusal :=
  go (receive (.fn mac) m.frame m.msg s)

/-- READ_LATCH_EXPIRY (R403). -/
def execReadLatchExpiry (ch : Chan) (s : State) : Host.Outcome State Fault Refusal :=
  let old (l : ReadLatch) : Bool := decide (l.taken + 1000000000 ≤ s.now)
  go (updDict (fun d => { d with channels := mapIf (fun x => x.ch == ch && x.latch.any old) (fun x => { x with latch := none }) d.channels }) s)

/-- WRITE_BUFFER_EXPIRY (R403). -/
def execWriteBufferExpiry (ch : Chan) (s : State) : Host.Outcome State Fault Refusal :=
  go (updDict (fun d => { d with channels := mapIf (fun x => x.ch == ch) (expireBuffer s.now) d.channels }) s)

/-- The request that the mailbox holds (R409): header and data. -/
def mailboxRequest (s : State) : Vmp :=
  let byte (i : Nat) : Byte := cellsGet s.dict.mailbox.request i
  let h := BitVec.ofNat 256 (leNat ((List.range 32).map byte))
  { hdr := h, data := if vmOp h = 1 ∨ vmOp h = 6 then (List.range (min (vmLength h) 16384)).map fun i => byte (32 + i) else [] }

/-- MAILBOX_GO (R409, R410). -/
def execMailboxGo (s : State) : Host.Outcome State Fault Refusal :=
  go (if serves s .mailbox then takeBoxed (mailboxRequest s) s else s)

/-- The bytes of an old 64-bit register with `bs` written from byte `at_` on. -/
def mergeReg (old at_ : Nat) (bs : List Byte) : Nat :=
  let o := leBytes 8 old
  leNat (o.take at_ ++ bs.take (8 - at_) ++ o.drop (at_ + bs.length))

/-- The bits that a write of `bs` at byte `at_` sets to 1, for registers that clear by writing 1. -/
def onesReg (at_ : Nat) (bs : List Byte) : Nat := mergeReg 0 at_ bs

/-- An MSI-X entry takes a half (R350, R353); an entry unmasked with its pending bit set sends its message. -/
def writeMsix (off : Nat) (bs : List Byte) (s : State) : State :=
  let k : Fin 256 := fin (off / 16)
  let b := s.host.bar0
  let old := b.msix[k].toNat
  let part := mergeReg (old / 2 ^ (64 * (off / 8 % 2)) % 2 ^ 64) (off % 8) bs
  let new : BitVec 128 := BitVec.ofNat 128 (if off / 8 % 2 = 0 then old / 2 ^ 64 * 2 ^ 64 + part else part % 2 ^ 64 * 2 ^ 64 + old % 2 ^ 64)
  let s := updHost (fun h => { h with bar0 := { h.bar0 with msix := h.bar0.msix.set k new } }) s
  if bit b.pba k.val && !bit new 96 then
    raiseVector (BitVec.ofNat 8 k.val) (updHost (fun h => { h with bar0 := { h.bar0 with pba := h.bar0.pba &&& ~~~(1#256 <<< k.val) } }) s)
  else s

/-- A write within one 64-bit register of BAR0 (R353, R354, R409); the registers with a command of their own ignore it here. -/
def writeReg (off : Nat) (bs : List Byte) (s : State) : State :=
  let at_ := off % 8
  let bar (f : Bar0 → Bar0) : State := updHost (fun h => { h with bar0 := f h.bar0 }) s
  let b := s.host.bar0
  let ones := onesReg at_ bs
  if off / 8 = 0x001 then
    if at_ = 0 ∧ sessionFree s ∧ (ones % 8 = 0 ∨ ones % 8 ≥ 6) then sessionDone .malformed s else s
  else if off / 8 = 0x004 then bar fun b => { b with events := b.events &&& ~~~(BitVec.ofNat 4 ones) }
  else if off / 8 = 0x005 then
    let v := mergeReg (b.eventVector.toNat + b.eventEnable.toNat * 2 ^ 8) at_ bs
    bar fun b => { b with eventVector := BitVec.ofNat 8 v, eventEnable := BitVec.ofNat 4 (v / 2 ^ 8) }
  else if off / 8 = 0x006 then
    let v := mergeReg (b2n b.bar2Enable + b.bar2Base.toNat * 2 ^ 30) at_ bs
    bar fun b => { b with bar2Enable := v % 2 == 1, bar2Base := BitVec.ofNat 18 (v / 2 ^ 30) }
  else if off / 8 = 0x008 then
    if at_ = 0 then updSession (fun x => { x with select := BitVec.ofNat 8 (min (ones % 256) 191) }) s else s
  else if 0x4000 ≤ off ∧ off < 0x5000 then writeMsix (off - 0x4000) bs s
  else if off / 8 = 0x2000 then updDict (fun d => { d with mailbox := { d.mailbox with done := d.mailbox.done && !ones.testBit 2 } }) s
  else if off / 8 = 0x2001 then
    let v := mergeReg (s.dict.mailbox.vector.toNat + b2n s.dict.mailbox.irq * 2 ^ 8) at_ bs
    updDict (fun d => { d with mailbox := { d.mailbox with vector := BitVec.ofNat 8 v, irq := v.testBit 8 } }) s
  else if 0x11000 ≤ off ∧ off < 0x16000 then
    updDict (fun d => { d with mailbox := { d.mailbox with request := cellsSetAll d.mailbox.request (off - 0x11000) bs } }) s
  else s

/-- A write of several bytes, register by register. -/
def writeRegs : Nat → Nat → List Byte → State → State
  | 0, _, _, s => s
  | n + 1, off, bs, s =>
    let k := 8 - off % 8
    if bs.isEmpty then s else writeRegs n (off + k) (bs.drop k) (writeReg off (bs.take k) s)

/-- REGISTER_WRITE (R353, R354, R377, R409): BAR0 registers that have no command of their own. -/
def execRegisterWrite (off : BitVec 24) (bytes : List Byte) (s : State) : Host.Outcome State Fault Refusal :=
  go (if bar0Open s then writeRegs bytes.length off.toNat bytes s else s)

/-- The objects of the mirror, subindexes 0 included (R412). -/
def mirrorObjects : List ObjDef :=
  let indexes := (objects.map fun o => o.index).eraseDups
  (indexes.map subZero ++ objects).filter mirrored

/-- The bytes that an object occupies in the mirror (R412). -/
def mirrorSize (o : ObjDef) : Nat := if o.ty = 9 then alignUp (o.max - 4) 8 else 8

/-- Where the values of a list of objects lie in the mirror, from an offset on. -/
def mirrorPlaces : Nat → List ObjDef → List (Nat × ObjDef)
  | _, [] => []
  | off, o :: os => (off, o) :: mirrorPlaces (off + mirrorSize o) os

/-- The mirror's layout: values behind the directory (R411; the order is the model's, DESIGN CHOICE). -/
def mirrorLayout : List (Nat × ObjDef) := mirrorPlaces (alignUp (0x40 + 16 * mirrorObjects.length) 64) mirrorObjects

/-- A directory entry (R411). -/
def mirrorEntry (x : Nat × ObjDef) : List Byte :=
  let o := x.2
  leBytes 16 (o.index + o.sub * 2 ^ 16 + o.ty * 2 ^ 24 + o.elem * 2 ^ 28 + (if o.ty = 9 then (o.max - 4) / o.esize else 1) * 2 ^ 32 + x.1 * 2 ^ 64)

/-- What an object shows in the mirror (R412): a scalar zero-extended, the elements of an array without their header. -/
def mirrorValue (s : State) (o : ObjDef) : List Byte :=
  match o.read s with
  | .ok v => slice (if o.ty = 9 then v.drop 4 else v) 0 (mirrorSize o)
  | .error _ => List.replicate (mirrorSize o) 0

/-- The mirror as it reads now (R411, R412). GENERATION is 0: the layout does not change. -/
def mirrorImage (s : State) : List Byte :=
  let head := leBytes 64 (0x4D585348 + 1 * 2 ^ 32 + mirrorLayout.length * 2 ^ 48)
  let dir := mirrorLayout.flatMap mirrorEntry
  slice (head ++ dir) 0 (alignUp (0x40 + 16 * mirrorObjects.length) 64) ++ mirrorLayout.flatMap fun x => mirrorValue s x.2

end Sys2Proof.Machine
end

