-- ==== Sys2Proof/Machine/Clock.lean ====
section
/-!
DEFINITION. What one cycle does when no command waits: what waited for memory goes on, and the counters of cycles in which something waits
(log entry 2).
-/
namespace Sys2Proof.Machine

/-- The sequencer and mover counters of a tile and the cycles of its program (R109, R115, R134); whether a bank conflict occurs in a tile
that a program uses is open. -/
def idleTile (conflict : Bool) (x : Tile) : Tile :=
  let waits := match x.run with | some r => r.stopping.isNone && r.wait != .none | none => false
  let full := decide (x.mover.reqs.length ≥ 32) && (issuing x.mover).isSome
  { x with
    run := x.run.map fun r => { r with cycles := r.cycles + b2n waits },
    counters := { x.counters with
      seqWait := addSat x.counters.seqWait (b2n waits), moveFull := addSat x.counters.moveFull (b2n full),
      tmemConflict := addSat x.counters.tmemConflict (b2n (conflict && x.run.isSome)) } }

/-- The waiting counters of an engine (R192, R193). -/
def idleEngine (running : Bool) (g : Engine) : Engine :=
  let capped (k : Core) : Bool := k.waits.any fun r => r.bank.isSome && decide ((k.slots.filter fun x => x.bank == r.bank).length ≥ 8)
  let cores := g.cores.toList
  { g with
    counters := { g.counters with
      poolIdle := addSat g.counters.poolIdle (b2n running), bankSaturation := addSat g.counters.bankSaturation (b2n (cores.any capped)),
      waitlistFull := addSat g.counters.waitlistFull (b2n (cores.any fun k => decide (k.waits.length ≥ 64))) } }

/-- Whether a GATHER runs on an engine (R192). -/
def gatherRuns (s : State) (g : Engine) : Bool :=
  g.queue.any fun x => match x with | .gather r => (findCmd s r.cmd).any fun c => c.started | .refresh _ => false

/-- Whether a packet at a port waits for credit (R310). -/
def creditWaits (x : Port) : Bool :=
  decide (x.state = .active) && x.txq.any fun y =>
    ((x.txq.find? fun z => pkVc z.2 == pkVc y.2) == some y) && decide (x.credits[pkVc y.2] < 1 + y.2.pay.length)

/-- Whether a T2 request, or a request of a COPY, waits at a full copy engine (R290, R371). -/
def slotsFull (s : State) (i : Fin 8) (out : Nat) : Bool :=
  let g := s.host.engines[(fin (i.val + out) : Fin 16)]
  decide (g.slots.length ≥ 64) && (!g.waiting.isEmpty || (copyNext s g).isSome)

/-- Writes of routing tables go on (R312): how far is a free value. -/
def routesGoOn (s : State) : State :=
  if s.links.routeWrites.isEmpty then s else let f := takeFree s; advanceRoutes (fun _ => true) (1 + f.2 % 256) f.1

/-- What waited for memory goes on: commands whose work is done at once, inbound COPYs, collective descriptors, and the dictionary server; writes
of routing tables; and a reception whose children have acknowledged. -/
def goOn (s : State) : State := kindleGoesOn (routesGoOn (serverGo (collsWork (settleCopies (runHeld s)))))

/-- The counters of waiting go on by one cycle of the arithmetic clock. Which tiles lose bank arbitration (R101) is a free value; a fenced
tile's counters stay (R132). -/
def waitCycle (s : State) : State :=
  if !domainRuns s .arith then s
  else
    let f := takeFree s
    let s := f.1
    let tiles := Vector.ofFn fun (t : Fin 128) => if fenced s t.val then s.tile.tiles[t] else idleTile (f.2.testBit t.val) s.tile.tiles[t]
    let engines := s.rows.engines.map fun g => idleEngine (gatherRuns s g) g
    let c := s.links.counters
    let stalls := Vector.ofFn fun (p : Fin 16) => addSat c.stalls[p] (b2n (creditWaits s.links.ports[p]))
    let m := s.mem.counters
    let far := Vector.ofFn fun (i : Fin 8) => addSat m.farSlotFull[i] (b2n (slotsFull s i 0) + b2n (slotsFull s i 8))
    { s with
      tile := { s.tile with tiles := tiles }, rows := { s.rows with engines := engines },
      links := { s.links with counters := { c with stalls := stalls } }, mem := { s.mem with counters := { m with farSlotFull := far } } }

/-- One idle cycle. -/
def idleCycle (s : State) : State := waitCycle (if controlRuns s then goOn s else s)

end Sys2Proof.Machine
end

