-- ==== Sys2Proof/Machine/Tap.lean ====
section
/-!
DEFINITION. The test access port (14: R488): its instructions and its identification.
-/
namespace Sys2Proof.Machine

/-- The instruction that a code selects (R488): a code without one selects BYPASS. -/
def tapSelect (code : BitVec 8) : BitVec 8 := if code = 0x00 ∨ code = 0x01 ∨ code = 0x02 then code else 0xFF

/-- What SAMPLE/PRELOAD finds on the pins of the boundary register (R488): PWR_EN, PERST_N, SLOT_ID, ALERT_N, THERMTRIP_N; the signals
named _N are low while asserted. -/
def tapPins (s : State) : BitVec 9 :=
  BitVec.ofNat 9 (b2n s.clk.pwrEn + 2 * b2n (!s.host.pcie.perst) + 4 * s.clk.slotId.toNat + 128 * b2n (!alertLine s) + 256 * b2n (!s.clk.thermtrip))

/-- The levels of ALERT_N and THERMTRIP_N at the pins: EXTEST lets the boundary register drive them while it is selected (R488). -/
def tapDriven (s : State) : Bool × Bool :=
  if s.clk.tap.ir = 0x00 then (bit s.clk.tap.boundary 7, bit s.clk.tap.boundary 8) else (!alertLine s, !s.clk.thermtrip)

/-- The port changed by `f`: it works from power-on reset release on. -/
def updTap (f : Tap → Tap) (s : State) : State := if powered s then updClk (fun c => { c with tap := f c.tap }) s else s

/-- An instruction is selected; `boundary` and `dr` are what its register captures. -/
def tapLoad (code : BitVec 8) (boundary : State → BitVec 9) (dr : State → BitVec 32) (s : State) : State :=
  updTap (fun _ => { ir := tapSelect code, boundary := boundary s, dr := dr s }) s

/-- TAP_RESET (R433, R488): Test-Logic-Reset selects IDCODE. -/
def execTapReset (s : State) : Host.Outcome State Fault Refusal := go (updTap (fun _ => .reset) s)

/-- TAP_EXTEST (R488): the boundary register drives ALERT_N and THERMTRIP_N; the device state stays. -/
def execTapExtest (s : State) : Host.Outcome State Fault Refusal :=
  go (tapLoad 0x00 (fun s => s.clk.tap.boundary) (fun s => s.clk.tap.boundary.setWidth 32) s)

/-- TAP_SAMPLE_PRELOAD (R488): the boundary register takes the levels of its pins. -/
def execTapSamplePreload (s : State) : Host.Outcome State Fault Refusal := go (tapLoad 0x02 tapPins (fun s => (tapPins s).setWidth 32) s)

/-- TAP_IDCODE (R488). -/
def execTapIdcode (s : State) : Host.Outcome State Fault Refusal := go (tapLoad 0x01 (fun s => s.clk.tap.boundary) (fun _ => 0x10451B47) s)

/-- TAP_BYPASS (R488). -/
def execTapBypass (s : State) : Host.Outcome State Fault Refusal := go (tapLoad 0xFF (fun s => s.clk.tap.boundary) (fun _ => 0) s)

end Sys2Proof.Machine
end

