-- ==== Sys2Proof/Machine/Tick.lean ====
section
/-!
DEFINITION. The control clock's tick: time, the phase timers (01: R51 to R55) and the counters of nanoseconds.
-/
namespace Sys2Proof.Machine

/-- A U32 timer that goes on by 4, and whether that saturates it (R52). -/
def tick32 (on : Bool) (x : Nat) : Nat × Bool := if on then (addSat32 x 4, decide (2 ^ 32 - 1 < x + 4)) else (x, false)

/-- Opcodes that count under no phase timer (R53, R199, R367): those without timed work, and PRESCAN. -/
def untimed (op : Nat) : Bool := [0x00, 0x01, 0x02, 0x20, 0x22, 0x2A, 0x2C, 0x38, 0x39, 0x40].contains op

/-- Opcodes whose busy time their unit decides: TILE_RUN by its tiles' programs, COLLECTIVE by what its unit waits for. -/
def unitTimed (op : Nat) : Bool := op == 0x10 || op == 0x41

/-- The phases under which tile programs of step `n` run (R18, R51): OPTIMISE for a re-execution, whatever it marks (R36). -/
def tilePhases (s : State) (n : BitVec 64) : List Nat :=
  s.tile.tiles.toList.filterMap fun x => x.run.bind fun r => if r.prog.step = some n then some (if r.prog.redo then 9 else r.phase) else none

/-- Whether the unit that runs a command executes it now: an append or a walk that waits for its slot, a page or a position is not busy
(R247). -/
def unitBusy (s : State) (c : Cmd) : Bool :=
  !ofWalker c.slot || walkerBusy s c.id

/-- The phases of the step's commands that other units execute (R51). -/
def cmdPhases (s : State) (n : BitVec 64) : List Nat :=
  (s.host.cmds.filter fun c => c.step == some n && c.started && !untimed (slotOpcode c.slot) && !unitTimed (slotOpcode c.slot) && unitBusy s c).map
    fun c => slotPhase c.slot

/-- Whether an engine merges a step's keys with no MERGE of the host for it (R51, R214): STEP_END has sealed the step there. -/
def sealMerges (s : State) (n : BitVec 64) : Bool :=
  (List.finRange 16).any fun e =>
    ((engStep s e n).any fun x => x.sealed && !x.merged && x.scatters.isEmpty) && !(s.rows.merges.any fun m => m.step == n && m.left.contains e)

/-- The running descriptors of a step. -/
def stepColls (s : State) (n : BitVec 64) : List Coll :=
  (s.links.units.toList.flatMap fun u => u.queue).filter fun c => c.running && c.step == some n

/-- The phases of the descriptors that do not wait for remote data (R51). -/
def collPhases (s : State) (n : BitVec 64) : List Nat :=
  ((stepColls s n).filter fun c => (waitsFor s c).isNone).map fun c => slotPhase c.slot

/-- The phases under which work of step `p` is executed now (R51): the commit sequence is COMMIT (R39, R230, R242), a contribution that
is due is VERDICT, and a merge that STEP_END has started is SCATTER (DEDUCED from R16 and R38: sort-and-merge is the work of that phase). -/
def busyPhases (s : State) (p : Step) : List Nat :=
  tilePhases s p.num ++ cmdPhases s p.num ++ collPhases s p.num ++ (if p.state = .committing then [10] else []) ++
  (if (contribution s p).isSome then [8] else []) ++ (if sealMerges s p.num then [6] else [])

/-- Whether a collective unit waits for remote data of a step: of a descriptor, or of its VERDICT exchange (R51). -/
def waitsRemote (s : State) (p : Step) : Bool :=
  ((stepColls s p.num).any fun c => (waitsFor s c).isSome) || s.links.exchanges.any fun x => x.step == p.num && !x.done

/-- Whether timer `i` advances in a tick (R51): WAIT_PEER while nothing of the step is executed and remote data are waited for. -/
def timerOn (busy : List Nat) (peer : Bool) (i : Nat) : Bool := if i = 13 then busy.isEmpty && peer else busy.contains i

/-- A phase record goes on by one tick (R51, R52, R55). -/
def tickRecord (busy : List Nat) (peer : Bool) (r : PhaseRec) : PhaseRec :=
  let on (i : Fin 16) : Bool := timerOn busy peer i.val
  let wall := tick32 true r.wallNs
  let idle := tick32 (!(List.finRange 16).any on) r.idleNs
  { r with
    wallNs := wall.1, idleNs := idle.1, phaseNs := Vector.ofFn fun i => (tick32 (on i) r.phaseNs[i]).1,
    saturated := r.saturated || wall.2 || idle.2 || (List.finRange 16).any fun i => (tick32 (on i) r.phaseNs[i]).2 }

/-- The records of the open steps go on by one tick (R54). -/
def tickSteps (s : State) : State :=
  (s.train.steps.filter fun p => p.state ≠ .closed).foldl (fun t p => updRecord p (tickRecord (busyPhases s p) (waitsRemote s p)) t) s

/-- Whether a step in item 1 meets a condition (R230). -/
def item1Waits (s : State) (f : State → BitVec 64 → Bool) : Bool :=
  s.train.steps.any fun p => decide (p.state = .committing) && decide (p.item = .item1) && f s p.num

/-- Whether a unit holds partials back until lower-ranked ones have come (R331). -/
def holdsPartials (s : State) (u : Fin 4) : Bool :=
  s.links.units[u].queue.any fun c => c.running && holdsBack (viewOf s c)

/-- Whether completion records go to the completion queues: in HELD and until then they are kept (R382), and RELEASE discards them (R385). -/
def toQueues (s : State) : Bool :=
  !s.host.heldDue && (s.host.dev == .running || s.host.dev == .updating || (s.host.dev == .draining && s.host.session.op != some .release))

/-- Whether a completion of a queue waits for room in its CQ (R356, R359). -/
def awaitsCq (s : State) (q : Fin 64) : Bool := toQueues s && s.host.done.any fun c => c.sq == q && !cqRoom s.host.cqs[cqOf s c]

/-- The counters of nanoseconds go on by one tick (R56, R230, R258, R263, R331, R359, R443, R446). -/
def tickCounters (s : State) : State :=
  let ns (on : Bool) (c : Nat) : Nat := addSat c (4 * b2n on)
  let stalled := (s.hist.slots.toList.filter fun x => x.any fun y => y.stall.isSome).length
  let walks := (s.hist.cmds.filter fun c => match c with | .walk w _ => w.waits | .append _ _ => false).length
  let logWait := item1Waits s roomWaits
  let boundWait := item1Waits s boundWaits
  let units := Vector.ofFn fun (u : Fin 4) => ns (holdsPartials s u) s.links.unitCounters.holdNs[u]
  let queues := Vector.ofFn fun (q : Fin 64) => ns (awaitsCq s q) s.host.counters.cqFullNs[q]
  let parked := decide (s.clk.park = .parked)
  let s := { s with train := { s.train with commitLogWaitNs := ns logWait s.train.commitLogWaitNs } }
  let s := updRowObj (fun o => { o with boundWaitNs := ns boundWait o.boundWaitNs }) s
  let s := { s with hist := { s.hist with counters := { s.hist.counters with
    stallNs := addSat s.hist.counters.stallNs (4 * stalled), walkWaitNs := addSat s.hist.counters.walkWaitNs (4 * walks) } } }
  let s := collCount (fun c => { c with holdNs := units }) s
  let s := hostCount (fun c => { c with cqFullNs := queues }) s
  powerCount (fun c => { c with parkedNs := ns parked c.parkedNs, thermThrottleNs := ns s.clk.throttled c.thermThrottleNs }) s

/-- PHASE_TIMER_TICK (R52): 4 ns of the control clock pass. -/
def execPhaseTimerTick (s : State) : Host.Outcome State Fault Refusal :=
  go (if controlRuns s then let t := tickCounters (tickSteps s); { t with now := t.now + 4 } else s)

end Sys2Proof.Machine
end

