-- ==== Sys2Proof/Machine/Dispatch.lean ====
section
/-!
DEFINITION. One arm for each command, in the opcode table's order: a direct call of its meaning.
-/
namespace Sys2Proof.Machine

def exec (i : Instr) (s : State) : Host.Outcome State Fault Refusal :=
  match i with
  | .stepBegin sq c => Sys2Proof.Machine.execStepBegin sq c s
  | .stepEnd sq c => Sys2Proof.Machine.execStepEnd sq c s
  | .verdictContribution step => Sys2Proof.Machine.execVerdictContribution step s
  | .commitStart step => Sys2Proof.Machine.execCommitStart step s
  | .commitLogWaitEnd step => Sys2Proof.Machine.execCommitLogWaitEnd step s
  | .localCommitComplete step => Sys2Proof.Machine.execLocalCommitComplete step s
  | .stepClose step => Sys2Proof.Machine.execStepClose step s
  | .recordWriteAck step ok => Sys2Proof.Machine.execRecordWriteAck step ok s
  | .earlyRedo t => Sys2Proof.Machine.execEarlyRedo t s
  | .ringClear ch v => Sys2Proof.Machine.execRingClear ch v s
  | .weavePacketDelivery src dst vc => Sys2Proof.Machine.execWeavePacketDelivery src dst vc s
  | .blockCounterIncrement src dst vc => Sys2Proof.Machine.execBlockCounterIncrement src dst vc s
  | .weightLoadStart t => Sys2Proof.Machine.execWeightLoadStart t s
  | .waleFrontStart t => Sys2Proof.Machine.execWaleFrontStart t s
  | .feederVectorReady t weights => Sys2Proof.Machine.execFeederVectorReady t weights s
  | .drainBlockRelease t => Sys2Proof.Machine.execDrainBlockRelease t s
  | .arrayPassComplete t => Sys2Proof.Machine.execArrayPassComplete t s
  | .zbReplay t => Sys2Proof.Machine.execZbReplay t s
  | .tileRun sq c => Sys2Proof.Machine.execTileRun sq c s
  | .tileProgramStart t => Sys2Proof.Machine.execTileProgramStart t s
  | .tileProgramStop t => Sys2Proof.Machine.execTileProgramStop t s
  | .stop t imm => Sys2Proof.Machine.execStop t imm s
  | .seqNop t => Sys2Proof.Machine.execSeqNop t s
  | .add t gd ga gb => Sys2Proof.Machine.execAdd t gd ga gb s
  | .addi t gd ga imm => Sys2Proof.Machine.execAddi t gd ga imm s
  | .sub t gd ga gb => Sys2Proof.Machine.execSub t gd ga gb s
  | .mul t gd ga gb => Sys2Proof.Machine.execMul t gd ga gb s
  | .and t gd ga gb => Sys2Proof.Machine.execAnd t gd ga gb s
  | .or t gd ga gb => Sys2Proof.Machine.execOr t gd ga gb s
  | .xor t gd ga gb => Sys2Proof.Machine.execXor t gd ga gb s
  | .shli t gd ga imm => Sys2Proof.Machine.execShli t gd ga imm s
  | .shri t gd ga imm => Sys2Proof.Machine.execShri t gd ga imm s
  | .lui t gd imm => Sys2Proof.Machine.execLui t gd imm s
  | .ld t gd ga imm => Sys2Proof.Machine.execLd t gd ga imm s
  | .st t gd ga imm => Sys2Proof.Machine.execSt t gd ga imm s
  | .beq t gd ga imm => Sys2Proof.Machine.execBeq t gd ga imm s
  | .bne t gd ga imm => Sys2Proof.Machine.execBne t gd ga imm s
  | .bltu t gd ga imm => Sys2Proof.Machine.execBltu t gd ga imm s
  | .jr t ga => Sys2Proof.Machine.execJr t ga s
  | .sys t gd imm => Sys2Proof.Machine.execSys t gd imm s
  | .sysWindowCheck t gd ga => Sys2Proof.Machine.execSysWindowCheck t gd ga s
  | .sysWindowClear t gd => Sys2Proof.Machine.execSysWindowClear t gd s
  | .pass t ga => Sys2Proof.Machine.execPass t ga s
  | .move t ga => Sys2Proof.Machine.execMove t ga s
  | .vloop t ga => Sys2Proof.Machine.execVloop t ga s
  | .bcset t ga imm => Sys2Proof.Machine.execBcset t ga imm s
  | .bcwait t ga imm => Sys2Proof.Machine.execBcwait t ga imm s
  | .bcwaitResume t => Sys2Proof.Machine.execBcwaitResume t s
  | .bcread t gd imm => Sys2Proof.Machine.execBcread t gd imm s
  | .phase t imm => Sys2Proof.Machine.execPhase t imm s
  | .fence t imm => Sys2Proof.Machine.execFence t imm s
  | .fenceResume t => Sys2Proof.Machine.execFenceResume t s
  | .redrd t gd imm => Sys2Proof.Machine.execRedrd t gd imm s
  | .redrdResume t => Sys2Proof.Machine.execRedrdResume t s
  | .verd t gd imm => Sys2Proof.Machine.execVerd t gd imm s
  | .verdResume t => Sys2Proof.Machine.execVerdResume t s
  | .sharddef t ga gb imm => Sys2Proof.Machine.execSharddef t ga gb imm s
  | .shardget t gd imm => Sys2Proof.Machine.execShardget t gd imm s
  | .moverRequestIssue t => Sys2Proof.Machine.execMoverRequestIssue t s
  | .moverRequestDone t idx => Sys2Proof.Machine.execMoverRequestDone t idx s
  | .vectorLoopStart t => Sys2Proof.Machine.execVectorLoopStart t s
  | .vectorBundleIssue t => Sys2Proof.Machine.execVectorBundleIssue t s
  | .vectorLoopEnd t => Sys2Proof.Machine.execVectorLoopEnd t s
  | .tmemWriteback m word twoBits => Sys2Proof.Machine.execTmemWriteback m word twoBits s
  | .tileFence ch v => Sys2Proof.Machine.execTileFence ch v s
  | .tileUnfence ch v => Sys2Proof.Machine.execTileUnfence ch v s
  | .lossScaleWrite ch v => Sys2Proof.Machine.execLossScaleWrite ch v s
  | .tableSet sq c => Sys2Proof.Machine.execTableSet sq c s
  | .gather sq c => Sys2Proof.Machine.execGather sq c s
  | .versionRetire table => Sys2Proof.Machine.execVersionRetire table s
  | .bagDispatch e => Sys2Proof.Machine.execBagDispatch e s
  | .probe e core => Sys2Proof.Machine.execProbe e core s
  | .waitListRelease e core => Sys2Proof.Machine.execWaitListRelease e core s
  | .rowPieceArrive e core idx => Sys2Proof.Machine.execRowPieceArrive e core idx s
  | .poolPiece e => Sys2Proof.Machine.execPoolPiece e s
  | .bagOutputWrite e core thread => Sys2Proof.Machine.execBagOutputWrite e core thread s
  | .prescan sq c => Sys2Proof.Machine.execPrescan sq c s
  | .prescanPosition e => Sys2Proof.Machine.execPrescanPosition e s
  | .prescanRowArrive e idx => Sys2Proof.Machine.execPrescanRowArrive e idx s
  | .emberRefresh sq c => Sys2Proof.Machine.execEmberRefresh sq c s
  | .emberEntryApply e => Sys2Proof.Machine.execEmberEntryApply e s
  | .emberInstallDone e => Sys2Proof.Machine.execEmberInstallDone e s
  | .emberSetsWrite ch v => Sys2Proof.Machine.execEmberSetsWrite ch v s
  | .scatter sq c => Sys2Proof.Machine.execScatter sq c s
  | .scatterKeysWritten e => Sys2Proof.Machine.execScatterKeysWritten e s
  | .merge sq c => Sys2Proof.Machine.execMerge sq c s
  | .mergeComplete e => Sys2Proof.Machine.execMergeComplete e s
  | .optimSet sq c => Sys2Proof.Machine.execOptimSet sq c s
  | .rowOptimise sq c => Sys2Proof.Machine.execRowOptimise sq c s
  | .rowOptimiseStart step => Sys2Proof.Machine.execRowOptimiseStart step s
  | .rowApplyEntry e => Sys2Proof.Machine.execRowApplyEntry e s
  | .deferDrainBatch e => Sys2Proof.Machine.execDeferDrainBatch e s
  | .deferForward e table row => Sys2Proof.Machine.execDeferForward e table row s
  | .deltaMap sq c => Sys2Proof.Machine.execDeltaMap sq c s
  | .replicaHashCheck u idx rank => Sys2Proof.Machine.execReplicaHashCheck u idx rank s
  | .exportCmd sq c => Sys2Proof.Machine.execExportCmd sq c s
  | .exportCapture cmd => Sys2Proof.Machine.execExportCapture cmd s
  | .exportCommit cmd => Sys2Proof.Machine.execExportCommit cmd s
  | .importCmd sq c => Sys2Proof.Machine.execImportCmd sq c s
  | .slotSet sq c => Sys2Proof.Machine.execSlotSet sq c s
  | .slotExtend sq c => Sys2Proof.Machine.execSlotExtend sq c s
  | .histAppend sq c => Sys2Proof.Machine.execHistAppend sq c s
  | .appendGroupStart slot => Sys2Proof.Machine.execAppendGroupStart slot s
  | .appendGroupDone slot => Sys2Proof.Machine.execAppendGroupDone slot s
  | .stallExpiry slot => Sys2Proof.Machine.execStallExpiry slot s
  | .histWalk sq c => Sys2Proof.Machine.execHistWalk sq c s
  | .walkListRead cmd => Sys2Proof.Machine.execWalkListRead cmd s
  | .walkPositionWaitEnd cmd => Sys2Proof.Machine.execWalkPositionWaitEnd cmd s
  | .forwardedRequestIssue => Sys2Proof.Machine.execForwardedRequestIssue s
  | .forwardedRequestAck idx => Sys2Proof.Machine.execForwardedRequestAck idx s
  | .memRequest stack channel errs => Sys2Proof.Machine.execMemRequest stack channel errs s
  | .memCeWriteback stack word => Sys2Proof.Machine.execMemCeWriteback stack word s
  | .scrubRead stack err => Sys2Proof.Machine.execScrubRead stack err s
  | .dieCeCollect stack counts => Sys2Proof.Machine.execDieCeCollect stack counts s
  | .pageWalkStart quad page => Sys2Proof.Machine.execPageWalkStart quad page s
  | .pageWalkDone quad page => Sys2Proof.Machine.execPageWalkDone quad page s
  | .ptInvalidate ch v => Sys2Proof.Machine.execPtInvalidate ch v s
  | .ptRootWrite ch v => Sys2Proof.Machine.execPtRootWrite ch v s
  | .xlateSpansWrite ch v => Sys2Proof.Machine.execXlateSpansWrite ch v s
  | .farMapWrite ch v => Sys2Proof.Machine.execFarMapWrite ch v s
  | .memUeLogClear ch v => Sys2Proof.Machine.execMemUeLogClear ch v s
  | .farRequestIssue pair => Sys2Proof.Machine.execFarRequestIssue pair s
  | .farRequestDone pair idx r => Sys2Proof.Machine.execFarRequestDone pair idx r s
  | .portRetrainTimer p => Sys2Proof.Machine.execPortRetrainTimer p s
  | .portEqualisationDone p reversed => Sys2Proof.Machine.execPortEqualisationDone p reversed s
  | .codewordLock p => Sys2Proof.Machine.execCodewordLock p s
  | .portUp p => Sys2Proof.Machine.execPortUp p s
  | .trainingStepTimeout p => Sys2Proof.Machine.execTrainingStepTimeout p s
  | .identRx p => Sys2Proof.Machine.execIdentRx p s
  | .codewordRx p cw => Sys2Proof.Machine.execCodewordRx p cw s
  | .nakRx p ack => Sys2Proof.Machine.execNakRx p ack s
  | .replayTimeout p => Sys2Proof.Machine.execReplayTimeout p s
  | .ackStallTimeout p => Sys2Proof.Machine.execAckStallTimeout p s
  | .lockLoss p => Sys2Proof.Machine.execLockLoss p s
  | .creditRx p => Sys2Proof.Machine.execCreditRx p s
  | .creditReport p => Sys2Proof.Machine.execCreditReport p s
  | .packetForward p vc => Sys2Proof.Machine.execPacketForward p vc s
  | .collDataRx p => Sys2Proof.Machine.execCollDataRx p s
  | .verdictUpRx p => Sys2Proof.Machine.execVerdictUpRx p s
  | .verdictDownRx p => Sys2Proof.Machine.execVerdictDownRx p s
  | .pullRx p => Sys2Proof.Machine.execPullRx p s
  | .abortRx p => Sys2Proof.Machine.execAbortRx p s
  | .auditRx p => Sys2Proof.Machine.execAuditRx p s
  | .refetchRx p => Sys2Proof.Machine.execRefetchRx p s
  | .remoteWriteRx p => Sys2Proof.Machine.execRemoteWriteRx p s
  | .readReqRx p => Sys2Proof.Machine.execReadReqRx p s
  | .readRespRx p => Sys2Proof.Machine.execReadRespRx p s
  | .writeAckRx p => Sys2Proof.Machine.execWriteAckRx p s
  | .remoteTimeout u idx => Sys2Proof.Machine.execRemoteTimeout u idx s
  | .groupSet sq c => Sys2Proof.Machine.execGroupSet sq c s
  | .collective sq c => Sys2Proof.Machine.execCollective sq c s
  | .collDescriptorStart u idx => Sys2Proof.Machine.execCollDescriptorStart u idx s
  | .collDescriptorComplete u idx => Sys2Proof.Machine.execCollDescriptorComplete u idx s
  | .collTimeout u idx => Sys2Proof.Machine.execCollTimeout u idx s
  | .verdictTimeout step => Sys2Proof.Machine.execVerdictTimeout step s
  | .permuteReceiveStart u idx => Sys2Proof.Machine.execPermuteReceiveStart u idx s
  | .permuteStageCopy u idx => Sys2Proof.Machine.execPermuteStageCopy u idx s
  | .nodeIdWrite ch v => Sys2Proof.Machine.execNodeIdWrite ch v s
  | .linkPortsWrite ch v => Sys2Proof.Machine.execLinkPortsWrite ch v s
  | .portDisableWrite ch v => Sys2Proof.Machine.execPortDisableWrite ch v s
  | .routingTableWrite ch which v => Sys2Proof.Machine.execRoutingTableWrite ch which v s
  | .perstNAssert => Sys2Proof.Machine.execPerstNAssert s
  | .perstNDeassert => Sys2Proof.Machine.execPerstNDeassert s
  | .hotReset => Sys2Proof.Machine.execHotReset s
  | .pcieLinkDown => Sys2Proof.Machine.execPcieLinkDown s
  | .functionLevelReset => Sys2Proof.Machine.execFunctionLevelReset s
  | .enterHeld => Sys2Proof.Machine.execEnterHeld s
  | .hostWatchdogExpiry => Sys2Proof.Machine.execHostWatchdogExpiry s
  | .heartbeat v => Sys2Proof.Machine.execHeartbeat v s
  | .sqTailDoorbell q v => Sys2Proof.Machine.execSqTailDoorbell q v s
  | .cqHeadDoorbell q v => Sys2Proof.Machine.execCqHeadDoorbell q v s
  | .sqConfigWrite q word v => Sys2Proof.Machine.execSqConfigWrite q word v s
  | .cqConfigWrite q word v => Sys2Proof.Machine.execCqConfigWrite q word v s
  | .slotFetch q r => Sys2Proof.Machine.execSlotFetch q r s
  | .admissionRetry q => Sys2Proof.Machine.execAdmissionRetry q s
  | .completionRecordWrite => Sys2Proof.Machine.execCompletionRecordWrite s
  | .cqIrqDelay q => Sys2Proof.Machine.execCqIrqDelay q s
  | .regionTagAddrWrite v => Sys2Proof.Machine.execRegionTagAddrWrite v s
  | .regionHeaderRead r => Sys2Proof.Machine.execRegionHeaderRead r s
  | .bar2Read off len => Sys2Proof.Machine.execBar2Read off len s
  | .bar2Write off bytes poisoned => Sys2Proof.Machine.execBar2Write off bytes poisoned s
  | .sessionOpen => Sys2Proof.Machine.execSessionOpen s
  | .sessionClose => Sys2Proof.Machine.execSessionClose s
  | .sessionResume => Sys2Proof.Machine.execSessionResume s
  | .sessionRelease => Sys2Proof.Machine.execSessionRelease s
  | .sessionReinit => Sys2Proof.Machine.execSessionReinit s
  | .reinitTimeout => Sys2Proof.Machine.execReinitTimeout s
  | .drainEnd => Sys2Proof.Machine.execDrainEnd s
  | .nop sq c => Sys2Proof.Machine.execNop sq c s
  | .copy sq c => Sys2Proof.Machine.execCopy sq c s
  | .copyRequestIssue eng => Sys2Proof.Machine.execCopyRequestIssue eng s
  | .copyRequestDone eng idx r => Sys2Proof.Machine.execCopyRequestDone eng idx r s
  | .pcieCompletionTimeout eng idx => Sys2Proof.Machine.execPcieCompletionTimeout eng idx s
  | .inlineWrite sq c => Sys2Proof.Machine.execInlineWrite sq c s
  | .fwBlock sq c => Sys2Proof.Machine.execFwBlock sq c s
  | .mailboxGo => Sys2Proof.Machine.execMailboxGo s
  | .vmpRead ch m => Sys2Proof.Machine.execVmpRead ch m s
  | .vmpWrite ch m => Sys2Proof.Machine.execVmpWrite ch m s
  | .vmpDescribe ch m => Sys2Proof.Machine.execVmpDescribe ch m s
  | .memRead ch m => Sys2Proof.Machine.execMemRead ch m s
  | .memWrite ch m => Sys2Proof.Machine.execMemWrite ch m s
  | .discover mac m => Sys2Proof.Machine.execDiscover mac m s
  | .unsolicitedOpRx ch m => Sys2Proof.Machine.execUnsolicitedOpRx ch m s
  | .fnFrameDiscard mac m => Sys2Proof.Machine.execFnFrameDiscard mac m s
  | .readLatchExpiry ch => Sys2Proof.Machine.execReadLatchExpiry ch s
  | .writeBufferExpiry ch => Sys2Proof.Machine.execWriteBufferExpiry ch s
  | .configStoreCommit => Sys2Proof.Machine.execConfigStoreCommit s
  | .cmdActionEnd => Sys2Proof.Machine.execCmdActionEnd s
  | .notifySend => Sys2Proof.Machine.execNotifySend s
  | .plcaBeacon => Sys2Proof.Machine.execPlcaBeacon s
  | .counterSnapshot ch v => Sys2Proof.Machine.execCounterSnapshot ch v s
  | .counterLive ch v => Sys2Proof.Machine.execCounterLive ch v s
  | .registerWrite off bytes => Sys2Proof.Machine.execRegisterWrite off bytes s
  | .lockCheck l edges => Sys2Proof.Machine.execLockCheck l edges s
  | .rootLockTimeout => Sys2Proof.Machine.execRootLockTimeout s
  | .refLossDetect edges => Sys2Proof.Machine.execRefLossDetect edges s
  | .refclkReturn => Sys2Proof.Machine.execRefclkReturn s
  | .muxSelect d sel => Sys2Proof.Machine.execMuxSelect d sel s
  | .muxSwitchDone d => Sys2Proof.Machine.execMuxSwitchDone d s
  | .clockHangDetect d => Sys2Proof.Machine.execClockHangDetect d s
  | .deviceReset ch v => Sys2Proof.Machine.execDeviceReset ch v s
  | .deviceResetAssert => Sys2Proof.Machine.execDeviceResetAssert s
  | .pwrEnRise vinMv refclk lowMs => Sys2Proof.Machine.execPwrEnRise vinMv refclk lowMs s
  | .porRelease slotId => Sys2Proof.Machine.execPorRelease slotId s
  | .pwrEnFall => Sys2Proof.Machine.execPwrEnFall s
  | .vinUndervoltage => Sys2Proof.Machine.execVinUndervoltage s
  | .powerModeWrite ch v => Sys2Proof.Machine.execPowerModeWrite ch v s
  | .powerModeChangeDone => Sys2Proof.Machine.execPowerModeChangeDone s
  | .governorSample mv ma => Sys2Proof.Machine.execGovernorSample mv ma s
  | .parkEnter ch v => Sys2Proof.Machine.execParkEnter ch v s
  | .parkExit ch v => Sys2Proof.Machine.execParkExit ch v s
  | .wakeComplete => Sys2Proof.Machine.execWakeComplete s
  | .thermalSample quads stackTemps => Sys2Proof.Machine.execThermalSample quads stackTemps s
  | .thermtrip => Sys2Proof.Machine.execThermtrip s
  | .alertClear ch v => Sys2Proof.Machine.execAlertClear ch v s
  | .bootStart => Sys2Proof.Machine.execBootStart s
  | .bootHoldExpiry => Sys2Proof.Machine.execBootHoldExpiry s
  | .bootHoldWrite ch v => Sys2Proof.Machine.execBootHoldWrite ch v s
  | .bootContinue ch v => Sys2Proof.Machine.execBootContinue ch v s
  | .ownerKeyWrite ch v => Sys2Proof.Machine.execOwnerKeyWrite ch v s
  | .bootReady => Sys2Proof.Machine.execBootReady s
  | .bootWatchdogExpiry => Sys2Proof.Machine.execBootWatchdogExpiry s
  | .protInstall ch v => Sys2Proof.Machine.execProtInstall ch v s
  | .fwReceivePcie ch v => Sys2Proof.Machine.execFwReceivePcie ch v s
  | .fwReceiveKindle ch v => Sys2Proof.Machine.execFwReceiveKindle ch v s
  | .fwAbort ch v => Sys2Proof.Machine.execFwAbort ch v s
  | .fwReceiveTimeout => Sys2Proof.Machine.execFwReceiveTimeout s
  | .kindleBlockTake => Sys2Proof.Machine.execKindleBlockTake s
  | .flashBlockWritten => Sys2Proof.Machine.execFlashBlockWritten s
  | .kindlePush child => Sys2Proof.Machine.execKindlePush child s
  | .kindleChildDrop child => Sys2Proof.Machine.execKindleChildDrop child s
  | .fwImageVerify => Sys2Proof.Machine.execFwImageVerify s
  | .fwActivate ch v => Sys2Proof.Machine.execFwActivate ch v s
  | .fwConfirm ch v => Sys2Proof.Machine.execFwConfirm ch v s
  | .measExtend ch v => Sys2Proof.Machine.execMeasExtend ch v s
  | .attestSign ch v => Sys2Proof.Machine.execAttestSign ch v s
  | .attestSignDone => Sys2Proof.Machine.execAttestSignDone s
  | .tapReset => Sys2Proof.Machine.execTapReset s
  | .tapExtest => Sys2Proof.Machine.execTapExtest s
  | .tapSamplePreload => Sys2Proof.Machine.execTapSamplePreload s
  | .tapIdcode => Sys2Proof.Machine.execTapIdcode s
  | .tapBypass => Sys2Proof.Machine.execTapBypass s
  | .arrayBeat t => Sys2Proof.Machine.execArrayBeat t s
  | .codewordTx p => Sys2Proof.Machine.execCodewordTx p s
  | .phaseTimerTick => Sys2Proof.Machine.execPhaseTimerTick s
  | .moduleParked => Sys2Proof.Machine.execModuleParked s
  | .deviceFault => Sys2Proof.Machine.execDeviceFault s
  | .seqReservedOpcode t => Sys2Proof.Machine.execSeqReservedOpcode t s

end Sys2Proof.Machine
end

