-- ==== Sys2Proof/Safety.lean ====
section
/-!
DEFINITION. The terms that claims use: the parts of the state that a command leaves alone, an instruction that the sequencer of a tile
meets, a command at the head of a queue, and the phase records' account.
-/
namespace Sys2Proof.Machine

/-- The parts of the state. -/
inductive Part where
  | now | free | train | num | host | dict | mem | tile | links | rows | hist | clk | boot | out
  deriving DecidableEq, Repr

/-- Two states agree on a part. -/
def Part.same (s u : State) : Part → Prop
  | .now => u.now = s.now
  | .free => u.free = s.free
  | .train => u.train = s.train
  | .num => u.num = s.num
  | .host => u.host = s.host
  | .dict => u.dict = s.dict
  | .mem => u.mem = s.mem
  | .tile => u.tile = s.tile
  | .links => u.links = s.links
  | .rows => u.rows = s.rows
  | .hist => u.hist = s.hist
  | .clk => u.clk = s.clk
  | .boot => u.boot = s.boot
  | .out => u.out = s.out

/-- The queue of commands and every part but those listed are as before. -/
def SameBut (ps : List Part) (s u : State) : Prop := u.pending = s.pending ∧ ∀ p : Part, p ∉ ps → p.same s u

/-- The running program of tile `t` and the instruction word that its sequencer meets, when it runs an instruction (R108, R109). -/
def seqAt (s : State) (t : Fin 128) : Option (Run × BitVec 32) :=
  match (getTile s t).run with
  | none => none
  | some r =>
    if seqRunning r then (match fetched s (getTile s t) r with | .ok w => some (r, w) | .error _ => none)
    else none

/-- One instruction of tile `t` has run: the tile and its program are changed by `f` and `g`, the instruction is counted, and beside that
only the instruction buffer and the cycle count of the program move (R108, R109). -/
def SeqEffect (t : Fin 128) (s u : State) (r : Run) (f : Tile → Tile) (g : Run → Run) : Prop :=
  ∃ (ibuf : List ILine) (cycles : Nat) (ready : Vector Nat 32),
    u = updTile t (fun x => { f x with
      ibuf := ibuf, run := some { g r with cycles := cycles, ready := ready, wait := .none },
      counters := { (f x).counters with seqInstr := addSat x.counters.seqInstr 1 } }) { s with free := s.free + 1 }

/-- A register write of the sequencer: g0 discards it (R108). -/
def writeG (g : Vector (BitVec 64) 32) (gd : Fin 32) (v : BitVec 64) : Vector (BitVec 64) 32 := if gd = 0 then g else g.set gd v

/-- A result in register `gd`, and the program goes on with the next instruction. -/
def SeqResult (t : Fin 128) (s u : State) (r : Run) (gd : Fin 32) (v : BitVec 64) : Prop :=
  SeqEffect t s u r (fun x => { x with g := writeG x.g gd v }) (fun r => { r with pc := r.pc + 4 })

/-- A command of opcode `op` reaches the head of queue `q`, whose turn it is (R358), and passes the checks that every opcode makes (R363,
items 1 to 5); no skip decision has ended it already (R28), and no command in flight bears the number that it takes. -/
def reachesHead (s : State) (q : Fin 64) (op : Nat) (c : Slot) : Bool :=
  mayAdmit s q && slotOpcode c == op && !(bit c.hdr 28 && s.host.cmds.any fun x => !x.redo && x.sq == q) && decide (inFlight s < 4096) &&
    s.host.sqs[q].fence.isNone && (opcodeSize op (slotBytes c)).isSome && !slotMalformed s q c && !stateForbids s op &&
    !skippedByVerdict s (enterCmd [] q c s).2 && (findCmd s s.host.nextCmd).isNone

/-- Slot `c` has left the head of queue `q` and is in flight as the newest command, with what its checks read; an admission of the queue's
turn is used (R357, R358, R390). -/
def Entered (q : Fin 64) (c : Slot) (info : List Nat) (s u : State) : Prop :=
  u.host = (useTurn q (enterCmd info q c s).1).host ∧ u.clk = (enterCmd info q c s).1.clk

/-- A command of opcode `op` at the head of queue `q` passes its opcode's own checks too: `s'` is the state after the reads that they make
and `info` what those gave (R363, R364). -/
def Passes (check : Fin 64 → Slot → State → State × Adm) (op : Nat) (q : Fin 64) (c : Slot) (info : List Nat) (s s' : State) : Prop :=
  reachesHead s q op c = true ∧ (check q c s = (s', .accept) ∧ info = [] ∨ check q c s = (s', .admitWith info)) ∧
  skippedByVerdict s' (enterCmd info q c s').2 = false ∧ findCmd s' s'.host.nextCmd = none

/-- Slot `c` has left the head of queue `q` and completed at once with OK: it is in flight no longer, and its record is the newest to be
written (R357 to R361, R390). -/
def AtOnce (q : Fin 64) (c : Slot) (info : List Nat) (detail : Nat) (s u : State) : Prop :=
  u.host = { (useTurn q (enterCmd info q c s).1).host with
    cmds := s.host.cmds
    done := s.host.done ++ [{
      sq := q, tag := slotTag c, opcode := BitVec.ofNat 8 (slotOpcode c), status := .ok, detail := BitVec.ofNat 64 detail,
      user := slotUser c, admitted := true }] } ∧
  u.clk = (enterCmd info q c s).1.clk

/-- Slot `c` has started on admission: a step that it starts early for remembers it, and nothing else of the steps moves (R36). -/
def StartedNow (q : Fin 64) (c : Slot) (info : List Nat) (s u : State) : Prop :=
  u.train = (startCmd s.host.nextCmd (enterCmd info q c s).1).train

/-- Command `k` has completed: it is in flight no longer, and its record is the newest to be written (R358, R359, R361); the re-execution of
an early command has no record of its own (R36). -/
def Completes (k : Cmd) (st : Status) (detail : Nat) (s u : State) : Prop :=
  u.host.cmds = (s.host.cmds.filter fun x => x.id ≠ k.id) ∧
  u.host.done = s.host.done ++ if k.redo then [] else [{
    sq := k.sq, tag := slotTag k.slot, opcode := BitVec.ofNat 8 (slotOpcode k.slot), status := st,
    detail := BitVec.ofNat 64 detail, user := slotUser k.slot, admitted := true }]

/-- No command in flight is one whose work is done at once: nothing is held that could begin or go on now (R29, R30). -/
def Quiet (s : State) : Prop := ∀ k ∈ s.host.cmds, isInstant (slotOpcode k.slot) = false

/-- Number `n` and those after it are still to be given: no request, entry of a channel queue or forwarded request bears one. -/
def Unused (n : Nat) (s : State) : Prop :=
  (∀ r ∈ s.mem.requests, r.id < n ∧ ∀ key, r.act = some (.forward key) → key < n) ∧ (∀ e ∈ s.mem.stackCtl.queue, e.id < n) ∧
  ∀ f ∈ s.hist.fwd, f.key < n

/-- A request for a T1 address finds room in its channel at once: the 64 are not reached, and none of them waits (R273, R277). -/
def ChannelFree (a : Nat) (s : State) : Prop := (channelEntries s a).length < 64 ∧ ∀ x ∈ channelEntries s a, x.taken = true

/-- Nothing of a descriptor is under way: no data of a shard wait to be written, no PULL to be served, no copy out of the staging buffer, no
refetch, and no shard is audited (R338, R341). -/
def CollRests (c : Coll) : Prop :=
  c.writes = [] ∧ c.refetches = [] ∧ c.audits = [] ∧ c.audited = false ∧ ∀ e ∈ c.plan, e.asked = false ∧ ∀ h d, e.state ≠ .copying h d

/-- A whole value that comes on a channel passes every check of a write (R392). -/
def MayWrite (s : State) (c : Chan) (index sub : Nat) (v : List Byte) : Prop :=
  serves s c = true ∧ ∃ o, findObject index sub = some o ∧ writeFails c o v s = none

/-- A whole value has been answered, and nothing else has left the module (R392, R398). -/
def Answered (c : Chan) (index sub : Nat) (st : Status) (s u : State) : Prop := u.out = s.out ++ [.answer c index sub st]

/-- A whole value waits for its action, or, as `store` says, for the config store (R396, R398). -/
def WaitsFor (c : Chan) (index sub : Nat) (v : List Byte) (store : Bool) (s u : State) : Prop :=
  u.out = s.out ∧ u.dict.waiting = s.dict.waiting ++ [{ ch := c, req := none, index := index, sub := sub, value := v, store := store }]

/-- A timer, and the flag that some timer has saturated (R52): a multiple of 4, or saturated. -/
def TimerOk (saturated : Bool) (x : Nat) : Prop := x % 4 = 0 ∧ x < 2 ^ 32 ∨ x = 2 ^ 32 - 1 ∧ saturated = true

/-- The account of a phase record (R52, R53): every value is a multiple of 4 or saturated, and without saturation the time in which some
timer advanced, WALL_NS - IDLE_NS, is at most the sum of the timers and at least each of them. -/
def AccountOk (r : PhaseRec) : Prop :=
  TimerOk r.saturated r.wallNs ∧ TimerOk r.saturated r.idleNs ∧ (∀ i : Fin 16, TimerOk r.saturated r.phaseNs[i]) ∧
  (r.saturated = false → r.idleNs ≤ r.wallNs ∧ r.wallNs - r.idleNs ≤ r.phaseNs.toList.sum ∧ ∀ i : Fin 16, r.phaseNs[i] ≤ r.wallNs - r.idleNs)

/-- Every record of the ring keeps its account. -/
def RingOk (s : State) : Prop := ∀ i : Fin 1024, AccountOk s.train.ring[i]

end Sys2Proof.Machine
end

