-- ==== Sys2Proof/Certificates/Slice0/Obligations.lean ====
section
/-!
DEFINITION. The obligations: what each family of commands does when it completes, what it leaves alone, and what every step keeps.
A statement over several families is the conjunction of its parts, each a definition of its own. `SameBut` names the parts of the
state that may have changed; whatever a statement does not list is as before.
-/
open Sys2Proof Sys2Proof.Machine

/-- A step runs the command at the front of the queue on the state with the queue's rest. With no command waiting, one cycle of the
arithmetic clock passes (the model's choice, log entry 2). -/
def Obligations.StepTakesFront : Prop :=
  ∀ s : State, (∀ (c : Instr) (rest : List Instr), s.pending = c :: rest → step s = exec c { s with pending := rest }) ∧
    (s.pending = [] → step s = .next (idleCycle s))

/-- What device reset leaves, where the spec gives the value (R56, R112, R154, R170, R204, R246, R301, R348, R356, R376, R429, R433, R488),
and that the phase records keep their account (R52). -/
def Obligations.ResetState : Prop :=
  let s := State.reset
  (s.host.dev = .booting ∧ s.boot.phase = .rom ∧ s.host.cmds = [] ∧ s.host.done = [] ∧ s.host.session.live = false) ∧
  (∀ q : Fin 64, ((s.host.sqs[q]).enable, (s.host.sqs[q]).head, (s.host.sqs[q]).tail, (s.host.sqs[q]).fence) = (false, 0, 0, none) ∧
    ((s.host.cqs[q]).enable, (s.host.cqs[q]).tail, (s.host.cqs[q]).head, (s.host.cqs[q]).phase) = (false, 0, 0, true)) ∧
  (s.train.steps = [] ∧ s.train.profile = 0 ∧ s.train.earlyOptimise = 1 ∧ s.train.lastCommitted = 0 ∧ RingOk s) ∧
  (s.num.srSeed = 0 ∧ s.num.lossMode = 0 ∧ s.num.lossScale = 0x47800000 ∧ s.num.lossFactor = 0x40000000 ∧ s.num.lossInterval = 2000 ∧
    s.num.lossClean = 0 ∧ s.num.maxNorm = 0 ∧ s.num.normAbsurd = 0x49742400 ∧ s.num.wideReplayEnable = 1) ∧
  (∀ t : Fin 128, (getTile s t).run = none ∧ (getTile s t).progs = [] ∧ (getTile s t).window = 0 ∧ (getTile s t).counters = .zero ∧
    ∀ k : Fin 64, ((getTile s t).shards[k]).defined = false) ∧
  (∀ e : Fin 16, (getEng s e).queue = [] ∧ (getEng s e).counters = .zero) ∧ s.rows.tables = [] ∧ s.rows.obj.emberSets = 65536 ∧
  (∀ i : Fin 256, getSlot s i = none) ∧
  (s.mem.xlate.ptRoot = 0 ∧ s.mem.xlate.spans = [] ∧ (∀ q : Fin 4, s.mem.xlate.caches[q] = []) ∧ (∀ k : Fin 64, s.mem.farMap[k] = 0) ∧
    s.mem.runaheadEnable = 1 ∧ s.mem.stackCtl.ueLog = []) ∧
  (s.links.linkPorts = 16 ∧ s.links.portDisable = 0 ∧ s.links.hopLimit = 32 ∧ s.links.groups = [] ∧ s.links.collTimeoutMs = 2000 ∧
    s.links.remoteTimeoutUs = 1000 ∧ s.links.deterministic = 0 ∧ ∀ p : Fin 16, portStatus (getPort s p) = 0) ∧
  (∀ d : Domain, (muxOf s d).onLoop = false) ∧ s.clk.tap.ir = 0x01 ∧ s.clk.mode = 0

/-- Every step keeps the account of the phase records (R52, R53, R55): every value is a multiple of 4 or saturated, and without saturation
WALL_NS - IDLE_NS lies between each timer and the sum of the timers. -/
def Obligations.RingInvariant : Prop :=
∀ s u : State, RingOk s → step s = .next u → RingOk u

/-- STEP_BEGIN (R20, R21, R23, R24, R54, R55, R165): it completes with OK when it is admitted, and its step is open from that moment, with
its phase record at the next place of the ring and its loss scale fixed. -/
def Obligations.StepsOpen : Prop :=
  ∀ (s : State) (q : Fin 64) (c : Slot), reachesHead s q 0x01 c = true → stepTagWrong c = false → stepBeginMalformed c = false →
    stepMayOpen s c = true →
    ∃ u, exec (.stepBegin q c) s = .next u ∧ AtOnce q c [] 0 s u ∧
      ∃ p : Step, p.num = BitVec.ofNat 64 (fld c.pay 63 0) ∧ p.state = .stOpen ∧ p.closedToWork = false ∧ p.ring = s.train.ringHead ∧
        p.group = BitVec.ofNat 16 (fld c.pay 95 80) ∧ p.early = (bit c.pay 72 && s.train.earlyOptimise == 1) ∧
        p.lossScale = (if s.num.lossMode = 1 then s.num.lossScale else one32) ∧
        u.train = { s.train with
          steps := s.train.steps ++ [p], ringHead := s.train.ringHead + 1,
          ring := s.train.ring.set (ringSlot s.train.ringHead)
            { PhaseRec.zero with step := p.num, startNs := s.now, profile := BitVec.ofNat 8 (fld c.pay 71 64) } } ∧
        SameBut [.host, .clk, .train, .links] s u

/-- The admission of STEP_BEGIN (R21), for a command without a fault in its encoding while no import is due (R43): it is admitted exactly if
the five conditions hold, and otherwise completes with STATE_CONFLICT and opens no step; under the tag of an open step it counts as a
failed command of that step (R31). -/
def Obligations.StepAdmission : Prop :=
  ∀ (s : State) (q : Fin 64) (c : Slot), reachesHead s q 0x01 c = true → stepTagWrong c = false → stepBeginMalformed c = false →
    s.rows.obj.restoreRequired = false →
    let n := BitVec.ofNat 64 (fld c.pay 63 0)
    let may := s.train.steps.length < 2 ∧ s.train.lastCommitted.toNat < n.toNat ∧ (∀ p ∈ s.train.steps, p.num.toNat < n.toNat) ∧
      (∀ p ∈ s.train.steps, p.num.toNat % 2 ^ 16 ≠ n.toNat % 2 ^ 16) ∧ fld c.pay 71 64 = s.train.profile.toNat
    (may → ∃ u, exec (.stepBegin q c) s = .next u ∧ AtOnce q c [] 0 s u ∧ u.train.steps.map (fun p => p.num) = s.train.steps.map (fun p => p.num) ++ [n]) ∧
    (¬may → ∃ u more, exec (.stepBegin q c) s = .next u ∧
      u.host.done = s.host.done ++ {
        sq := q, tag := slotTag c, opcode := 0x01, status := .stateConflict, detail := 0, user := slotUser c, admitted := false } :: more ∧
      u.host.nextCmd = s.host.nextCmd ∧ u.train.ring = s.train.ring ∧ u.train.ringHead = s.train.ringHead ∧
      u.train.steps.map (fun p => p.num) = s.train.steps.map (fun p => p.num) ∧
      (slotStep s c = none → more = [] ∧ u.host.cmds = s.host.cmds ∧ SameBut [.host] s u))

/-- STEP_END (R25, R26, R31, R214): the step is closed to new work and sealed on every engine; an engine that has no key of the step has
merged it with norm 0. The command stays in flight. -/
def Sys2Proof.Claims.StepsSealed : Prop :=
  ∀ (s : State) (q : Fin 64) (c : Slot) (p : Step), reachesHead s q 0x02 c = true → stepTagWrong c = false → fld c.pay 127 65 = 0 →
    findStep s (BitVec.ofNat 64 (fld c.pay 63 0)) = some p → p.closedToWork = false →
    s.rows.merges = [] →
    ∃ u, exec (.stepEnd q c) s = .next u ∧
      u.host = (useTurn q (startCmd s.host.nextCmd (enterCmd [] q c s).1)).host ∧
      u.train = { s.train with
        steps := mapIf (fun p => p.num == stepNumOf c)
          (fun p => { p with closedToWork := true, endCmd := some s.host.nextCmd, forceSkip := bit c.pay 64 }) s.train.steps,
        ring := updAt s.train.ring (ringSlot p.ring) fun r => { r with forced := bit c.pay 64 } } ∧
      (∀ e : Fin 16, (engStep u e p.num).map (fun x => x.sealed) = some true) ∧
      (∀ e : Fin 16, engStep s e p.num = none → (engStep u e p.num).map (fun x => (x.merged, x.norm)) = some (true, 0)) ∧
      SameBut [.host, .clk, .train, .rows] s u

/-- STEP_CLOSE (R41, R42, R56) of a step without an early run and without a record: the step leaves, its STEP_END completes with the
outcome's status and DETAIL, the outcome stands in its phase record and its counter, and no selector moves. After TORN the rows and log
entries of the step are undefined in the module's memories, and the drain waits for their tables; every other byte of T1 stays. -/
def Sys2Proof.Claims.StepsClose : Prop :=
  ∀ (s : State) (n : BitVec 64) (p : Step) (o : StepOutcome) (k : Cmd), findStep s n = some p → p.voteSent = true → mayClose s p = some o →
    (s.host.cmds.filter fun c => c.step == some n && !c.started) = [] → p.record = false → p.endCmd = some k.id → findCmd s k.id = some k →
    slotOpcode k.slot = 0x02 → k.step = none → k.redo = false → s.host.dev = .running → Quiet s →
    ∃ u, exec (.stepClose n) s = .next u ∧
      findStep u n = none ∧ u.train.steps = (s.train.steps.filter fun q => q.num != n) ∧
      Completes k (closeStatus p o) (outcomeCode o + (p.decision.map fun d => d.cause.toNat).getD 0 * 2 ^ 8) s u ∧
      (u.train.ring[ringSlot p.ring]).outcome = o ∧ (∀ i : Fin 1024, i ≠ ringSlot p.ring → u.train.ring[i] = s.train.ring[i]) ∧
      u.train.lastCommitted = s.train.lastCommitted ∧
      u.train.stepsCommitted = (if o = .committed then addSat s.train.stepsCommitted 1 else s.train.stepsCommitted) ∧
      u.train.stepsSkipped = (if o = .skipped then addSat s.train.stepsSkipped 1 else s.train.stepsSkipped) ∧
      u.train.stepsAborted = (if o = .aborted ∨ o = .held then addSat s.train.stepsAborted 1 else s.train.stepsAborted) ∧
      u.train.stepsTorn = (if o = .torn then addSat s.train.stepsTorn 1 else s.train.stepsTorn) ∧
      u.rows.drainStopped = (if o = .torn then (stopDrain .internal (tornTables s n) s).rows.drainStopped else s.rows.drainStopped) ∧
      u.rows.obj.restoreRequired = (s.rows.obj.restoreRequired || decide (o = .torn)) ∧
      (∀ e : Fin 16, ∀ x ∈ (getEng u e).steps, x.step ≠ n) ∧ (∀ (t : Fin 128) (k : Fin 64), (getTile u t).shards[k].sel = (getTile s t).shards[k].sel) ∧
      (o ≠ .torn → SameBut [.train, .num, .rows, .tile, .host] s u) ∧
      (o = .torn → memWf s.mem.t1 = true → SameBut [.train, .num, .rows, .tile, .host, .mem, .free] s u ∧
        (∀ a, (∀ x ∈ tornPlaces s n, a < x.1 ∨ x.1 + x.2 ≤ a) → memByte u.mem.t1 a = memByte s.mem.t1 a) ∧
        u.mem.requests = s.mem.requests ∧ u.mem.xlate = s.mem.xlate)

/-- RECORD_WRITE_ACK (R41, R54): when the write of a closed step's record has ended, its STEP_END completes; a failed write is counted and
shown in DETAIL. -/
def Sys2Proof.Claims.RecordsAcknowledged : Prop :=
  ∀ (s s1 : State) (n : BitVec 64) (p : Step) (key : Nat) (k : Cmd) (r : IoRes), findStep s n = some p → p.recordWait = some key →
    writePhaseRecord p s = (s1, r) → p.endCmd = some k.id → findCmd s1 k.id = some k → slotOpcode k.slot = 0x02 → k.step = none →
    k.redo = false →
    (∀ ds, r = .done ds → ∃ u, exec (.recordWriteAck n true) s = .next u ∧ findStep u n = none ∧
      Completes k (closeStatus p p.outcome) (closeDetail p false) s1 u ∧ u.train.recordWriteFail = s1.train.recordWriteFail ∧
      u.train.ring = s1.train.ring ∧ SameBut [.train, .host, .mem] s1 u) ∧
    (∀ st, r = .fail st → ∃ u, exec (.recordWriteAck n false) s = .next u ∧ findStep u n = none ∧
      Completes k (closeStatus p p.outcome) (closeDetail p true) s1 u ∧ u.train.recordWriteFail = addSat s1.train.recordWriteFail 1 ∧
      u.train.ring = s1.train.ring ∧ SameBut [.train, .host, .mem] s1 u)

/-- A step is sealed and closes (R25, R26, R41, R42, R54). -/
def Obligations.StepsSealAndClose : Prop :=
  Claims.StepsSealed ∧ Claims.StepsClose ∧ Claims.RecordsAcknowledged

/-- COMMIT_START, COMMIT_LOG_WAIT_END and LOCAL_COMMIT_COMPLETE (R34, R39, R228, R166): once nothing holds back item 1 the step is in item
2; once every engine has applied its entries the marked shards turn over, LAST_COMMITTED_STEP is the step and the step publishes. -/
def Obligations.StepsCommit : Prop :=
  ∀ (s : State) (n : BitVec 64) (p : Step), findStep s n = some p →
    let item2 (u : State) : Prop := (findStep u n).map (fun p => (p.state, p.item)) = some (.committing, .item2) ∧
      (∀ t, getTile u t = getTile s t) ∧ u.train.lastCommitted = s.train.lastCommitted
    (mayCommit s p = true → exportWaits s n = false → (∀ e, nextToDefer s e n = none) → boundWaits s n = false →
      ∃ u, exec (.commitStart n) s = .next u ∧ item2 u ∧ SameBut [.train] s u) ∧
    (p.state = .committing → p.item = .item1 → p.torn = none → exportWaits s n = false → (∀ e, nextToDefer s e n = none) →
      boundWaits s n = false → ∃ u, exec (.commitLogWaitEnd n) s = .next u ∧ item2 u ∧ SameBut [.train] s u) ∧
    (p.state = .committing → p.item = .item2 → p.torn = none → allApplied s n = true → Quiet s →
      ∃ u, exec (.localCommitComplete n) s = .next u ∧ (findStep u n).map (fun p => p.state) = some .publishing ∧
        u.train.lastCommitted = n ∧ u.num = growScale s.num ∧
        (∀ (t : Fin 128) (k : Fin 64), (getTile u t).shards[k] = let x : Shard := (getTile s t).shards[k]
          if x.marks.contains n then { x with sel := !x.sel, marks := x.marks.filter fun m => m != n } else x) ∧
        (∀ t, (getTile u t).mem = (getTile s t).mem ∧ (getTile u t).run = (getTile s t).run ∧ (getTile u t).g = (getTile s t).g) ∧
        SameBut [.train, .num, .tile] s u)

/-- VERDICT_CONTRIBUTION (R31, R45, R332 to R334): a member whose children have not all reported keeps its contribution in its exchange; a
step whose group is not set aborts with PEER_UNREACHABLE; a group of one decides at once by R162. -/
def Obligations.VotesCast : Prop :=
  ∀ (s : State) (n : BitVec 64) (p : Step) (own : NormTerm) (vote : Bool), findStep s n = some p → contribution s p = some (own, vote) →
    let x : Exchange := { step := n, group := p.group, own := some own, vote := vote, dueAt := s.now, upSent := false, done := false }
    let exchanges := s.links.exchanges.filter (fun y => y.step != n) ++ [x]
    (∀ g, findGroup s p.group.toNat = some g → treeRoutable s g = true →
      (∃ r ∈ treeChildren g.members.length g.rank, (s.links.msgs.find? fun m => forExchange x false m && m.node.toNat == g.members.getD r 0) = none) →
      exec (.verdictContribution n) s = .next { s with
        train := { s.train with steps := mapIf (fun p => p.num == n) (fun p => { p with voteSent := true }) s.train.steps },
        links := { s.links with exchanges := exchanges } }) ∧
    (findGroup s p.group.toNat = none → p.state = .stOpen →
      ∃ u, exec (.verdictContribution n) s = .next u ∧
        (findStep u n).map (fun p => (p.state, p.abort, p.exchDead, p.voteSent)) = some (.aborting, some .peerUnreachable, true, true) ∧
        (∀ y ∈ u.links.exchanges, y.step = n → y.done = true) ∧ (∀ t, (getTile u t).mem = (getTile s t).mem) ∧ u.num = s.num) ∧
    (∀ g, findGroup s p.group.toNat = some g → g.members.length = 1 → g.rank = 0 → p.state = .stOpen →
      (s.host.cmds.filter fun k => !k.started) = [] → Quiet s → (∀ e ∈ p.earlies, slotOpcode e.slot = 0x10) →
      let d := decide162 s.num p.lossScale { sumsq := own.sumsq, nonfinite := own.nonfinite, vote := vote }
      ∃ u, exec (.verdictContribution n) s = .next u ∧
        (findStep u n).map (fun p => (p.state, p.decision, p.voteSent)) =
          some (if d.skip then .decidedSkip else .decidedCommit, some d, true) ∧
        (let r : PhaseRec := u.train.ring[ringSlot p.ring]; (r.skipCause, r.norm, r.clip) = (d.cause, d.norm, d.clip)) ∧
        SameBut [.train, .links, .num] s u)

/-- The decision (R161, R162): the norm is the root of the sum times the reciprocal of the scale, the skip causes are non-finite, an absurd
norm and a vote, and the clip factor is MAX_NORM over the norm when the norm exceeds it. -/
def Obligations.VerdictRule : Prop :=
  ∀ (n : Numerics) (scale : BitVec 32) (t : Totals),
    let d := decide162 n scale t
    d.norm = fmul (fsqrt t.sumsq) (fdiv one32 scale) ∧ (d.skip = true ↔ d.cause ≠ 0) ∧
    bit d.cause 0 = t.nonfinite ∧ bit d.cause 1 = flt n.normAbsurd d.norm ∧ bit d.cause 2 = t.vote ∧ fld d.cause 7 3 = 0 ∧
    (d.skip = true → d.clip = 0) ∧
    (d.skip = false → n.maxNorm ≠ 0 → fle d.norm n.maxNorm = false → d.clip = fdiv n.maxNorm d.norm) ∧
    (d.skip = false → n.maxNorm = 0 ∨ fle d.norm n.maxNorm = true → d.clip = one32)

/-- PHASE_TIMER_TICK (R51, R52, R54): 4 ns pass. With one open step its record advances by 4 in WALL_NS, in each timer whose phase is
executed, in WAIT_PEER when nothing is executed and remote data are waited for, and in IDLE_NS when no timer advances. -/
def Obligations.TimersAdvance : Prop :=
  ∀ s : State, controlRuns s = true →
    ∃ u, exec .phaseTimerTick s = .next u ∧ u.now = s.now + 4 ∧ u.train.steps = s.train.steps ∧ u.mem = s.mem ∧ u.tile = s.tile ∧
      (∀ p, s.train.steps = [p] → p.state ≠ .closed →
        let r : PhaseRec := s.train.ring[ringSlot p.ring]
        let v : PhaseRec := u.train.ring[ringSlot p.ring]
        let busy := busyPhases s p
        let on (i : Nat) : Bool := if i = 13 then busy.isEmpty && waitsRemote s p else busy.contains i
        v.wallNs = min (r.wallNs + 4) (2 ^ 32 - 1) ∧
        (∀ i : Fin 16, v.phaseNs[i] = if on i.val then min (r.phaseNs[i] + 4) (2 ^ 32 - 1) else r.phaseNs[i]) ∧
        v.idleNs = (if (List.range 16).any on then r.idleNs else min (r.idleNs + 4) (2 ^ 32 - 1)) ∧
        v.outcome = r.outcome ∧ v.step = r.step ∧ ∀ i : Fin 1024, i ≠ ringSlot p.ring → u.train.ring[i] = s.train.ring[i]) ∧
      SameBut [.now, .train, .rows, .hist, .links, .host, .clk] s u

/-- The pre-scanners' prefetch and the drain of the deferred-update log count under no phase timer (R53): whatever an engine's pre-scanner
and its deferred log hold, and whether or not PRESCAN commands are being executed, a tick leaves the same phase records. -/
def Obligations.PrefetchAndDrainUntimed : Prop :=
  ∀ (s : State) (e : Fin 16) (ps : List PreRun) (ds : List LogEntry) (qs : List Drain) (on : Bool),
    let s1 := updEng e (fun g => { g with prescans := ps, deferred := ds, drains := qs }) s
    let t : State := { s1 with host := { s1.host with
      cmds := s1.host.cmds.map fun k => if slotOpcode k.slot = 0x22 then { k with started := on } else k } }
    ∃ u v, exec .phaseTimerTick s = .next u ∧ exec .phaseTimerTick t = .next v ∧ v.train.ring = u.train.ring

/-- The TAG of a command in flight is not reused (R362): a slot that carries it is not admitted and completes with MALFORMED under its own
TAG. Here the slot is fetched, no fence stands and no earlier check of R363 ends the command. -/
def Obligations.TagsNotReused : Prop :=
  ∀ (s : State) (q : Fin 64) (c : Slot),
    (tagInUse s q (slotTag c) = true ↔
      (∃ k ∈ s.host.cmds, k.redo = false ∧ k.sq = q ∧ slotTag k.slot = slotTag c) ∨ ∃ k ∈ s.host.done, k.admitted = true ∧ k.sq = q ∧ k.tag = slotTag c) ∧
    (mayAdmit s q = true → (s.host.sqs[q]).fence = none → (opcodeSize (slotOpcode c) (slotBytes c)).isSome = true →
      bit c.hdr 28 = false → inFlight s < 4096 → tagInUse s q (slotTag c) = true →
      ∃ u more, exec (.slotFetch q (.slot c)) s = .next u ∧
        u.host.done = s.host.done ++ {
          sq := q, tag := slotTag c, opcode := BitVec.ofNat 8 (slotOpcode c), status := .malformed, detail := 0, user := slotUser c,
          admitted := false } :: more ∧
        u.host.nextCmd = s.host.nextCmd ∧ (u.host.sqs[q]).head.toNat = ((s.host.sqs[q]).head.toNat + 1) % queueSize (s.host.sqs[q]).sizeLog2 ∧
        (slotStep s c = none → more = [] ∧ u.host.cmds = s.host.cmds ∧ SameBut [.host] s u))

/-- The instructions of the sequencer that compute (R108, R109): each leaves its result in gd, with g0 reading 0 and discarding writes, and
the program goes on with the next instruction. Nothing else of the module moves but the instruction buffer and the counts. -/
def Obligations.SequencerAlu : Prop :=
  ∀ (s : State) (t : Fin 128) (r : Run) (w : BitVec 32), seqAt s t = some (r, w) →
    let x := getTile s t
    let a := gReg x (iGa w)
    let b := gReg x (iGb w)
    let i := (iImm w).signExtend 64
    let n := fld (iImm w) 5 0
    gReg x 0 = 0 ∧
    (iOp w = 0x02 → ∃ u, exec (.add t (iGd w) (iGa w) (iGb w)) s = .next u ∧ SeqResult t s u r (iGd w) (a + b)) ∧
    (iOp w = 0x03 → ∃ u, exec (.addi t (iGd w) (iGa w) (iImm w)) s = .next u ∧ SeqResult t s u r (iGd w) (a + i)) ∧
    (iOp w = 0x04 → ∃ u, exec (.sub t (iGd w) (iGa w) (iGb w)) s = .next u ∧ SeqResult t s u r (iGd w) (a - b)) ∧
    (iOp w = 0x05 → ∃ u, exec (.mul t (iGd w) (iGa w) (iGb w)) s = .next u ∧ SeqResult t s u r (iGd w) (a * b)) ∧
    (iOp w = 0x06 → ∃ u, exec (.and t (iGd w) (iGa w) (iGb w)) s = .next u ∧ SeqResult t s u r (iGd w) (a &&& b)) ∧
    (iOp w = 0x07 → ∃ u, exec (.or t (iGd w) (iGa w) (iGb w)) s = .next u ∧ SeqResult t s u r (iGd w) (a ||| b)) ∧
    (iOp w = 0x08 → ∃ u, exec (.xor t (iGd w) (iGa w) (iGb w)) s = .next u ∧ SeqResult t s u r (iGd w) (a ^^^ b)) ∧
    (iOp w = 0x09 → ∃ u, exec (.shli t (iGd w) (iGa w) (iImm w)) s = .next u ∧ SeqResult t s u r (iGd w) (a <<< n)) ∧
    (iOp w = 0x0A → ∃ u, exec (.shri t (iGd w) (iGa w) (iImm w)) s = .next u ∧ SeqResult t s u r (iGd w) (a >>> n)) ∧
    (iOp w = 0x0B → ∃ u, exec (.lui t (iGd w) (iImm w)) s = .next u ∧ SeqResult t s u r (iGd w) (i <<< 16))

/-- LD and ST (R109) on an aligned address of the tile's own memory. -/
def Sys2Proof.Claims.SequencerMemory : Prop :=
  ∀ (s : State) (t : Fin 128) (r : Run) (w : BitVec 32), seqAt s t = some (r, w) →
    let x := getTile s t
    let a := (gReg x (iGa w) + (iImm w).signExtend 64).toNat
    a % 8 = 0 → a < tmemSize →
    (iOp w = 0x0C → poisoned (memRead x.mem a 8) = false → ∃ u, exec (.ld t (iGd w) (iGa w) (iImm w)) s = .next u ∧
      SeqResult t s u r (iGd w) (BitVec.ofNat 64 (leNat (dataBytes (memRead x.mem a 8))))) ∧
    (iOp w = 0x0D → ∃ u, exec (.st t (iGd w) (iGa w) (iImm w)) s = .next u ∧ ∃ stored,
      SeqEffect t s u r (fun x => { x with mem := memWrite x.mem a (clean (bytesOf 8 (gReg x (iGd w)))) })
        (fun r => { r with pc := r.pc + 4, stored := stored }))

/-- Branches, JR, NOP, STOP and PHASE (R18, R107, R109). -/
def Sys2Proof.Claims.SequencerControl : Prop :=
  ∀ (s : State) (t : Fin 128) (r : Run) (w : BitVec 32), seqAt s t = some (r, w) →
    let x := getTile s t
    let a := gReg x (iGd w)
    let b := gReg x (iGa w)
    let there := (BitVec.ofNat 64 r.pc + 4 * (iImm w).signExtend 64).toNat
    let branch (c : Bool) (u : State) : Prop := SeqEffect t s u r id (fun r => { r with pc := if c then there else r.pc + 4 })
    (iOp w = 0x0E → ∃ u, exec (.beq t (iGd w) (iGa w) (iImm w)) s = .next u ∧ branch (a == b) u) ∧
    (iOp w = 0x0F → ∃ u, exec (.bne t (iGd w) (iGa w) (iImm w)) s = .next u ∧ branch (a != b) u) ∧
    (iOp w = 0x10 → ∃ u, exec (.bltu t (iGd w) (iGa w) (iImm w)) s = .next u ∧ branch (decide (a.toNat < b.toNat)) u) ∧
    (iOp w = 0x11 → b.toNat % 4 = 0 → ∃ u, exec (.jr t (iGa w)) s = .next u ∧ SeqEffect t s u r id (fun r => { r with pc := b.toNat })) ∧
    (iOp w = 0x01 → ∃ u, exec (.seqNop t) s = .next u ∧ SeqEffect t s u r id (fun r => { r with pc := r.pc + 4 })) ∧
    (iOp w = 0x00 → ∃ u, exec (.stop t (iImm w)) s = .next u ∧
      SeqEffect t s u r id (fun r => { r with stopping := some ((statusOf (fld (iImm w) 7 0)).getD .internal) })) ∧
    (iOp w = 0x19 → fld (iImm w) 3 0 ≠ 13 → ∃ u, exec (.phase t (iImm w)) s = .next u ∧
      SeqEffect t s u r id (fun r => { r with phase := fld (iImm w) 3 0, pc := r.pc + 4 }))

/-- Loads, stores and control flow of the sequencer (R109). -/
def Obligations.SequencerMemoryAndControl : Prop :=
  Claims.SequencerMemory ∧ Claims.SequencerControl

/-- SYS in all its forms, BCSET and BCREAD (R109, R155). -/
def Sys2Proof.Claims.SequencerSystem : Prop :=
  ∀ (s : State) (t : Fin 128) (r : Run) (w : BitVec 32), seqAt s t = some (r, w) →
    let x := getTile s t
    let k := fld (iImm w) 3 0
    (iOp w = 0x12 → k < 8 → ∃ u, exec (.sys t (iGd w) (iImm w)) s = .next u ∧ SeqResult t s u r (iGd w) (runArg r.prog.slot.pay k)) ∧
    (iOp w = 0x12 → k = 8 → ∃ u, exec (.sys t (iGd w) (iImm w)) s = .next u ∧ SeqResult t s u r (iGd w) (BitVec.ofNat 64 t.val)) ∧
    (iOp w = 0x12 → k = 10 → ∃ u, exec (.sys t (iGd w) (iImm w)) s = .next u ∧
      SeqResult t s u r (iGd w) (BitVec.ofNat 64 (slotStepTag r.prog.slot))) ∧
    (iOp w = 0x12 → k = 11 → ∃ u, exec (.sys t (iGd w) (iImm w)) s = .next u ∧ SeqResult t s u r (iGd w) (BitVec.ofNat 64 r.phase)) ∧
    (iOp w = 0x12 → k = 12 → ∃ u, exec (.sys t (iGd w) (iImm w)) s = .next u ∧ SeqResult t s u r (iGd w) (x.window.zeroExtend 64)) ∧
    (iOp w = 0x12 → fld w 3 0 = 13 → ∃ u, exec (.sysWindowCheck t (iGd w) (iGa w)) s = .next u ∧
      let hit := s.num.wideReplayEnable != 0 && decide ((gReg x (iGa w)).toNat % 2 ^ 32 < x.window.toNat)
      SeqEffect t s u r (fun x => { x with
          g := writeG x.g (iGd w) (BitVec.ofNat 64 (b2n hit)), window := 0,
          counters := { x.counters with wideReplay := addSat x.counters.wideReplay (b2n hit) } })
        (fun r => { r with pc := r.pc + 4 })) ∧
    (iOp w = 0x12 → fld w 3 0 = 14 → ∃ u, exec (.sysWindowClear t (iGd w)) s = .next u ∧
      SeqEffect t s u r (fun x => { x with g := writeG x.g (iGd w) (x.window.zeroExtend 64), window := 0 }) (fun r => { r with pc := r.pc + 4 })) ∧
    (iOp w = 0x16 → ∃ u, exec (.bcset t (iGa w) (iImm w)) s = .next u ∧
      SeqEffect t s u r (fun x => { x with bc := x.bc.set (bcIndex (iImm w)) (BitVec.ofNat 32 (gReg x (iGa w)).toNat) })
        (fun r => { r with pc := r.pc + 4 })) ∧
    (iOp w = 0x18 → ∃ u, exec (.bcread t (iGd w) (iImm w)) s = .next u ∧
      SeqResult t s u r (iGd w) (x.bc[bcIndex (iImm w)].zeroExtend 64))

/-- PASS, MOVE and VLOOP hand a descriptor that passes its checks to a unit with room in its queue (R77, R78, R109, R114, R120). -/
def Sys2Proof.Claims.SequencerHandsOver : Prop :=
  ∀ (s : State) (t : Fin 128) (r : Run) (w : BitVec 32) (d : Nat), seqAt s t = some (r, w) →
    let x := getTile s t
    let a := (gReg x (iGa w)).toNat
    let next (r : Run) : Run := { r with pc := r.pc + 4 }
    (iOp w = 0x13 → descriptorAt x a 64 = .ok d → x.arr.queue.length < 4 → passCheck s x.arr (BitVec.ofNat 512 d) = none →
      ∃ u, exec (.pass t (iGa w)) s = .next u ∧
        SeqEffect t s u r (fun x => { x with arr := acceptPass (BitVec.ofNat 512 d) (progStep r.prog) x.arr }) next) ∧
    (iOp w = 0x14 → descriptorAt x a 64 = .ok d → x.mover.queue.length < 8 → moveCheck s (BitVec.ofNat 512 d) = none →
      ∃ u, exec (.move t (iGa w)) s = .next u ∧
        SeqEffect t s u r (fun x => { x with mover := acceptMove (BitVec.ofNat 512 d) s.mem.xlate.order (mayRunAhead s) x.mover }) next) ∧
    (iOp w = 0x15 → descriptorAt x a 128 = .ok d → x.vec.queue.length < 2 → loopCheck x.mem (BitVec.ofNat 1024 d) = none →
      ∃ u, exec (.vloop t (iGa w)) s = .next u ∧
        SeqEffect t s u r (fun x => { x with vec := { x.vec with
          queue := x.vec.queue ++ [newLoop (BitVec.ofNat 1024 d) (loopBody x.mem (BitVec.ofNat 1024 d)) (progStep r.prog)] } }) next)

/-- What the sequencer reads and sets of the tile, and the descriptors that it hands over (R109). -/
def Obligations.SequencerSystemAndUnits : Prop :=
  Claims.SequencerSystem ∧ Claims.SequencerHandsOver

/-- BCWAIT, FENCE, REDRD and VERD when what they wait for holds already (R109, R111, R128). -/
def Sys2Proof.Claims.SequencerWaits : Prop :=
  ∀ (s : State) (t : Fin 128) (r : Run) (w : BitVec 32), seqAt s t = some (r, w) →
    let x := getTile s t
    (iOp w = 0x17 → (gReg x (iGa w)).toNat % 2 ^ 32 ≤ (x.bc[bcIndex (iImm w)]).toNat → ∃ u, exec (.bcwait t (iGa w) (iImm w)) s = .next u ∧
      SeqEffect t s u r id (fun r => { r with pc := r.pc + 4 })) ∧
    (iOp w = 0x1A → unitsDone s t (BitVec.ofNat 3 (fld (iImm w) 2 0)) = true → ∃ u, exec (.fence t (iImm w)) s = .next u ∧
      SeqEffect t s u r id (fun r => { r with pc := r.pc + 4 })) ∧
    (iOp w = 0x1B → redPending x (fin (fld (iImm w) 2 0)) = false → ∃ u, exec (.redrd t (iGd w) (iImm w)) s = .next u ∧
      let q := x.vec.q[(fin (fld (iImm w) 2 0) : Fin 8)]
      SeqResult t s u r (iGd w) (if bit (iImm w) 3 then q.nonfinite.zeroExtend 64 else q.value.zeroExtend 64)) ∧
    (iOp w = 0x1C → ∀ v, verdValue s r.prog (fld (iImm w) 1 0) = some (.ok v) → ∃ u, exec (.verd t (iGd w) (iImm w)) s = .next u ∧
      SeqResult t s u r (iGd w) v)

/-- The end of a wait of BCWAIT, FENCE, REDRD or VERD: the program goes on behind the instruction, with its result (R109, R111). -/
def Sys2Proof.Claims.SequencerResumes : Prop :=
  ∀ (s : State) (t : Fin 128) (r : Run), (getTile s t).run = some r → r.stopping = none →
    let x := getTile s t
    let on (g : Vector (BitVec 64) 32) : State := updTile t (fun x => { x with g := g, run := some { r with wait := .none, pc := r.pc + 4 } }) s
    (∀ i least, r.wait = .bc i least → least ≤ x.bc[i] → exec (.bcwaitResume t) s = .next (on x.g)) ∧
    (∀ units, r.wait = .fence units → unitsDone s t units = true → exec (.fenceResume t) s = .next (on x.g)) ∧
    (∀ gd imm, r.wait = .redrd gd imm → redPending x (fin (fld imm 2 0)) = false →
      exec (.redrdResume t) s = .next (on (writeG x.g gd (redValue x imm)))) ∧
    (∀ gd imm v, r.wait = .verd gd imm → verdValue s r.prog (fld imm 1 0) = some (.ok v) → exec (.verdResume t) s = .next (on (writeG x.g gd v)))

/-- Instructions of the sequencer that wait (R109, R111). -/
def Obligations.SequencerWaitsAndResumes : Prop :=
  Claims.SequencerWaits ∧ Claims.SequencerResumes

/-- SHARDDEF and SHARDGET (R33, R34, R112). -/
def Sys2Proof.Claims.SequencerShards : Prop :=
  ∀ (s : State) (t : Fin 128) (r : Run) (w : BitVec 32), seqAt s t = some (r, w) →
    let x := getTile s t
    let k := shardIndex (iImm w)
    let e := x.shards[k]
    (iOp w = 0x1D → s.train.steps = [] → ∃ u, exec (.sharddef t (iGa w) (iGb w) (iImm w)) s = .next u ∧
      SeqEffect t s u r (fun x => { x with
        shards := x.shards.set k { defined := true, a := gReg x (iGa w), b := gReg x (iGb w), sel := false, marks := [] } })
        (fun r => { r with pc := r.pc + 4 })) ∧
    (iOp w = 0x1E → e.defined = true → bit (iImm w) 6 = false → ∃ u, exec (.shardget t (iGd w) (iImm w)) s = .next u ∧
      SeqResult t s u r (iGd w) (if e.sel then e.b else e.a)) ∧
    (iOp w = 0x1E → e.defined = true → bit (iImm w) 6 = true → ∀ n, r.prog.step = some n → (findStep s n).isSome = true →
      e.marks.contains n = false → ∃ u, exec (.shardget t (iGd w) (iImm w)) s = .next u ∧
      SeqEffect t s u r (fun x => { x with
          g := writeG x.g (iGd w) (if e.sel then e.a else e.b), shards := x.shards.set k { e with marks := e.marks ++ [n] } })
        (fun r => { r with pc := r.pc + 4 }))

/-- Errors of the sequencer's own instructions end the program with a status, and its registers and its tile's memory stay (R109, R110,
R112). -/
def Sys2Proof.Claims.SequencerStops : Prop :=
  ∀ (s : State) (t : Fin 128) (r : Run) (w : BitVec 32), seqAt s t = some (r, w) →
    let x := getTile s t
    let a := (gReg x (iGa w) + (iImm w).signExtend 64).toNat
    let stops (st : Status) (u : State) : Prop := ∃ r', (getTile u t).run = some r' ∧ r'.prog = r.prog ∧ r'.pc = r.pc ∧
      (r.failed = false → r'.stopping = some st ∧ r'.failed = true) ∧ (getTile u t).g = x.g ∧ (getTile u t).mem = x.mem ∧
      (∀ v : Fin 128, v ≠ t → getTile u v = getTile s v) ∧ SameBut [.free, .tile] s u
    (0x1F ≤ iOp w → ∃ u, exec (.seqReservedOpcode t) s = .next u ∧ stops .malformed u) ∧
    (iOp w = 0x0C → a % 8 ≠ 0 → ∃ u, exec (.ld t (iGd w) (iGa w) (iImm w)) s = .next u ∧ stops .malformed u) ∧
    (iOp w = 0x0D → a % 8 = 0 → tmemSize ≤ a → ∃ u, exec (.st t (iGd w) (iGa w) (iImm w)) s = .next u ∧ stops .addressRange u) ∧
    (iOp w = 0x11 → (gReg x (iGa w)).toNat % 4 ≠ 0 → ∃ u, exec (.jr t (iGa w)) s = .next u ∧ stops .malformed u) ∧
    (iOp w = 0x19 → fld (iImm w) 3 0 = 13 → ∃ u, exec (.phase t (iImm w)) s = .next u ∧ stops .malformed u) ∧
    (iOp w = 0x1D → s.train.steps ≠ [] → ∃ u, exec (.sharddef t (iGa w) (iGb w) (iImm w)) s = .next u ∧ stops .stateConflict u)

/-- The shard table and the errors of the sequencer (R110, R112). -/
def Obligations.SequencerShardsAndStops : Prop :=
  Claims.SequencerShards ∧ Claims.SequencerStops

/-- WEAVE_PACKET_DELIVERY and BLOCK_COUNTER_INCREMENT (R65, R85, R89, R132, R248): the oldest packet of a flow leaves the Weave; data, rows
filled up to their distance, and bits reach the destination's tile memory, a signal adds 1 to its block counter, and a fenced tile takes
nothing. Of the tiles only the Weave's counters move beside. -/
def Obligations.WeaveDelivers : Prop :=
  ∀ (s : State) (src : Fin 174) (dst : Fin 128) (vc : Fin 4) (p : WPacket), flowHead s src dst vc = some p →
    let hit (mem : Mem) (bc : Vector (BitVec 32) 32) (u : State) : Prop :=
      u.tile.weave.packets = (s.tile.weave.packets.filter fun q => q.id ≠ p.id) ∧ SameBut [.tile, .free] s u ∧
      ∀ v : Fin 128, ∃ flits stall, getTile u v = { getTile s v with
        mem := if v = dst ∧ !fenced s dst.val then mem else (getTile s v).mem, bc := if v = dst ∧ !fenced s dst.val then bc else (getTile s v).bc,
        counters := { (getTile s v).counters with weaveFlits := flits, weaveStall := stall } }
    let x := getTile s dst
    (∀ a d, p.body = .data a d → ∃ u, exec (.weavePacketDelivery src dst vc) s = .next u ∧ hit (memWrite x.mem a d) x.bc u) ∧
    (∀ a stride rs, p.body = .rows a stride rs →
      ∃ u, exec (.weavePacketDelivery src dst vc) s = .next u ∧ hit (memWrite x.mem a (rs.flatMap (padRow stride))) x.bc u) ∧
    (∀ a k v, p.body = .bit a k v → ∃ u, exec (.weavePacketDelivery src dst vc) s = .next u ∧ hit (writeBit a k v x.mem) x.bc u) ∧
    (∀ i, p.body = .signal i → ∃ u, exec (.blockCounterIncrement src dst vc) s = .next u ∧ hit x.mem (x.bc.set i (x.bc[i] + 1)) u)

/-- The weight path of an array (R79, R80, R83, R98): the loader reads a pass's next row, row 127 first; loading starts with the first row
of a pass while the chain is free; and a complete block becomes active when its pass may start, under the setting of prediction that
holds then. -/
def Sys2Proof.Claims.WeightsLoad : Prop :=
  ∀ (s : State) (t : Fin 128) (p : ArrPass),
    let x := getTile s t
    let a := x.arr
    let on (a : ArrayUnit) : State := updTile t (fun x => { x with arr := a }) s
    (∀ k, loadingPass a = some (p, k) → a.rowq.length < 16 →
      let r := weightRow x.mem p.desc (127 - k)
      exec (.feederVectorReady t true) s =
        .next (on { a with rowq := a.rowq ++ [{ pass := p.id, codes := r.1, poison := r.2 }] })) ∧
    (∀ r rs, a.chain.pass = none → a.rowq = r :: rs → (a.queue.find? fun q => q.id == r.pass) = some p →
      exec (.weightLoadStart t) s = .next (on { a with
        chain := { pass := some p.id, rows := 0, block := { a.chain.block with load := p.desc, nonfinite := false, poison := false } } })) ∧
    (a.chain.rows = 128 → (a.queue.find? fun q => some q.id == a.chain.pass) = some p → mayStart x p = true →
      let heed := predictionOn (zbAllows s) x p a.chain.block
      ∃ u, exec (.waleFrontStart t) s = .next u ∧ (getTile u t).arr.active = a.chain.block ∧
        (getTile u t).arr.chain = { pass := none, rows := 0, block := a.chain.block } ∧
        (p.predict ≠ some (!heed) → (getTile u t).arr.feed = a.feed ∧
          (getTile u t).arr.queue = mapIf (fun q => q.id == p.id) (fun q => { q with started := true, predict := some heed }) a.queue) ∧
        (p.predict = some (!heed) → (getTile u t).arr.feed = (a.feed.filter fun f => f.pass != p.id) ∧
          (getTile u t).arr.queue = mapIf (fun q => q.id == p.id)
            (fun q => { q with started := true, predict := some heed, nextVec := 0, fed := false }) a.queue) ∧
        (getTile u t).arr.acc = a.acc ∧ (getTile u t).arr.flights = a.flights ∧
        (getTile u t).mem = x.mem ∧ (∀ v, v ≠ t → getTile u v = getTile s v) ∧ SameBut [.tile] s u)

/-- The feeder takes a pass's next vector when its queue has room and the vector's block is to be fed (R83, R92). -/
def Sys2Proof.Claims.FeederTakesVector : Prop :=
  ∀ (s : State) (t : Fin 128) (p : ArrPass) (on : Bool),
    let x := getTile s t
    (x.arr.queue.find? fun q => !q.fed) = some p → p.predict = some on → p.nextVec < pdLen p.desc →
    (x.arr.feed.filter fun f => f.count == 0).length < 16 →
    feedChoice x p.desc on p.nextVec = .feed →
    ∃ u, exec (.feederVectorReady t false) s = .next u ∧
      let e := readVector x.mem p.desc p.nextVec
      (getTile u t).arr.feed = x.arr.feed ++ [{ pass := p.id, vec := p.nextVec, elems := e.1, count := 0, late := false, poison := e.2 }] ∧
      ((getTile u t).arr.queue.find? fun q => q.id == p.id).map (fun q => q.nextVec) = some (p.nextVec + 1) ∧
      (getTile u t).arr.acc = x.arr.acc ∧ (getTile u t).arr.flights = x.arr.flights ∧ (getTile u t).mem = x.mem ∧
      (∀ v, v ≠ t → getTile u v = getTile s v) ∧ SameBut [.tile] s u

/-- Weights and vectors come into the array (R79, R80, R83). -/
def Obligations.ArrayLoads : Prop :=
  Claims.WeightsLoad ∧ Claims.FeederTakesVector

/-- ARRAY_BEAT (R68, R72, R83, R84): while nothing stalls the array, the vector at the head of the feeder's queue enters with the products
of the active weights, and the vectors in the array advance by a beat; the vector that has come to the end reaches its accumulator. -/
def Obligations.ArrayBeatAdvances : Prop :=
  ∀ (s : State) (t : Fin 128) (p : ArrPass),
    let x := getTile s t
    let a := x.arr
    let older := a.flights.map fun g => { g with age := g.age + 1 }
    (∀ f fs, startKept (zbAllows s) x = x → a.feed = f :: fs → f.count = 0 → f.poison = false → enteringPass a = some p → f.pass = p.id →
      a.active.poison = false → a.chain.pass = none → drainStops x = false → (∀ g ∈ a.flights, g.age < 254) →
      exec (.arrayBeat t) s = .next (updTile t (fun x => { x with
        arr := { a with
          feed := fs, outq := drainQueueFor (pdBeat p.desc) a.outq,
          flights := older ++ [{ pass := p.id, vec := f.vec, age := 0, result := arrayProduct p.desc a.active f.elems, count := 0, poison := false }],
          queue := mapIf (fun q => q.id == p.id) (fun q => { q with entered := q.entered + 1 }) a.queue,
          counters := { a.counters with active := addSat a.counters.active (pdBeat p.desc), vectors := addSat a.counters.vectors 1 } } }) s)) ∧
    (∀ g, (a.queue.find? fun q => q.id == g.pass) = some p → a.queue.all (fun q => q.started) = true → a.flights = [g] → g.age = 254 →
      g.count = 0 → enteringPass a = none → a.chain.pass = none → drainStops x = false →
      ∃ u, exec (.arrayBeat t) s = .next u ∧ (getTile u t).arr.flights = [] ∧
        (getTile u t).arr.acc = a.acc.set (accIndex p.desc g.vec) (accumulate p.desc (pdAdd p.desc) a.acc[accIndex p.desc g.vec] g.result).1 ∧
        (getTile u t).arr.queue = a.queue ∧ (getTile u t).mem = x.mem ∧ (∀ v, v ≠ t → getTile u v = getTile s v) ∧ SameBut [.tile] s u)

/-- DRAIN_BLOCK_RELEASE, ARRAY_PASS_COMPLETE and ZB_REPLAY (R78, R84, R85, R93, R94). A block of a release pass leaves the accumulators when
it is complete and verified and the output queue has room; a pass whose vectors have all come through leaves the queue; the blocks that
prediction skipped wrongly are replayed into the accumulators, and the group then has none left. -/
def Obligations.ArrayBlocksAndPasses : Prop :=
  ∀ (s : State) (t : Fin 128),
    let x := getTile s t
    let a := x.arr
    (∀ g d, (a.groups.find? fun g => g.closed && !g.released) = some g → releaseDesc a g = some d → blockReady x g d = true →
      a.outq.length + blockLen (pdLen d) g.nextBlock ≤ 16 →
      exec (.drainBlockRelease t) s = .next (updArr t (fun a => { a with
        groups := mapIf (fun h => h.id == g.id) (fun h =>
          { h with nextBlock := h.nextBlock + 1, released := decide (pdLen d ≤ 16 * (h.nextBlock + 1)) }) a.groups })
        (releaseBlock t d (releaseStep a g) g.nextBlock g.corr s))) ∧
    (∀ p ps, a.queue = p :: ps → p.started = true → allEntered a p = true → (a.flights.any fun f => f.pass == p.id) = false → a.poison = false →
      ∃ u, exec (.arrayPassComplete t) s = .next u ∧ (getTile u t).arr.queue = ps ∧ (getTile u t).arr.acc = a.acc ∧
        (getTile u t).run = x.run ∧ (getTile u t).mem = x.mem ∧ (∀ v, v ≠ t → getTile u v = getTile s v) ∧ SameBut [.tile] s u) ∧
    (∀ g, (a.groups.find? fun g => g.closed && !g.released && !(openBlocks x g).isEmpty) = some g →
      (a.queue.any fun p => p.group == g.id && !(allEntered a p && !(a.flights.any fun f => f.pass == p.id))) = false → skipsKnown x g = true →
      ∃ u, exec (.zbReplay t) s = .next u ∧
        (getTile u t).arr.acc = (g.passes.foldl (fun r p =>
          replayPass x (openBlocks x g) (p.pass == (g.passes.head?.map fun p => p.pass).getD 0) p r) (a, s.free)).1.acc ∧
        (∀ h ∈ (getTile u t).arr.groups, h.id = g.id → h.skips = []) ∧
        (getTile u t).mem = x.mem ∧ (∀ v, v ≠ t → getTile u v = getTile s v) ∧ SameBut [.tile, .free] s u)

/-- TILE_RUN (R105, R106, R358): once admitted, the command is in flight, its program stands last in the queue of every tile of its mask,
and it completes when each of them has stopped. -/
def Sys2Proof.Claims.TileRunQueues : Prop :=
  ∀ (s : State) (q : Fin 64) (c : Slot), reachesHead s q 0x10 c = true → tileRunCheck q c s = (s, .accept) →
    ∃ u, exec (.tileRun q c) s = .next u ∧ Entered q c [] s u ∧
      (∀ t : Fin 128, getTile u t = { getTile s t with
        progs := (getTile s t).progs ++ if (runMask c.pay).testBit t.val then
          [{ cmd := s.host.nextCmd, slot := c, step := slotStep s c, redo := false }] else [] }) ∧
      u.tile.cmds = s.tile.cmds ++ [{ cmd := s.host.nextCmd, left := tilesOf (runMask c.pay), failed := none }] ∧
      SameBut [.host, .clk, .tile] s u

/-- TILE_PROGRAM_START and EARLY_REDO (R18, R36, R106, R108): a program starts at ENTRY under its command's phase tag with g1 to g31 at 0
and an empty instruction buffer; the tile's other registers, its memory and its units keep what they hold. A re-execution comes first. -/
def Sys2Proof.Claims.TileProgramsStart : Prop :=
  ∀ (s : State) (t : Fin 128), (getTile s t).run = none →
    let x := getTile s t
    let begun (p : Prog) (u : State) : Prop :=
      (∃ r, (getTile u t).run = some r ∧ r.prog = p ∧ r.pc = runEntry p.slot.pay ∧ r.phase = slotPhase p.slot ∧ r.stopping = none ∧
        r.wait = .none ∧ getTile u t = { x with run := some r, g := .replicate 32 0, ibuf := [] }) ∧
      ∀ v, v ≠ t → getTile u v = getTile s v
    (∀ p ps k, x.progs = p :: ps → findCmd s p.cmd = some k → (k.started || mayBegin s p.slot p.step) = true → redoFor s t = none →
      ∃ u, exec (.tileProgramStart t) s = .next u ∧ begun p u ∧ (∀ d ∈ u.host.cmds, d.id = p.cmd → d.started = true) ∧
        SameBut [.host, .train, .tile] s u) ∧
    (∀ p e, redoFor s t = some (p, e) →
      ∃ u, exec (.earlyRedo t) s = .next u ∧ begun { cmd := e.cmd, slot := e.slot, step := some p.num, redo := true } u ∧
        u.train.earlyRedo = (if e.counted then s.train.earlyRedo else addSat s.train.earlyRedo 1) ∧ SameBut [.train, .tile] s u)

/-- Tile programs are queued and start (R105, R106, R108). -/
def Obligations.TileProgramsRun : Prop :=
  Claims.TileRunQueues ∧ Claims.TileProgramsStart

/-- TILE_PROGRAM_STOP (R107, R110, R359): when a program has ended and every unit of its tile is idle, the tile is free. With the last tile
of its command the command completes; until then it stays in flight. -/
def Obligations.TileProgramsStop : Prop :=
  ∀ (s : State) (t : Fin 128) (r : Run) (st : Status), (getTile s t).run = some r → r.stopping = some st → unitsIdle s t = true →
    r.prog.redo = false → fine st = true →
    let left (u : State) : Prop := (getTile u t).run = none ∧ (getTile u t).progs = (getTile s t).progs.tail ∧
      (getTile u t).mem = (getTile s t).mem ∧ (getTile u t).bc = (getTile s t).bc ∧ (getTile u t).shards = (getTile s t).shards ∧
      (getTile u t).vec = (getTile s t).vec ∧ ∀ v, v ≠ t → getTile u v = getTile s v
    ((∀ c ∈ s.tile.cmds, c.cmd = r.prog.cmd → (c.left.filter fun v => v ≠ t) ≠ []) →
      ∃ u, exec (.tileProgramStop t) s = .next u ∧ left u ∧
        u.tile.cmds = mapIf (fun c => c.cmd == r.prog.cmd) (fun c => { c with left := c.left.filter fun v => v ≠ t }) s.tile.cmds ∧
        SameBut [.tile] s u) ∧
    (∀ k, s.tile.cmds = [{ cmd := r.prog.cmd, left := [t], failed := none }] → findCmd s r.prog.cmd = some k →
      ∃ u, exec (.tileProgramStop t) s = .next u ∧ left u ∧ u.tile.cmds = [] ∧ Completes k .ok 0 s u ∧ SameBut [.host, .tile] s u)

/-- The vector engine (R120, R122, R126, R129): a loop starts with its address registers at BASE and STRIDE; a bundle with an arithmetic
slot alone issues and its result is on the way to its register; and a loop that has made its iterations leaves the engine. -/
def Obligations.VectorLoopsRun : Prop :=
  ∀ (s : State) (t : Fin 128) (l : VLoopRun) (ls : List VLoopRun), (getTile s t).vec.queue = l :: ls →
    let x := getTile s t
    let alone (u : State) : Prop := (getTile u t).mem = x.mem ∧ (getTile u t).g = x.g ∧ (getTile u t).bc = x.bc ∧ (getTile u t).run = x.run ∧
      (getTile u t).arr = x.arr ∧ (∀ v, v ≠ t → getTile u v = getTile s v) ∧ SameBut [.tile, .free] s u
    (l.started = false →
      ∃ u, exec (.vectorLoopStart t) s = .next u ∧ alone u ∧ (getTile u t).vec.queue = { l with started := true } :: ls ∧
        (∀ k : Fin 8, (getTile u t).vec.a[k] = {
            base := BitVec.ofNat 25 (fld l.desc (64 * k.val + 280) (64 * k.val + 256)),
            stride := BitVec.ofNat 24 (fld l.desc (64 * k.val + 311) (64 * k.val + 288)) }) ∧
        (getTile u t).vec.v = x.vec.v ∧ (getTile u t).vec.m = x.vec.m) ∧
    (∀ b, l.started = true → l.body[l.bundle]? = some b → l.iter < vdIter l.desc → bit b 72 = false → bit b 100 = false →
      feedsRed l b = false → vbOp b ≠ 0 → isCompare (vbOp b) = false →
      ∃ u, exec (.vectorBundleIssue t) s = .next u ∧ alone u ∧
        let v := settle x.vec.cycle x.vec
        let w := fmtWidth (vbFmt b)
        let sr (e : Nat) : Round := tensorRound s.num.srSeed 0 (fld l.desc 111 96) ((fld l.desc 159 128 + l.convs * (2048 / w) + e) % 2 ^ 32) l.step
        let y := packElems w (arith v b (Config.freeNat s.free) sr).elems
        (getTile u t).vec.pend = v.pend ++ [.vec (v.cycle + if isTrans (vbOp b) then opCycles (vbOp b) (vbFmt b) - 1 + 8 else 4) (fin (fld b 12 8)) y.2 y.1] ∧
        (getTile u t).vec.cycle = v.cycle + opCycles (vbOp b) (vbFmt b) ∧ (getTile u t).vec.v = v.v ∧ (getTile u t).vec.a = v.a ∧
        (getTile u t).counters.vecBundles = addSat x.counters.vecBundles 1) ∧
    (l.started = true → vdIter l.desc ≤ l.iter →
      ∃ u, exec (.vectorLoopEnd t) s = .next u ∧ alone u ∧ (getTile u t).vec.queue = ls ∧ (getTile u t).vec.q = x.vec.q ∧
        (getTile u t).counters = x.counters)

/-- The tile mover (R114, R115, R116): the next request of the first descriptor with rows left is outstanding with its source's data, and a
request whose destination is the tile's own memory writes them there and ends. -/
def Sys2Proof.Claims.MoverMoves : Prop :=
  ∀ (s : State) (t : Fin 128) (r : MoveRun),
    let x := getTile s t
    (issuing x.mover = some r → x.mover.reqs.length < 32 → (∀ f ∈ x.mover.fetches, reqEnded s f.req = none) → mdSrcSpace r.desc = 0 →
      r.ahead = false →
      ∃ u, exec (.moverRequestIssue t) s = .next u ∧
        let n := moveLen r.desc r.row r.off
        (getTile u t).mover.reqs = x.mover.reqs ++ [{
          move := r.id, row := r.row, off := r.off, len := n,
          phase := .have_ (memRead x.mem (moveSrc r.desc r.row r.off) n) }] ∧
        (getTile u t).mem = x.mem ∧ (∀ v, v ≠ t → getTile u v = getTile s v) ∧ SameBut [.tile] s u) ∧
    (∀ idx q data, x.mover.reqs[idx]? = some q → q.phase = .have_ data → (x.mover.queue.find? fun r => r.id == q.move) = some r →
      mdDstSpace r.desc = 0 →
      ∃ u, exec (.moverRequestDone t idx) s = .next u ∧ (getTile u t).mem = memWrite x.mem (moveDst r.desc q.row q.off) data ∧
        (getTile u t).mover.reqs = dropIdx x.mover.reqs idx ∧
        (getTile u t).counters = { x.counters with moveBytes := addSat x.counters.moveBytes q.len } ∧
        (getTile u t).g = x.g ∧ (getTile u t).run = x.run.map (ownStores [(moveDst r.desc q.row q.off, q.len)]) ∧
        (getTile u t).arr = x.arr ∧ (getTile u t).vec = x.vec ∧
        (∀ v, v ≠ t → getTile u v = getTile s v) ∧ SameBut [.tile] s u)

/-- TMEM_WRITEBACK (R103, R173, R206): a single-bit error is corrected and leaves the data; a double-bit error poisons the word. Both are
counted, for a tile's memory and for a row store (that the row's event is the row stores' too is the model's choice, log entry 136). -/
def Sys2Proof.Claims.TileMemoryErrors : Prop :=
  ∀ (s : State) (word : Nat),
    (∀ t : Fin 128, 64 * word < tmemSize → fenced s t.val = false →
      exec (.tmemWriteback (fin t.val) word false) s = .next (updTile t (fun x => { x with
        counters := { x.counters with tmemCe := addSat x.counters.tmemCe 1 } }) s) ∧
      exec (.tmemWriteback (fin t.val) word true) s = .next (updTile t (fun x => { x with
        mem := { x.mem with poison := setAdd x.mem.poison word }, counters := { x.counters with tmemUe := addSat x.counters.tmemUe 1 } }) s)) ∧
    (∀ e : Fin 16, 64 * word < 0x4000000 →
      exec (.tmemWriteback (fin (128 + e.val)) word false) s = .next (engCount e (fun k => { k with rstoreCe := addSat k.rstoreCe 1 }) s) ∧
      exec (.tmemWriteback (fin (128 + e.val)) word true) s = .next (engCount e (fun k => { k with rstoreUe := addSat k.rstoreUe 1 })
        { s with mem := { s.mem with rowStore := updAt s.mem.rowStore e fun x => { x with poison := setAdd x.poison word } } }))

/-- The tile mover, and errors of tile memory and row stores (R103, R115, R173). -/
def Obligations.MoverAndTileMemory : Prop :=
  Claims.MoverMoves ∧ Claims.TileMemoryErrors

/-- TABLE_SET, OPTIM_SET and DELTA_MAP (R177, R178, R219, R235): TABLE_SET makes a new current version, of the next number, keeps the one
before as the retiring version and completes with the number as DETAIL; the other two bind an optimiser and a key plane. No other table
changes. -/
def Sys2Proof.Claims.TablesSet : Prop :=
  ∀ (s : State) (q : Fin 64) (c : Slot), mayBegin s c (slotStep s c) = true →
    (reachesHead s q 0x20 c = true → tableSetCheck c s = .accept →
      let d := setDesc c
      let v := match findTable s (tdId d) with | some t => t.cur.version + 1 | none => 1
      ∃ u, exec (.tableSet q c) s = .next u ∧ AtOnce q c [] v s u ∧
        (∃ t, findTable u (tdId d) = some t ∧ t.cur = { desc := setFld d 399 368 v, version := v } ∧
          t.prev = (findTable s (tdId d)).map (fun t => t.cur) ∧ t.stale = false ∧ t.keyDva = none ∧
          t.optim = ((findTable s (tdId d)).bind fun t => t.optim)) ∧
        (∀ i, i ≠ tdId d → findTable u i = findTable s i) ∧ u.rows.engines = s.rows.engines ∧ u.rows.batches = s.rows.batches ∧
        StartedNow q c [] s u ∧ SameBut [.host, .clk, .rows, .train] s u) ∧
    (Passes optimSetRule.check 0x2A q c [] s s →
      ∃ u, exec (.optimSet q c) s = .next u ∧ AtOnce q c [] 0 s u ∧
        u.rows = { s.rows with tables := mapIf (fun t => t.id == tdId (setDesc c)) (fun t => { t with optim := some (setDesc c) }) s.rows.tables } ∧
        StartedNow q c [] s u ∧ SameBut [.host, .clk, .rows, .train] s u) ∧
    (Passes deltaMapRule.check 0x2C q c [] s s →
      ∃ u, exec (.deltaMap q c) s = .next u ∧ AtOnce q c [] 0 s u ∧
        u.rows = { s.rows with tables := mapIf (fun t => t.id == fld c.pay 11 0) (fun t => { t with keyDva := some (fld c.pay 111 64) }) s.rows.tables } ∧
        StartedNow q c [] s u ∧ SameBut [.host, .clk, .rows, .train] s u)

/-- GATHER, PRESCAN, EMBER_REFRESH, SCATTER, ROW_OPTIMISE and EXPORT at their admission (R178, R188, R196, R201, R212, R222, R240): each
stands in the queue of its unit; PRESCAN takes the other generation and frees its staging. -/
def Sys2Proof.Claims.RowCommandsQueue : Prop :=
  ∀ (s s' : State) (q : Fin 64) (c : Slot) (info : List Nat),
    let e := gEngine c.pay
    let n := s'.host.nextCmd
    let alone (u : State) : Prop := Entered q c info s' u ∧ u.rows.tables = s'.rows.tables ∧ (∀ f, f ≠ e → getEng u f = getEng s' f)
    (Passes gatherCheck 0x21 q c info s s' → ∀ t, findTable s' (gTable c.pay) = some t →
      ∃ u g, exec (.gather q c) s = .next u ∧ alone u ∧ (getEng u e).queue = (getEng s' e).queue ++ [.gather g] ∧
        g.cmd = n ∧ g.slot = c ∧ g.step = slotStep s' c ∧ g.p0 = info.getD 0 0 ∧ g.p1 = info.getD 1 0 ∧ g.next = 0 ∧ g.stop = none ∧
        g.desc = checkedVersion s' t (slotStep s' c) (fld c.pay 95 64) ∧ SameBut [.host, .clk, .rows] s' u) ∧
    (Passes prescanCheck 0x22 q c info s s' → ∀ t, findTable s' (gTable c.pay) = some t →
      ∃ u r, exec (.prescan q c) s = .next u ∧ alone u ∧ (getEng u e).prescans.getLast? = some r ∧
        (getEng u e).prescans.length = (getEng s' e).prescans.length + 1 ∧ r.cmd = n ∧ r.table = t.cur ∧ r.gen = !(getEng s' e).lastGen ∧
        (getEng u e).lastGen = !(getEng s' e).lastGen ∧ (∀ a ∈ (getEng u e).allocs, a.gen = (getEng s' e).lastGen) ∧
        u.mem = { s'.mem with rowStore := updAt s'.mem.rowStore e (clearTags 0x3000000 0x3100000 fun t => bit t 46 == !(getEng s' e).lastGen) } ∧
        SameBut [.host, .clk, .rows, .mem] s' u) ∧
    (Passes refreshCheck 0x23 q c info s s' →
      ∃ u r, exec (.emberRefresh q c) s = .next u ∧ alone u ∧ (getEng u e).queue = (getEng s' e).queue ++ [.refresh r] ∧
        r.cmd = n ∧ r.slot = c ∧ r.next = 0 ∧ r.installs = [] ∧ r.failed = none ∧ SameBut [.host, .clk, .rows] s' u) ∧
    (Passes scatterCheck 0x28 q c info s s' → ∀ t m, findTable s' (gTable c.pay) = some t → slotStep s' c = some m →
      ∃ u r x, exec (.scatter q c) s = .next u ∧ alone u ∧ engStep u e m = some x ∧ x.scatters.getLast? = some r ∧ r.cmd = n ∧
        r.seq = ((engStep s' e m).map fun x => x.nextSeq).getD 0 ∧ x.nextSeq = r.seq + 1 ∧ r.p0 = info.getD 0 0 ∧ r.p1 = info.getD 1 0 ∧
        r.next = 0 ∧ gTable c.pay ∈ x.tables ∧ SameBut [.host, .clk, .rows] s' u) ∧
    (Passes rowOptimiseRule.check 0x2B q c info s s' → ∀ m, slotStep s' c = some m →
      ∃ u, exec (.rowOptimise q c) s = .next u ∧ Entered q c info s' u ∧
        u.rows = { s'.rows with
          optimises := s'.rows.optimises ++ [{ cmd := n, step := m, mask := BitVec.ofNat 16 (fld c.pay 15 0), found := false }] } ∧
        SameBut [.host, .clk, .rows] s' u) ∧
    (Passes exportRule.check 0x30 q c info s s' →
      ∃ u x, exec (.exportCmd q c) s = .next u ∧ Entered q c info s' u ∧ u.rows = { s'.rows with exports := s'.rows.exports ++ [x] } ∧
        x.cmd = n ∧ x.slot = c ∧ x.written = false ∧
        x.table = (if fld c.pay 1 0 = 1 then none else (findTable s' (fld c.pay 27 16)).map fun t => t.cur) ∧ SameBut [.host, .clk, .rows] s' u)

/-- MERGE of one engine (R29, R30, R214): once its step lets it begin, the engine is sealed for the step; an engine without a key of the step
has merged at once and the command completes. Until then it is in flight and nothing is sealed. -/
def Sys2Proof.Claims.MergesSeal : Prop :=
  ∀ (s : State) (q : Fin 64) (c : Slot) (e : Fin 16) (n : BitVec 64), Passes mergeRule.check 0x29 q c [] s s → maskEngines c.pay = [e] →
    slotStep s c = some n → s.rows.merges = [] →
    (mayBegin s c (some n) = false → ∃ u, exec (.merge q c) s = .next u ∧ Entered q c [] s u ∧ SameBut [.host, .clk] s u) ∧
    (∀ x, mayBegin s c (some n) = true → engStep s e n = some x → x.keys ≠ [] → x.merged = false →
      ∃ u, exec (.merge q c) s = .next u ∧ u.host = (useTurn q (startCmd s.host.nextCmd (enterCmd [] q c s).1)).host ∧
        u.rows.merges = [{ cmd := s.host.nextCmd, step := n, left := [e], failed := none }] ∧
        engStep u e n = some { x with sealed := true } ∧ (∀ f, f ≠ e → getEng u f = getEng s f) ∧ StartedNow q c [] s u ∧
        SameBut [.host, .clk, .rows, .train] s u) ∧
    (mayBegin s c (some n) = true → engStep s e n = none →
      ∃ u, exec (.merge q c) s = .next u ∧ AtOnce q c [] 0 s u ∧ u.rows.merges = [] ∧
        (engStep u e n).map (fun x => (x.sealed, x.merged, x.entries)) = some (true, true, []) ∧
        (∀ f, f ≠ e → getEng u f = getEng s f) ∧ StartedNow q c [] s u ∧ SameBut [.host, .clk, .rows, .train] s u)

/-- VERSION_RETIRE (R179): once no batch uses the retiring version, it is gone and its ember and staging tags are invalid. -/
def Sys2Proof.Claims.VersionsRetire : Prop :=
  ∀ (s : State) (id : Fin 4096) (t : Table) (p : TabVer), findTable s id.val = some t → t.prev = some p → batchesOn s id.val p.version = 0 →
    let mine (x : BitVec 64) : Bool := fld x 43 32 == id.val && b2n (bit x 44) == p.version % 2
    exec (.versionRetire id) s = .next { s with
      mem := { s.mem with rowStore := s.mem.rowStore.map fun m => clearTags 0x3000000 0x3100000 mine (clearTags 0 (64 * s.rows.obj.emberSets) mine m) },
      rows := { s.rows with tables := mapIf (fun t => t.id == id.val) (fun t => { t with prev := none }) s.rows.tables } }

/-- Tables and the commands of the row engines at their admission (R177 to R179, R188, R214). -/
def Obligations.TablesAndRowCommands : Prop :=
  Claims.TablesSet ∧ Claims.RowCommandsQueue ∧ Claims.MergesSeal ∧ Claims.VersionsRetire

/-- BAG_DISPATCH, PROBE and WAIT_LIST_RELEASE (R182, R184, R189, R191, R193, R195, R277): a bag takes a free thread with its range; a probe
that hits ember or staging brings its record; a waiting request is issued when the limits allow, and sees the memory once it is among the
64 of its channel. -/
def Obligations.BagsRun : Prop :=
  ∀ (s s' : State) (e : Fin 16) (g : GatherRun) (c : Fin 4) (i : Fin 16),
    let p := g.slot.pay
    (∀ a b f x, nextGather (getEng s e).queue = some g → pickThread (getEng s e) = some (c, i) → bagMayStart s g = true →
      (gToTile p && fenced s (gOutTile p).val) = false → bagRange e g (startCmd g.cmd s) = (s', .ok (a, b, f, x)) →
      ∃ u t, exec (.bagDispatch e) s = .next u ∧ (getCore u e c).threads[i] = some t ∧ t.cmd = g.cmd ∧ t.bag = g.next ∧ t.first = a ∧ t.last = b ∧
        t.fail = f ∧ t.noRange = x ∧ t.acc = List.replicate (tdDim g.desc.desc) 0 ∧ t.rows = [] ∧
        findGather (getEng u e) g.cmd = (findGather (getEng s' e) g.cmd).map (fun g => { g with next := g.next + 1 }) ∧
        (∀ d, d ≠ c → getCore u e d = getCore s' e d) ∧ (∀ f, f ≠ e → getEng u f = getEng s' f) ∧ SameBut [.rows] s' u) ∧
    (∀ t tv row staging set way w,
      let s1 := updEng e (fun g => { g with cores := updAt g.cores c (settleStage g.nextReady), nextReady := g.nextReady + 1 }) s
      let k := getCore s1 e c
      let m := s'.mem.rowStore[e]
      let d := memRead m (if staging then stagingData (tagUnit (tagAt m set way)) else emberData (tagUnit (tagAt m set way))) (recSize tv.desc)
      k.stage = some i → k.threads[i] = some t → k.shadow = none → t.retry = [] → findGather (getEng s1 e) t.cmd = some g →
      probePart e g t t.next s1 = (s', .hit tv row staging set way, w) → poisoned d = false → (getCore s' e c).threads[i] = some t →
      ∃ u t', exec (.probe e c) s = .next u ∧ (getCore u e c).threads[i] = some t' ∧
        t'.next = (if !t.next.2 && gDelta p then (t.next.1, true) else (t.next.1 + 1, false)) ∧ t'.acc = t.acc ∧
        (∃ r, t'.rows = t.rows ++ [r] ∧ r.pos = t.next.1 ∧ r.delta = t.next.2 ∧ r.record = d ∧ r.weight = w ∧ r.missing = 0 ∧ r.order.isSome = true) ∧
        (getEng u e).counters.emberHits = (if staging then (getEng s' e).counters.emberHits else addSat (getEng s' e).counters.emberHits 1) ∧
        (getEng u e).counters.deltaRows = addSat (getEng s' e).counters.deltaRows (b2n t.next.2) ∧
        (∀ f, f ≠ e → getEng u f = getEng s' f) ∧ SameBut [.rows, .mem] s' u) ∧
    (∀ r, leavable (getCore s e c) = some r → unissued (getCore s e c) = [] → r.entry.tier = 1 → accessFails s .cmd r.entry.pa r.len false = none →
      meetsRecord s r.entry.pa r.len = false → (∀ x ∈ channelEntries s r.entry.pa, x.taken = true) →
      (∀ x ∈ s.mem.stackCtl.queue, x.id ≠ s.mem.nextId) →
      let room := decide ((channelEntries s r.entry.pa).length < 64)
      ∃ u, exec (.waitListRelease e c) s = .next u ∧ (getCore u e c).waits = dropFirst (fun x => x == r) (getCore s e c).waits ∧
        (getCore u e c).slots = (getCore s e c).slots ++ [{ r with req := some s.mem.nextId }] ∧ (getCore u e c).threads = (getCore s e c).threads ∧
        u.mem.stackCtl.queue = s.mem.stackCtl.queue ++
          [{ id := s.mem.nextId, pa := r.entry.pa, len := r.len, write := false, part := false, arrived := s.now,
             taken := room, data := if room then memRead s.mem.t1 r.entry.pa r.len else [] }] ∧
        u.mem.t1 = s.mem.t1 ∧ (∀ f, f ≠ e → getEng u f = getEng s f) ∧ SameBut [.rows, .mem] s u)

/-- ROW_PIECE_ARRIVE, POOL_PIECE and BAG_OUTPUT_WRITE (R184 to R186, R192, R203): a piece that arrives completes its row, or a row that was
updated between its pieces is read again; the pool unit takes a
piece in a cycle, and the last piece adds the row to its bag; a complete bag is written, and its thread is free once the write has taken
effect. -/
def Obligations.RowsArriveAndPool : Prop :=
  ∀ (s : State) (e : Fin 16) (c : Fin 4) (i : Fin 16),
    (∀ idx r id st d t x g, (getCore s e c).slots[idx]? = some r → r.req = some id → reqEnded s id = some (st, d) → fine st = true →
      poisoned d = false → rowOwner (getCore s e c) r.row = some (i, t, x) → findGather (getEng s e) t.cmd = some g →
      x.again = false → x.bucket = none →
      ∃ u, exec (.rowPieceArrive e c idx) s = .next u ∧ findReq u id = none ∧ (getCore u e c).slots = dropIdx (getCore s e c).slots idx ∧
        (getCore u e c).threads[i] = some { t with
          rows := mapIf (fun y => y.id == x.id) (fun _ => { x with
            record := putData x.record r.off d, missing := x.missing - 1,
            order := if x.missing ≤ 1 then some (getEng s e).nextOrder else x.order }) t.rows } ∧
        (∀ j : Fin 16, j ≠ i → (getCore u e c).threads[j] = (getCore s e c).threads[j]) ∧
        (getEng u e).counters.deltaRows = addSat (getEng s e).counters.deltaRows (b2n (x.delta && x.missing == 1)) ∧
        (∀ f, f ≠ e → getEng u f = getEng s f) ∧ SameBut [.rows, .mem] s u) ∧
    (∀ idx r id st d t x g, (getCore s e c).slots[idx]? = some r → r.req = some id → reqEnded s id = some (st, d) → fine st = true →
      poisoned d = false → rowOwner (getCore s e c) r.row = some (i, t, x) → findGather (getEng s e) t.cmd = some g →
      x.again = true → x.missing = 1 →
      let ps := rowPieces (x.record.length / 256 + 2) x.dva 0 x.record.length
      (putData x.record r.off d).length = x.record.length →
      ∃ u, exec (.rowPieceArrive e c idx) s = .next u ∧
        (getCore u e c).threads[i] = some { t with
          rows := mapIf (fun y => y.id == x.id) (fun _ => { x with
            record := putData x.record r.off d, missing := ps.length, toIssue := ps, again := false }) t.rows } ∧
        (getEng u e).counters.deltaRows = (getEng s e).counters.deltaRows ∧
        (∀ f, f ≠ e → getEng u f = getEng s f) ∧ SameBut [.rows, .mem] s u) ∧
    (∀ t r g, poolChoice (getEng s e) = some (c, i, t, r) → findGather (getEng s e) t.cmd = some g →
      ∃ u, exec (.poolPiece e) s = .next u ∧ (getEng u e).counters.poolBusy = addSat (getEng s e).counters.poolBusy 1 ∧
        ((r.taken + 1) * 256 < r.record.length →
          (getCore u e c).threads[i] = (getCore s e c).threads[i].map fun t => { t with
            rows := mapIf (fun x => x.id == r.id) (fun x => { x with taken := x.taken + 1 }) t.rows }) ∧
        (r.record.length ≤ (r.taken + 1) * 256 →
          (getEng u e).counters.rowsPooled = addSat (getEng s e).counters.rowsPooled 1 ∧
          (getCore u e c).threads[i] = (getCore s e c).threads[i].map fun t =>
            unpark (getEng s e).nextReady (absorbZeros 2048 g (takePart g r (rowValue r.desc (dataBytes r.record) (Config.freeNat s.free)) t))) ∧
        (∀ f, f ≠ e → getEng u f = getEng s f) ∧ SameBut [.rows, .free] s u) ∧
    (∀ t g, (getCore s e c).threads[i] = some t → findGather (getEng s e) t.cmd = some g → t.written = true →
      (t.packets.any fun id => s.tile.weave.packets.any fun w => w.id == id) = false → g.next < (gatherLists g.slot.pay).count → g.stop = none →
      gSignal g.slot.pay = false →
      ∃ u, exec (.bagOutputWrite e c i) s = .next u ∧ (getCore u e c).threads[i] = none ∧
        (findGather (getEng u e) t.cmd).map (fun g => (g.ended, g.next)) = some (g.ended + 1, g.next) ∧
        (getEng u e).counters.gatherBags = addSat (getEng s e).counters.gatherBags 1 ∧
        (∀ f, f ≠ e → getEng u f = getEng s f) ∧ SameBut [.rows] s u) ∧
    (∀ t g, (getCore s e c).threads[i] = some t → findGather (getEng s e) t.cmd = some g → t.written = false → t.fail = none → t.last ≤ t.pool.1 →
      gToTile g.slot.pay = true → fenced s (gOutTile g.slot.pay).val = false → gPool g.slot.pay = 1 →
      let v := outBytes (gOutType g.slot.pay) t.acc
      ∃ u t', exec (.bagOutputWrite e c i) s = .next u ∧ (getCore u e c).threads[i] = some t' ∧ t'.written = true ∧
        t'.packets = [s.tile.weave.nextId] ∧
        (∃ w, u.tile.weave.packets = s.tile.weave.packets ++ [w] ∧ w.id = s.tile.weave.nextId ∧ w.dst = gOutTile g.slot.pay ∧
          w.body = .data (gOutAddr g.slot.pay + t.bag * gStride g.slot.pay) (clean v.1)) ∧
        (getEng u e).counters.rowSat = addSat (getEng s e).counters.rowSat v.2 ∧
        (∀ f, f ≠ e → getEng u f = getEng s f) ∧ SameBut [.rows, .tile] s u)

/-- PRESCAN_POSITION and PRESCAN_ROW_ARRIVE (R200 to R202): a row that ember or staging holds is passed over, another is fetched into a free
run of units; a row that has come is installed under the pre-scan's generation. -/
def Sys2Proof.Claims.PrescansFetch : Prop :=
  ∀ (s s' : State) (e : Fin 16) (r : PreRun) (rest : List PreRun), (getEng s e).prescans = r :: rest →
    let l := prescanLists r.slot.pay
    let m := s'.mem.rowStore[e]
    let id := tdId r.table.desc
    (∀ a b d, r.stop = false → (r.fetches.map fun f => f.reqs.length).sum < 64 → mayBegin s r.slot r.step = true → r.range = some (a, b) →
      a + 1 < b → r.bag < l.count → afterRefresh (getEng s e) r.cmd = false →
      aheadReads (whoEngine e) r.cmd r.xorder [((l.index + 4 * a) % 2 ^ 48, 4)] (startCmd r.cmd s) = (s', .done [d]) →
      (getEng s' e).prescans = r :: rest →
      let row := leNat (dataBytes d)
      let held := (findWay m (emberSet s' id row) id row r.table.version).isSome || (findWay m (stagingSet id row) id row r.table.version).isSome
      row < tdRows r.table.desc →
      (held = true → ∃ u, exec (.prescanPosition e) s = .next u ∧ (getEng u e).prescans = { r with range := some (a + 1, b) } :: rest ∧
        (getEng u e).allocs = (getEng s' e).allocs ∧ SameBut [.rows] s' u) ∧
      (held = false → preBad e (recAddr r.table.desc row) (recSize r.table.desc) s' = false →
        ∀ s'' qs, preReqs e row (recAddr r.table.desc row) (recSize r.table.desc) r.xorder s' = (s'', some qs) →
        ∀ n, allocUnits (getEng s'' e) (ceilDiv (recSize r.table.desc) 64) = some n →
        ∃ u r', exec (.prescanPosition e) s = .next u ∧ (getEng u e).prescans = r' :: rest ∧ r'.range = some (a + 1, b) ∧
          r'.fetches.map (fun f => (f.row, f.unit)) = r.fetches.map (fun f => (f.row, f.unit)) ++ [(row, n)] ∧
          (getEng u e).allocs = (getEng s'' e).allocs ++ [{ unit := n, n := ceilDiv (recSize r.table.desc) 64, gen := r.gen }])) ∧
    (∀ f x q d w, r.fetches = [f] → f.reqs = [x] → x.req = some q → reqEnded s q = some (.ok, d) → poisoned d = false → f.again = false →
      f.dropped = false → r.stop = false → r.bag < l.count →
      let set := stagingSet id f.row
      ((List.range 4).find? fun w => !tagValid (tagAt s.mem.rowStore[e] set w)) = some w →
      ∃ u, exec (.prescanRowArrive e 0) s = .next u ∧ (getEng u e).prescans = { r with fetches := [] } :: rest ∧ findReq u q = none ∧
        u.mem.rowStore[e] = setTag set w (BitVec.ofNat 128 (f.row + id * 2 ^ 32 + r.table.version % 2 * 2 ^ 44 + 2 ^ 45 + b2n r.gen * 2 ^ 46 +
          f.unit * 2 ^ 64)) (memWrite s.mem.rowStore[e] (stagingData f.unit) (putData f.record x.off d)) ∧
        (getEng u e).counters.prescanRows = addSat (getEng s e).counters.prescanRows 1 ∧
        (∀ f, f ≠ e → getEng u f = getEng s f) ∧ SameBut [.rows, .mem] s u)

/-- EMBER_ENTRY_APPLY and EMBER_INSTALL_DONE (R48, R196, R197): an install is queued and invalidates its way's old tag, a removal clears a
matching tag, and an installed row stands under its tag in the ember region. A row that was updated meanwhile is read again, and while rows
are being applied a refresh waits. -/
def Sys2Proof.Claims.EmberRefreshes : Prop :=
  ∀ (s s' : State) (e : Fin 16) (r : RefreshRun) (rest : List EngineCmd) (d : Data), (getEng s' e).queue = .refresh r :: rest → poisoned d = false →
    (runningRefresh s e = some r → r.next < fld r.slot.pay 63 32 → r.installs.length < 64 →
      ioReadOne .cmd (whoEngine e) (opKey kEntry r.cmd) ((fld r.slot.pay 111 64 + 16 * r.next) % 2 ^ 48) 16 (startCmd r.cmd s) = (s', .done [d]) →
      let x := BitVec.ofNat 128 (leNat (dataBytes d))
      let row := fld x 47 16
      entryFails s' x = none → ∀ t, findTable s' (fld x 15 4) = some t →
      let set := emberSet s' t.id row
      (r.installs.any fun i => emberSet s' i.table i.row == emberSet s' (fld x 15 4) row) = false →
      let tag := tagAt s'.mem.rowStore[e] set (fld x 3 2)
      let i : Install :=
        { entry := r.next, table := t.id, row := row, way := fld x 3 2, unit := fld x 67 48, version := t.cur.version,
          dva := recAddr t.cur.desc row, len := recSize t.cur.desc, again := false }
      let s1 := if tagValid tag then updStore e (setTag set (fld x 3 2) (setFld tag 45 45 0)) s' else s'
      (fld x 1 0 = 1 → ∃ u, exec (.emberEntryApply e) s = .next u ∧
        (getEng u e).queue = .refresh { r with next := r.next + 1, installs := r.installs ++ [i] } :: rest ∧
        SameBut [.rows] (installRead e i (updRefresh e (fun r => { r with installs := r.installs ++ [i] }) s1)).1 u) ∧
      (fld x 1 0 = 0 → r.next + 1 < fld r.slot.pay 63 32 → ∃ u, exec (.emberEntryApply e) s = .next u ∧
        (getEng u e).queue = .refresh { r with next := r.next + 1 } :: rest ∧
        u.mem.rowStore[e] = (if tagHits tag t.id row t.cur.version then setTag set (fld x 3 2) (setFld tag 45 45 0) s'.mem.rowStore[e]
          else s'.mem.rowStore[e]) ∧
        SameBut [.rows, .mem] s' u)) ∧
    (rowsApply s = true → exec (.emberEntryApply e) s = .next s ∧ exec (.emberInstallDone e) s = .next s) ∧
    (∀ i js, runningRefresh s e = some r → r.installs = i :: js → inBatch s i.table i.row = false → i.again = true →
      installRead e i s = (s', .done [d]) →
      ∃ u, exec (.emberInstallDone e) s = .next u ∧ (getEng u e).queue = .refresh { r with installs := { i with again := false } :: js } :: rest ∧
        (getEng u e).counters = (getEng s' e).counters ∧ u.mem.rowStore = s'.mem.rowStore) ∧
    (∀ i js, runningRefresh s e = some r → r.installs = i :: js → inBatch s i.table i.row = false → i.again = false →
      installRead e i s = (s', .done [d]) → r.next < fld r.slot.pay 63 32 ∨ js ≠ [] →
      ∃ u, exec (.emberInstallDone e) s = .next u ∧ (getEng u e).queue = .refresh { r with installs := js } :: rest ∧
        u.mem.rowStore[e] = setTag (emberSet s' i.table i.row) i.way
          (BitVec.ofNat 128 (i.row + i.table * 2 ^ 32 + i.version % 2 * 2 ^ 44 + 2 ^ 45 + i.unit * 2 ^ 64))
          (memWrite s'.mem.rowStore[e] (emberData i.unit) d) ∧
        (getEng u e).counters.emberInstalls = addSat (getEng s' e).counters.emberInstalls 1 ∧
        (∀ f, f ≠ e → getEng u f = getEng s' f) ∧ SameBut [.rows, .mem] s' u)

/-- The pre-scanner and the ember set (R196, R197, R200 to R202). -/
def Obligations.PrescanAndEmber : Prop :=
  Claims.PrescansFetch ∧ Claims.EmberRefreshes

/-- SCATTER_KEYS_WRITTEN (R211, R213): the keys of a scatter of one bag take their places in the key area, are written and counted, and the
command completes. -/
def Sys2Proof.Claims.KeysWritten : Prop :=
  ∀ (s s1 s2 : State) (e : Fin 16) (n : BitVec 64) (r : ScatterRun) (ks : List (BitVec 256)) (missing upTo : Nat) (b : BagKeyList) (k : Cmd),
    let mine (s : State) : Option ScatterRun := (engStep s e n).bind fun x => x.scatters.find? fun y => y.cmd == r.cmd
    let s3 := placeKeys e n r.cmd ks missing upTo s1
    nextScatter s e = some (n, r) → (scatterLists r.slot.pay).count = 1 → r.next = 0 → r.stop = none → r.failed = none → r.ready = none →
    mine (startCmd r.cmd s) = some r → scatterBag e r (startCmd r.cmd s) = (s1, .ok ks missing upTo) → mine s1 = some r →
    (mine s3).bind (fun r => r.ready) = some b → writeKeys e n r.cmd b s3 = (s2, true) →
    mine s2 = some { r with next := 1, pos := upTo } → findCmd s2 r.cmd = some k →
    ∃ u, exec (.scatterKeysWritten e) s = .next u ∧ Completes k .ok 0 s2 u ∧ b.keys.map (fun k => k.word) = ks ∧
      (engStep u e n).map (fun x => (x.keys, x.entries)) = (engStep s3 e n).map (fun x => (x.keys ++ b.keys, x.entries)) ∧
      mine u = none ∧
      (getEng u e).counters.scatterMissing = addSat (getEng s3 e).counters.scatterMissing missing ∧
      (getEng u e).counters.scatterKeys = addSat (getEng s3 e).counters.scatterKeys ks.length ∧
      (∀ f, f ≠ e → getEng u f = getEng s2 f) ∧ SameBut [.rows, .host] s2 u

/-- MERGE_COMPLETE (R215 to R217): a run of one key makes one log entry with the weighted gradient, which is written to the update log, and
the sum of squares of the merged values. -/
def Sys2Proof.Claims.KeysMerged : Prop :=
  ∀ (s s1 s2 : State) (e : Fin 16) (n : BitVec 64) (x y : EngineStep) (k : SortKey) (t : TabVer) (key : Nat) (db dk dg : Data) (z : LogEntry),
    let s3 := formEntries e n [([(k, dataBytes dg)], dataBytes db)] s1
    ((getEng s e).steps.find? fun x => x.sealed && !x.merged && x.scatters.isEmpty) = some x → x.step = n → x.keys = [k] → x.formed = none →
    ioMany .cmd (whoEngine e) (opKey kMerge (2 * n.toNat)) (runReads s n [k]) s = (s1, .done [db, dk, dg]) →
    poisoned db = false → poisoned dk = false → poisoned dg = false → stepTable s1 n (fld k.word 43 32) = some (t, key) →
    tdDelta t.desc = false → t.version < 2 ^ 32 → engStep s1 e n = some x → engStep s3 e n = some y → y.entries = [z] →
    (∃ ds, ioMany .cmd (whoEngine e) (opKey kMerge (2 * n.toNat + 1)) [ioWrite z.dva (entryData z)] s3 = (s2, .done ds)) →
    engStep s2 e n = some y → s2.rows.merges = [] →
    let g := (List.range (tdDim t.desc)).map fun i =>
      fadd 0 (fmul (BitVec.ofNat 32 (fld k.word 191 160)) (gradElem (fld k.word 60 59) (dataBytes dg) i))
    ∃ u, exec (.mergeComplete e) s = .next u ∧
      engStep u e n = some { x with
        merged := true, formed := some false, entries := [{ z with unwritten := false }], norm := g.foldl (fun acc v => ffma v v acc) 0,
        nonfinite := g.any nonFinite32 } ∧
      leRow z = fld k.word 31 0 ∧ leTable z = fld k.word 43 32 ∧ leStep z = n.toNat ∧ leNew z = false ∧ leValues z = false ∧
      z.body = g.flatMap (fun v => bytesOf 4 v) ∧
      (getEng u e).counters.mergedRows = addSat (getEng s2 e).counters.mergedRows 1 ∧
      (∀ f, f ≠ e → getEng u f = getEng s2 f) ∧ SameBut [.rows] s2 u

/-- ROW_OPTIMISE_START (R222): the entries of the named engines are optimised and the command completes, with OK_NO_OP if there was none. -/
def Sys2Proof.Claims.RowsOptimised : Prop :=
  ∀ (s s1 s2 : State) (n : BitVec 64) (o : OptCmd) (p : Step) (k : Cmd), (s.rows.optimises.find? fun o => o.step == n) = some o →
    findStep s n = some p → findCmd s o.cmd = some k → mayBegin s k.slot k.step = true → p.decision.isSome = true →
    p.state = .decidedCommit → earlierOpen s n = false →
    s1 = { startCmd o.cmd s with rows := { s.rows with
      optimises := mapIf (fun x => x.cmd == o.cmd) (fun x => { x with found := o.found || (nextToOptimise s n o.mask).isSome }) s.rows.optimises } } →
    optimiseAll (entryCount s1 n + 1) n o.mask (stepClip p) s1 = (s2, none) → findCmd s2 o.cmd = some { k with started := true } →
    ∃ u, exec (.rowOptimiseStart n) s = .next u ∧
      Completes k (if o.found || (nextToOptimise s n o.mask).isSome then .ok else .okNoOp) 0 s2 u ∧
      (∀ x ∈ u.rows.optimises, x.cmd ≠ o.cmd) ∧ u.rows.engines = s2.rows.engines ∧ SameBut [.rows, .host] s2 u

/-- How one entry is optimised (R158, R221, R222): its body becomes the new record, residual row and state row, under the clip factor of the
decision. -/
def Sys2Proof.Claims.EntriesOptimised : Prop :=
  ∀ (s s1 : State) (e : Fin 16) (clip : BitVec 32) (before : List LogEntry) (x : LogEntry) (d0 dr ds dt : Data),
    let d := x.table.desc
    leNew x = false →
    resSize d ≠ 0 → stateSize (optimOf s (leTable x)) d ≠ 0 → dr.length = recSize d → ds.length = resSize d →
    ioMany .cmd (whoEngine e) (entryKey x 0) (ioRead x.dva (32 + x.body.length) :: (rowPlanes s x).map fun p => ioRead p.1 p.2) s = (s1, .done [d0, dr, ds, dt]) →
    poisoned d0 = false → poisoned dr = false → poisoned ds = false → poisoned dt = false →
    ∃ u y, optimiseEntry e clip before x s = (u, .ok y) ∧
      (let r := newRow { s1 with free := s1.free + 1 } x clip (dataBytes dr) (dataBytes ds) (dataBytes dt) (Config.freeNat s1.free)
       y.body = r.record ++ r.res ++ r.state ∧ (getEng u e).counters.rowSat = addSat (getEng s1 e).counters.rowSat r.sat) ∧
      leValues y = true ∧ leClip y = clip ∧ leRow y = leRow x ∧ leTable y = leTable x ∧ leStep y = leStep x ∧ y.dva = x.dva ∧
      y.unwritten = true ∧ SameBut [.rows, .free] s1 u

/-- Keys, merged entries and optimised entries (R213, R215, R217, R221, R222). -/
def Obligations.EntriesMade : Prop :=
  Claims.KeysWritten ∧ Claims.KeysMerged ∧ Claims.RowsOptimised ∧ Claims.EntriesOptimised

/-- The drain `n` of the one entry `x` on engine `e` reads its windows and its entry, which leads to `s1`; the row's new values make the entry
`y`; and its row is written, which leads to `s2` (R221, R229). -/
def Sys2Proof.Claims.DrainsRow (s s1 s2 : State) (e : Fin 16) (n : Nat) (x y : LogEntry) : Prop :=
  ∃ ds es,
    let d : Drain := { n := n, entries := [x], windows := drainWindows s e [x], read := false }
    let ops := (d.windows.map fun w => (ioRead w.1 w.2).one) ++ [ioRead x.dva (32 + x.body.length)]
    let m := (d.windows.zip ds).foldl (fun m w => memWrite m w.1.1 w.2) Mem.empty
    let o := optimiseRow e (leClip x) [] x ((rowPlanes s1 x).flatMap fun p => dataBytes (memRead m p.1 p.2)) s1
    let s3 := updDrain e n (fun d => { d with entries := [y], read := true }) o.1
    ioMany .cmd (whoEngine e) (drainKey n 0) ops (updEng e (fun g => { g with drains := g.drains ++ [d] }) s) = (s1, .done ds) ∧
    ds.any poisoned = false ∧ o.2 = y ∧ ioMany .cmd (whoEngine e) (drainKey n 1) (rowWrites s3 y) s3 = (s2, .done es)

/-- ROW_APPLY_ENTRY, DEFER_DRAIN_BATCH and DEFER_FORWARD (R224, R225, R229, R231): the next entry is applied, after it has been optimised and
written to its log where it lacks VALUES; a deferred entry is optimised and applied and leaves its log, in a drain or ahead of it when a
probe wants its row. -/
def Obligations.EntriesApplied : Prop :=
  ∀ (s s1 s2 s3 : State) (e : Fin 16),
    (∀ p x before y z, applyingStep s = some p → engStep s e p.num = some x → entryAt x x.applied = some (before, y) →
      leValues y = true → y.unwritten = false → applyNewRow e before.head? y s = (s1, .ok z) → (engStep s1 e p.num).isSome = true →
      ∃ u, exec (.rowApplyEntry e) s = .next u ∧
        (engStep u e p.num).map (fun x => x.applied) = (engStep s1 e p.num).map (fun x => x.applied + 1) ∧
        (engStep u e p.num).map (fun x => x.entries) = (engStep s1 e p.num).map (fun x => x.entries) ∧
        (getEng u e).counters.updateRows = addSat (getEng s1 e).counters.updateRows 1 ∧
        (∀ f, f ≠ e → getEng u f = getEng s1 f) ∧ SameBut [.rows] s1 u) ∧
    (∀ p x before y z v w, applyingStep s = some p → engStep s e p.num = some x → entryAt x x.applied = some (before, y) →
      leValues y = false → optimiseEntry e (stepClip p) before y s = (s1, .ok z) →
      storeEntry e z (setEntry e p.num x.applied z s1) = (s2, .ok v) →
      applyNewRow e before.head? v (setEntry e p.num x.applied v s2) = (s3, .ok w) → (engStep s3 e p.num).isSome = true →
      ∃ u, exec (.rowApplyEntry e) s = .next u ∧
        (engStep u e p.num).map (fun x => x.applied) = (engStep s3 e p.num).map (fun x => x.applied + 1) ∧
        (engStep u e p.num).map (fun x => x.entries) = (engStep s3 e p.num).map (fun x => x.entries) ∧
        (getEng u e).counters.updateRows = addSat (getEng s3 e).counters.updateRows 1 ∧ SameBut [.rows] s3 u) ∧
    (∀ x y, drains s = true → (getEng s e).deferred = [x] → (getEng s e).drains = [] → 0 < s.rows.obj.deferBatch.toNat →
      mayTake s e x = true → Claims.DrainsRow s s1 s2 e 0 x y →
      ∃ u, exec (.deferDrainBatch e) s = .next u ∧ (getEng u e).deferred = [] ∧ (getEng u e).drains = [] ∧
        (getEng u e).counters.deferApplied = addSat (getEng s2 e).counters.deferApplied 1 ∧
        u.mem = (rowWritten e none y s2).mem ∧ SameBut [.rows, .mem] s2 u) ∧
    (∀ (table : Fin 4096) (row : Nat) x y, drains s = true → (∃ f, (table.val, row) ∈ (getEng s f).forwards) → (getEng s e).deferred = [x] →
      (getEng s e).drains = [] → leTable x = table.val → leRow x = row → mayTake s e x = true →
      Claims.DrainsRow s s1 s2 e (1 + 2 * (table.val + 4096 * row)) x y → (∀ f, f ≠ e → (getEng s2 f).deferred = []) →
      ∃ u, exec (.deferForward e table row) s = .next u ∧ (getEng u e).deferred = [] ∧ (∀ f, (table.val, row) ∉ (getEng u f).forwards) ∧
        u.mem = (rowWritten e none y s2).mem ∧ SameBut [.rows, .mem] s2 u)

/-- EXPORT_CAPTURE and EXPORT_COMMIT (R241, R242): the payload and then its header are written, without VALID; the commit sets VALID and the
command completes. -/
def Sys2Proof.Claims.RecordsExported : Prop :=
  ∀ (s s1 s2 : State) (x : ExportRun) (k : Cmd),
    (∀ d, (s.rows.exports.find? fun y => y.cmd == k.id && !y.written) = some x → (x.step.map (earlierOpen s)).getD false = false →
      mayBegin s x.slot x.step = true → x.table = none → x.data = none →
      memRead (getTile s (fin (fld x.slot.pay 102 96))).mem (liveCopy (shardOf s (fld x.slot.pay 102 96) (fld x.slot.pay 109 104)))
        (xBytes x.slot.pay) = d →
      poisoned d = false →
      let dest := fld x.slot.pay 303 256
      let s0 := updExport k.id (fun y => { y with data := some d }) (startCmd k.id s)
      (∃ ds, ioMany .cmd whoFront (exportKey k.id 1) [ioWrite ((dest + 128) % 2 ^ 48) d, ioWrite dest (clean (exportHeader s0 x (dataBytes d)))]
        s0 = (s1, .done ds)) →
      ∃ u, exec (.exportCapture k.id) s = .next u ∧
        u.rows = { s1.rows with exports := mapIf (fun y => y.cmd == k.id) (fun y => { y with written := true }) s1.rows.exports } ∧
        SameBut [.rows] s1 u) ∧
    (∀ t ds, (s.rows.exports.find? fun y => y.cmd == k.id && !y.written) = some x → (x.step.map (earlierOpen s)).getD false = false →
      mayBegin s x.slot x.step = true → x.table = some t → x.data = none →
      ((List.finRange 16).any fun e => (getEng s e).deferred.any fun y => leTable y == tdId t.desc) = false →
      ioMany .cmd whoFront (exportKey k.id 0) (exportReads (startCmd k.id s) x) (startCmd k.id s) = (s1, .done ds) → ds.any poisoned = false →
      let dest := fld x.slot.pay 303 256
      let s0 := updExport k.id (fun y => { y with data := some ds.flatten }) s1
      (∃ es, ioMany .cmd whoFront (exportKey k.id 1) [ioWrite ((dest + 128) % 2 ^ 48) ds.flatten,
        ioWrite dest (clean (exportHeader s0 x (dataBytes ds.flatten)))] s0 = (s2, .done es)) →
      ∃ u, exec (.exportCapture k.id) s = .next u ∧
        u.rows = { s2.rows with exports := mapIf (fun y => y.cmd == k.id) (fun y => { y with written := true }) s2.rows.exports } ∧
        SameBut [.rows] s2 u) ∧
    ((s.rows.exports.find? fun y => y.cmd == k.id && y.written) = some x →
      (∃ ds, ioMany .cmd whoFront (exportKey k.id 2) [ioWrite ((fld x.slot.pay 303 256 + 100) % 2 ^ 48) [(1, false)]] s = (s1, .done ds)) → findCmd s1 k.id = some k →
      ∃ u, exec (.exportCommit k.id) s = .next u ∧ Completes k .ok 0 s1 u ∧ (∀ y ∈ u.rows.exports, y.cmd ≠ k.id) ∧ SameBut [.rows, .host] s1 u)

/-- IMPORT of a dense record (R243): the payload goes into the live copy; SET_STEP sets LAST_COMMITTED_STEP and CLEAR ends the import that a
torn step made due. -/
def Sys2Proof.Claims.RecordsImported : Prop :=
  ∀ (s s' : State) (q : Fin 64) (c : Slot) (info : List Nat), Passes importCheck 0x31 q c info s s' → fld c.pay 1 0 = 1 →
    mayBegin s' c (slotStep s' c) = true →
    let t : Fin 128 := fin (fld c.pay 38 32)
    let bs := info.map fun x => BitVec.ofNat 8 x
    ∃ u, exec (.importCmd q c) s = .next u ∧ AtOnce q c info 0 s' u ∧
      (∀ v, getTile u v = if v = t then { getTile s' v with
        mem := memWrite (getTile s' v).mem (liveCopy (shardOf s' (fld c.pay 38 32) (fld c.pay 45 40))) (clean (bs.drop 128)) } else getTile s' v) ∧
      u.train.lastCommitted = (if bit c.pay 2 then BitVec.ofNat 64 (hdrF (bs.take 128) 127 64) else s'.train.lastCommitted) ∧
      u.rows.obj.restoreRequired = (s'.rows.obj.restoreRequired && !bit c.pay 3) ∧ u.train.steps = s'.train.steps ∧
      SameBut [.host, .clk, .tile, .train, .rows] s' u

/-- Export and import of records (R240 to R243). -/
def Obligations.RecordsMove : Prop :=
  Claims.RecordsExported ∧ Claims.RecordsImported

/-- SLOT_SET and SLOT_EXTEND (R252 to R254, R258): a slot is set or freed; an extension changes PAGES and, if asked, the global list, keeps
LENGTH and the marks, and ends a stall whose page it supplies within 10 us. -/
def Sys2Proof.Claims.HistorySlotsSet : Prop :=
  ∀ (s : State) (q : Fin 64) (c : Slot), mayBegin s c (slotStep s c) = true →
    (Passes slotSetRule.check 0x38 q c [] s s →
      let d := BitVec.ofNat 512 c.pay.toNat
      ∃ u, exec (.slotSet q c) s = .next u ∧ AtOnce q c [] 0 s u ∧
        (∀ i : Fin 256, getSlot u i = if i.val ≠ fld d 7 0 then getSlot s i else if bit d 8 then none
          else some { desc := d, length := hdInit d, stall := none, mark0 := none, mark1 := none, kept := [] }) ∧
        u.hist.cmds = s.hist.cmds ∧ u.hist.fwd = s.hist.fwd ∧ u.hist.counters = s.hist.counters ∧ StartedNow q c [] s u ∧
        SameBut [.host, .clk, .hist, .train] s u) ∧
    (∀ x, Passes slotExtendRule.check 0x39 q c [] s s → getSlot s (fin (fld c.pay 7 0)) = some x →
      ∃ u y, exec (.slotExtend q c) s = .next u ∧ AtOnce q c [] 0 s u ∧ getSlot u (fin (fld c.pay 7 0)) = some y ∧
        hdPages y.desc = fld c.pay 18 8 ∧ (bit c.pay 19 = true → hdGcount y.desc = fld c.pay 26 20 ∧ hdGlist y.desc = fld c.pay 111 64) ∧
        (bit c.pay 19 = false → hdGcount y.desc = hdGcount x.desc ∧ hdGlist y.desc = hdGlist x.desc) ∧
        hdType y.desc = hdType x.desc ∧ hdPlist y.desc = hdPlist x.desc ∧ y.length = x.length ∧ y.mark0 = x.mark0 ∧ y.mark1 = x.mark1 ∧
        (∀ a t, (appendsOn s (fin (fld c.pay 7 0))).head? = some a → x.stall = some t →
          y.stall = if groupPage a < fld c.pay 18 8 ∧ s.now ≤ t + 10000 then none else some t) ∧ (x.stall = none → y.stall = none) ∧
        (∀ i : Fin 256, i ≠ fin (fld c.pay 7 0) → getSlot u i = getSlot s i) ∧ u.hist.cmds = s.hist.cmds ∧ StartedNow q c [] s u ∧
        SameBut [.host, .clk, .hist, .train] s u)

/-- HIST_APPEND and HIST_WALK at their admission (R256, R262, R263, R271): an append takes the positions from TAIL, and the first append of
a step moves the marks; a walk binds TAIL. -/
def Sys2Proof.Claims.HistoryCommandsQueue : Prop :=
  ∀ (s : State) (q : Fin 64) (c : Slot) (x : HistSlot),
    let i : Fin 256 := fin (fld c.pay 7 0)
    getSlot s i = some x →
    (Passes histAppendCheck 0x3A q c [] s s →
      ∃ u, exec (.histAppend q c) s = .next u ∧ Entered q c [] s u ∧
        u.hist.cmds = s.hist.cmds ++ [.append {
          cmd := s.host.nextCmd, cmdStep := slotStep s c, slot := i, pay := c, first := slotTail s i, done := 0, group := 0, todo := [],
          stop := none } false] ∧
        slotTail u i = slotTail s i + haCount c ∧
        getSlot u i = some (match slotStep s c with
          | none => x
          | some n => if marked x n = true then x else { x with mark0 := x.mark1, mark1 := some { step := n, tail := slotTail s i } }) ∧
        (∀ j, j ≠ i → getSlot u j = getSlot s j) ∧ SameBut [.host, .clk, .hist] s u) ∧
    (Passes histWalkCheck 0x3B q c [] s s →
      ∃ u, exec (.histWalk q c) s = .next u ∧ Entered q c [] s u ∧
        u.hist = { s.hist with cmds := s.hist.cmds ++ [.walk {
          cmd := s.host.nextCmd, cmdStep := slotStep s c, slot := i, pay := c, desc := x.desc, bound := slotTail s i, read := false,
          deliver := [], todo := [], waits := false, cap := none, signalled := 0, stop := none } false] } ∧
        SameBut [.host, .clk, .hist] s u)

/-- Sequence slots and the history commands at their admission (R252 to R256, R262, R263, R271). -/
def Obligations.HistorySlots : Prop :=
  Claims.HistorySlotsSet ∧ Claims.HistoryCommandsQueue

/-- APPEND_GROUP_START, APPEND_GROUP_DONE and STALL_EXPIRY (R257 to R259): a group whose data are there and whose page is supplied is issued;
one that needs a page that is not supplied stalls the slot; a group that is written makes LENGTH go on; a stall of 10 us ends the append
with LENGTH_RANGE, and with it a walk that waits for a position that it would have written. -/
def Obligations.AppendsRun : Prop :=
  ∀ (s : State) (i : Fin 256) (x : HistSlot) (a : AppendRun) (k : Cmd), getSlot s i = some x → (appendsOn s i).head? = some a → a.cmd = k.id →
    let p := a.pay.pay
    let n := min 16 (haCount a.pay - a.done)
    let ready := fld p 40 37 = 0 ∨ fld p 95 64 + (a.done / 16 + 1) * fld p 40 37 ≤ (bcOf s (fin (fld p 30 24)) (fin (fld p 36 32))).toNat
    (a.stop = none → a.group = 0 → mayRun s a.cmd = true → mayBegin s a.pay a.cmdStep = true → ready → groupPage a < hdPages x.desc →
      x.stall = none →
      ∃ u, exec (.appendGroupStart i) s = .next u ∧ getSlot u i = some x ∧
        (appendsOn u i).head? = some { a with
          group := n
          todo := (cutRuns (mostRows (hdRow x.desc)) a.done ((List.range n).map fun j => a.first + a.done + j)).flatMap fun r =>
            perHead (List.range (hdHeads x.desc)) fun h v => .rows h v r.1 r.2.1 r.2.2 } ∧
        (∀ j, j ≠ i → getSlot u j = getSlot s j) ∧ u.hist.fwd = s.hist.fwd ∧ SameBut [.hist] (startCmd a.cmd s) u) ∧
    (a.stop = none → a.group = 0 → mayRun s a.cmd = true → mayBegin s a.pay a.cmdStep = true → ready → hdPages x.desc ≤ groupPage a →
      x.stall = none →
      ∃ u, exec (.appendGroupStart i) s = .next u ∧ getSlot u i = some { x with stall := some s.now } ∧
        u.hist.counters = { s.hist.counters with stalls := addSat s.hist.counters.stalls 1 } ∧ SameBut [.hist] (startCmd a.cmd s) u) ∧
    (a.stop = none → x.stall ≠ none → exec (.appendGroupStart i) s = .next s) ∧
    (a.stop = none → a.group ≠ 0 → a.todo = [] → outstanding s a.cmd = false → a.done + a.group < haCount a.pay →
      ∃ u, exec (.appendGroupDone i) s = .next u ∧ getSlot u i = some { x with length := x.length + a.group } ∧
        (appendsOn u i).head? = some { a with done := a.done + a.group, group := 0 } ∧ (∀ j, j ≠ i → getSlot u j = getSlot s j) ∧
        SameBut [.hist] s u) ∧
    (a.stop = none → a.group ≠ 0 → a.todo = [] → outstanding s a.cmd = false → haCount a.pay ≤ a.done + a.group → findCmd s k.id = some k →
      ∃ u, exec (.appendGroupDone i) s = .next u ∧ getSlot u i = some { x with length := x.length + a.group } ∧
        (∀ b ∈ appendsOn u i, b.cmd ≠ k.id) ∧ Completes k .ok 0 s u ∧ SameBut [.hist, .host] s u) ∧
    (∀ t, x.stall = some t → t + 10000 ≤ s.now → appendsOn s i = [a] → findCmd s k.id = some k → k.step = none → slotOpcode k.slot = 0x3A →
      let after (u : State) : Prop := getSlot u i = some { x with stall := none } ∧ appendsOn u i = [] ∧
        u.hist.counters = { s.hist.counters with stallFails := addSat s.hist.counters.stallFails 1 } ∧ SameBut [.hist, .host] s u
      (walksOn s i = [] → ∃ u, exec (.stallExpiry i) s = .next u ∧ after u ∧ Completes k .lengthRange a.done s u) ∧
      (∀ w kw, walksOn s i = [w] → w.read = true → w.stop = none → w.todo ≠ [] →
        (w.todo.any (issuable (min x.length (min (w.cap.getD (a.first + a.done)) (a.first + a.done))))) = false → outstanding s w.cmd = false →
        findCmd s w.cmd = some kw → kw.id = w.cmd → kw.step = none → w.cmd ≠ k.id → slotOpcode kw.slot = 0x3B →
        ∃ v u, exec (.stallExpiry i) s = .next u ∧ after u ∧ walksOn u i = [] ∧ Completes k .lengthRange a.done s v ∧
          Completes kw .lengthRange w.signalled v u))

/-- WALK_LIST_READ and WALK_POSITION_WAIT_END (R251, R260, R263): a walk delivers its global positions and its local range, and goes on once
a position that it waits for is there. -/
def Sys2Proof.Claims.WalksRun : Prop :=
  ∀ (s s1 : State) (w : WalkRun), findWalk s w.cmd = some w → w.stop = none →
    let p := w.pay.pay
    let r := localRange p w.desc w.bound
    let local_ := (List.range (r.2 - r.1)).map fun i => r.1 + i
    (w.read = false → mayRun s w.cmd = true → mayBegin s w.pay w.cmdStep = true → bit p 8 = false ∨ hdGcount w.desc = 0 →
      ∃ u, exec (.walkListRead w.cmd) s = .next u ∧
        findWalk u w.cmd = some { w with read := true, deliver := local_, todo := walkItems w [] local_, waits := false } ∧
        u.hist.slots = s.hist.slots ∧ u.hist.fwd = s.hist.fwd ∧ SameBut [.hist] (startCmd w.cmd s) u) ∧
    (∀ d gs, w.read = false → mayRun s w.cmd = true → mayBegin s w.pay w.cmdStep = true → bit p 8 = true → hdGcount w.desc ≠ 0 →
      ioMany .cmd whoWalker (opKey kCmd w.cmd) [(ioRead (hdGlist w.desc) (4 * hdGcount w.desc)).stack] (updWalk w.cmd id (startCmd w.cmd s)) =
        (s1, .done [d]) →
      poisoned d = false → findWalk s1 w.cmd = some w →
      globalRows ((List.range (hdGcount w.desc)).map fun i => leNat (slice (dataBytes d) (4 * i) 4)) w.bound r.1 = some gs →
      ∃ u, exec (.walkListRead w.cmd) s = .next u ∧
        findWalk u w.cmd = some { w with read := true, deliver := gs ++ local_, todo := walkItems w gs local_, waits := false } ∧
        u.hist.slots = s1.hist.slots ∧ u.hist.fwd = s1.hist.fwd ∧ SameBut [.hist] s1 u) ∧
    (w.read = true → w.waits = true → bit p 9 = false → w.todo.any (issuable (walkLength s w)) = true →
      ∃ u, exec (.walkPositionWaitEnd w.cmd) s = .next u ∧ findWalk u w.cmd = some { w with waits := false } ∧
        u.hist.slots = s.hist.slots ∧ u.hist.fwd = s.hist.fwd ∧ SameBut [.hist] s u)

/-- FORWARDED_REQUEST_ISSUE and FORWARDED_REQUEST_ACK (R247, R248, R264): the walker forwards the next rows of the command whose turn it is,
which stand in the stack once it has room for them, and frees a request when its write has taken effect; the last one completes the
command. -/
def Sys2Proof.Claims.ForwardedRequests : Prop :=
  ∀ (s s1 : State),
    (∀ a h v row pos n rest x e, s.hist.cmds = [.append a true] → s.hist.fwd.length < 256 → a.todo = .rows h v row pos n :: rest →
      getSlot s a.slot = some x →
      let p := a.pay.pay
      let tile : Fin 128 := fin (fld p 30 24)
      let data := (List.range n).flatMap fun i => memRead (getTile s tile).mem (appendRow p v (row + i) h) (hdRow x.desc)
      fenced s tile.val = false → pageRows a.slot a.cmd x.desc true h v pos (updHist (fun h => { h with turn := a.cmd }) s) = (s1, .ok e) →
      s1.hist.cmds = [.append a true] → Unused s1.mem.nextId s1 →
      ∃ u, exec .forwardedRequestIssue s = .next u ∧ u.hist.cmds = [.append { a with todo := rest } true] ∧
        u.hist.fwd.length = s1.hist.fwd.length + 1 ∧
        (∃ f ∈ u.hist.fwd, f.key = s1.mem.nextId ∧ f.cmd = a.cmd ∧ f.row = row ∧ f.dst = none ∧ f.parts = (pieces e.pa data.length).length) ∧
        u.hist.slots = s1.hist.slots ∧ u.hist.counters.requests = addSat s1.hist.counters.requests 1 ∧
        u.hist.counters.bytes = addSat s1.hist.counters.bytes data.length ∧ SameBut [.mem, .tile, .links, .hist, .train, .out, .free] s1 u ∧
        (pieces e.pa data.length = [(e.pa, data.length)] → e.tier = 1 → accessFails s1 .cmd e.pa data.length true = none → ChannelFree e.pa s1 →
          u.mem.t1 = memWrite s1.mem.t1 e.pa data ∧ ∃ f ∈ u.hist.fwd, f.key = s1.mem.nextId ∧ f.state = .over .ok)) ∧
    (∀ w rest, s.hist.cmds = [.walk w true] → s.hist.fwd.length < 256 → w.read = true → w.waits = false → w.stop = none → w.todo = .list :: rest →
      rest.any (issuable (walkLength s w)) = true → bit w.pay.pay 9 = false → fenced s (hwTile w.pay.pay).val = false →
      ∃ u k, exec .forwardedRequestIssue s = .next u ∧ u.hist.cmds = [.walk { w with todo := rest } true] ∧
        u.hist.fwd = s.hist.fwd ++
          [{ key := s.mem.nextId, cmd := w.cmd, row := 0, dst := none, parts := 0, state := .sent s.tile.weave.nextId }] ∧
        u.tile.weave.packets = s.tile.weave.packets ++ [k] ∧ k.id = s.tile.weave.nextId ∧ k.dst = hwTile w.pay.pay ∧
        k.body = .data (fld w.pay.pay 216 192) (clean (positionList w)) ∧ u.tile.tiles = s.tile.tiles ∧
        u.mem = { s.mem with nextId := s.mem.nextId + 1 } ∧ SameBut [.hist, .tile, .mem] s u) ∧
    (∀ idx f, s.hist.fwd[idx]? = some f → fwdEnded s f = some .ok →
      (∀ a r, (s.hist.cmds.find? fun x => wcmdId x == f.cmd) = some (.append a r) → a.stop = none →
        exec (.forwardedRequestAck idx) s = .next { s with hist := { s.hist with fwd := dropIdx s.hist.fwd idx } }) ∧
      (∀ w r k, s.hist.cmds = [.walk w r] → w.cmd = f.cmd → s.hist.fwd = [f] → w.read = true → w.stop = none → w.todo = [] →
        bit w.pay.pay 9 = false → k.id = w.cmd → findCmd s k.id = some k →
        ∃ u, exec (.forwardedRequestAck idx) s = .next u ∧ u.hist.cmds = [] ∧ u.hist.fwd = [] ∧ u.hist.slots = s.hist.slots ∧
          u.hist.counters.walks = addSat s.hist.counters.walks 1 ∧ u.hist.counters.walkPos = addSat s.hist.counters.walkPos w.deliver.length ∧
          Completes k .ok 0 s u ∧ SameBut [.hist, .host] s u))

/-- Walks and the walker's forwarded requests (R248, R251, R260, R263, R264). -/
def Obligations.WalksAndRequests : Prop :=
  Claims.WalksRun ∧ Claims.ForwardedRequests

/-- MEM_REQUEST (R275, R277, R283 to R287): the request that the controller takes next is served; a read returns the data of T1 as they were
when it took its place, a new error of two symbols poisons the word and is logged and delivered; a write, whose data took effect when it was
acknowledged, leaves the queue. -/
def Sys2Proof.Claims.ControllersServe : Prop :=
  ∀ (s : State) (st : Fin 8) (ch : Fin 32) (e : ChanEntry), s.clk.refclk = true → nextRequest s (channelQueue s st ch) = some e →
    (∀ x ∈ s.mem.stackCtl.queue, x.taken = true) →
    let still := s.mem.stackCtl.queue.all fun x => !x.write
    (still = true → foundData s e = memRead s.mem.t1 e.pa e.len) ∧
    (∀ r, e.write = false → findReq s e.id = some r → r.act = none → r.write = false →
      (∃ u, exec (.memRequest st ch []) s = .next u ∧ reqEnded u e.id = some (.ok, foundData s e) ∧ u.mem.t1 = s.mem.t1 ∧
        u.mem.stackCtl.queue = dropFirst (fun y => y == e) s.mem.stackCtl.queue ∧
        u.mem.counters.rdBursts = bump s.mem.counters.rdBursts (stackOf e.pa) (windows e.pa e.len) ∧ u.mem.rowStore = s.mem.rowStore ∧
        u.tile = (crossWeave r.who r.tier r.pa r.len false s).tile ∧ SameBut [.mem, .tile] s u) ∧
      (∀ w, still = true → w ∈ wordsOf e.pa e.len → memPoisoned s.mem.t1 (64 * w) = false →
        ∃ u, exec (.memRequest st ch [.twoSymbols w]) s = .next u ∧ u.mem.t1 = { s.mem.t1 with poison := setAdd s.mem.t1.poison w } ∧
          reqEnded u e.id = some (.ok, memRead u.mem.t1 e.pa e.len) ∧ u.mem.counters.memUe = bump s.mem.counters.memUe (stackOf (64 * w)) 1 ∧
          (∃ x, u.mem.stackCtl.ueLog.getLast? = some x ∧ fld x 47 0 = 64 * w % 2 ^ 48) ∧ SameBut [.mem, .tile] s u)) ∧
    (e.write = true → ∃ u, exec (.memRequest st ch []) s = .next u ∧ u.mem.t1 = s.mem.t1 ∧ u.mem.requests = s.mem.requests ∧
      u.mem.stackCtl.queue = dropFirst (fun y => y == e) s.mem.stackCtl.queue ∧
      u.mem.counters.wrBursts = bump s.mem.counters.wrBursts (stackOf e.pa) (windows e.pa e.len) ∧ SameBut [.mem] s u)

/-- MEM_CE_WRITEBACK, SCRUB_READ and DIE_CE_COLLECT (R276, R282, R283, R286): they change counters, the open pages, the scrubber's position
and the write-backs due, and no data. -/
def Sys2Proof.Claims.ErrorsHandled : Prop :=
  ∀ (s : State) (st : Fin 8), s.clk.refclk = true → Unused s.mem.nextId s →
    let opened (w : Nat) (u : State) : Prop :=
      u.mem.counters.busy = bump s.mem.counters.busy st 8 ∧
      u.mem.counters.activates = (if pageOpen s (64 * w) then s.mem.counters.activates else bump s.mem.counters.activates st 1) ∧
      u.mem.counters.pageHits = bump s.mem.counters.pageHits st (b2n (pageOpen s (64 * w))) ∧
      u.mem.t1 = s.mem.t1 ∧ u.mem.requests = s.mem.requests ∧ u.mem.stackCtl.queue = s.mem.stackCtl.queue ∧
      u.mem.stackCtl.ueLog = s.mem.stackCtl.ueLog ∧ SameBut [.mem] s u
    (∀ w, stackOf (64 * w) = st → (s.mem.stackCtl.writeBacks.any fun x => x.word == w) = true →
      (s.mem.stackCtl.queue.any fun e => stackOf e.pa == stackOf (64 * w) && channelOf e.pa == channelOf (64 * w) && bankOf e.pa == bankOf (64 * w)) = false →
      requestReady s (ownEntry s w true) = true →
      ∃ u, exec (.memCeWriteback st w) s = .next u ∧ opened w u ∧
        u.mem.stackCtl.writeBacks = dropFirst (fun x => x.word == w) s.mem.stackCtl.writeBacks ∧
        u.mem.counters.wrBursts = bump s.mem.counters.wrBursts st 1 ∧ u.mem.stackCtl.scrubPos = s.mem.stackCtl.scrubPos) ∧
    (s.mem.stackCtl.scrubPeriod ≠ 0 → s.mem.stackCtl.scrubPos[st] < 2 ^ 30 →
      let pos := s.mem.stackCtl.scrubPos[st]
      let w := st.val * 2 ^ 30 + pos
      let read (u : State) : Prop := opened w u ∧ u.mem.stackCtl.scrubPos = s.mem.stackCtl.scrubPos.set st ((pos + 1) % 2 ^ 30) ∧
        u.mem.counters.rdBursts = bump s.mem.counters.rdBursts st 1
      requestReady s (ownEntry s w false) = true →
      (∃ u, exec (.scrubRead st none) s = .next u ∧ read u ∧ u.mem.stackCtl.writeBacks = s.mem.stackCtl.writeBacks ∧
        u.mem.counters.memCe = s.mem.counters.memCe) ∧
      (memPoisoned s.mem.t1 (64 * w) = false → ∃ u, exec (.scrubRead st (some (.oneSymbol 0))) s = .next u ∧ read u ∧
        u.mem.stackCtl.writeBacks = s.mem.stackCtl.writeBacks ++ [{ word := w, scrub := true }] ∧
        u.mem.counters.memCe = bump s.mem.counters.memCe st 1 ∧ u.mem.counters.scrubCe = bump s.mem.counters.scrubCe st 1)) ∧
    (∀ counts : List Nat, counts.length = 16 → exec (.dieCeCollect st counts) s = .next { s with mem := { s.mem with
      counters := { s.mem.counters with dieCe := s.mem.counters.dieCe.set st (addSat s.mem.counters.dieCe[st] counts.sum) } } })

/-- The stack controllers (R275, R277, R282 to R287). -/
def Obligations.MemoryServed : Prop :=
  Claims.ControllersServe ∧ Claims.ErrorsHandled

/-- PAGE_WALK_START and PAGE_WALK_DONE (R292 to R296): a walk runs for the requests that miss on a page, with its reads in the channels of T1;
once they have been served, a valid entry is cached and answers the requests, and an invalid one answers with its error. -/
def Sys2Proof.Claims.PageWalks : Prop :=
  ∀ (s : State) (q : Fin 4) (page : Nat),
    let mine (w : XWaiter) : Bool := w.quad == q && w.page == page
    (s.mem.xlate.waiters.any mine = true → (s.mem.xlate.walks.any fun w => w.quad == q && w.page == page) = false →
      (s.mem.xlate.walks.filter fun w => w.quad == q).length < 8 → page < 2 ^ 27 →
      let r := noteWalk page s
      ∃ u, exec (.pageWalkStart q page) s = .next u ∧
        u.mem = { r.1.mem with xlate := { s.mem.xlate with
          walks := s.mem.xlate.walks ++ [{ quad := q, page := page, start := s.now, reads := r.2, stale := false }] } } ∧
        u.mem.stackCtl.queue.length = s.mem.stackCtl.queue.length + r.2.length ∧ SameBut [.mem] r.1 u) ∧
    (∀ w, (s.mem.xlate.walks.find? fun w => w.quad == q && w.page == page) = some w →
      (s.mem.stackCtl.queue.any fun e => w.reads.contains e.id) = true → exec (.pageWalkDone q page) s = .next s) ∧
    (∀ w, (s.mem.xlate.walks.find? fun w => w.quad == q && w.page == page) = some w → w.stale = false →
      (s.mem.stackCtl.queue.any fun e => w.reads.contains e.id) = false → s.mem.posted = [] →
      (∀ e, walkPage s page = .ok e →
        ∃ u, exec (.pageWalkDone q page) s = .next u ∧ (cacheFind u q page).map (fun x => x.entry) = some e ∧
          u.mem.xlate.waiters = (s.mem.xlate.waiters.filter fun w => !mine w) ∧
          u.mem.xlate.results = s.mem.xlate.results ++ (s.mem.xlate.waiters.filter mine).map (fun w =>
            { waiter := w, entry := some e, fails := .ok }) ∧
          u.mem.counters.xlateWalkNs = bump s.mem.counters.xlateWalkNs q (s.now - w.start) ∧ SameBut [.mem] s u) ∧
      (∀ x, walkPage s page = .error x →
        ∃ u, exec (.pageWalkDone q page) s = .next u ∧ u.mem.xlate.caches = s.mem.xlate.caches ∧
          u.mem.xlate.results = s.mem.xlate.results ++ (s.mem.xlate.waiters.filter mine).map (fun w =>
            { waiter := w, entry := none, fails := x }) ∧ SameBut [.mem] s u))

/-- FAR_REQUEST_ISSUE and FAR_REQUEST_DONE (R289, R290): the oldest waiting request takes a slot of its copy engine and goes to the host;
what the host answers ends it. -/
def Sys2Proof.Claims.FarRequests : Prop :=
  ∀ (s : State) (p : Fin 8),
    let k : Fin 16 := fin p.val
    let g := s.host.engines[k]
    (∀ id rest r, hostReachable s = true → g.waiting = id :: rest → g.slots.length < 64 → g.farTurn = true ∨ copyNext s g = none →
      findReq s id = some r → r.write = false →
      ∃ u, exec (.farRequestIssue p) s = .next u ∧ u.out = s.out ++ [.hostRead (farBus s r.pa) r.len] ∧
        u.host.engines = s.host.engines.set k { g with waiting := rest, slots := g.slots ++ [.far id s.now], farTurn := false } ∧
        findReq u id = some { r with state := .sent } ∧ SameBut [.host, .mem, .out] s u) ∧
    (∀ i id since r x, i < 64 → g.slots[i]? = some (.far id since) → findReq s id = some r → r.act = none →
      ∃ u, exec (.farRequestDone p i x) s = .next u ∧
        u.host.engines = s.host.engines.set k { g with slots := dropIdx g.slots i } ∧
        (r.write = false → reqEnded u id = some (match x with
          | .data d => (.ok, dslice d 0 r.len) | .unsupported => (.addressRange, []) | .timeout => (.linkTimeout, [])) ∧ u.out = s.out) ∧
        (r.write = true → reqEnded u id = some (.ok, []) ∧ u.out = s.out ++ [.hostWrite (farBus s r.pa) r.data false]) ∧
        u.tile = (if !r.write && fine (hostData r.len x).1 then (crossWeave r.who r.tier r.pa r.len false s).tile else s.tile) ∧
        SameBut [.host, .mem, .out, .tile] s u)

/-- Page walks and requests through the far window (R289, R290, R292 to R296). -/
def Obligations.TranslationsAndFarRequests : Prop :=
  Claims.PageWalks ∧ Claims.FarRequests

/-- The training of a port (R304, R307, R315, R316): its steps in order, IDENT exchange, the way to ACTIVE, and the ways back to DOWN. -/
def Obligations.PortsTrain : Prop :=
  ∀ (s : State) (p : Fin 16),
    let x := getPort s p
    let others (u : State) : Prop := ∀ r, r ≠ p → (getPort u r).state = (getPort s r).state ∧ (getPort u r).rx = (getPort s r).rx
    let down (u : State) : Prop :=
      let y := getPort u p
      y.state = .down ∧ y.since = s.now ∧ y.replay = [] ∧ y.sending = [] ∧ y.linkq = [] ∧ y.partial_ = [] ∧ y.txq = [] ∧
      (∀ v : Fin 4, y.credits[v] = 0) ∧ y.trained = (x.trained || x.state == .training) ∧
      u.links.counters.downs = (if x.state = .training then s.links.counters.downs else bump s.links.counters.downs p 1) ∧ others u ∧
      SameBut [.links] s u
    (x.state = .down → portEnabled s p = true → s.boot.phase = .training ∨ s.boot.phase = .done → x.since + 100000000 ≤ s.now →
      ∃ u, exec (.portRetrainTimer p) s = .next u ∧ (getPort u p).state = .training ∧ (getPort u p).step = 1 ∧ (getPort u p).since = s.now ∧
        ((u.clk.linkPhy[p]).enabled = true ∨ 3 ≤ (s.clk.linkPhy[p]).fails) ∧ (∀ r, r ≠ p → getPort u r = getPort s r) ∧
        SameBut [.links, .clk] s u) ∧
    (∀ reversed, x.state = .training → x.step = 1 → (s.clk.linkPhy[p]).locked = true →
      exec (.portEqualisationDone p reversed) s = .next (updPort p (fun x => { x with step := 2, since := s.now, reversed := reversed }) s)) ∧
    (x.state = .training → x.step = 2 → exec (.codewordLock p) s = .next (updPort p (fun x => { x with step := 3, since := s.now }) s)) ∧
    (x.state = .training → x.step = 3 →
      ∃ u, exec (.portUp p) s = .next u ∧ (getPort u p).state = .up ∧ (getPort u p).trained = true ∧ (getPort u p).txSeq = 0 ∧
        (getPort u p).rxSeq = 0 ∧ (getPort u p).replay = [] ∧ (getPort u p).credits = vcFlits ∧
        (getPort u p).linkq = x.linkq ++ [identFlit s p] ∧ (∀ r, r ≠ p → getPort u r = getPort s r) ∧
        (fld (identFlit s p) 191 184, fld (identFlit s p) 270 256, fld (identFlit s p) 275 272) = (2, nodeId s, p.val) ∧ SameBut [.links] s u) ∧
    (∀ k s', x.state = .up → takeRx p (isLink 2) s = some (k, s') → fld k.hdr 270 256 ≠ nodeId s →
      exec (.identRx p) s = .next (updPort p (fun x => { x with
        peerNode := BitVec.ofNat 15 (fld k.hdr 270 256), peerPort := BitVec.ofNat 4 (fld k.hdr 275 272), state := .active, since := s.now }) s')) ∧
    (∀ k s', x.state = .up → takeRx p (isLink 2) s = some (k, s') → fld k.hdr 270 256 = nodeId s →
      ∃ u, exec (.identRx p) s = .next u ∧ (getPort u p).state = .up) ∧
    (x.state = .training ∨ x.state = .up ∧ x.step = 4 → x.since + trainLimit x.step < s.now →
      ∃ u, exec (.trainingStepTimeout p) s = .next u ∧ down u) ∧
    (x.state = .up ∨ x.state = .active → x.replay ≠ [] → x.ackAt + 100000 ≤ s.now → ∃ u, exec (.ackStallTimeout p) s = .next u ∧ down u) ∧
    (receives s p = true → ∃ u, exec (.lockLoss p) s = .next u ∧ down u)

/-- CODEWORD_RX, NAK_RX and REPLAY_TIMEOUT (R305, R306, R308, R309): a bad or unexpected codeword asks for a replay; an acknowledgement
frees the replay buffer; the next data codeword's packet is received, reserved fields that are not 0 being counted; a NAK or a timeout starts a replay, and the sixteenth NAK in a row
takes the port down. -/
def Sys2Proof.Claims.CodewordsArrive : Prop :=
  ∀ (s : State) (p : Fin 16) (cw : Codeword),
    let x := getPort s p
    let known (a : BitVec 8) : Option Nat := x.replay.findIdx? fun c => c.seq == a
    x.state = .up ∨ x.state = .active →
    (cw.fec = .uncorrectable → exec (.codewordRx p cw) s = .next
      (updPort p (fun x => { x with nakDue := true }) (linkCount (fun c => { c with fecUncorrected := bump c.fecUncorrected p 1 }) s))) ∧
    (cw.fec = .clean → cw.kind = 0 → cw.seq ≠ x.rxSeq + 1 → known cw.ack = none →
      exec (.codewordRx p cw) s = .next (updPort p (fun x => { x with nakDue := true }) s)) ∧
    (∀ i, cw.fec = .clean → cw.kind = 1 → known cw.ack = some i →
      exec (.codewordRx p cw) s = .next (updPort p (fun x => { x with
        replay := x.replay.drop (i + 1), resend := min x.resend (x.replay.length - (i + 1)), ackAt := s.now, replayAt := s.now,
        nakCount := 0 }) s)) ∧
    (∀ h pay, cw.fec = .clean → cw.kind = 0 → cw.seq = x.rxSeq + 1 → known cw.ack = none → cw.flits = h :: pay → pay.length ≤ 9 →
      pay.length = pkFlits h → fld h 3 0 ≠ 0 → reservedHeader h = false → x.partial_ = [] →
      exec (.codewordRx p cw) s = .next (linkCount (fun c => { c with
          rxFlits := bump c.rxFlits p (1 + pay.length), protoErr := if reservedFields h then bump c.protoErr p 1 else c.protoErr })
        (updPort p (fun x => { x with rxSeq := cw.seq, rx := x.rx ++ [{ hdr := h, pay := pay }] }) s))) ∧
    (∀ ack, known ack = none → x.replay ≠ [] → x.nakCount = 0 →
      exec (.nakRx p ack) s = .next (linkCount (fun c => { c with replays := bump c.replays p 1 })
        (updPort p (fun x => { x with resend := x.replay.length, replayAt := s.now, nakCount := 1, nakSeq := ack + 1 }) s))) ∧
    (∀ ack, known ack = none → x.nakCount = 15 → x.nakSeq = ack + 1 →
      ∃ u, exec (.nakRx p ack) s = .next u ∧ (getPort u p).state = .down ∧ SameBut [.links] s u) ∧
    (x.replay ≠ [] → x.replayAt + 2000 ≤ s.now →
      exec (.replayTimeout p) s = .next (linkCount (fun c => { c with replays := bump c.replays p 1 })
        (updPort p (fun x => { x with resend := x.replay.length, replayAt := s.now }) s)))

/-- CREDIT_RX, CREDIT_REPORT, PACKET_FORWARD and CODEWORD_TX (R305, R306, R310, R312 to R314): credits come and are reported; a packet is
forwarded with one hop fewer, or dropped and counted; a codeword is a marker, a NAK, a replay, an empty one or the next flits. -/
def Sys2Proof.Claims.FlitsFlow : Prop :=
  ∀ (s s' : State) (p : Fin 16),
    let x := getPort s p
    let sent (kind : BitVec 4) (seq : BitVec 8) (fs : List (BitVec 512)) : Out :=
      let c : Codeword := { fec := .clean, seq := seq, ack := x.rxSeq, kind := kind, flits := fs }
      .codeword p c (codewordLanes c)
    (∀ k, takeRx p (isLink 1) s = some (k, s') →
      exec (.creditRx p) s = .next (updPort p (fun x => { x with
        credits := Vector.ofFn fun i => x.credits[i] + fld k.hdr (16 * i.val + 271) (16 * i.val + 256) }) s')) ∧
    (∀ v : Fin 4, x.state = .up ∨ x.state = .active → 64 ≤ x.freed[v] ∨ 0 < x.freed[v] ∧ x.freedAt + 1000 ≤ s.now →
      exec (.creditReport p) s = .next (updPort p (fun x => { x with
        freed := .replicate 4 0, freedAt := s.now, linkq := x.linkq ++ [creditFlit x.freed] }) s)) ∧
    (∀ (vc : Fin 4) (k : Packet) (r : Fin 16),
      let set : PortSet := if p.val < 8 then .b else .c
      takeRx p (forForward s vc) s = some (k, s') →
      (pkHops k = 0 → exec (.packetForward p vc) s = .next (linkCount (fun c => { c with hopDrop := addSat c.hopDrop 1 }) s')) ∧
      (pkHops k ≠ 0 → routePort s' set (pkDst k) (pkFlow k) = none →
        exec (.packetForward p vc) s = .next (linkCount (fun c => { c with routeDrop := addSat c.routeDrop 1 }) s')) ∧
      (pkHops k ≠ 0 → routePort s' set (pkDst k) (pkFlow k) = some r →
        ∃ u k', exec (.packetForward p vc) s = .next u ∧ (getPort u r).txq = (getPort s' r).txq ++ [(set, k')] ∧ k'.pay = k.pay ∧
          pkHops k' = pkHops k - 1 ∧ (pkDst k', pkSrc k', pkFlow k', pkVc k', pkType k') = (pkDst k, pkSrc k, pkFlow k, pkVc k, pkType k) ∧
          u.links.counters = { s'.links.counters with fwd := bump s'.links.counters.fwd r 1 } ∧ SameBut [.links] s' u)) ∧
    (receives s p = true → 16383 ≤ x.sinceMarker →
      ∃ u c, exec (.codewordTx p) s = .next u ∧ u.out = s.out ++ [.codeword p c (codewordLanes c)] ∧ c.kind = 15 ∧
        (∀ i < 544, codewordSymbol c i = BitVec.ofNat 10 (i % 8 + 0b1010101 * 2 ^ 3)) ∧ (getPort u p).sinceMarker = 0 ∧ SameBut [.links, .out] s u) ∧
    (x.state = .active → x.sinceMarker < 16383 →
      let y := { x with sinceMarker := x.sinceMarker + 1 }
      let set (z : Port) : State := updPort p (fun _ => z) s
      (x.nakDue = true → exec (.codewordTx p) s = .next (emit (sent 2 0 []) (set { y with nakDue := false }))) ∧
      (∀ c, x.nakDue = false → x.resend ≠ 0 → x.replay[x.replay.length - x.resend]? = some c →
        exec (.codewordTx p) s = .next (emit (sent 0 c.seq c.flits) (set { y with resend := x.resend - 1 }))) ∧
      (x.nakDue = false → x.resend = 0 → 128 ≤ x.replay.length ∨ (fillFlits 10 y).1 = [] →
        exec (.codewordTx p) s = .next (emit (sent 1 0 []) (set y))) ∧
      (∀ fs z, x.nakDue = false → x.resend = 0 → x.replay.length < 128 → fillFlits 10 y = (fs, z) → fs ≠ [] →
        let flits := fs ++ List.replicate (10 - fs.length) 0
        ∃ u, exec (.codewordTx p) s = .next u ∧ u.out = s.out ++ [sent 0 (x.txSeq + 1) flits] ∧ (getPort u p).txSeq = x.txSeq + 1 ∧
          (getPort u p).replay.map (fun c => (c.seq, c.flits)) = x.replay.map (fun c => (c.seq, c.flits)) ++ [(x.txSeq + 1, flits)] ∧
          ((getPort u p).txq, (getPort u p).sending, (getPort u p).linkq, (getPort u p).credits) = (z.txq, z.sending, z.linkq, z.credits) ∧
          (∀ r, r ≠ p → getPort u r = getPort s r) ∧ SameBut [.links, .out] s u))

/-- Codewords, credits and forwarding (R305 to R314). -/
def Obligations.PacketsFlow : Prop :=
  Claims.CodewordsArrive ∧ Claims.FlitsFlow

/-- Remote requests at their target (R291, R313, R318): a WRITE that passes its checks acts on T1 and is acknowledged as soon as its channel
has room for it; a READ_REQ sees T1 then too and is answered when its channel serves it; a request that fails its checks is answered at
once. -/
def Sys2Proof.Claims.RemoteTarget : Prop :=
  ∀ (s s1 : State) (p : Fin 17) (k : Packet), pkCrcOk k = true →
    let n := pkBody k 267 256
    let answered (q : Fin 16) (a : Packet) (type : Nat) (s u : State) : Prop :=
      (getPort u q).txq = (getPort s q).txq ++ [(.inject, a)] ∧ pkType a = type ∧ pkDst a = pkSrc k ∧ pkTag a = pkTag k ∧ pkStatus a = 0
    let fresh := Unused s1.mem.nextId s1 ∧ ChannelFree (pkAddr k) s1
    (∀ write : Bool, takePacket p (nextRemote s p (if write then 3 else 4)) s = some (k, s1) → ∀ st, remoteCheck s1 k write = st → st ≠ .ok →
      ∃ u, exec (if write then .remoteWriteRx p else .readReqRx p) s = .next u ∧ SameBut [.links] s1 u ∧ (st = .accessDenied →
        u.links.counters.remoteDenied = addSat s1.links.counters.remoteDenied 1)) ∧
    (takePacket p (nextRemote s p 3) s = some (k, s1) → remoteCheck s1 k true = .ok → fresh →
      ∃ u, exec (.remoteWriteRx p) s = .next u ∧ u.mem.t1 = memWrite s1.mem.t1 (pkAddr k) (pkData k n) ∧
        u.mem.requests = s1.mem.requests ∧ u.links.unitCounters.remoteWrites = bump s1.links.unitCounters.remoteWrites (portUnit p) 1 ∧
        (∀ q, pkSrc k ≠ nodeId s1 → routePort s1 .inject (pkSrc k) (pkFlow k) = some q → ∃ a, answered q a 6 s1 u ∧ a.pay = []) ∧
        SameBut [.mem, .links, .tile] s1 u) ∧
    (takePacket p (nextRemote s p 4) s = some (k, s1) → remoteCheck s1 k false = .ok → fresh → meetsRecord s1 (pkAddr k) n = false →
      ∃ u, exec (.readReqRx p) s = .next u ∧ u.mem.t1 = s1.mem.t1 ∧
        u.links.unitCounters.remoteReads = bump s1.links.unitCounters.remoteReads (portUnit p) 1 ∧
        (∃ e, u.mem.stackCtl.queue = s1.mem.stackCtl.queue ++ [e] ∧ (e.id, e.pa, e.len, e.write, e.taken) = (s1.mem.nextId, pkAddr k, n, false, true) ∧
          e.data = memRead s1.mem.t1 (pkAddr k) n) ∧
        (findReq u s1.mem.nextId).map (fun r => (r.act, r.write, r.len)) = some (some (.remote (pkSrc k) (pkFlow k) (pkTag k)), false, n) ∧
        u.links.ports = s1.links.ports ∧ SameBut [.mem, .links] s1 u) ∧
    (∀ st ch e r q, s.clk.refclk = true → nextRequest s (channelQueue s st ch) = some e → (∀ x ∈ s.mem.stackCtl.queue, x.taken = true) →
      e.write = false → findReq s e.id = some r → r.act = some (.remote (pkSrc k) (pkFlow k) (pkTag k)) → r.write = false →
      pkSrc k ≠ nodeId s → routePort s .inject (pkSrc k) (pkFlow k) = some q →
      ∃ u a, exec (.memRequest st ch []) s = .next u ∧ answered q a 5 s u ∧ (pkBytes a).take e.len = dataBytes (foundData s e) ∧
        findReq u e.id = none ∧ u.mem.t1 = s.mem.t1 ∧ SameBut [.mem, .links, .tile] s u)

/-- Remote requests of this module (R319): an answer ends the request that carries its TAG; a request without an answer ends with
LINK_TIMEOUT. -/
def Sys2Proof.Claims.RemoteSource : Prop :=
  ∀ (s s1 : State) (p : Fin 17) (k : Packet), pkCrcOk k = true →
    (∀ v r q, (s1.links.units[v]).waiting = [] → remoteByTag s1 (pkTag k) = some (v, r) → findReq s1 r.req = some q → q.act = none →
      pkStatus k = 0 →
      let freed (u : State) : Prop := (u.links.units[v]).remote = (s1.links.units[v]).remote.filter (fun y => y.tag != r.tag)
      (q.write = false → takePacket p (fun k => pkType k == 5) s = some (k, s1) →
        ∃ u, exec (.readRespRx p) s = .next u ∧ reqEnded u r.req = some (.ok, pkData k q.len) ∧ freed u ∧ u.mem.t1 = s1.mem.t1 ∧
          u.tile = (crossWeave q.who q.tier q.pa q.len false s1).tile ∧ SameBut [.mem, .links, .tile] s1 u) ∧
      (q.write = true → takePacket p (fun k => pkType k == 6) s = some (k, s1) →
        ∃ u, exec (.writeAckRx p) s = .next u ∧ reqEnded u r.req = some (.ok, []) ∧ freed u ∧ u.mem.t1 = s1.mem.t1 ∧
          SameBut [.mem, .links] s1 u)) ∧
    (∀ v idx r q, (s.links.units[v]).waiting = [] → (s.links.units[v]).remote[idx]? = some r → findReq s r.req = some q → q.act = none →
      r.sentAt + 1000 * s.links.remoteTimeoutUs.toNat ≤ s.now →
      ∃ u, exec (.remoteTimeout v idx) s = .next u ∧ reqEnded u r.req = some (.linkTimeout, []) ∧
        (∀ y ∈ (u.links.units[v]).remote, y.tag ≠ r.tag) ∧ u.mem.t1 = s.mem.t1 ∧ SameBut [.mem, .links] s u)

/-- Remote requests, at their target and at their source (R291, R313, R318, R319). -/
def Obligations.RemoteServed : Prop :=
  Claims.RemoteTarget ∧ Claims.RemoteSource

/-- VERDICT_UP_RX, VERDICT_DOWN_RX and VERDICT_TIMEOUT (R162, R333 to R335): a report is kept until the exchange can use it; the root
decides and sends the decision down; a member applies the decision that it receives; an exchange that is not answered aborts its step
with LINK_TIMEOUT. -/
def Obligations.VerdictMessages : Prop :=
  ∀ (s s1 : State) (p : Fin 17) (k : Packet) (g : Group), pkCrcOk k = true →
    (takePacket p (isVerdict 0) s = some (k, s1) → findGroup s1 (pkGroup k) = some g → g.members.contains (pkSrc k) = true →
      s1.links.exchanges = [] → ∃ u m, exec (.verdictUpRx p) s = .next u ∧ u.links.msgs = s1.links.msgs ++ [m] ∧ m.down = false ∧
        m.node.toNat = pkSrc k ∧ m.tag.toNat = pkAux k % 65536 ∧ m.sumsq.toNat = pkBody k 287 256 ∧ m.nonfinite = bit k.hdr 288 ∧
        m.vote = bit k.hdr 289 ∧ SameBut [.links] s1 u) ∧
    (∀ x q own port, takePacket p (isVerdict 0) s = some (k, s1) → s1.links.exchanges = [x] → s1.links.msgs = [] → x.done = false →
      x.upSent = false → x.own = some own → x.group.toNat = pkGroup k → x.step.toNat % 65536 = pkAux k % 65536 →
      findGroup s1 (pkGroup k) = some g → g.rank = 0 → g.members = [nodeId s1, pkSrc k] → pkSrc k ≠ nodeId s1 →
      routePort s1 .inject (pkSrc k) 0 = some port → findStep s1 x.step = some q → q.state = .stOpen → q.voteSent = true →
      (s1.host.cmds.filter fun k => !k.started) = [] → Quiet s1 → (∀ e ∈ q.earlies, slotOpcode e.slot = 0x10) →
      let d := decide162 s1.num q.lossScale {
        sumsq := fadd own.sumsq (BitVec.ofNat 32 (pkBody k 287 256))
        nonfinite := own.nonfinite || bit k.hdr 288
        vote := x.vote || bit k.hdr 289 }
      ∃ u, exec (.verdictUpRx p) s = .next u ∧ (findStep u x.step).map (fun q => (q.state, q.decision)) =
          some (if d.skip then .decidedSkip else .decidedCommit, some d) ∧ u.links.exchanges = [] ∧ u.links.msgs = [] ∧
        (getPort u port).txq.length = (getPort s1 port).txq.length + 1 ∧ SameBut [.train, .links, .num] s1 u) ∧
    (∀ x q own, takePacket p (isVerdict 1) s = some (k, s1) → s1.links.exchanges = [x] → s1.links.msgs = [] → x.done = false →
      x.upSent = true → x.own = some own → x.group.toNat = pkGroup k → x.step.toNat % 65536 = pkAux k % 65536 →
      findGroup s1 (pkGroup k) = some g → g.rank ≠ 0 → treeChildren g.members.length g.rank = [] → treeRoutable s1 g = true →
      g.members.contains (pkSrc k) = true →
      findStep s1 x.step = some q → q.state = .stOpen → q.voteSent = true → (s1.host.cmds.filter fun k => !k.started) = [] → Quiet s1 →
      (∀ e ∈ q.earlies, slotOpcode e.slot = 0x10) →
      let d := decide162 s1.num q.lossScale { sumsq := BitVec.ofNat 32 (pkBody k 287 256), nonfinite := bit k.hdr 288, vote := bit k.hdr 289 }
      ∃ u, exec (.verdictDownRx p) s = .next u ∧ (findStep u x.step).map (fun q => (q.state, q.decision)) =
          some (if d.skip then .decidedSkip else .decidedCommit, some d) ∧ u.links.exchanges = [] ∧ SameBut [.train, .links, .num] s1 u) ∧
    (∀ x q n, (s.links.exchanges.find? fun x => x.step == n && !x.done) = some x → findStep s n = some q → q.state = .stOpen →
      x.dueAt + 1000000 * s.links.collTimeoutMs.toNat ≤ s.now →
      ∃ u, exec (.verdictTimeout n) s = .next u ∧
        (findStep u n).map (fun p => (p.state, p.abort, p.exchDead)) = some (.aborting, some .linkTimeout, true) ∧
        (∀ y ∈ u.links.exchanges, y.step = n → y.done = true) ∧
        u.links.counters.verdictTimeouts = addSat s.links.counters.verdictTimeouts 1 ∧ u.num = s.num)

/-- GROUP_SET and COLLECTIVE at their admission (R321, R322, R326, R327): a group is set or removed; a descriptor joins its unit's queue
under its group's next sequence number. -/
def Sys2Proof.Claims.CollectivesQueue : Prop :=
  ∀ (s s' : State) (q : Fin 64) (c : Slot) (info : List Nat),
    (Passes groupSetCheck 0x40 q c info s s' → mayBegin s' c (slotStep s' c) = true →
      ∃ u, exec (.groupSet q c) s = .next u ∧ AtOnce q c info 0 s' u ∧
        u.links = { s'.links with groups := (s'.links.groups.filter fun g => g.id.toNat != fld c.pay 11 0) ++
          if info = [] then [] else [{ id := BitVec.ofNat 12 (fld c.pay 11 0), members := info, rank := fld c.pay 46 32, seq := 0 }] } ∧
        StartedNow q c info s' u ∧ SameBut [.host, .clk, .links, .train] s' u) ∧
    (∀ g, Passes collectiveCheck 0x41 q c info s s' → findGroup s' (kGroup c.pay) = some g →
      ∃ u d, exec (.collective q c) s = .next u ∧ Entered q c info s' u ∧
        u.links.units[kUnit c.pay].queue = s'.links.units[kUnit c.pay].queue ++ [d] ∧
        (d.cmd, d.slot, d.group, d.seq, d.step) = (s'.host.nextCmd, c, g.id, g.seq, slotStep s' c) ∧
        (d.started, d.running, d.written) = (false, false, false) ∧
        d.plan = info.map planEntry ∧ (∀ v, v ≠ kUnit c.pay → u.links.units[v] = s'.links.units[v]) ∧
        u.links.groups = s'.links.groups.map (fun x => if x.id = g.id then { x with seq := x.seq + 1 } else x) ∧
        SameBut [.host, .clk, .links, .train, .rows] s' u)

/-- The running of a descriptor (R238, R328, R338, R341 to R343): a PERMUTE starts, pulls what it may receive, begins to copy a staged shard
whose range is free, and completes; a descriptor whose peer is silent ends with LINK_TIMEOUT; a shard that agrees with its hash is
reported, and one that disagrees is fetched again. -/
def Sys2Proof.Claims.CollectivesRun : Prop :=
  ∀ (s : State) (v : Fin 4) (idx : Nat) (c : Coll) (k : Cmd), (s.links.units[v]).queue[idx]? = some c → findColl s v c.cmd = some c → k.id = c.cmd → findCmd s k.id = some k →
    slotOpcode k.slot = 0x41 → k.step = none → c.step = none →
    let p := c.slot.pay
    let node (rank : Nat) : Nat := (collNodes s c).getD rank 0
    let gone (u : State) : Prop := findColl u v c.cmd = none ∧ u.mem.t1 = s.mem.t1 ∧
      u.links.unitCounters.descriptors = bump s.links.unitCounters.descriptors v 1
    (c.started = false → c.running = false → (bit p 19 = true → fld p 575 544 ≤ (bcOf s (fin (fld p 534 528)) (fin (fld p 540 536))).toNat) →
      startable s v c = true → kOp p = 4 → CollRests c →
      ∃ u c', exec (.collDescriptorStart v idx) s = .next u ∧ findColl u v c.cmd = some c' ∧ c'.started = true ∧ c'.running = true ∧
        c'.lastRx = s.now ∧ c'.plan = c.plan ∧ c'.ins = c.ins ∧ (findCmd u k.id).map (fun k => k.started) = some true ∧
        u.mem.t1 = s.mem.t1 ∧ SameBut [.links, .host, .mem] s u) ∧
    (c.started = true → c.running = true → kOp p = 4 → planDone c.plan = true → kReplica p = false → CollRests c →
      ∃ u, exec (.collDescriptorComplete v idx) s = .next u ∧ gone u ∧ Completes k (c.poison.getD .ok) 0 s u ∧
        u.tile.tiles = s.tile.tiles ∧ u.tile.weave.packets.length = s.tile.weave.packets.length + (if bit p 18 = true then 1 else 0) ∧
        SameBut [.links, .host, .tile, .mem] s u) ∧
    (∀ a, c.started = true → waitsFor s c = some a → c.lastRx + 1000000 * s.links.collTimeoutMs.toNat ≤ s.now → kReplica p = false →
      ∃ u, exec (.collTimeout v idx) s = .next u ∧ gone u ∧ Completes k .linkTimeout a s u ∧
        u.links.unitCounters.timeout = bump s.links.unitCounters.timeout v 1 ∧ SameBut [.links, .host, .mem] s u) ∧
    (∀ e st port, c.running = true → (c.plan.filter inFlightRecv).length < 8 →
      (c.plan.findSome? fun e => (startState p c.plan e).map fun st => (e, st)) = some (e, st) → node e.peer ≠ nodeId s → node e.peer < 2 ^ 15 →
      routePort s .inject (node e.peer) 0 = some port →
      ∃ u c' pk, exec (.permuteReceiveStart v idx) s = .next u ∧ findColl u v c.cmd = some c' ∧
        c'.plan = mapIf (fun x => x.recv && x.peer == e.peer && x.shard == e.shard) (fun x => { x with state := st }) c.plan ∧
        (getPort u port).txq = (getPort s port).txq ++ [(.inject, pk)] ∧ pk.pay = [] ∧ SameBut [.links] s u) ∧
    (∀ e h, (c.plan.findSome? fun e => match e.state with
        | .stagedFull h => if rangeFree c.plan e then some (e, h) else none | _ => none) = some (e, h) →
      exec (.permuteStageCopy v idx) s = .next (collWork v c.cmd (updColl v c.cmd (fun c => { c with
        plan := mapIf (fun x => x.recv && x.peer == e.peer && x.shard == e.shard) (fun x => { x with state := .copying h none }) c.plan }) s))) ∧
    (∀ a d h rank, (c.audits.find? fun a => a.owner == rank && a.ok.isNone) = some a → gBlock (viewOf s c) none rank = some d →
      gHash (viewOf s c) none rank = some h → ∀ port, node rank ≠ nodeId s → node rank < 2 ^ 15 → routePort s .inject (node rank) 0 = some port →
      let sent (kind : Nat) (t : State) : Prop := ∃ pk, (getPort t port).txq = (getPort s port).txq ++ [(.inject, pk)] ∧ pkType pk = 2 ∧ pkKind pk = kind
      let noted (f : AuditShard → AuditShard) (t : State) : Prop :=
        (findColl t v c.cmd).map (fun c => c.audits) = some (mapIf (fun a => a.owner == rank) f c.audits)
      (sha256 (dataBytes d) = dataBytes h →
        ∃ t, exec (.replicaHashCheck v idx rank) s = .next (collWork v c.cmd t) ∧ sent 4 t ∧ noted (fun a => { a with ok := some true }) t ∧
          SameBut [.links] s t) ∧
      (sha256 (dataBytes d) ≠ dataBytes h → a.tries < s.rows.obj.refetchLimit.toNat →
        ∃ u, exec (.replicaHashCheck v idx rank) s = .next u ∧ sent 5 u ∧ noted (fun a => { a with tries := a.tries + 1 }) u ∧
          u.rows.obj = { s.rows.obj with replicaMismatch := addSat s.rows.obj.replicaMismatch 1, replicaRefetch := addSat s.rows.obj.replicaRefetch 1 } ∧
          SameBut [.links, .rows] s u))

/-- A running PERMUTE goes on with what it has begun (R341): a shard that a PULL asked for leaves once it has been read; data of a shard are
written where its entry says, and a shard that is whole is acknowledged; a staged shard is read out of its half, and written to its range. -/
def Sys2Proof.Claims.PermutesGoOn : Prop :=
  ∀ (s s2 : State) (v : Fin 4) (idx : Nat) (c : Coll) (e : PlanEntry) (port : Fin 16), (s.links.units[v]).queue[idx]? = some c →
    findColl s v c.cmd = some c → c.started = true → c.running = true → kOp c.slot.pay = 4 → c.refetches = [] → c.audits = [] →
    s2.links = s.links → (c.plan.filter fun x => x.recv == e.recv && x.peer == e.peer && x.shard == e.shard) = [e] →
    let node := (collNodes s c).getD e.peer 0
    node ≠ nodeId s → node < 2 ^ 15 → (∀ f, routePort s .inject node f = some port) →
    let others := ∀ x ∈ c.plan, x ≠ e → x.asked = false ∧ ∀ h d, x.state ≠ .copying h d
    let plan (f : PlanEntry → PlanEntry) : List PlanEntry := c.plan.map fun x => if x = e then f x else x
    let queued (u : State) : Nat := (getPort u port).txq.length
    let acc (part n : Nat) (o : IoOp) : State × IoRes := ioMany .own (whoUnit v) (shardKey c part n) [o.own] s
    (∀ d, others → c.writes = [] → e.recv = false → e.asked = true → (∀ h d, e.state ≠ .copying h d) →
      acc 4 (shardNum false e.peer e.shard) (ioRead e.dva e.bytes) = (s2, .done [d]) →
      ∃ u, exec (.collDescriptorStart v idx) s = .next u ∧ queued u = queued s + (pieces (e.shard * 2 ^ 32) d.length).length ∧
        (findColl u v c.cmd).map (fun c => c.plan) = some (plan fun e => { e with asked := false }) ∧ u.mem = s2.mem ∧ SameBut [.links] s2 u) ∧
    (∀ x base, others → c.writes = [x] → (x.peer, x.shard) = (e.peer, e.shard) → e.recv = true → e.asked = false → recvAt c.slot.pay e = some base →
      acc 5 (shardNum true x.peer x.shard + 2 ^ 40 * x.off) (ioWrite (base + x.off) x.data) = (s2, .done [[]]) →
      let whole := e.got + x.data.length ≥ e.bytes
      ∃ u, exec (.collDescriptorStart v idx) s = .next u ∧ queued u = queued s + (if whole then 1 else 0) ∧ u.mem = s2.mem ∧
        (findColl u v c.cmd).map (fun c => (c.writes, c.plan)) =
          some ([], plan fun e => { e with got := e.got + x.data.length, state := if whole then recvWhole e.state else e.state }) ∧
        SameBut [.links] s2 u) ∧
    (∀ h d, others → c.writes = [] → e.recv = true → e.asked = false → e.state = .copying h (some d) →
      acc 7 (shardNum true e.peer e.shard) (ioWrite e.dva d) = (s2, .done [[]]) →
      ∃ u, exec (.collDescriptorStart v idx) s = .next u ∧ u.mem = s2.mem ∧ SameBut [.links] s2 u ∧
        (findColl u v c.cmd).map (fun c => c.plan) = some (plan fun e => { e with state := .done })) ∧
    (∀ h d s3, others → c.writes = [] → e.recv = true → e.asked = false → e.state = .copying h none →
      acc 6 (shardNum true e.peer e.shard) (ioRead (stagingHalf c.slot.pay h.val).1 e.bytes) = (s2, .done [d]) →
      let held : State := updPlan v c.cmd true e.peer e.shard (fun e => { e with state := .copying h (some d) }) s2
      ioMany .own (whoUnit v) (shardKey c 7 (shardNum true e.peer e.shard)) [(ioWrite e.dva d).own] held = (s3, .wait) → s3.links = held.links →
      exec (.collDescriptorStart v idx) s = .next s3)

/-- Groups and the descriptors of the collective units (R321 to R328, R341 to R343). -/
def Obligations.CollectiveDescriptors : Prop :=
  Claims.CollectivesQueue ∧ Claims.CollectivesRun ∧ Claims.PermutesGoOn

/-- The packets of a collective do their work (R327, R338, R341, R344): data join their sender's stream, or wait to be written where a PERMUTE's
plan says; a PULL of no bytes releases an entry, and another asks for a shard; an ABORT ends the descriptor; a report and the word that all
have reported enter the audit; a refetch asks for the source again. After each of them the descriptor goes on as far as it can. -/
def Obligations.CollectivePackets : Prop :=
  ∀ (s s1 : State) (p : Fin 17) (k : Packet) (v : Fin 4) (c : Coll) (rank : Nat), pkCrcOk k = true → addressee s1 k = .coll v c rank →
    findColl s1 v c.cmd = some c →
    let y := c.slot.pay
    let data : Data := pkData k (64 * k.pay.length)
    let goesOn (f : Coll → Coll) (s : State) : State := collWork v c.cmd (updColl v c.cmd (fun c => f { c with lastRx := s.now }) s)
    let heard : State := collCount (fun n => { n with rxBytes := bump n.rxBytes v (64 * k.pay.length) }) s1
    (takePacket p (takeable s 1 0) s = some (k, s1) → pkAddr k ≠ 0 ∨ pkAux k = collDigest y → kOp y ≠ 4 →
      let parts := ((c.ins.find? fun i => i.rank == rank).map fun i => i.parts).getD []
      let part : RxPart := { off := pkAddr k, data := data, stamp := (c.ins.map fun i => i.parts.length).sum + 1 }
      exec (.collDataRx p) s = .next (goesOn (fun x => { x with
        ins := (c.ins.filter fun i => i.rank != rank) ++ [{ rank := rank, parts := parts ++ [part] }] }) heard)) ∧
    (∀ e base, takePacket p (takeable s 1 0) s = some (k, s1) → pkAddr k % 2 ^ 32 ≠ 0 ∨ pkAux k = collDigest y → kOp y = 4 →
      (c.plan.find? fun e => e.recv && e.peer == rank && e.shard == pkAddr k / 2 ^ 32) = some e → recvAt y e = some base →
      64 * k.pay.length ≤ e.bytes - pkAddr k % 2 ^ 32 →
      exec (.collDataRx p) s = .next (goesOn (fun x => { x with
        writes := x.writes ++ [{ peer := rank, shard := pkAddr k / 2 ^ 32, off := pkAddr k % 2 ^ 32, data := data }] }) heard)) ∧
    (∀ e, takePacket p (pullable s) s = some (k, s1) → (c.plan.find? fun e => !e.recv && e.peer == rank && e.shard == pkBody k 271 256) = some e →
      let plan (f : PlanEntry → PlanEntry) (c : Coll) : Coll :=
        { c with plan := mapIf (fun e => !e.recv && e.peer == rank && e.shard == pkBody k 271 256) f c.plan }
      (pkBody k 319 288 = 0 →
        exec (.pullRx p) s = .next (updColl v c.cmd (fun c => plan (fun e => { e with pulled := true }) { c with lastRx := s1.now }) s1)) ∧
      (pkBody k 319 288 ≠ 0 → pkBody k 319 288 = e.bytes →
        exec (.pullRx p) s = .next (goesOn (plan fun e => { e with asked := true }) s1))) ∧
    (∀ id : Cmd, takePacket p (takeable s 2 3) s = some (k, s1) → id.id = c.cmd → findCmd s1 id.id = some id → slotOpcode id.slot = 0x41 →
      id.step = none → c.step = none → kReplica y = false →
      ∃ u, exec (.abortRx p) s = .next u ∧ Completes id (if pkStatus k = 0x10 then .malformed else .linkTimeout) rank s1 u ∧
        findColl u v c.cmd = none ∧ u.mem.t1 = s1.mem.t1 ∧ SameBut [.links, .host, .mem] s1 u) ∧
    (takePacket p (takeable s 2 4) s = some (k, s1) →
      let all := leNat (slice (pkBytes k) 0 4) / 2 ^ 17 % 2 = 1
      (all → exec (.auditRx p) s = .next (goesOn (fun c => { c with
        audits := mapIf (fun a => a.owner == rank) (fun a => { a with closed := true }) c.audits }) s1)) ∧
      (¬ all → exec (.auditRx p) s = .next (goesOn (fun x => { x with
        audits := mapIf (fun a => a.owner == collRank s1 c) (fun a => { a with
          reports := if a.reports.contains rank then a.reports else a.reports ++ [rank] }) x.audits }) s1))) ∧
    (takePacket p (takeable s 2 5) s = some (k, s1) →
      exec (.refetchRx p) s = .next (goesOn (fun c => { c with refetches := c.refetches ++ [(rank, leNat (slice (pkBytes k) 0 4))] }) s1))

/-- The packets of a collective that end it, and a refetch that is served (R327, R338, R340): a digest or a PULL's BYTES that disagree end the
descriptor with MALFORMED; the owner of a shard reads its source again and sends the shard with its hash at the offset of that try. -/
def Obligations.CollectivesEndByPackets : Prop :=
  ∀ (s s1 : State) (p : Fin 17) (k : Packet) (v : Fin 4) (c : Coll) (rank : Nat) (id : Cmd), pkCrcOk k = true → addressee s1 k = .coll v c rank →
    findColl s1 v c.cmd = some c → id.id = c.cmd → findCmd s1 id.id = some id → slotOpcode id.slot = 0x41 → id.step = none → c.step = none →
    kReplica c.slot.pay = false →
    let y := c.slot.pay
    let gone (u : State) : Prop := findColl u v c.cmd = none ∧ u.mem.t1 = s1.mem.t1
    (takePacket p (takeable s 1 0) s = some (k, s1) → pkAddr k = 0 ∨ kOp y = 4 ∧ pkAddr k % 2 ^ 32 = 0 → pkAux k ≠ collDigest y →
      ∃ u, exec (.collDataRx p) s = .next u ∧ Completes id .malformed rank s1 u ∧ gone u ∧
        u.links.unitCounters.mismatch = bump s1.links.unitCounters.mismatch v 1 ∧ SameBut [.links, .host, .mem] s1 u) ∧
    (∀ e, takePacket p (pullable s) s = some (k, s1) → (c.plan.find? fun e => !e.recv && e.peer == rank && e.shard == pkBody k 271 256) = some e →
      pkBody k 319 288 ≠ 0 → pkBody k 319 288 ≠ e.bytes →
      ∃ u, exec (.pullRx p) s = .next u ∧ Completes id .malformed rank s1 u ∧ gone u ∧ SameBut [.links, .host, .mem] s1 u) ∧
    (∀ s2 d port idx x, (s1.links.units[v]).queue[idx]? = some c → c.started = true → c.running = true → collProgress v c.cmd s1 = s1 → c.writes = [] →
      c.plan = [] → c.refetches = [x] → (∀ a ∈ c.audits, a.owner = collRank s1 c → ∃ q < (collNodes s1 c).length, q ≠ collRank s1 c ∧ q ∉ a.reports) →
      ioMany .own (whoUnit v) (shardKey c 3 (x.1 * 2 ^ 16 + x.2)) [(ioRead (kSrc y) (sourceBytes s1 c)).own] s1 = (s2, .done [d]) →
      s2.links = s1.links → (collNodes s1 c).getD x.1 0 ≠ nodeId s1 → (collNodes s1 c).getD x.1 0 < 2 ^ 15 →
      (∀ f, routePort s1 .inject ((collNodes s1 c).getD x.1 0) f = some port) →
      ∃ u, exec (.collDescriptorStart v idx) s1 = .next u ∧ (findColl u v c.cmd).map (fun c => c.refetches) = some [] ∧
        (getPort u port).txq.length = (getPort s1 port).txq.length + (pieces (x.2 * 2 ^ 40) d.length).length + 1 ∧
        u.mem = s2.mem ∧ SameBut [.links] s2 u)


/-- PERST_N, hot reset, link down, function-level reset and the watchdog (R8, R47, R351, R376, R381 to R383): the front end returns to its
reset values, a running session is on its way to HELD, the deferred drain stops, an open step is sealed and aborts; ENTER_HELD follows when
every step rests. Without power nothing answers. -/
def Obligations.FrontEndResets : Prop :=
  ∀ s : State, (∀ k : Fin 16, (s.host.engines[k]).queue = [] ∧ (s.host.engines[k]).slots = [] ∧ (s.host.engines[k]).waiting = []) →
    let lost (u : State) : Prop := u.host.bar0 = .reset ∧ u.host.sqs = .replicate 64 .reset ∧ u.host.cqs = .replicate 64 .reset ∧
      u.host.session.tagAddr = 0 ∧ u.host.session.reading = none ∧ (u.host.session.live, u.host.session.held) = (s.host.session.live, s.host.session.held) ∧
      (∀ k : Fin 192, (u.host.session.regions[k]).hash = (s.host.session.regions[k]).hash) ∧
      u.host.counters = { s.host.counters with frontEndResets := addSat s.host.counters.frontEndResets 1 } ∧
      (s.host.dev = .running ∧ s.host.heldDue = false → u.host.heldDue = true ∧ u.host.session.recSq = s.host.sqs ∧
        u.host.session.recCq = s.host.cqs) ∧
      (s.host.dev = .draining → u.host.heldDue = true) ∧
      (s.host.dev = .ready → u.host.heldDue = s.host.heldDue) ∧ u.host.dev = s.host.dev ∧ u.host.cmds = s.host.cmds ∧ u.host.done = s.host.done ∧
      SameBut [.host, .dict] s u
    let pcie : Pcie := { s.host.pcie with cto := 0, d3hot := false }
    (s.train.steps = [] → s.host.dev ≠ .off → (∀ e : Fin 16, (getEng s e).drains = []) →
      (s.host.pcie.perst = false →
        ∃ u, exec .perstNAssert s = .next u ∧ lost u ∧ u.host.pcie = { perst := true, linkUp := false, cto := 0, d3hot := false }) ∧
      (s.host.pcie.perst = true → exec .perstNAssert s = .next s) ∧
      (∃ u, exec .hotReset s = .next u ∧ lost u ∧ u.host.pcie = pcie) ∧
      (∃ u, exec .pcieLinkDown s = .next u ∧ lost u ∧ u.host.pcie = { pcie with linkUp := false }) ∧
      (∃ u, exec .functionLevelReset s = .next u ∧ lost u ∧ u.host.pcie = pcie) ∧
      (s.host.dev = .running → s.host.heldDue = false → s.host.watchdogMs ≠ 0 → s.host.lastBeat + 1000000 * s.host.watchdogMs.toNat ≤ s.now →
        ∃ u, exec .hostWatchdogExpiry s = .next u ∧ lost u ∧ u.host.pcie = s.host.pcie)) ∧
    (s.host.dev = .off → exec .hotReset s = .next { s with host := { s.host with pcie := pcie } }) ∧
    (s.train.steps = [] → s.host.dev ≠ .off →
      ∃ u, exec .hotReset s = .next u ∧ u.mem.t1 = s.mem.t1 ∧ ∀ e : Fin 16, (getEng u e).deferred = (getEng s e).deferred ∧
        (getEng u e).drains = (getEng s e).drains.filter fun d => d.read) ∧
    (∀ p, s.train.steps = [p] → p.state = .stOpen → s.host.dev = .running →
      ∃ u, exec .hotReset s = .next u ∧ u.host.heldDue = true ∧
        (findStep u p.num).map (fun p => (p.state, p.closedToWork, p.abort, p.abortHeld)) = some (.aborting, true, some .stateConflict, true)) ∧
    exec .perstNDeassert s = .next { s with host := { s.host with pcie := { s.host.pcie with perst := false, linkUp := s.host.dev != .off } } } ∧
    (s.host.heldDue = true → s.host.dev = .running → s.train.steps.all restsForHeld = true →
      ∃ u, exec .enterHeld s = .next u ∧ u.host.dev = .held ∧ u.host.heldDue = false ∧
        u.host.counters = { s.host.counters with heldEntries := addSat s.host.counters.heldEntries 1 } ∧ bit u.host.bar0.events 0 = true ∧
        u.host.cmds = s.host.cmds ∧ u.host.session = s.host.session ∧ SameBut [.host, .out] s u)

/-- The registers of the queues and their doorbells (R356, R357, R383): a disabled queue takes its configuration, an enabled one can only be
disabled; an index beyond the queue disables it and raises an event. -/
def Sys2Proof.Claims.QueuesConfigured : Prop :=
  ∀ (s : State) (q : Fin 64) (v : BitVec 64), bar0Open s = true →
    let x := s.host.sqs[q]
    let y := s.host.cqs[q]
    (x.enable = false → exec (.sqConfigWrite q 0 v) s = .next (updSq q (fun x => { x with base := v }) s)) ∧
    (x.enable = true → exec (.sqConfigWrite q 0 v) s = .next s) ∧
    (x.enable = false →
      let on := bit v 14 && mayEnable s (fld v 3 0)
      exec (.sqConfigWrite q 1 v) s = .next (updSq q (fun x => { x with
        sizeLog2 := BitVec.ofNat 4 (fld v 3 0), cq := BitVec.ofNat 6 (fld v 9 4), weight := BitVec.ofNat 4 (fld v 13 10), enable := on,
        waiting := if on then x.waiting else none }) s)) ∧
    (x.enable = true → bit v 14 = false → exec (.sqConfigWrite q 1 v) s = .next (updSq q (fun x => { x with enable := false, waiting := none }) s)) ∧
    (y.enable = false → exec (.cqConfigWrite q 0 v) s = .next (updCq q (fun x => { x with base := v }) s)) ∧
    (y.enable = false → exec (.cqConfigWrite q 1 v) s = .next (updCq q (fun x => { x with
      sizeLog2 := BitVec.ofNat 4 (fld v 3 0), vector := BitVec.ofNat 8 (fld v 11 4), irqCount := BitVec.ofNat 16 (fld v 47 32),
      irqDelay := BitVec.ofNat 16 (fld v 63 48), enable := bit v 12 && mayEnable s (fld v 3 0) }) s)) ∧
    (y.enable = true → bit v 12 = false → exec (.cqConfigWrite q 1 v) s = .next (updCq q (fun x => { x with enable := false }) s)) ∧
    (fld v 15 0 < queueSize x.sizeLog2 →
      exec (.sqTailDoorbell q v) s = .next (updSq q (fun x => { x with tail := BitVec.ofNat 16 (fld v 15 0), rung := true }) s)) ∧
    (queueSize x.sizeLog2 ≤ fld v 15 0 → ∃ u, exec (.sqTailDoorbell q v) s = .next u ∧ bit u.host.bar0.events 1 = true ∧
      u.host.sqs = s.host.sqs.set q { x with enable := false, waiting := none } ∧ SameBut [.host, .out] s u) ∧
    (fld v 15 0 < queueSize y.sizeLog2 →
      exec (.cqHeadDoorbell q v) s = .next (updCq q (fun x => { x with head := BitVec.ofNat 16 (fld v 15 0) }) s)) ∧
    (queueSize y.sizeLog2 ≤ fld v 15 0 → ∃ u, exec (.cqHeadDoorbell q v) s = .next u ∧ bit u.host.bar0.events 1 = true ∧
      u.host.cqs = s.host.cqs.set q { y with enable := false } ∧ SameBut [.host, .out] s u) ∧
    exec (.heartbeat v) s = .next { s with host := { s.host with lastBeat := s.now } }

/-- Region registration (R380): a tag address is cleared or read; the header that comes back registers or verifies the region. -/
def Sys2Proof.Claims.RegionsRegistered : Prop :=
  ∀ s : State,
    let x := s.host.session
    let k : Fin 192 := fin (min x.select.toNat 191)
    (x.reading = none → s.host.dev = .running ∨ s.host.dev = .held →
      exec (.regionTagAddrWrite 0) s = .next (updRegion k (fun _ => .none) (updSession (fun x => { x with tagAddr := 0 }) s)) ∧
      ∀ v : BitVec 64, v ≠ 0 → v.toNat % 64 = 0 → exec (.regionTagAddrWrite v) s =
        .next (emit (.hostRead v.toNat 64) (updSession (fun x => { x with tagAddr := v, reading := some k }) s))) ∧
    (∀ j r, x.reading = some j →
      let g := x.regions[j]
      let set (y : Region) : State := updSession (fun x => { x with reading := none, regions := x.regions.set j y }) s
      (s.host.dev = .running → exec (.regionHeaderRead r) s = .next (set { hash := headerHash r, verified := false, mismatch := false })) ∧
      (s.host.dev = .held → exec (.regionHeaderRead r) s =
        .next (set { g with verified := (headerHash r).isSome && g.hash == headerHash r, mismatch := !((headerHash r).isSome && g.hash == headerHash r) })))

/-- BAR2 (R8, R355): reads and writes reach T1 through its channels and the far memory through the copy engines; a read is answered once its
channel has served it; a denied access reads all ones; without power, and in D3hot, nothing answers. -/
def Sys2Proof.Claims.Bar2Accessed : Prop :=
  ∀ (s : State) (off : BitVec 36) (n : Nat) (b : List Byte) (p : Bool),
    let a := bar2Addr s off
    let denied : HostCounters := { s.host.counters with bar2Denied := addSat s.host.counters.bar2Denied 1 }
    let id := s.mem.nextId
    let data : Data := b.map fun x => (x, p)
    (functionAnswers s = false → exec (.bar2Read off n) s = .next s ∧ exec (.bar2Write off b p) s = .next s) ∧
    (functionAnswers s = true →
      exec (.bar2Read off 0) s = .next (emit (.bar2Data []) s) ∧
      (0 < n → bar2Denied s .bar2R off n false = true →
        ∃ u, exec (.bar2Read off n) s = .next u ∧ u.out = s.out ++ [.bar2Data (List.replicate n (0xFF, false))] ∧
          u.host.counters = denied ∧ SameBut [.host, .out] s u) ∧
      (bar2Denied s .bar2W off b.length true = true →
        exec (.bar2Write off b p) s = .next { s with host := { s.host with counters := denied } }) ∧
      (bar2Denied s .bar2R off n false = false → place a = .stack a → 0 < n → a % 2048 + n ≤ 2048 → Unused id s → ChannelFree a s →
        meetsRecord s a n = false →
        ∃ u e, exec (.bar2Read off n) s = .next u ∧ u.mem.stackCtl.queue = s.mem.stackCtl.queue ++ [e] ∧
          (e.id, e.pa, e.len, e.write, e.taken) = (id + 1, a, n, false, true) ∧ e.data = memRead s.mem.t1 a n ∧
          (findReq u (id + 1)).map (fun r => (r.act, r.write, r.len)) = some (some (.bar2 id 1), false, n) ∧ u.mem.t1 = s.mem.t1 ∧
          SameBut [.mem] s u) ∧
      (bar2Denied s .bar2W off b.length true = false → place a = .stack a → 0 < b.length → a % 2048 + b.length ≤ 2048 → Unused id s → ChannelFree a s →
        ∃ u, exec (.bar2Write off b p) s = .next u ∧ u.mem.t1 = memWrite s.mem.t1 a data ∧ u.mem.requests = s.mem.requests ∧
          u.tile = (crossWeave whoFront 1 a b.length true s).tile ∧ SameBut [.mem, .tile] s u) ∧
      (∀ f, bar2Denied s .bar2W off b.length true = false → place a = .far f → hostReachable s = true → 0 < b.length → a % 2048 + b.length ≤ 2048 →
        Unused id s →
        let k : Fin 16 := fin (farPair s a + 8)
        ∃ u, exec (.bar2Write off b p) s = .next u ∧
          u.host.engines = s.host.engines.set k { s.host.engines[k] with waiting := (s.host.engines[k]).waiting ++ [id] } ∧
          (findReq u id).map (fun r => (r.write, r.pa, r.data)) = some (true, a, data) ∧ u.mem.t1 = s.mem.t1 ∧ SameBut [.mem, .host, .tile] s u)) ∧
    (∀ st ch e r g, s.clk.refclk = true → nextRequest s (channelQueue s st ch) = some e → (∀ x ∈ s.mem.stackCtl.queue, x.taken = true) →
      e.write = false → findReq s e.id = some r → r.write = false → r.act = some (.bar2 g 1) → bar2Pieces s g 1 = [r] →
      ∃ u, exec (.memRequest st ch []) s = .next u ∧ u.out = s.out ++ [.bar2Data (foundData s e)] ∧ findReq u e.id = none ∧
        u.mem.t1 = s.mem.t1 ∧ SameBut [.mem, .out, .tile] s u)

/-- Queue registers, doorbells, regions and BAR2 (R8, R355 to R357, R380). -/
def Obligations.QueuesAndRegions : Prop :=
  Claims.QueuesConfigured ∧ Claims.RegionsRegistered ∧ Claims.Bar2Accessed

/-- SLOT_FETCH and ADMISSION_RETRY (R357, R358, R363, R365, R366), shown on a NO_STEP slot whose queue has the turn: BARRIER and a full count hold it at the head; a
fence, an unknown opcode, a broken encoding or the device state end it in this order; a NOP completes with OK. A failed fetch disables
the queue. -/
def Obligations.SlotsAdmitted : Prop :=
  ∀ (s : State) (q : Fin 64) (c : Slot),
    let x := s.host.sqs[q]
    let waits := (bit c.hdr 28 && s.host.cmds.any fun k => !k.redo && k.sq == q) || decide (4096 ≤ inFlight s)
    let ended (st : Status) (detail : Nat) (adm : Bool) (u : State) : Prop :=
      u.host.done = s.host.done ++ [{
        sq := q, tag := slotTag c, opcode := BitVec.ofNat 8 (slotOpcode c), status := st,
        detail := BitVec.ofNat 64 detail, user := slotUser c, admitted := adm }] ∧ u.host.cmds = s.host.cmds ∧
      (u.host.sqs[q]).head.toNat = (x.head.toNat + 1) % queueSize x.sizeLog2 ∧ (u.host.sqs[q]).waiting = none ∧
      u.host.counters.refused = (if adm then s.host.counters.refused else bump s.host.counters.refused q 1) ∧ SameBut [.host] s u
    let outcome (u : State) : Prop :=
      if waits then (u.host.sqs[q]).waiting = some c ∧ u.host.done = s.host.done ∧ u.host.cmds = s.host.cmds ∧ SameBut [.host] s u
      else if x.fence.isSome && !bit c.hdr 27 then ended .stateConflict ((x.fence.map BitVec.toNat).getD 0) false u
      else if (opcodeSize (slotOpcode c) (slotBytes c)).isNone then ended .unknownOpcode 0 false u
      else if slotMalformed s q c then ended .malformed 0 false u
      else if stateForbids s (slotOpcode c) then ended .stateConflict 0 false u
      else slotOpcode c = 0x00 → ended .ok 0 true u
    slotStep s c = none → slotNoStep c = true → findCmd s s.host.nextCmd = none →
    (mayAdmit s q = true → ∃ u, exec (.slotFetch q (.slot c)) s = .next u ∧ outcome u ∧ u.host.arb = q) ∧
    (mayAdmit s q = true → ∃ u, exec (.slotFetch q .failed) s = .next u ∧ bit u.host.bar0.events 1 = true ∧
      u.host.sqs = s.host.sqs.set q { x with enable := false, waiting := none } ∧ u.host.done = s.host.done ∧ SameBut [.host, .out] s u) ∧
    (x.waiting = some c → x.enable = true → mayRetry s q = true → s.host.dev = .running ∨ s.host.dev = .updating ∨ s.host.dev = .draining →
      ∃ u, exec (.admissionRetry q) s = .next u ∧ outcome u ∧ u.host.arb = q)

/-- COMPLETION_RECORD_WRITE and CQ_IRQ_DELAY (R359, R361, R379, R381): the next record is held, as far as there is room, dropped or written at its completion queue's tail
with the phase bit, and interrupts follow the counts and delays. -/
def Obligations.RecordsWritten : Prop :=
  ∀ (s : State) (c : Completion) (rest : List Completion) (q : Fin 64),
    (holdsRecords s = true → s.host.done = c :: rest → s.host.dev ≠ .ready →
      ∃ u, exec .completionRecordWrite s = .next u ∧ u.host.done = rest ∧ u.host.session.held = s.host.session.held ++
          (if c.admitted = true ∨ s.host.session.held.length + inFlight s < 4096 then [c] else []) ∧
        u.host.cqs = s.host.cqs ∧ u.out = s.out ∧ SameBut [.host] s u) ∧
    (holdsRecords s = false → dropsRecords s = true → s.host.done = c :: rest →
      ∃ u, exec .completionRecordWrite s = .next u ∧ u.host.done = rest ∧ u.host.session = s.host.session ∧ u.host.cqs = s.host.cqs ∧
        SameBut [.host] s u) ∧
    (holdsRecords s = false → dropsRecords s = false → writable s = some c → s.host.dev ≠ .ready →
      let k := cqOf s c
      let x := s.host.cqs[k]
      ∃ u more, exec .completionRecordWrite s = .next u ∧ u.host.done = dropFirst (fun y => y == c) s.host.done ∧
        u.out = s.out ++ .hostWrite ((x.base.toNat + 32 * x.tail.toNat) % 2 ^ 64) (clean (bytesOf 32 (completionBits s c x.phase))) false :: more ∧
        (u.host.cqs[k]).tail.toNat = (x.tail.toNat + 1) % queueSize x.sizeLog2 ∧
        (u.host.cqs[k]).phase = (if (x.tail.toNat + 1) % queueSize x.sizeLog2 = 0 then !x.phase else x.phase) ∧
        (x.irqCount = 0 → more = [] ∧ (u.host.cqs[k]).news = x.news + 1) ∧
        (x.irqCount ≠ 0 → x.irqCount.toNat ≤ x.news + 1 → (u.host.cqs[k]).news = 0) ∧
        (∀ j, j ≠ k → u.host.cqs[j] = s.host.cqs[j]) ∧ u.host.sqs = s.host.sqs ∧ u.host.cmds = s.host.cmds ∧ SameBut [.host, .out] s u) ∧
    (let x := s.host.cqs[q]
     x.irqCount ≠ 0 → x.irqDelay ≠ 0 → x.news ≠ 0 → x.oldest + 1000 * x.irqDelay.toNat ≤ s.now →
      exec (.cqIrqDelay q) s = .next (raiseVector x.vector (updCq q (fun x => { x with news := 0 }) s)))

/-- OPEN, CLOSE, RESUME and RELEASE (R378, R384, R385): the states in which each is carried out, what it leaves, and STATE_CONFLICT in all
others. -/
def Sys2Proof.Claims.SessionsBegin : Prop :=
  ∀ s : State,
    let idle := sessionFree s = true
    (idle → s.host.dev = .ready → s.host.sessionArea ≠ 0 →
      ∃ u, exec .sessionOpen s = .next u ∧ u.host.dev = .running ∧ u.host.session.live = true ∧ u.host.session.id = s.host.session.id + 1 ∧
        u.host.session.result = .ok ∧ u.host.session.op = none ∧ u.host.session.regions = .replicate 192 .none ∧ u.host.session.held = [] ∧
        u.host.lastBeat = s.now ∧ bit u.host.bar0.events 0 = true ∧ u.host.sqs = s.host.sqs ∧ u.free = s.free + 1 ∧
        u.mem = { s.mem with t1 := memWrite s.mem.t1 s.host.sessionArea.toNat (freeData s.free (2 ^ 20)) } ∧
        SameBut [.host, .out, .mem, .free] s u) ∧
    (idle → s.host.dev = .ready → s.host.sessionArea = 0 → exec .sessionOpen s = .next (sessionDone .addressRange s)) ∧
    (idle → s.host.dev ≠ .ready → exec .sessionOpen s = .next (sessionDone .stateConflict s)) ∧
    (idle → s.host.dev = .running → s.host.heldDue = false → s.train.steps = [] →
      ∃ u, exec .sessionClose s = .next u ∧ u.host.dev = .draining ∧ u.host.session = { s.host.session with op := none, result := .ok } ∧
        bit u.host.bar0.events 0 = true ∧ u.host.cmds = s.host.cmds ∧ SameBut [.host, .out] s u) ∧
    (idle → s.host.dev = .running → s.train.steps ≠ [] → exec .sessionClose s = .next (sessionDone .stateConflict s)) ∧
    (idle → s.host.dev ≠ .held → exec .sessionResume s = .next (sessionDone .stateConflict s) ∧
      exec .sessionRelease s = .next (sessionDone .stateConflict s)) ∧
    (idle → s.host.dev = .held → Quiet s →
      ∃ u, exec .sessionResume s = .next u ∧ u.host.dev = .running ∧ u.host.session.result = .ok ∧ u.host.session.held = [] ∧
        u.host.session.live = s.host.session.live ∧
        (∀ q : Fin 64, (u.host.sqs[q]).head = (if (regionAt s q.val).verified then (s.host.session.recSq[q]).head else 0) ∧
          (u.host.sqs[q]).fence = none ∧ (u.host.sqs[q]).base = (s.host.sqs[q]).base) ∧
        (∀ q : Fin 64, ((u.host.cqs[q]).tail, (u.host.cqs[q]).phase) = if (regionAt s (64 + q.val)).verified then
          ((s.host.session.recCq[q]).tail, (s.host.session.recCq[q]).phase) else (0, true)) ∧
        (∀ k : Fin 64, u.mem.farMap[k] = if (regionAt s (128 + k.val)).verified then s.mem.farMap[k] else setFld s.mem.farMap[k] 0 0 0) ∧
        (∃ n, u.host.done = (s.host.session.held.filter fun c => (s.host.sqs[c.sq]).enable &&
          (s.host.cqs[(fin (s.host.sqs[c.sq]).cq.toNat : Fin 64)]).enable) ++ s.host.done ∧
          n + (u.host.done.length - s.host.done.length) = s.host.session.held.length ∧
          (0 < n → u.host.counters.heldCqDropped = addSat s.host.counters.heldCqDropped n ∧ bit u.host.bar0.events 3 = true)) ∧
        u.host.counters.sessionsResumed = addSat s.host.counters.sessionsResumed 1 ∧ u.host.cmds = s.host.cmds ∧ SameBut [.host, .mem, .out] s u)

/-- REINIT, its timeout, DEVICE_FAULT and DRAIN_END (R376, R378, R385, R386). -/
def Sys2Proof.Claims.SessionsEnd : Prop :=
  ∀ s : State,
    (sessionFree s = true → s.host.dev = .held →
      ∃ u, exec .sessionRelease s = .next u ∧ u.host.dev = .draining ∧ u.host.session.op = some .release ∧ u.host.session.held = [] ∧
        u.host.session.regions = .replicate 192 .none ∧ (∀ i, getSlot u i = none) ∧ (∀ k ∈ u.host.cmds, endsAtOnce k = false)) ∧
    (sessionFree s = true → s.host.dev = .running ∨ s.host.dev = .draining → committing s = false →
      ∃ u, exec .sessionReinit s = .next u ∧ u.host.dev = .draining ∧ u.host.session.op = some (.reinit s.now (s.host.dev == .draining)) ∧
        u.host.counters.reinits = addSat s.host.counters.reinits 1 ∧ (∀ k ∈ u.host.cmds, endsAtOnce k = false)) ∧
    (∀ t a, s.host.session.op = some (.reinit t a) → t + 100000000 ≤ s.now →
      ∃ u, exec .reinitTimeout s = .next u ∧ u.host.dev = .faulted ∧ u.host.session.op = none ∧ u.host.session.result = .internal ∧
        u.host.cmds = []) ∧
    (s.host.dev ≠ .off →
      ∃ u, exec .deviceFault s = .next u ∧ u.host.dev = .faulted ∧ u.host.cmds = [] ∧ u.host.done = s.host.done ++ (s.host.cmds.filter fun k => !k.redo).map (fun k => {
        sq := k.sq, tag := slotTag k.slot, opcode := BitVec.ofNat 8 (slotOpcode k.slot), status := .internal, detail := 0, user := slotUser k.slot,
        admitted := true })) ∧
    (s.host.dev = .draining →
      let closed (u : State) : Prop := u.host.dev = .ready ∧ u.host.session.live = false ∧ u.host.session.regions = .replicate 192 .none ∧
        (∀ q : Fin 64, (u.host.sqs[q]).enable = false ∧ (u.host.cqs[q]).enable = false) ∧ SameBut [.host, .out] s u
      (s.host.session.op = none → s.host.cmds = [] → s.host.done = [] → (∀ q : Fin 64, (s.host.sqs[q]).waiting = none) →
        ∃ u, exec .drainEnd s = .next u ∧ closed u) ∧
      (s.host.session.op = some .release → unitsQuiet s = true →
        ∃ u, exec .drainEnd s = .next u ∧ closed u ∧ u.host.session.result = .ok ∧
          u.host.counters.sessionsReleased = addSat s.host.counters.sessionsReleased 1) ∧
      (∀ t, s.host.session.op = some (.reinit t false) → unitsQuiet s = true → owesRecords s = false → s.host.heldDue = false →
        ∃ u, exec .drainEnd s = .next u ∧ u.host.dev = .running ∧ u.host.session.result = .ok ∧ u.host.session.op = none ∧
          u.host.session.live = s.host.session.live ∧
          (∀ q : Fin 64, ((u.host.sqs[q]).enable, (u.host.sqs[q]).head, (u.host.sqs[q]).tail, (u.host.sqs[q]).fence) = (false, 0, 0, none) ∧
            ((u.host.cqs[q]).enable, (u.host.cqs[q]).tail, (u.host.cqs[q]).phase) = (false, 0, true)) ∧ SameBut [.host, .out] s u))

/-- The session operations and the ends of a session (R376, R378, R384 to R386). -/
def Obligations.SessionsChange : Prop :=
  Claims.SessionsBegin ∧ Claims.SessionsEnd

/-- NOP, COPY, INLINE_WRITE and FW_BLOCK (R367 to R370, R469): a COPY goes into the queue of its engine; each of the others is done at once,
an INLINE_WRITE as soon as its write has found room in its channel. -/
def Sys2Proof.Claims.HostCommands : Prop :=
  ∀ (s s' : State) (q : Fin 64) (c : Slot) (info : List Nat),
    (Passes nopRule.check 0x00 q c [] s s → mayBegin s c (slotStep s c) = true →
      ∃ u, exec (.nop q c) s = .next u ∧ AtOnce q c [] 0 s u ∧ StartedNow q c [] s u ∧ SameBut [.host, .clk, .train] s u) ∧
    (Passes copyCheck 0x18 q c [] s s →
      let k := cpEngine c.pay
      let run : CopyRun :=
        { cmd := s.host.nextCmd, row := 0, off := 0, issued := false, xlated := [], acks := [], moved := 0, stop := none, poison := none }
      ∃ u, exec (.copy q c) s = .next u ∧ u.clk = (enterCmd [] q c s).1.clk ∧ u.host = { (useTurn q (enterCmd [] q c s).1).host with
          engines := s.host.engines.set k { s.host.engines[k] with queue := (s.host.engines[k]).queue ++ [run] } } ∧ SameBut [.host, .clk] s u) ∧
    (let pa := info.getD 0 0
     let n := slotBytes c
     let data := clean (slice (bytesOf 192 c.pay) 0 n)
     Passes inlineCheck 0x19 q c info s s' → mayBegin s' c (slotStep s' c) = true → accessFails s' .cmd pa n true = none →
      Unused s'.mem.nextId s' → ioBusy s' whoFront (opKey kCmd (4 * s'.host.nextCmd)) = false →
      (place pa = .stack pa → ChannelFree pa s' →
        ∃ u, exec (.inlineWrite q c) s = .next u ∧ AtOnce q c info 0 s' u ∧ u.mem.t1 = memWrite s'.mem.t1 pa data ∧
          u.mem.requests = s'.mem.requests ∧ StartedNow q c info s' u ∧ SameBut [.host, .clk, .mem, .tile, .train] s' u) ∧
      (∀ t off, place pa = .tileMem t off →
        ∃ u, exec (.inlineWrite q c) s = .next u ∧ AtOnce q c info 0 s' u ∧ u.mem.t1 = s'.mem.t1 ∧
          (∀ i, (getTile u i).mem = if i = t then memWrite (getTile s' t).mem off data else (getTile s' i).mem) ∧
          StartedNow q c info s' u ∧ SameBut [.host, .clk, .mem, .tile, .train] s' u) ∧
      (place pa = .stack pa → (channelEntries s' pa).length = 64 → (∀ x ∈ channelEntries s' pa, x.taken = true) →
        ∃ u, exec (.inlineWrite q c) s = .next u ∧ u.mem.t1 = s'.mem.t1 ∧ u.host.done = s'.host.done ∧
          (findCmd u s'.host.nextCmd).map (fun k => (k.slot, k.started)) = some (c, true))) ∧
    (Passes fwBlockCheck 0x50 q c info s s' → mayBegin s' c (slotStep s' c) = true →
      ∃ u w, exec (.fwBlock q c) s = .next u ∧ AtOnce q c info 0 s' u ∧
        w = placeWrite (slotAddr s' (fbBlock c)) (clean (info.map (BitVec.ofNat 8))) s' ∧ u.mem = w.mem ∧ u.tile = w.tile ∧
        u.boot.recv.map (fun r => (r.next, r.last)) = s'.boot.recv.map (fun _ => (fbBlock c + 1, s'.now)) ∧
        u.boot.counters = { s'.boot.counters with blocksIn := addSat s'.boot.counters.blocksIn 1 } ∧
        StartedNow q c info s' u ∧ SameBut [.host, .clk, .mem, .tile, .boot, .train] s' u)

/-- COPY_REQUEST_ISSUE (R371): once the device side of the engine's next request is translated it takes a slot; an inbound request asks the
host, an outbound one begins to read its device side; a translation that fails stops the COPY. -/
def Sys2Proof.Claims.CopiesIssue : Prop :=
  ∀ (s s1 s2 : State) (k : Fin 16) (r : CopyRun) (c : Cmd) (ps : List (Nat × Nat)),
    let g := s.host.engines[k]
    copyNext s g = some (r, c) → g.slots.length < 64 → g.farTurn = false ∨ g.waiting = [] → hostReachable s = true →
    let p := c.slot.pay
    let host := (cpHost p + r.row * cpHostStride p + r.off) % 2 ^ 64
    let dva := (cpDva p + r.row * cpDvaStride p + r.off) % 2 ^ 48
    let n := min (cpRowBytes p - r.off) (4096 - host % 4096)
    let x := copyXlate k (!cpOut p) c.id ((pieces dva n).drop r.xlated.length) r.xlated (startCmd c.id s)
    (∀ ds, x = (s1, ps, .done ds) → s1.host = (startCmd c.id s).host →
      (cpOut p = false → ∃ u, exec (.copyRequestIssue k) s = .next u ∧
        (u.host.engines[k]).slots = g.slots ++ [.copy c.id r.row n host ps [] s1.now] ∧ (u.host.engines[k]).farTurn = true ∧
        u.out = s1.out ++ [.hostRead host n] ∧ SameBut [.host, .out] s1 u) ∧
      (∀ ids, cpOut p = true → copyPost k false ps [] s1 = (s2, ids) → s2.host = s1.host →
        ∃ u, exec (.copyRequestIssue k) s = .next u ∧
          (u.host.engines[k]).slots = g.slots ++ [.copy c.id r.row n host ps ids s2.now] ∧ (u.host.engines[k]).farTurn = true ∧
          SameBut [.host] s2 u)) ∧
    (x = (s1, ps, .wait) → exec (.copyRequestIssue k) s = .next (updCopy k c.id (fun r => { r with xlated := ps }) s1)) ∧
    (∀ st, x = (s1, ps, .fail st) → s1.host = (startCmd c.id s).host → g.queue = [r] → r.acks = [] → (g.slots.any fun x => slotOf r.cmd x) = false →
      findCmd s c.id = some c → slotOpcode c.slot = 0x18 → c.step = none →
      ∃ u, exec (.copyRequestIssue k) s = .next u ∧ Completes c st r.moved s u ∧ (u.host.engines[k]).queue = [] ∧ SameBut [.host] s1 u)

/-- COPY_REQUEST_DONE and PCIE_COMPLETION_TIMEOUT (R350, R371, R372): data that come in are written, and count once their writes are
acknowledged; data that go out leave once they have been read; the last request completes the command; a read without an answer ends it
with LINK_TIMEOUT once its requests have ended. -/
def Sys2Proof.Claims.CopiesEnd : Prop :=
  ∀ (s s1 : State) (k : Fin 16) (idx cmd row n host since : Nat) (ps : List (Nat × Nat)) (reqs : List Nat) (r : CopyRun) (c : Cmd),
    let g := s.host.engines[k]
    g.slots[idx]? = some (.copy cmd row n host ps reqs since) → g.queue = [r] → r.cmd = cmd → c.id = cmd →
    findCmd s c.id = some c → slotOpcode c.slot = 0x18 → c.step = none → r.stop = none → r.acks = [] →
    let rest := dropIdx g.slots idx
    let other := (rest.any fun x => slotOf cmd x) = true
    let last := r.issued = true ∧ ¬ other ∧ r.poison = none ∧ cpSignal c.slot.pay = false
    let more := r.issued = false ∨ other
    let queue (r : CopyRun) (u : State) : Prop := u.host.engines = s.host.engines.set k { g with slots := rest, queue := [r] } ∧ u.host.cmds = s.host.cmds
    let run (u : State) : Prop := (more → queue { r with moved := r.moved + n } u) ∧
      (last → Completes c .ok (r.moved + n) s u ∧ u.host.engines = s.host.engines.set k { g with slots := rest, queue := [] }) ∧
      u.host.counters.copyBytes = bump s.host.counters.copyBytes k n
    (∀ d ids, k.val < 8 → copyPost k true ps (dslice d 0 n) (freeSlot k idx s) = (s1, ids) → s1.host = (freeSlot k idx s).host →
      (∀ ds, reqsRes s1 ids = .done ds → more ∨ last →
        ∃ u, exec (.copyRequestDone k idx (.data d)) s = .next u ∧ run u ∧ u.mem = (forgetReqs ids s1).mem ∧ SameBut [.host, .mem] s1 u) ∧
      (reqsRes s1 ids = .wait → ∃ u, exec (.copyRequestDone k idx (.data d)) s = .next u ∧ queue { r with acks := [(ids, n)] } u ∧
        u.mem = s1.mem ∧ SameBut [.host] s1 u)) ∧
    (∀ x, 8 ≤ k.val →
      (∀ ds, reqsRes s reqs = .done ds → poisoned ds.flatten = false → more ∨ last →
        ∃ u, exec (.copyRequestDone k idx x) s = .next u ∧ run u ∧ u.mem = (forgetReqs reqs s).mem ∧
          u.out = s.out ++ [.hostWrite host ds.flatten true] ∧ SameBut [.host, .mem, .out] s u) ∧
      (reqsRes s reqs = .wait → exec (.copyRequestDone k idx x) s = .next s)) ∧
    (k.val < 8 → since + completionTimeout s ≤ s.now →
      (¬ other → ∃ u, exec (.pcieCompletionTimeout k idx) s = .next u ∧ Completes c .linkTimeout r.moved s u ∧ SameBut [.host] s u) ∧
      (other → ∃ u, exec (.pcieCompletionTimeout k idx) s = .next u ∧ queue { r with stop := some .linkTimeout } u ∧ SameBut [.host] s u)) ∧
    (k.val < 8 → s.now < since + completionTimeout s → exec (.pcieCompletionTimeout k idx) s = .next s)

/-- NOP, COPY, INLINE_WRITE and FW_BLOCK, and the copy engines (R350, R367 to R372, R469). -/
def Obligations.CommandsAndCopies : Prop :=
  Claims.HostCommands ∧ Claims.CopiesIssue ∧ Claims.CopiesEnd

/-- Every row that writes a dictionary object (R392, R395, R398): a channel that is not served changes nothing, and a value that fails a
check is answered with the check's status and has no effect. -/
def Obligations.WritesChecked : Prop :=
  ∀ (s : State) (c : Chan) (v : List Byte) (which : RouteTable) (x : Instr × Nat × Nat),
    x ∈ [(.ringClear c v, 0x6101, 4), (.tileFence c v, 0x3001, 2), (.tileUnfence c v, 0x3001, 3), (.lossScaleWrite c v, 0x5020, 3),
      (.emberSetsWrite c v, 0x3100, 1), (.ptInvalidate c v, 0x2001, 2), (.ptRootWrite c v, 0x2001, 1), (.xlateSpansWrite c v, 0x2001, 3),
      (.farMapWrite c v, 0x2002, 1), (.memUeLogClear c v, 0x2003, 3), (.nodeIdWrite c v, 0x4000, 1), (.linkPortsWrite c v, 0x4000, 2),
      (.portDisableWrite c v, 0x4000, 3), (.routingTableWrite c which v, (routeIndex which).1, (routeIndex which).2),
      (.counterSnapshot c v, 0x6000, 1), (.counterLive c v, 0x6000, 2)] ++
      [(.deviceReset c v, 0x1000, 1), (.powerModeWrite c v, 0x1002, 1), (.parkEnter c v, 0x1002, 4), (.parkExit c v, 0x1002, 4),
      (.alertClear c v, 0x1004, 3), (.bootHoldWrite c v, 0x7003, 7), (.bootContinue c v, 0x7003, 8), (.ownerKeyWrite c v, 0x7003, 6),
      (.protInstall c v, 0x7003, 5), (.fwReceivePcie c v, 0x7001, 1), (.fwReceiveKindle c v, 0x7001, 1), (.fwAbort c v, 0x7001, 2),
      (.fwActivate c v, 0x7001, 3), (.fwConfirm c v, 0x7001, 4), (.measExtend c v, 0x7004, 2), (.attestSign c v, 0x7004, 4)] →
    (serves s c = false → exec x.1 s = .next s) ∧
    (serves s c = true → ∃ o, findObject x.2.1 x.2.2 = some o ∧ o.index = x.2.1 ∧ o.sub = x.2.2 ∧
      ∀ st, writeFails c o v s = some st → exec x.1 s = .next { s with out := s.out ++ [.answer c x.2.1 x.2.2 st] })

/-- Dictionary writes to the ring, the tiles, the numerics, the engines and the memory system (R56, R131 to R133, R170, R204, R287, R289,
R297, R298). -/
def Sys2Proof.Claims.UnitWrites : Prop :=
  ∀ (s : State) (c : Chan) (v : List Byte),
    let n := leNat v
    let t : Fin 128 := fin n
    (MayWrite s c 0x6101 4 v → ∃ u, exec (.ringClear c v) s = .next u ∧ Answered c 0x6101 4 .ok s u ∧
      u.train = { s.train with ring := .replicate 1024 .zero, ringHead := 0 } ∧ SameBut [.train, .dict, .out] s u) ∧
    (MayWrite s c 0x3001 2 v →
      (fenced s n = true → ∃ u, exec (.tileFence c v) s = .next u ∧ Answered c 0x3001 2 .okNoOp s u ∧ SameBut [.dict, .out] s u) ∧
      (fenced s n = false → ∃ u, exec (.tileFence c v) s = .next u ∧ WaitsFor c 0x3001 2 v true s u ∧ fenced u n = true ∧
        u.dict.keep.fenceGen = s.dict.keep.fenceGen + 1 ∧ (∀ i, getTile u i = if i = t then fencedTile (getTile s i) else getTile s i) ∧
        SameBut [.dict, .tile] s u)) ∧
    (MayWrite s c 0x3001 3 v →
      (fenced s n = false → ∃ u, exec (.tileUnfence c v) s = .next u ∧ Answered c 0x3001 3 .okNoOp s u ∧ SameBut [.dict, .out] s u) ∧
      (fenced s n = true → ∃ u, exec (.tileUnfence c v) s = .next u ∧ WaitsFor c 0x3001 3 v true s u ∧ fenced u n = true ∧
        u.dict.keep.unfencePending = s.dict.keep.unfencePending ||| (1#128 <<< n) ∧ SameBut [.dict] s u)) ∧
    (MayWrite s c 0x5020 3 v → ∃ u, exec (.lossScaleWrite c v) s = .next u ∧ Answered c 0x5020 3 .ok s u ∧
      u.num = { s.num with lossScale := BitVec.ofNat 32 n, lossClean := 0 } ∧ SameBut [.num, .out] s u) ∧
    (MayWrite s c 0x3100 1 v → ∃ u, exec (.emberSetsWrite c v) s = .next u ∧ Answered c 0x3100 1 .ok s u ∧
      u.rows.obj = { s.rows.obj with emberSets := n } ∧ (∀ (e : Fin 16) (a : Nat), (s.mem.rowStore[e]).lost = none →
        memRead u.mem.rowStore[e] a 1 =
          if a < 64 * max n s.rows.obj.emberSets ∨ 0x3000000 ≤ a ∧ a < 0x3100000 then [(0, false)] else memRead s.mem.rowStore[e] a 1) ∧
      u.rows.engines = s.rows.engines ∧ SameBut [.rows, .mem, .out] s u) ∧
    (MayWrite s c 0x2001 2 v → ∃ u, exec (.ptInvalidate c v) s = .next u ∧
      u.mem.xlate.caches = s.mem.xlate.caches.map (fun x => x.filter fun e => !invalidated n e.page) ∧ u.mem.t1 = s.mem.t1 ∧
      (if s.mem.xlate.walks = [] then Answered c 0x2001 2 .ok s u else WaitsFor c 0x2001 2 v false s u) ∧ SameBut [.mem, .dict, .out] s u) ∧
    (MayWrite s c 0x2001 1 v → ∃ u, exec (.ptRootWrite c v) s = .next u ∧ u.mem.xlate.ptRoot = BitVec.ofNat 64 n ∧
      (∀ q : Fin 4, u.mem.xlate.caches[q] = []) ∧ u.mem.t1 = s.mem.t1 ∧
      (if s.mem.xlate.walks = [] then Answered c 0x2001 1 .ok s u else WaitsFor c 0x2001 1 v false s u) ∧ SameBut [.mem, .dict, .out] s u) ∧
    (MayWrite s c 0x2001 3 v → ∃ u, exec (.xlateSpansWrite c v) s = .next u ∧ Answered c 0x2001 3 .ok s u ∧
      u.mem = { s.mem with xlate := { s.mem.xlate with spans := (arrVals 32 v).map (BitVec.ofNat 256) } } ∧ SameBut [.mem, .out] s u) ∧
    (MayWrite s c 0x2002 1 v → ∃ u, exec (.farMapWrite c v) s = .next u ∧ Answered c 0x2002 1 .ok s u ∧
      u.mem = { s.mem with farMap := .ofFn fun i => BitVec.ofNat 128 ((arrVals 16 v).getD i.val 0) } ∧ SameBut [.mem, .out] s u) ∧
    (MayWrite s c 0x2003 3 v → ∃ u, exec (.memUeLogClear c v) s = .next u ∧ Answered c 0x2003 3 .ok s u ∧
      u.mem = { s.mem with stackCtl := { s.mem.stackCtl with ueLog := [] } } ∧ SameBut [.mem, .dict, .out] s u)

/-- Dictionary writes to the node, the ports, the counters, the clocks and the power modes (R311, R317, R413, R434, R441,
R443, R445, R448). -/
def Sys2Proof.Claims.LinkAndClockWrites : Prop :=
  ∀ (s : State) (c : Chan) (v : List Byte),
    let n := leNat v
    let settled (u : State) : Prop := ∀ p, (getPort u p).state = .disabled ↔ portEnabled u p = false
    (MayWrite s c 0x4000 1 v → ∃ u, exec (.nodeIdWrite c v) s = .next u ∧ WaitsFor c 0x4000 1 v true s u ∧ nodeId u = n ∧ u.links.groups = [] ∧
      (∀ p, if (getPort s p).state = .active then (getPort u p).state = .up ∧ (getPort u p).linkq = (getPort s p).linkq ++ [identFlit u p]
        else getPort u p = getPort s p) ∧ SameBut [.dict, .links] s u) ∧
    (MayWrite s c 0x4000 2 v → ∃ u, exec (.linkPortsWrite c v) s = .next u ∧ Answered c 0x4000 2 .ok s u ∧ u.links.linkPorts.toNat = n ∧
      u.links.portDisable = s.links.portDisable ∧ settled u ∧ SameBut [.links, .out] s u) ∧
    (MayWrite s c 0x4000 3 v → ∃ u, exec (.portDisableWrite c v) s = .next u ∧ Answered c 0x4000 3 .ok s u ∧ u.links.portDisable.toNat = n ∧
      u.links.linkPorts = s.links.linkPorts ∧ settled u ∧ SameBut [.links, .out] s u) ∧
    (MayWrite s c 0x6000 1 v → ∃ u, exec (.counterSnapshot c v) s = .next u ∧ Answered c 0x6000 1 .ok s u ∧
      (chanState u c).snap = some (snapCounters s) ∧ (chanState u c).snapNs = s.now ∧ SameBut [.dict, .out] s u) ∧
    (MayWrite s c 0x6000 2 v → ∃ u, exec (.counterLive c v) s = .next u ∧ Answered c 0x6000 2 .ok s u ∧ (chanState u c).snap = none ∧
      SameBut [.dict, .out] s u) ∧
    (MayWrite s c 0x1000 1 v → ∃ u, exec (.deviceReset c v) s = .next u ∧ Answered c 0x1000 1 .ok s u ∧
      u.clk = { s.clk with resetDue := some (s.now + 10000000, match c with | .fn _ => 1 | .mailbox => 2) } ∧ SameBut [.clk, .dict, .out] s u) ∧
    (MayWrite s c 0x1002 1 v →
      (s.clk.mode.toNat = n → exec (.powerModeWrite c v) s = .next { s with out := s.out ++ [.answer c 0x1002 1 .ok] }) ∧
      (s.clk.mode.toNat ≠ n → ∃ u, exec (.powerModeWrite c v) s = .next u ∧ WaitsFor c 0x1002 1 v false s u ∧
        u.clk = (if s.clk.mode.toNat < n then {
          s.clk with mode := BitVec.ofNat 8 n, changing := true, modeCeiling := modeWatts (BitVec.ofNat 8 n), div := modeDiv (BitVec.ofNat 8 n) } else { s.clk with mode := BitVec.ofNat 8 n, changing := true }) ∧ SameBut [.clk, .dict] s u)) ∧
    (MayWrite s c 0x1002 4 v →
      (n = 1 → s.clk.park = .awake → ∃ u, exec (.parkEnter c v) s = .next u ∧ WaitsFor c 0x1002 4 v false s u ∧
        u.clk = { s.clk with park := .parking } ∧ SameBut [.clk, .dict] s u) ∧
      (n = 0 → s.clk.park = .parked → ∃ u, exec (.parkExit c v) s = .next u ∧ WaitsFor c 0x1002 4 v false s u ∧
        u.clk = { s.clk with park := .waking } ∧ SameBut [.clk, .dict] s u) ∧
      (n = 0 → s.clk.park = .awake → exec (.parkExit c v) s = .next { s with out := s.out ++ [.answer c 0x1002 4 .ok] })) ∧
    (MayWrite s c 0x1004 3 v → ∃ u, exec (.alertClear c v) s = .next u ∧ Answered c 0x1004 3 .ok s u ∧
      (∀ k < 16, bit u.clk.alerts k = (bit s.clk.alerts k && (!bit (BitVec.ofNat 16 n) k || alertHolds s k))) ∧ SameBut [.clk, .dict, .out] s u)

/-- A write of a routing table (R312): it begins with none of its entries in place, and is answered when its last entry is. -/
def Sys2Proof.Claims.RoutesChange : Prop :=
  ∀ (s : State) (c : Chan) (v : List Byte) (w : RouteTable),
    let xs := (arrVals 4 v).map (BitVec.ofNat 32)
    let write (k : Nat) : RouteWrite := { index := (routeIndex w).1, sub := (routeIndex w).2, values := xs, next := k }
    (MayWrite s c (routeIndex w).1 (routeIndex w).2 v → (∀ x ∈ s.links.routeWrites, (x.index, x.sub) ≠ routeIndex w) →
      ∃ u, exec (.routingTableWrite c w v) s = .next u ∧ WaitsFor c (routeIndex w).1 (routeIndex w).2 v false s u ∧
        u.links = { s.links with routeWrites := s.links.routeWrites ++ [write 0] } ∧ SameBut [.links, .dict] s u) ∧
    (∀ k y, (s.dict.waiting.find? (actionOver s)) = some y → y.req = none → controlRuns s = true → (y.index, y.sub) = routeIndex w →
      s.links.routeWrites = [write k] → k ≤ xs.length → (w = .groupInject ∨ w = .groupB ∨ w = .groupC → xs.length = 128) →
      (w = .memberInject ∨ w = .memberB ∨ w = .memberC → xs.length = 256) →
      let r := s.links.routes
      let g (old : Vector (BitVec 32) 128) : Vector (BitVec 32) 128 := .ofFn fun i => if i.val < k then old[i] else xs.getD i.val 0
      let m (old : Vector (BitVec 32) 256) : Vector (BitVec 32) 256 := .ofFn fun i => if i.val < k then old[i] else xs.getD i.val 0
      ∃ u, exec .cmdActionEnd s = .next u ∧ Answered y.ch y.index y.sub .ok s u ∧ u.links = { s.links with
        routeWrites := []
        routes := match w with
          | .groupInject => { r with groupInject := g r.groupInject } | .groupB => { r with groupB := g r.groupB }
          | .groupC => { r with groupC := g r.groupC } | .memberInject => { r with memberInject := m r.memberInject }
          | .memberB => { r with memberB := m r.memberB } | .memberC => { r with memberC := m r.memberC } } ∧
        SameBut [.links, .dict, .out] s u)

/-- Dictionary writes to the units, the links and the clocks. -/
def Obligations.UnitAndLinkWrites : Prop :=
  Claims.UnitWrites ∧ Claims.LinkAndClockWrites ∧ Claims.RoutesChange

/-- Dictionary writes to boot, firmware update and attestation (R464, R465, R468, R471, R473, R474). -/
def Obligations.FirmwareWrites : Prop :=
  ∀ (s : State) (c : Chan) (v : List Byte),
    let n := leNat v
    let ended (i j : Nat) (u : State) : Prop := ∃ m, u.out = s.out ++ m ++ [.answer c i j .ok]
    let receiving (u : State) : Prop := ended 0x7001 1 u ∧ u.host.dev = .updating ∧
      u.boot.recv.map (fun r => (r.source, r.next, r.inFlash, r.children.length)) = some (n, 0, 0, s.boot.kindleChildren.length) ∧
      u.host.cmds = s.host.cmds ∧ SameBut [.host, .mem, .tile, .boot, .dict, .out] s u
    (MayWrite s c 0x7003 7 v → s.boot.phase = .hold → n = 1 → ∃ u, exec (.bootHoldWrite c v) s = .next u ∧ Answered c 0x7003 7 .ok s u ∧
      u.boot = { s.boot with bootHold := true } ∧ SameBut [.boot, .out] s u) ∧
    (MayWrite s c 0x7003 8 v →
      (s.boot.phase = .hold → ∃ u, exec (.bootContinue c v) s = .next u ∧ Answered c 0x7003 8 .ok s u ∧ u.boot.phase = .training ∧
        u.boot.protLock = true ∧ u.boot.windows = s.boot.nextWindows ∧ (∀ k : Fin 8, (u.clk.memPhy[k]).enabled = true ∨ 3 ≤ (s.clk.memPhy[k]).fails) ∧
        (∀ p, portEnabled s p = true → (getPort u p).state = .training) ∧ SameBut [.boot, .clk, .links, .dict, .out] s u) ∧
      (s.boot.phase ≠ .hold → ∃ u, exec (.bootContinue c v) s = .next u ∧ Answered c 0x7003 8 .okNoOp s u ∧ SameBut [.dict, .out] s u)) ∧
    (MayWrite s c 0x7003 6 v → ∃ u, exec (.ownerKeyWrite c v) s = .next u ∧ Answered c 0x7003 6 .ok s u ∧
      u.boot = { s.boot with ownerKey := v } ∧ SameBut [.boot, .out] s u) ∧
    (MayWrite s c 0x7003 5 v →
      (∀ st, installFails s v = some st → ∃ u, exec (.protInstall c v) s = .next u ∧ Answered c 0x7003 5 st s u ∧ SameBut [.dict, .out] s u) ∧
      (installFails s v = none → ∃ u, exec (.protInstall c v) s = .next u ∧ WaitsFor c 0x7003 5 v false s u ∧ SameBut [.dict] s u)) ∧
    (MayWrite s c 0x7001 1 v → (n = 1 → ∃ u, exec (.fwReceivePcie c v) s = .next u ∧ receiving u) ∧
      (n = 2 → ∃ u, exec (.fwReceiveKindle c v) s = .next u ∧ receiving u)) ∧
    (MayWrite s c 0x7001 2 v → ∀ r, s.boot.recv = some r → ∃ u, exec (.fwAbort c v) s = .next u ∧ ended 0x7001 2 u ∧ u.boot.recv = none ∧
      u.boot.progress.status = 0x30 ∧ (r.back = 2 → u.host.dev = .ready) ∧ (r.back ≠ 2 → s.host.heldDue = false → u.host.dev = .running) ∧
      (r.back ≠ 2 → s.host.heldDue = true → u.host.dev = .held) ∧ SameBut [.host, .boot, .dict, .out] s u) ∧
    (MayWrite s c 0x7001 3 v → ∃ u, exec (.fwActivate c v) s = .next u ∧ ended 0x7001 3 u ∧ u.host.dev = .updating ∧
      u.clk = { s.clk with resetDue := some (s.now + 10000000, 3) } ∧ SameBut [.host, .boot, .clk, .dict, .out] s u) ∧
    (MayWrite s c 0x7001 4 v → ∃ u, exec (.fwConfirm c v) s = .next u ∧ WaitsFor c 0x7001 4 v false s u ∧ SameBut [.dict] s u) ∧
    (MayWrite s c 0x7004 2 v → ∃ u, exec (.measExtend c v) s = .next u ∧ Answered c 0x7004 2 .ok s u ∧
      u.boot = { s.boot with meas := s.boot.meas.set 7 (sha256 (s.boot.meas[7] ++ v)) } ∧ SameBut [.boot, .dict, .out] s u) ∧
    (MayWrite s c 0x7004 4 v → ∃ u, exec (.attestSign c v) s = .next u ∧ Answered c 0x7004 4 .ok s u ∧
      u.boot = { s.boot with signing := some (attestBody s) } ∧ SameBut [.boot, .dict, .out] s u)

/-- Messages of the field network (R394, R398, R399, R401 to R404, R408), shown on a server that waits for no memory operation: a repeated
request gets the kept answer, and is a use of its channel; a broken one is counted and answered; READ, WRITE, DESCRIBE and DISCOVER are
answered with what they ask for; a frame that the port does not accept leaves no trace. -/
def Sys2Proof.Claims.RequestsAnswered : Prop :=
  ∀ (s : State) (mac : BitVec 48) (x : VmpRx), s.clk.refclk = true → s.dict.serving = none → s.dict.queue = [] →
    let c : Chan := .fn mac
    let m := x.msg
    let t : State := { s with dict := { s.dict with counters := { s.dict.counters with rxFrames := addSat s.dict.counters.rxFrames 1 } } }
    let known (op : Nat) : Option KeptResponse := (chanState s c).kept.find? fun k => sameRequest k.request (withOp op m).hdr
    let taken (op : Nat) : Prop := serves s c = true ∧ acceptsFrame s x.frame (withOp op m) = true ∧
      (s.dict.waiting.any fun w => w.ch == c && w.req.any (sameRequest (withOp op m).hdr)) = false
    let fresh (op : Nat) : Prop := taken op ∧ known op = none ∧ vmpMalformed c (withOp op m) = false
    let counted (u : State) : Prop :=
      u.dict.counters.txFrames = addSat s.dict.counters.txFrames 1 ∧ u.dict.counters.rxFrames = addSat s.dict.counters.rxFrames 1 ∧
      u.dict.keep = s.dict.keep ∧ u.dict.waiting = s.dict.waiting
    let sent (op : Nat) (st : Status) (data : List Byte) (total : Nat) (final : Bool) (u : State) : Prop :=
      u.out = s.out ++ [.fnFrame mac (framed (vmpResponse (withOp op m).hdr st data total final))] ∧ counted u
    let i := vmIndex m.hdr
    let j := vmSub m.hdr
    let n := vmLength m.hdr
    let d := m.data.take n
    let emptied : State := updChan c (fun x => { x with wbuf := none, lost := none }) (updChan c (expireBuffer s.now) t)
    (∀ op k, op < 2 → taken op → known op = some k →
      ∃ u, exec (if op = 0 then .vmpRead c x else .vmpWrite c x) s = .next u ∧ u.out = s.out ++ [.fnFrame mac (framed k.response)] ∧
        u.dict.counters.duplicates = addSat s.dict.counters.duplicates 1 ∧ counted u ∧
        u.dict.channels = touchChan (chanState s c) s.dict.channels ∧ SameBut [.dict, .out] s u) ∧
    (∀ op, op < 2 → taken op → known op = none → vmpMalformed c (withOp op m) = true →
      ∃ u, exec (if op = 0 then .vmpRead c x else .vmpWrite c x) s = .next u ∧ sent op .malformed [] (vmTotal m.hdr) false u ∧
        u.dict.counters.rxBad = addSat s.dict.counters.rxBad 1 ∧ SameBut [.dict, .out] s u) ∧
    (∀ o w, fresh 0 → vmOffset m.hdr = 0 → findObject i j = some o → readObject c o (updChan c (fun x => { x with latch := none }) t) = .ok w →
      0 < w.length → ∃ u, exec (.vmpRead c x) s = .next u ∧ sent 0 .ok (w.take n) w.length (decide (w.length ≤ n)) u ∧
        (chanState u c).latch = some { index := i, sub := j, value := w, taken := s.now } ∧ SameBut [.dict, .out] s u) ∧
    (∀ o l, fresh 0 → vmOffset m.hdr ≠ 0 → findObject i j = some o → bootForbids s o = false → (chanState s c).latch = some l → l.index = i →
      l.sub = j → s.now < l.taken + 1000000000 → vmOffset m.hdr < l.value.length →
      let w := (l.value.drop (vmOffset m.hdr)).take n
      ∃ u, exec (.vmpRead c x) s = .next u ∧ sent 0 .ok w l.value.length (decide (vmOffset m.hdr + w.length = l.value.length)) u ∧
        (chanState u c).latch = some l ∧ SameBut [.dict, .out] s u) ∧
    (∀ st, fresh 1 → vmOffset m.hdr = 0 → firstSegment c (withOp 1 m) emptied = some st →
      ∃ u, exec (.vmpWrite c x) s = .next u ∧ sent 1 st [] (vmTotal m.hdr) false u ∧ (chanState u c).wbuf = none ∧ SameBut [.dict, .out] s u) ∧
    (fresh 1 → vmOffset m.hdr = 0 → firstSegment c (withOp 1 m) emptied = none → vmFinal m.hdr = false → d.length ≤ vmTotal m.hdr →
      ∃ u, exec (.vmpWrite c x) s = .next u ∧ sent 1 .ok [] (vmTotal m.hdr) false u ∧
        (chanState u c).wbuf = some { index := i, sub := j, total := vmTotal m.hdr, value := d, last := s.now } ∧ SameBut [.dict, .out] s u) ∧
    (fresh 1 → vmOffset m.hdr ≠ 0 → (chanState s c).wbuf = none →
      ∃ u, exec (.vmpWrite c x) s = .next u ∧ SameBut [.dict, .out] s u ∧
        sent 1 (if (chanState s c).lost.any fun b => nextSegment b (withOp 1 m).hdr then .stateConflict else .malformed) [] (vmTotal m.hdr) false u) ∧
    (fresh 1 → vmOffset m.hdr = 0 → i = 0x4000 → j = 5 → s.host.dev ≠ .booting → vmFinal m.hdr = true → vmTotal m.hdr = 1 → d.length = 1 →
      leNat d ≠ 0 → ∃ u, exec (.vmpWrite c x) s = .next u ∧ sent 1 .ok [] 1 false u ∧
        u.links = { s.links with hopLimit := BitVec.ofNat 8 (leNat d) } ∧ SameBut [.links, .dict, .out] s u) ∧
    (∀ o, fresh 3 → findObject i j = some o → bootForbids s o = false →
      ∃ u, exec (.vmpDescribe c x) s = .next u ∧ sent 3 .ok (describe o) 16 true u ∧ SameBut [.dict, .out] s u) ∧
    (fresh 7 → ∃ u, exec (.discover mac x) s = .next u ∧ sent 7 .ok (discoverData s) 32 true u ∧ SameBut [.dict, .out] s u) ∧
    (serves s c = true → acceptsFrame s x.frame m = true → vmOp m.hdr = 2 ∨ vmOp m.hdr = 4 → ∃ u, exec (.unsolicitedOpRx c x) s = .next u ∧
      u.dict = { s.dict with counters := {
        s.dict.counters with rxFrames := addSat s.dict.counters.rxFrames 1, rxBad := addSat s.dict.counters.rxBad 1 } } ∧ SameBut [.dict] s u) ∧
    (acceptsFrame s x.frame m = false → exec (.fnFrameDiscard mac x) s = .next s) ∧
    (acceptsFrame s x.frame (withOp 0 m) = false → exec (.vmpRead c x) s = .next s)

/-- MEM_READ and MEM_WRITE of the field network (R404, R406): an operation that fails its checks is answered at once, and so is a write that
finds room in its channel; for a read of T1 the server waits, up to 32 requests wait behind it and more are dropped, and it is answered once
its channel has served it. -/
def Sys2Proof.Claims.MemoryOperated : Prop :=
  ∀ (s : State) (mac : BitVec 48) (x : VmpRx), s.clk.refclk = true →
    let c : Chan := .fn mac
    let m := x.msg
    let a := vmAddr m.hdr
    let n := vmLength m.hdr
    let t : State := { s with dict := { s.dict with counters := { s.dict.counters with rxFrames := addSat s.dict.counters.rxFrames 1 } } }
    let taken (op : Nat) : Prop := serves s c = true ∧ acceptsFrame s x.frame (withOp op m) = true ∧ repeats s c (withOp op m).hdr = false
    let fresh (op : Nat) : Prop := taken op ∧ ((chanState s c).kept.find? fun k => sameRequest k.request (withOp op m).hdr) = none ∧
      vmpMalformed c (withOp op m) = false
    let free := s.dict.serving = none ∧ s.dict.queue = []
    let sent (op : Nat) (st : Status) (data : List Byte) (total : Nat) (final : Bool) (u : State) : Prop :=
      u.out = s.out ++ [.fnFrame mac (framed (vmpResponse (withOp op m).hdr st data total final))]
    (∀ st, free → fresh 5 → memOpFails .fieldR (withOp 5 m).hdr false s = some st →
      ∃ u, exec (.memRead c x) s = .next u ∧ sent 5 st [] (vmTotal m.hdr) false u ∧ SameBut [.dict, .out] s u) ∧
    (free → fresh 5 → memOpFails .fieldR (withOp 5 m).hdr false s = none → place a = .stack a → Unused s.mem.nextId s → ChannelFree a s →
      meetsRecord s a n = false →
      ∃ u e, exec (.memRead c x) s = .next u ∧ u.dict.serving = some { ch := c, msg := withOp 5 m, req := s.mem.nextId } ∧
        u.mem.stackCtl.queue = s.mem.stackCtl.queue ++ [e] ∧ (e.id, e.pa, e.len, e.write, e.taken) = (s.mem.nextId, a, n, false, true) ∧
        e.data = memRead s.mem.t1 a n ∧ u.mem.t1 = s.mem.t1 ∧ SameBut [.mem, .dict] s u) ∧
    (free → fresh 6 → memOpFails .fieldW (withOp 6 m).hdr true s = none → place a = .stack a → Unused s.mem.nextId s → ChannelFree a s →
      ∃ u, exec (.memWrite c x) s = .next u ∧ sent 6 .ok [] (vmTotal m.hdr) false u ∧ u.mem.t1 = memWrite s.mem.t1 a (clean (m.data.take n)) ∧
        u.mem.requests = s.mem.requests ∧ SameBut [.mem, .dict, .out, .tile] s u) ∧
    (∀ y, s.dict.serving = some y → reqEnded s y.req = none → taken 0 →
      ((s.dict.queue.filter fun q => onFieldNet q.ch).length < 32 →
        exec (.vmpRead c x) s = .next { t with dict := { t.dict with queue := t.dict.queue ++ [{ ch := c, msg := withOp 0 m }] } }) ∧
      (32 ≤ (s.dict.queue.filter fun q => onFieldNet q.ch).length → exec (.vmpRead c x) s = .next { t with
        dict := { t.dict with counters := { t.dict.counters with rxDropped := addSat t.dict.counters.rxDropped 1 } } })) ∧
    (∀ y b d, s.dict.serving = some y → y.ch = .fn b → b ≠ mac → vmOp y.msg.hdr = 5 → reqEnded s y.req = some (.ok, d) → s.dict.queue = [] → taken 7 →
      s.dict.channels = [] → vmpMalformed c (withOp 7 m) = false →
      ∃ u, exec (.discover mac x) s = .next u ∧ u.dict.serving = none ∧ findReq u y.req = none ∧ u.out = s.out ++ [
          .fnFrame b (framed (vmpResponse y.msg.hdr (if poisoned d then .dataPoison else .ok) (dataBytes d) 0 true)),
          .fnFrame mac (framed (vmpResponse (withOp 7 m).hdr .ok (discoverData s) 32 true))] ∧ SameBut [.mem, .dict, .out] s u)

/-- Messages of the field network (R394, R398, R399, R401 to R404, R406, R408). -/
def Obligations.MessagesAnswered : Prop :=
  Claims.RequestsAnswered ∧ Claims.MemoryOperated

/-- The server's own events (R396, R398, R400, R403, R407): latches and buffers expire, the store commits, actions end, changes are notified,
and with a beacon PLCA settings that have been answered take effect. -/
def Sys2Proof.Claims.ServerEvents : Prop :=
  ∀ s : State,
    (∀ (c : Chan) (x : ChanState), s.dict.channels = [x] → x.ch = c →
      exec (.readLatchExpiry c) s = .next { s with dict := { s.dict with channels := [
        if x.latch.any (fun l => decide (l.taken + 1000000000 ≤ s.now)) then { x with latch := none } else x] } } ∧
      exec (.writeBufferExpiry c) s = .next { s with dict := { s.dict with channels := [
        match x.wbuf with
        | some b => if b.last + 1000000000 ≤ s.now then { x with wbuf := none, lost := some b } else x
        | none => x] } }) ∧
    (controlRuns s = true →
      (∀ w, (s.dict.waiting.find? fun w => w.store) = some w → w.req = none → w.index ≠ 0x3001 →
        ∃ u, exec .configStoreCommit s = .next u ∧ Answered w.ch w.index w.sub .ok s u ∧ u.dict.waiting = dropFirst (fun x => x == w) s.dict.waiting ∧
          (u.boot.flash.store.find? fun r => r.format == s.boot.settings && r.index == w.index && r.sub == w.sub) = some {
            format := s.boot.settings, index := w.index, sub := w.sub, value := w.value } ∧
          (∀ r ∈ s.boot.flash.store, r.index ≠ w.index ∨ r.sub ≠ w.sub → r ∈ u.boot.flash.store) ∧ SameBut [.dict, .boot, .out] s u) ∧
      (∀ w, (s.dict.waiting.find? fun w => w.store) = some w → w.req = none → w.index = 0x3001 →
        ∃ u, exec .configStoreCommit s = .next u ∧ Answered w.ch w.index w.sub .ok s u ∧
          (∀ j, j = 1 ∨ j = 4 ∨ j = 6 → (u.boot.flash.store.find? fun r => r.format == s.boot.settings && r.index == 0x3001 && r.sub == j) = some {
            format := s.boot.settings, index := 0x3001, sub := j, value := keptValue s.dict.keep 0x3001 j }) ∧ SameBut [.dict, .boot, .out] s u) ∧
      (∀ w, (s.dict.waiting.find? (actionOver s)) = some w → w.req = none →
        ∃ u, exec .cmdActionEnd s = .next u ∧ Answered w.ch w.index w.sub .ok s u ∧ u.dict.waiting = dropFirst (fun x => x == w) s.dict.waiting ∧
          (w.index = 0x7003 → u.boot = { s.boot with flash := { s.boot.flash with owner := s.boot.flash.owner.set (installSlot s) (some w.value) } }) ∧
          (w.index = 0x2001 → u.boot = s.boot) ∧
          (w.index ≠ 0x4010 → w.index ≠ 0x4011 → SameBut [.dict, .boot, .out] s u)) ∧
      (∀ x v, s.dict.notifyMac ≠ 0 → s.clk.refclk = true → notifyDue s = some (x, v) →
        ∃ u, exec .notifySend s = .next u ∧ u.out = s.out ++ [.fnFrame s.dict.notifyMac (notifyMessage s.dict.notifySeq.toNat x.index x.sub v)] ∧
          u.dict.notifySeq = s.dict.notifySeq + 1 ∧ u.dict.counters.notifySent = addSat s.dict.counters.notifySent 1 ∧
          u.dict.notified.length = s.dict.notified.length ∧ SameBut [.dict, .out] s u)) ∧
    (controlRuns s = true →
      let sends := s.dict.plcaNow.id = 0 ∧ s.clk.refclk = true
      exec .plcaBeacon s = .next { s with
        dict := { s.dict with plcaNow := s.dict.plcaSet }, out := s.out ++ if sends then [.beacon s.dict.plcaNow.count.toNat] else [] })

/-- Registers of BAR0 and the mailbox (R353, R354, R409, R410). -/
def Sys2Proof.Claims.RegistersWritten : Prop :=
  ∀ (s : State), bar0Open s = true →
    let b := s.host.bar0
    let bar (x : Bar0) : State := { s with host := { s.host with bar0 := x } }
    (∀ v : BitVec 64,
      let bs := bytesOf 8 v
      (∀ n, v.toNat % 8 = n → n = 0 ∨ n = 6 ∨ n = 7 → s.host.session.op = none →
        exec (.registerWrite 0x008 bs) s = .next { s with host := { s.host with session := { s.host.session with op := none, result := .malformed } } }) ∧
      exec (.registerWrite 0x020 bs) s = .next (bar { b with events := b.events &&& ~~~(v.setWidth 4) }) ∧
      exec (.registerWrite 0x028 bs) s = .next (bar { b with eventVector := BitVec.ofNat 8 (fld v 7 0), eventEnable := BitVec.ofNat 4 (fld v 11 8) }) ∧
      exec (.registerWrite 0x030 bs) s = .next (bar { b with bar2Enable := bit v 0, bar2Base := BitVec.ofNat 18 (fld v 47 30) }) ∧
      exec (.registerWrite 0x040 bs) s =
        .next { s with host := { s.host with session := { s.host.session with select := BitVec.ofNat 8 (min (fld v 7 0) 191) } } } ∧
      exec (.registerWrite 0x10008 bs) s =
        .next { s with dict := { s.dict with mailbox := { s.dict.mailbox with vector := BitVec.ofNat 8 (fld v 7 0), irq := bit v 8 } } } ∧
      exec (.registerWrite 0x10000 bs) s =
        .next { s with dict := { s.dict with mailbox := { s.dict.mailbox with done := s.dict.mailbox.done && !bit v 2 } } }) ∧
    (∀ (k : Fin 256) (v : BitVec 64), b.pba = 0 → exec (.registerWrite (BitVec.ofNat 24 (0x4000 + 16 * k.val + 8)) (bytesOf 8 v)) s =
      .next (bar { b with msix := b.msix.set k (BitVec.ofNat 128 (v.toNat * 2 ^ 64 + b.msix[k].toNat % 2 ^ 64)) })) ∧
    (∀ i : Nat, i < 0x800 → ∀ v : BitVec 64, exec (.registerWrite (BitVec.ofNat 24 (0x11000 + 8 * i)) (bytesOf 8 v)) s =
      .next { s with dict := { s.dict with mailbox := { s.dict.mailbox with request := cellsSetAll s.dict.mailbox.request (8 * i) (bytesOf 8 v) } } }) ∧
    (let m := mailboxRequest s
     s.dict.serving = none → s.dict.queue = [] → s.dict.mailbox.busy = false → s.dict.mailbox.orphans = 0 → s.dict.mailbox.irq = false → serves s .mailbox = true →
      (chanState s .mailbox).kept = [] → vmpMalformed .mailbox m = false →
      let answered (st : Status) (data : List Byte) (total : Nat) (final : Bool) (u : State) : Prop :=
        (u.dict.mailbox.busy, u.dict.mailbox.done) = (false, true) ∧ u.out = s.out ∧
        u.dict.mailbox.response = bytesOf 32 (vmpResponse m.hdr st data total final).hdr ++ data ∧
        u.dict.counters.mbOps = addSat s.dict.counters.mbOps 1 ∧ SameBut [.dict] s u
      (vmOp m.hdr = 7 → ∃ u, exec .mailboxGo s = .next u ∧ answered .ok (discoverData s) 32 true u) ∧
      (∀ o, vmOp m.hdr = 3 → findObject (vmIndex m.hdr) (vmSub m.hdr) = some o → bootForbids s o = false →
        ∃ u, exec .mailboxGo s = .next u ∧ answered .ok (describe o) 16 true u) ∧
      (vmOp m.hdr = 5 → ∃ u, exec .mailboxGo s = .next u ∧ answered .unknownOpcode [] (vmTotal m.hdr) false u))

/-- The dictionary server's own events, and the registers of BAR0 (R354, R396, R398, R400, R403, R407, R410). -/
def Obligations.ServerAndRegisters : Prop :=
  Claims.ServerEvents ∧ Claims.RegistersWritten

/-- LOCK_CHECK and ROOT_LOCK_TIMEOUT (R427): three exact counts lock a loop; a wrong count unlocks it; a loop that does not lock in 5 ms is
tried three times. -/
def Sys2Proof.Claims.LoopsLock : Prop :=
  ∀ (s : State) (l : LoopId), powered s = true → s.clk.refclk = true → (loopOf s l).enabled = true →
    let x := loopOf s l
    let late := x.locked = false ∧ l ≠ .root ∧ x.since + 5000000 ≤ s.now
    (x.passes + 1 < 3 → exec (.lockCheck l 4096) s = .next (updLoop l (fun x => { x with passes := x.passes + 1 }) s)) ∧
    (3 ≤ x.passes + 1 → ∃ u, exec (.lockCheck l 4096) s = .next u ∧ loopOf u l = { x with passes := 3, locked := true, fails := 0 } ∧
      (l = .root → u.clk.coasting = false) ∧ SameBut [.clk] s u) ∧
    (∀ edges, edges ≠ 4096 →
      (x.locked = true → ∃ u, exec (.lockCheck l edges) s = .next u ∧ loopOf u l = { x with passes := 0, locked := false, since := s.now } ∧
        u.clk.counters = { s.clk.counters with lockRetries := addSat s.clk.counters.lockRetries 1 } ∧ SameBut [.clk] s u) ∧
      (x.locked = false → ¬late → exec (.lockCheck l edges) s = .next (updLoop l (fun x => { x with passes := 0, locked := false }) s)) ∧
      (late → x.fails + 1 < 3 → exec (.lockCheck l edges) s = .next (updLoop l (fun x => { Loop.start s.now with fails := x.fails + 1 }) s)) ∧
      (late → 3 ≤ x.fails + 1 → ∃ u, exec (.lockCheck l edges) s = .next u ∧ loopOf u l = { Loop.off with fails := 3 } ∧ bit u.clk.alerts 6 = true ∧
        ((∃ k, l = .memPhy k) → s.host.dev = .booting → u.host.dev = .faulted ∧ u.boot.phase = .stopped) ∧
        ((∀ k, l ≠ .memPhy k) ∨ s.host.dev ≠ .booting → u.host.dev = s.host.dev ∧ SameBut [.clk, .host, .out] s u))) ∧
    (let r := s.clk.root
     r.enabled = true → r.locked = false → (∀ d, (muxOf s d).onLoop = false ∧ (muxOf s d).target ≠ some true) → r.since + 5000000 ≤ s.now →
      (r.fails + 1 < 3 → exec .rootLockTimeout s = .next { s with clk := { s.clk with root := { Loop.start s.now with fails := r.fails + 1 } } }) ∧
      (3 ≤ r.fails + 1 → ∃ u, exec .rootLockTimeout s = .next u ∧ u.clk.root = { Loop.off with fails := 3 } ∧ bit u.clk.alerts 6 = true ∧
        u.host.dev = .faulted ∧ u.boot.phase = .stopped ∧ u.host.cmds = []))

/-- The clock multiplexers, a hanging clock and the loss and return of REFCLK (R428, R430 to R432). -/
def Sys2Proof.Claims.ClocksSwitch : Prop :=
  ∀ (s : State) (d : Domain),
    let m := muxOf s d
    (∀ sel, controlRuns s = true → m.target = none → m.onLoop ≠ sel →
      exec (.muxSelect d sel) s = .next (updMux d (fun m => { m with target := some sel }) s)) ∧
    (∀ t, m.target = some t → domainRuns s d = true → exec (.muxSwitchDone d) s = .next (updMux d (fun m => { m with onLoop := t, target := none }) s)) ∧
    (powered s = true → s.clk.refclk = true → m.hung = false → domainRuns s d = false →
      ∃ u, exec (.clockHangDetect d) s = .next u ∧ muxOf u d = { m with hung := true } ∧ bit u.clk.alerts 5 = true ∧ u.host.dev = s.host.dev ∧
        SameBut [.clk, .host, .out] s u) ∧
    (∀ edges, s.clk.refclk = true → controlRuns s = true → s.clk.control.onLoop = true →
      (256 ≤ edges → exec (.refLossDetect edges) s = .next s) ∧
      (edges < 256 → ∃ u, exec (.refLossDetect edges) s = .next u ∧ u.clk.refclk = false ∧ u.clk.coasting = true ∧ u.clk.root.locked = false ∧
        bit u.clk.alerts 0 = true ∧ u.clk.counters.refLostEvents = addSat s.clk.counters.refLostEvents 1 ∧ u.host.dev = .faulted ∧ u.host.cmds = [] ∧
        u.host.done = [] ∧ u.host.pcie.linkUp = false ∧ (u.mem.t1.lost.isSome = true ∧ u.mem.t1.cells = [] ∧ u.mem.t1.poison = []) ∧
        (∀ p, (getPort u p).state = .down ∨ (getPort u p).state = .disabled))) ∧
    (s.clk.refclk = false → ∃ u, exec .refclkReturn s = .next u ∧ u.clk.refclk = true ∧ u.clk.root = { s.clk.root with since := s.now, passes := 0 } ∧
      (∀ p : Fin 16, u.clk.linkPhy[p] = { s.clk.linkPhy[p] with since := s.now, passes := 0 }) ∧ u.clk.alerts = s.clk.alerts ∧
      u.clk.coasting = s.clk.coasting ∧ SameBut [.clk] s u)

/-- Loops, multiplexers and the reference clock (R427 to R432). -/
def Obligations.ClocksRun : Prop :=
  Claims.LoopsLock ∧ Claims.ClocksSwitch

/-- Device reset, PWR_EN, power-on reset, undervoltage and THERMTRIP (R434 to R439, R447). -/
def Sys2Proof.Claims.ModuleStartsAndStops : Prop :=
  ∀ s : State,
    let shipped (u : State) : Prop := u.host.dev = .booting ∧ u.boot.phase = .rom ∧ u.mem = State.reset.mem ∧ u.tile = State.reset.tile ∧
      u.rows = State.reset.rows ∧ u.hist = State.reset.hist ∧ u.links = State.reset.links ∧ u.num = State.reset.num ∧ u.train = State.reset.train ∧
      u.boot.flash = s.boot.flash ∧ u.boot.ownerKey = s.boot.ownerKey ∧ u.boot.fusedEpoch = s.boot.fusedEpoch ∧ u.pending = s.pending ∧ u.now = 0
    let off (u : State) : Prop := u.clk.rails = .off ∧ u.host.dev = .off ∧ u.out = s.out ++ [.railsOff] ∧ u.boot.flash = s.boot.flash ∧
      u.boot.ownerKey = s.boot.ownerKey ∧ u.pending = s.pending ∧ u.mem = State.reset.mem
    (∀ t cause, s.clk.resetDue = some (t, cause) → t ≤ s.now → controlRuns s = true →
      ∃ u, exec .deviceResetAssert s = .next u ∧ shipped u ∧ u.dict.keep = s.dict.keep ∧ u.clk.resetCause = cause ∧
        u.clk.resetCount = (s.clk.resetCount + 1) % 2 ^ 32 ∧ u.clk.rails = s.clk.rails ∧ u.out = s.out) ∧
    (∀ t cause, s.clk.resetDue = some (t, cause) → s.now < t → exec .deviceResetAssert s = .next s) ∧
    (∀ mv ref low, s.clk.pwrEn = false →
      let on := { s with clk := { s.clk with pwrEn := true, refclk := ref } }
      (mv < 36000 ∨ low < 100 → exec (.pwrEnRise mv ref low) s = .next on) ∧
      (36000 ≤ mv → 100 ≤ low → mv ≤ 44000 → ref = true → s.host.pcie.perst = true →
        exec (.pwrEnRise mv ref low) s = .next { on with clk := { on.clk with rails := .ramping } }) ∧
      (36000 ≤ mv → 100 ≤ low → 44000 < mv ∨ ref = false ∨ s.host.pcie.perst = false →
        exec (.pwrEnRise mv ref low) s = .fault .outsideSpecification)) ∧
    (∀ slot, s.clk.rails = .ramping → ∃ u, exec (.porRelease slot) s = .next u ∧ shipped u ∧ u.clk.rails = .up ∧ u.clk.slotId = slot ∧
      u.dict.keep = Persistent.ofSlot slot ∧ u.dict.plcaNow = u.dict.keep.plca ∧ u.out = s.out) ∧
    (s.clk.rails ≠ .off → ∃ u, exec .pwrEnFall s = .next u ∧ off u ∧ u.clk.pwrEn = false ∧ u.clk.thermtrip = false) ∧
    (s.clk.rails ≠ .off → ∃ u, exec .vinUndervoltage s = .next u ∧ off u ∧ u.clk.pwrEn = s.clk.pwrEn) ∧
    (powered s = true → ∃ u, exec .thermtrip s = .next u ∧ off u ∧ u.clk.thermtrip = true)

/-- The test access port (R433, R488). What SAMPLE captures per pin is presumed (log entry 60). -/
def Sys2Proof.Claims.TapResponds : Prop :=
  ∀ s : State, powered s = true →
    let b := s.clk.tap.boundary
    let set (ir : BitVec 8) (boundary : BitVec 9) (dr : BitVec 32) : State := { s with clk := { s.clk with tap := { ir := ir, boundary := boundary, dr := dr } } }
    exec .tapReset s = .next (set 0x01 0 0x10451B47) ∧ exec .tapExtest s = .next (set 0x00 b (b.setWidth 32)) ∧
    exec .tapIdcode s = .next (set 0x01 b 0x10451B47) ∧ exec .tapBypass s = .next (set 0xFF b 0) ∧
    (∃ p : BitVec 9, exec .tapSamplePreload s = .next (set 0x02 p (p.setWidth 32)) ∧ bit p 0 = s.clk.pwrEn ∧ bit p 1 = !s.host.pcie.perst ∧
      fld p 6 2 = s.clk.slotId.toNat ∧ bit p 7 = !alertLine s ∧ bit p 8 = !s.clk.thermtrip)

/-- Reset, power-up, power-down and the test access port (R433 to R439, R447, R488). -/
def Obligations.ModulePowersAndResets : Prop :=
  Claims.ModuleStartsAndStops ∧ Claims.TapResponds

/-- Power modes, the governor, temperatures and parking (R440 to R446, R448). -/
def Obligations.PowerFollows : Prop :=
  ∀ s : State, powered s = true →
    (∀ w, s.clk.changing = true → controlRuns s = true → s.dict.waiting = [w] → waitsOn 0x1002 1 w = true → w.req = none →
      ∃ u, exec .powerModeChangeDone s = .next u ∧ Answered w.ch 0x1002 1 .ok s u ∧ u.dict.waiting = [] ∧
        u.clk = { s.clk with changing := false, modeNow := s.clk.mode, modeCeiling := modeWatts s.clk.mode, div := modeDiv s.clk.mode } ∧
        SameBut [.clk, .dict, .out] s u) ∧
    (∀ mv ma : Nat,
      let xs := ((mv, ma) :: s.clk.sensors.samples).take 100
      let power := (xs.map fun x => x.1 * x.2).sum / xs.length
      let volts := (xs.map Prod.fst).sum / xs.length
      let above := 1000000 * ceilingNow s < power ∨ 57000 < ma
      ∃ u, exec (.governorSample mv ma) s = .next u ∧ u.clk.sensors = { s.clk.sensors with samples := xs } ∧
        u.clk.counters.energyMj = addSat s.clk.counters.energyMj ((s.clk.energyRest + mv * ma) / 100000000) ∧
        u.clk.energyRest = (s.clk.energyRest + mv * ma) % 100000000 ∧
        (volts < 36000 ∨ 44000 < volts → bit u.clk.alerts 1 = true) ∧
        (¬above → u.clk.counters.skippedCycles = s.clk.counters.skippedCycles ∧ u.clk.lastSkip = s.clk.lastSkip ∧ u.free = s.free) ∧
        (above → ∃ k p, 1 ≤ k ∧ k ≤ max 1 (arithKhz s / 100 * 7 / 8) ∧ u.clk.counters.skippedCycles = addSat s.clk.counters.skippedCycles k ∧
          p ≤ 2500 ∧ u.clk.counters.throttleNs = addSat s.clk.counters.throttleNs (4 * p) ∧ u.clk.lastSkip = some s.now ∧ bit u.clk.alerts 4 = true) ∧
        SameBut [.clk, .host, .out, .free] s u) ∧
    (∀ q t : List Int, q.length = 4 → t.length = 8 →
      let hot := q.foldl max (q.getD 0 0)
      ∃ u, exec (.thermalSample q t) s = .next u ∧ u.clk.sensors.tjQuad.toList = q ∧ u.clk.sensors.stackTemp.toList = t ∧ tjMax u = hot ∧
        (100000 ≤ hot → bit u.clk.alerts 2 = true) ∧ (108000 ≤ hot → bit u.clk.alerts 3 = true ∧ u.clk.throttled = true) ∧
        ((∃ x ∈ t, 85000 ≤ x) → bit u.clk.alerts 7 = true) ∧
        (hot < 108000 → s.clk.throttled = false → converterHot s = false → u.clk.throttled = false) ∧
        (100000 ≤ hot → s.clk.throttled = true → u.clk.throttled = true) ∧
        (∀ since, hot < 100000 → s.clk.throttled = true → converterHot s = false → s.clk.coolSince = some since →
          u.clk.throttled = decide (s.now < since + 10000000)) ∧ SameBut [.clk, .host, .out] s u) ∧
    (s.clk.park = .parking → s.dict.waiting = [] → (s.host.cmds.any fun c => !runsParked (slotOpcode c.slot)) = false →
      exec .moduleParked s = .next { s with clk := { s.clk with
        park := .parked, counters := { s.clk.counters with parkEntries := addSat s.clk.counters.parkEntries 1 } } }) ∧
    (s.clk.park = .waking → s.dict.waiting = [] → Quiet s →
      exec .wakeComplete s = .next { s with clk := { s.clk with park := .awake } })

/-- The boot sequence (R457 to R459, R464): the confirmed image boots to the hold; the hold ends; the module is READY when memory and ports
are; a boot that takes 30 s starts again without its bank. -/
def Obligations.BootRuns : Prop :=
  ∀ s : State,
    let begun (u : State) : Prop := u.boot.phase = .training ∧ u.boot.protLock = true ∧ u.boot.windows = s.boot.nextWindows ∧
      (∀ p, portEnabled s p = true → (getPort u p).state = .training) ∧ SameBut [.boot, .clk, .links] s u
    (s.host.dev = .booting → s.boot.phase = .rom → clocksReady s = true →
      (∀ x r, bootRec s.boot.flash = some (x, r) → r.trial = false → s.boot.failedBanks = [] →
        bankFailure s (s.boot.flash.banks[bankIx r.confirmed]) = 0 →
        ∃ u, exec .bootStart s = .next u ∧ u.boot.phase = .hold ∧ u.boot.bank = r.confirmed ∧ u.boot.trialBoot = false ∧ u.boot.fallback = false ∧
          u.boot.imageVersion.toNat = imVersion (bankBlock s.boot.flash.banks[bankIx r.confirmed] 0) ∧ u.boot.bootHold = false ∧ u.boot.windows = s.boot.windows ∧
          u.host.dev = .booting ∧ u.boot.flash.banks = s.boot.flash.banks ∧ u.dict.keep.unfencePending = 0 ∧ u.dict.plcaNow = u.dict.keep.plca ∧
          SameBut [.boot, .dict] s u) ∧
      (bootRec s.boot.flash = none → s.boot.failedBanks = [] → (∀ b, bankFailure s (s.boot.flash.banks[bankIx b]) ≠ 0) →
        ∃ u, exec .bootStart s = .next u ∧ u.boot.phase = .stopped ∧ u.host.dev = .faulted)) ∧
    (s.boot.phase = .hold → s.boot.bootHold = false → s.boot.holdEnd ≤ s.now → ∃ u, exec .bootHoldExpiry s = .next u ∧ begun u) ∧
    (s.boot.phase = .hold → s.boot.bootHold = true ∨ s.now < s.boot.holdEnd → exec .bootHoldExpiry s = .next s) ∧
    (s.host.dev = .booting → s.boot.phase = .training → (∀ k : Fin 8, (s.clk.memPhy[k]).locked = true) → (∀ p, portBooted s p = true) →
      ∃ u, exec .bootReady s = .next u ∧ u.host.dev = .ready ∧ u.boot = { s.boot with phase := .done, readyMs := s.now / 1000000 } ∧
        u.host.cmds = s.host.cmds ∧ SameBut [.boot, .host, .out] s u) ∧
    (s.host.dev = .booting → s.boot.phase = .training → s.boot.began + 30000000000 ≤ s.now →
      ∃ u, exec .bootWatchdogExpiry s = .next u ∧ u.boot.phase = .rom ∧ u.boot.watchdog = true ∧ u.boot.failedBanks = s.boot.bank :: s.boot.failedBanks ∧
        u.boot.began = s.now ∧ u.boot.flash = s.boot.flash ∧ u.boot.ownerKey = s.boot.ownerKey ∧ u.boot.protLock = false ∧ u.boot.windows = [] ∧
        u.mem = { s.mem with t1 := State.reset.mem.t1 } ∧ SameBut [.boot, .links, .mem] s u)

/-- The reception of an image and the signing of a report (R467, R468, R470, R474). -/
def Obligations.FirmwareArrives : Prop :=
  ∀ (s : State) (r : Recv),
    let t := refreshAcks s
    let i := bankIx (!s.boot.bank)
    let ends (more : List Part) (st : Status) (u : State) : Prop := u.boot.recv = none ∧ u.boot.progress.status = statusCode st ∧
      (r.back = 2 → u.host.dev = .ready) ∧ (r.back ≠ 2 → s.host.heldDue = false → u.host.dev = .running) ∧
      u.host.cmds = s.host.cmds ∧ SameBut ([.host, .boot, .dict, .out] ++ more) s u
    let told (x : Recv) (u : State) : Nat :=
      if r.source = 2 ∧ s.boot.kindleParent ≠ 0xFFFF then max r.told (settledBlocks u x) else r.told
    (s.boot.recv = some r → r.blocks = 0 ∨ r.next < r.blocks → r.last + 60000000000 ≤ s.now →
      ∃ u, exec .fwReceiveTimeout s = .next u ∧ ends [] .linkTimeout u ∧ u.boot.flash = s.boot.flash) ∧
    (t.boot.recv = some r →
      (let k := r.next
       let notice := BitVec.ofNat 128 (memNat s.mem.t1 (noticeAddr s k) 16)
       let bs := dataBytes (placeRead s (slotAddr s k) blockSize)
       r.source = 2 → bit notice 64 = true → fld notice 15 0 = k → r.blocks = 0 ∨ k < r.blocks → slotFree (forwards t r) r k = true →
        let st := blockStatus t r k (fld notice 63 32) bs
        ∃ u, exec .kindleBlockTake s = .next u ∧
          (fine st = true → u.boot.recv = some { r with
              next := k + 1, last := s.now, blocks := if k = 0 then imBlocks bs else r.blocks } ∧
            u.boot.counters = { s.boot.counters with blocksIn := addSat s.boot.counters.blocksIn 1 } ∧ SameBut [.boot] s u) ∧
          (fine st = false → ends [] st u)) ∧
      (∀ m, r.inFlash < r.next → s.boot.flash.banks[i] = .written m →
        let x := { r with inFlash := r.inFlash + 1 }
        ∃ u, exec .flashBlockWritten s = .next u ∧ u.boot.recv = some { x with told := told x u } ∧
          u.boot.flash.banks[i] = .written (memWrite m (r.inFlash * blockSize) (clean (dataBytes (placeRead s (slotAddr s r.inFlash) blockSize)))) ∧
          u.mem.t1 = s.mem.t1 ∧ SameBut [.boot, .mem, .links, .free] s u) ∧
      (∀ child c node, r.children[child]? = some c → s.boot.kindleChildren[child]? = some node → forwards t r = true → c.dropped = false →
        c.pushed < r.next → c.pushed < c.acked + 64 →
        ∃ u, exec (.kindlePush child) s = .next u ∧ u.boot.recv.map (fun r => r.children[child]?.map fun c => (c.pushed, c.acked, c.dropped)) =
            some (some (c.pushed + 1, c.acked, false)) ∧
          u.boot.counters = { s.boot.counters with blocksOut := addSat s.boot.counters.blocksOut 1 } ∧ u.mem.t1 = s.mem.t1 ∧
          SameBut [.boot, .mem, .links] s u) ∧
      (∀ child c, r.children[child]? = some c → c.dropped = false → c.acked < c.pushed → c.lastAck + 60000000000 ≤ s.now →
        ∃ u, exec (.kindleChildDrop child) s = .next u ∧ u.boot.recv.map (fun r => r.children[child]?.map fun c => c.dropped) = some (some true) ∧
          u.boot.counters = { s.boot.counters with dropped := addSat s.boot.counters.dropped 1 } ∧ u.mem.t1 = s.mem.t1 ∧
          SameBut [.boot, .mem, .links, .free] s u) ∧
      (let data := s.boot.flash.banks[i]
       let h := bankBlock data 0
       r.blocks ≠ 0 → r.blocks ≤ r.inFlash → forwards t r = false →
        ∃ u, exec .fwImageVerify s = .next u ∧ ends [.mem, .links, .free] (if blocksOk data h && imageSigned data h then .ok else .malformed) u ∧
          u.boot.flash.banks = s.boot.flash.banks ∧ u.boot.flash.store = s.boot.flash.store)) ∧
    (∀ body, s.boot.signing = some body → ∃ u, exec .attestSignDone s = .next u ∧
      u.boot = { s.boot with signing := none, report := some (body ++ slice (Config.slhSign body) 0 7856) } ∧ actionRuns u 0x7004 4 = false ∧
      SameBut [.boot, .dict] s u)
end

