-- ==== Sys2Proof/Laws/Commands.lean ====
section
/-!
SUPPORT. What admission does with a command that reaches the head of its queue and passes the checks of every opcode (R363): its opcode's
own checks decide.
-/
namespace Sys2Proof.Machine

/-- Writing back the number in the opcode field changes nothing. -/
theorem setFld_self (x : BitVec 512) : setFld x 7 0 (fld x 7 0) = x := by
  have h : x.toNat % 256 ≤ x.toNat := Nat.mod_le _ _
  apply BitVec.eq_of_toNat_eq
  simp only [setFld, fld, Nat.shiftRight_zero, BitVec.toNat_ofNat]
  norm_num
  rw [Nat.sub_add_cancel h]
  exact Nat.mod_eq_of_lt x.isLt

/-- Changing an element of a vector into itself changes nothing. -/
theorem updAt_self {α : Type} {n : Nat} (v : Vector α n) (i : Fin n) (f : α → α) (h : f v[i] = v[i]) : updAt v i f = v := by
  rw [updAt, h]; exact Vector.set_getElem_self _

/-- A command that reaches the head and passes the checks of every opcode meets its opcode's own checks on the state as it is (R363). -/
theorem commandAtHead_reaches {s : State} {q : Fin 64} {op : Nat} {c : Slot} (r : OpRule) (h : reachesHead s q op c = true) :
    commandAtHead op r q c s = useTurn q (admitChecked r q c s) := by
  simp only [reachesHead, Bool.and_eq_true, Bool.not_eq_true', decide_eq_true_eq, beq_iff_eq] at h
  obtain ⟨⟨⟨⟨⟨⟨⟨⟨⟨hf, ho⟩, hb⟩, hn⟩, hq⟩, hs⟩, hm⟩, hd⟩, -⟩, -⟩ := h
  have hc : ({ c with hdr := setFld c.hdr 7 0 op } : Slot) = c := by
    have : op = fld c.hdr 7 0 := by rw [← ho]; rfl
    rw [this, setFld_self]
  have hfence : s.host.sqs[q].fence = none := by simpa using hq
  have hclear : updAt s.host.sqs q (fun x => if bit c.hdr 27 then { x with fence := none } else x) = s.host.sqs := by
    apply updAt_self
    split
    · have : ∀ x : SQueue, x.fence = none → { x with fence := none } = x := fun x hx => by cases x; simp_all
      exact this _ hfence
    · rfl
  have hnone : (opcodeSize (slotOpcode c) (slotBytes c)).isNone = false := by rw [ho]; simpa using hs
  have hop : stateForbids s (slotOpcode c) = false := by rw [ho]; exact hd
  rw [commandAtHead, if_pos hf, hc, admitSlot, if_neg (by simp [hb]; omega)]
  simp only [hclear, hfence, hnone, hm, hop, Bool.false_eq_true, if_false]

/-- A command that passes its opcode's checks too is in flight, and its opcode's effect runs on it (R363). -/
theorem commandAtHead_passes {s s' : State} {q : Fin 64} {op : Nat} {c : Slot} {info : List Nat} (r : OpRule)
    (h : Passes r.check op q c info s s') (hk : skippedByVerdict (enterCmd info q c s').1 (enterCmd info q c s').2 = false) :
    commandAtHead op r q c s = useTurn q (r.effect (enterCmd info q c s').2 (enterCmd info q c s').1) := by
  obtain ⟨hr, hc | hc, -, -⟩ := h
  · rw [commandAtHead_reaches r hr, admitChecked, hc.1, hc.2]
    simp [admitNow, hc.2 ▸ hk]
  · rw [commandAtHead_reaches r hr, admitChecked, hc]
    simp [admitNow, hk]

end Sys2Proof.Machine
end

