-- ==== Sys2Proof/Laws/Memory.lean ====
section
/-!
SUPPORT. The laws of one memory: its canonical form is kept by every operation, a byte read after a write is the byte written, and a write
leaves every other byte alone.
-/
namespace Sys2Proof.Machine

/-- Every listed address is at least `lo`. -/
def cellsAbove (lo : Nat) (cs : List Host.Cell) : Prop := ∀ c ∈ cs, lo ≤ c.1

/-- In canonical form the head's address lies below all that follow. -/
theorem cellsWf_tail {c : Host.Cell} {cs : List Host.Cell} (h : cellsWf (c :: cs) = true) :
    cellsWf cs = true ∧ c.2 ≠ 0 ∧ cellsAbove (c.1 + 1) cs := by
  induction cs generalizing c with
  | nil => simp_all [cellsWf, cellsAbove]
  | cons d ds ih =>
    simp only [cellsWf, Bool.and_eq_true, decide_eq_true_eq] at h
    obtain ⟨⟨hc, hlt⟩, hd⟩ := h
    refine ⟨hd, hc, ?_⟩
    intro x hx
    rcases List.mem_cons.mp hx with rfl | hx
    · omega
    · have := (ih hd).2.2 x hx; omega

/-- The canonical form, from its parts. -/
theorem cellsWf_cons {c : Host.Cell} {cs : List Host.Cell} (h : cellsWf cs = true) (hc : c.2 ≠ 0) (ha : cellsAbove (c.1 + 1) cs) :
    cellsWf (c :: cs) = true := by
  cases cs with
  | nil => simpa [cellsWf] using hc
  | cons d ds =>
    have := ha d (by simp)
    simp only [cellsWf, Bool.and_eq_true, decide_eq_true_eq]
    exact ⟨⟨hc, by omega⟩, h⟩

/-- An unlisted address below every listed one reads as 0. -/
theorem cellsGet_above {cs : List Host.Cell} {lo a : Nat} (h : cellsAbove lo cs) (ha : a < lo) : cellsGet cs a = 0 := by
  induction cs with
  | nil => rfl
  | cons c cs ih =>
    have := h c (by simp)
    rw [cellsGet, if_neg (by omega)]
    exact ih fun x hx => h x (by simp [hx])

/-- Writing one cell adds no address below the one written and the listed ones. -/
theorem cellsSet_above {cs : List Host.Cell} {lo a : Nat} {v : Byte} (h : cellsAbove lo cs) (ha : lo ≤ a) : cellsAbove lo (cellsSet cs a v) := by
  induction cs with
  | nil => intro c; simp only [cellsSet]; split <;> simp_all
  | cons d ds ih =>
    have hd := h d (by simp)
    have ht : cellsAbove lo ds := fun x hx => h x (by simp [hx])
    intro c
    simp only [cellsSet]
    split
    · split
      · exact h c
      · intro hc; rcases List.mem_cons.mp hc with rfl | hc
        · exact ha
        · exact h c hc
    · split
      · split
        · exact ht c
        · intro hc; rcases List.mem_cons.mp hc with rfl | hc
          · exact ha
          · exact ht c hc
      · intro hc; rcases List.mem_cons.mp hc with rfl | hc
        · exact hd
        · exact ih ht c hc

/-- Writing one cell keeps the canonical form. -/
theorem cellsSet_wf {cs : List Host.Cell} (a : Nat) (v : Byte) (h : cellsWf cs = true) : cellsWf (cellsSet cs a v) = true := by
  induction cs with
  | nil => simp only [cellsSet]; split <;> simp_all [cellsWf]
  | cons d ds ih =>
    obtain ⟨ht, hd, ha⟩ := cellsWf_tail h
    simp only [cellsSet]
    split
    · split
      · exact h
      · refine cellsWf_cons h ‹_› ?_
        intro x hx
        rcases List.mem_cons.mp hx with rfl | hx
        · show a + 1 ≤ x.1; omega
        · have := ha x hx; show a + 1 ≤ x.1; omega
    · split
      · split
        · exact ht
        · exact cellsWf_cons ht ‹_› fun x hx => by have := ha x hx; show a + 1 ≤ x.1; omega
      · exact cellsWf_cons (ih ht) hd (cellsSet_above ha (by omega))

/-- Writing several cells keeps the canonical form. -/
theorem cellsSetAll_wf {cs : List Host.Cell} (a : Nat) (bs : List Byte) (h : cellsWf cs = true) : cellsWf (cellsSetAll cs a bs) = true := by
  induction bs generalizing cs a with
  | nil => exact h
  | cons b bs ih => exact ih _ (cellsSet_wf a b h)

/-- A cell reads as it was written, and the others as before. -/
theorem cellsGet_set {cs : List Host.Cell} (a : Nat) (v : Byte) (x : Nat) (h : cellsWf cs = true) :
    cellsGet (cellsSet cs a v) x = if x = a then v else cellsGet cs x := by
  induction cs with
  | nil =>
    simp only [cellsSet]
    by_cases hx : x = a
    · subst x
      rw [if_pos rfl]
      split
      · rename_i hv; exact Eq.symm hv
      · exact if_pos rfl
    · rw [if_neg hx]
      split
      · rfl
      · exact if_neg (Ne.symm hx)
  | cons d ds ih =>
    obtain ⟨ht, hd, ha⟩ := cellsWf_tail h
    simp only [cellsSet]
    split
    · rename_i hlt
      split
      · split
        · have hx : cellsGet ds x = 0 := cellsGet_above ha (by omega)
          rw [cellsGet, if_neg (by omega), hx]; simp_all
        · rfl
      · by_cases hx : x = a
        · simp [cellsGet, hx]
        · rw [cellsGet, if_neg (fun e => hx e.symm), if_neg hx]
    · split
      · subst a
        split
        · by_cases hx : x = d.1
          · subst x; simp_all [cellsGet_above ha (Nat.lt_succ_self _)]
          · rw [if_neg hx, cellsGet, if_neg (fun e => hx e.symm)]
        · by_cases hx : x = d.1
          · simp [cellsGet, hx]
          · rw [if_neg hx, cellsGet, if_neg (fun e => hx e.symm), cellsGet, if_neg (fun e => hx e.symm)]
      · by_cases hx : d.1 = x
        · rw [cellsGet, if_pos hx, if_neg (by omega), cellsGet, if_pos hx]
        · rw [cellsGet, if_neg hx, ih ht, cellsGet, if_neg hx]

/-- Cells read as they were written, and the others as before. -/
theorem cellsGet_setAll {cs : List Host.Cell} (a : Nat) (bs : List Byte) (x : Nat) (h : cellsWf cs = true) :
    cellsGet (cellsSetAll cs a bs) x = if a ≤ x ∧ x < a + bs.length then bs.getD (x - a) 0 else cellsGet cs x := by
  induction bs generalizing cs a with
  | nil => rw [if_neg (by rw [List.length_nil]; omega)]; rfl
  | cons b bs ih =>
    rw [cellsSetAll, ih _ (cellsSet_wf a b h), cellsGet_set _ _ _ h]
    by_cases h1 : a + 1 ≤ x ∧ x < a + 1 + bs.length
    · rw [if_pos h1, if_pos (by simp; omega), show x - a = (x - (a + 1)) + 1 by omega]; simp
    · rw [if_neg h1]
      by_cases h2 : x = a
      · subst x; simp
      · rw [if_neg h2, if_neg (by simp; omega)]

/-- Every number of a strictly rising list above its head is larger. -/
theorem rising_tail {x : Nat} {xs : List Nat} (h : rising (x :: xs) = true) : rising xs = true ∧ ∀ y ∈ xs, x < y := by
  induction xs generalizing x with
  | nil => simp [rising]
  | cons y ys ih =>
    simp only [rising, Bool.and_eq_true, decide_eq_true_eq] at h
    refine ⟨h.2, fun z hz => ?_⟩
    rcases List.mem_cons.mp hz with rfl | hz
    · exact h.1
    · exact Nat.lt_trans h.1 ((ih h.2).2 z hz)

/-- A strictly rising list, from its parts. -/
theorem rising_cons {x : Nat} {xs : List Nat} (h : rising xs = true) (hx : ∀ y ∈ xs, x < y) : rising (x :: xs) = true := by
  cases xs with
  | nil => rfl
  | cons y ys => simp only [rising, Bool.and_eq_true, decide_eq_true_eq]; exact ⟨hx y (by simp), h⟩

/-- What is in a list after a number is added. -/
theorem mem_setAdd {xs : List Nat} {x y : Nat} : y ∈ setAdd xs x ↔ y = x ∨ y ∈ xs := by
  induction xs with
  | nil => simp [setAdd]
  | cons z zs ih =>
    simp only [setAdd]
    split
    · simp
    · split
      · subst z; simp
      · simp only [List.mem_cons, ih]; tauto

/-- Adding a number keeps a list rising. -/
theorem setAdd_rising {xs : List Nat} (x : Nat) (h : rising xs = true) : rising (setAdd xs x) = true := by
  induction xs with
  | nil => rfl
  | cons z zs ih =>
    obtain ⟨ht, hz⟩ := rising_tail h
    simp only [setAdd]
    split
    · exact rising_cons h fun y hy => by
        rcases List.mem_cons.mp hy with rfl | hy
        · assumption
        · exact Nat.lt_trans ‹_› (hz y hy)
    · split
      · exact h
      · refine rising_cons (ih ht) fun y hy => ?_
        rcases mem_setAdd.mp hy with rfl | hy
        · omega
        · exact hz y hy

/-- What is in a list after a number is removed was there before. -/
theorem mem_of_mem_setDel {xs : List Nat} {x y : Nat} (h : y ∈ setDel xs x) : y ∈ xs := by
  induction xs with
  | nil => simp [setDel] at h
  | cons z zs ih =>
    simp only [setDel] at h
    split at h
    · simp [h]
    · rcases List.mem_cons.mp h with rfl | h
      · simp
      · simp [ih h]

/-- Removing a number keeps a list rising. -/
theorem setDel_rising {xs : List Nat} (x : Nat) (h : rising xs = true) : rising (setDel xs x) = true := by
  induction xs with
  | nil => rfl
  | cons z zs ih =>
    obtain ⟨ht, hz⟩ := rising_tail h
    simp only [setDel]
    split
    · exact ht
    · exact rising_cons (ih ht) fun y hy => hz y (mem_of_mem_setDel hy)

/-- The marks after a write rise strictly. -/
theorem poisonAfter_rising (k w a : Nat) (d : Data) {p : List Nat} (h : rising p = true) : rising (poisonAfter k w a d p) = true := by
  induction k generalizing w p with
  | zero => exact h
  | succ k ih =>
    simp only [poisonAfter]
    apply ih
    split
    · exact setAdd_rising _ h
    · split
      · exact setDel_rising _ h
      · exact h

/-- The empty memory has the canonical form. -/
theorem memWf_empty : memWf .empty = true := rfl

/-- A write keeps the canonical form. -/
theorem memWf_memWrite {m : Mem} (a : Nat) (d : Data) (h : memWf m = true) : memWf (memWrite m a d) = true := by
  simp only [memWf, Bool.and_eq_true] at h ⊢
  simp only [memWrite]
  split
  · exact h
  · exact ⟨cellsSetAll_wf _ _ h.1, poisonAfter_rising _ _ _ _ h.2⟩

/-- Poisoning a word keeps the canonical form. -/
theorem memWf_memPoison {m : Mem} (a : Nat) (h : memWf m = true) : memWf (memPoison m a) = true := by
  simp only [memWf, Bool.and_eq_true] at h ⊢
  exact ⟨h.1, setAdd_rising _ h.2⟩

/-- A memory whose contents are lost has the canonical form. -/
theorem memWf_memLose (key : Nat) : memWf (memLose key) = true := rfl

/-- What lost contents read as is not changed by a write. -/
theorem memBase_memWrite (m : Mem) (a : Nat) (d : Data) : memBase (memWrite m a d) = memBase m := by
  funext x; simp only [memWrite]; split <;> rfl

/-- How many bytes a write stores. -/
theorem fromBase_length (m : Mem) (a : Nat) (bs : List Byte) : (fromBase m a bs).length = bs.length := by
  induction bs generalizing a with
  | nil => rfl
  | cons b bs ih => simp [fromBase, ih]

/-- The differences that a write stores. -/
theorem fromBase_getD (m : Mem) (a : Nat) (bs : List Byte) (i : Nat) (h : i < bs.length) :
    (fromBase m a bs).getD i 0 = bs.getD i 0 - memBase m (a + i) := by
  induction bs generalizing a i with
  | nil => simp at h
  | cons b bs ih =>
    cases i with
    | zero => simp [fromBase]
    | succ i =>
      have := ih (a + 1) i (by simpa using h)
      simpa [fromBase, show a + 1 + i = a + (i + 1) by omega] using this

/-- A byte after a write: the byte written, or the byte as it was. -/
theorem memByte_memWrite {m : Mem} (a : Nat) (d : Data) (x : Nat) (h : memWf m = true) :
    memByte (memWrite m a d) x = if a ≤ x ∧ x < a + d.length then (dataBytes d).getD (x - a) 0 else memByte m x := by
  have hc : cellsWf m.cells = true := by simp only [memWf, Bool.and_eq_true] at h; exact h.1
  have hl : (dataBytes d).length = d.length := by simp [dataBytes]
  rw [memByte, memBase_memWrite]
  simp only [memWrite]
  split
  · rename_i he
    have : d = [] := by simpa using he
    subst this
    rw [if_neg (by rw [List.length_nil]; omega)]; rfl
  · show cellsGet (cellsSetAll m.cells a (fromBase m a (dataBytes d))) x + memBase m x = _
    rw [cellsGet_setAll _ _ _ hc, fromBase_length, hl]
    split
    · rename_i hx
      rw [fromBase_getD _ _ _ _ (by omega), show a + (x - a) = x by omega]
      exact BitVec.sub_add_cancel _ _
    · rfl

end Sys2Proof.Machine
end

