-- ==== Sys2Proof/Laws/Ring.lean ====
section
/-!
SUPPORT. The shared operations that leave the ring of phase records alone: completions, failures of commands, requests to memory, ports and
what a reinitialisation abandons.
-/
namespace Sys2Proof.Machine

@[simp] theorem foldl_ring {α} (l : List α) (f : State → α → State) (s : State) (h : ∀ s x, (f s x).train.ring = s.train.ring) :
    (l.foldl f s).train.ring = s.train.ring := by
  induction l generalizing s with
  | nil => rfl
  | cons x xs ih => simp [ih, h]

@[simp] theorem emit_ring (o : Out) (s : State) : (emit o s).train.ring = s.train.ring := rfl
@[simp] theorem takeFree_ring (s : State) : (takeFree s).1.train.ring = s.train.ring := rfl
@[simp] theorem updTile_ring (t : Fin 128) (f : Tile → Tile) (s : State) : (updTile t f s).train.ring = s.train.ring := rfl
@[simp] theorem updStep_ring (n : BitVec 64) (f : Step → Step) (s : State) : (updStep n f s).train.ring = s.train.ring := rfl
@[simp] theorem raiseVector_ring (v : BitVec 8) (s : State) : (raiseVector v s).train.ring = s.train.ring := by
  unfold raiseVector; try dsimp only
  repeat' split
  all_goals first | rfl | simp [*] | simp_all
@[simp] theorem setEvent_ring (k : Nat) (s : State) : (setEvent k s).train.ring = s.train.ring := by
  unfold setEvent; try dsimp only
  repeat' split
  all_goals first | rfl | simp [*] | simp_all
@[simp] theorem setDev_ring (d : DevState) (s : State) : (setDev d s).train.ring = s.train.ring := by unfold setDev; split <;> simp
@[simp] theorem weaveSend_ring (src : Fin 174) (dst : Fin 128) (vc : Fin 4) (drain : Bool) (body : WBody) (s : State) :
    (weaveSend src dst vc drain body s).train.ring = s.train.ring := rfl
@[simp] theorem sendSignal_ring (src : Nat) (dst : Fin 128) (bc : Nat) (s : State) :
    (sendSignal src dst bc s).train.ring = s.train.ring := rfl
@[simp] theorem hostCount_ring (f : HostCounters → HostCounters) (s : State) : (hostCount f s).train.ring = s.train.ring := rfl
@[simp] theorem memCount_ring (f : MemCounters → MemCounters) (s : State) : (memCount f s).train.ring = s.train.ring := rfl
@[simp] theorem linkCount_ring (f : PortCounters → PortCounters) (s : State) : (linkCount f s).train.ring = s.train.ring := rfl
@[simp] theorem collCount_ring (f : CollCounters → CollCounters) (s : State) : (collCount f s).train.ring = s.train.ring := rfl
@[simp] theorem tileCount_ring (t : Fin 128) (f : TileCounters → TileCounters) (s : State) :
    (tileCount t f s).train.ring = s.train.ring := rfl
@[simp] theorem updPort_ring (p : Fin 16) (f : Port → Port) (s : State) : (updPort p f s).train.ring = s.train.ring := rfl
@[simp] theorem updUnit_ring (u : Fin 4) (f : CollUnit → CollUnit) (s : State) : (updUnit u f s).train.ring = s.train.ring := rfl
@[simp] theorem updEngine_ring (k : Fin 16) (f : CopyEngine → CopyEngine) (s : State) : (updEngine k f s).train.ring = s.train.ring := rfl
@[simp] theorem cancelScrub_ring (a n : Nat) (s : State) : (cancelScrub a n s).train.ring = s.train.ring := rfl
@[simp] theorem placeWrite_ring (a : Nat) (d : Data) (s : State) : (placeWrite a d s).train.ring = s.train.ring := by
  unfold placeWrite; split <;> rfl
@[simp] theorem freshId_ring (s : State) : (freshId s).1.train.ring = s.train.ring := rfl
@[simp] theorem updXlate_ring (f : Xlate → Xlate) (s : State) : (updXlate f s).train.ring = s.train.ring := rfl
@[simp] theorem cachePage_ring (q : Fin 4) (page : Nat) (e : BitVec 64) (s : State) : (cachePage q page e s).train.ring = s.train.ring := rfl
@[simp] theorem touchPage_ring (q : Fin 4) (x : CachedPage) (s : State) : (touchPage q x s).train.ring = s.train.ring := rfl
@[simp] theorem countLookup_ring (q : Fin 4) (hit : Bool) (s : State) : (countLookup q hit s).train.ring = s.train.ring := rfl
@[simp] theorem xlateTry_ring (who key dva : Nat) (s : State) : (xlateTry who key dva s).1.train.ring = s.train.ring := by
  unfold xlateTry; try dsimp only
  repeat' split
  all_goals first | rfl | simp [*] | simp_all
@[simp] theorem countDrop_ring (who : Nat) (s : State) : (countDrop who s).train.ring = s.train.ring := rfl
@[simp] theorem updReq_ring (id : Nat) (f : MReq → MReq) (s : State) : (updReq id f s).train.ring = s.train.ring := rfl
@[simp] theorem forgetReq_ring (id : Nat) (s : State) : (forgetReq id s).train.ring = s.train.ring := rfl
@[simp] theorem noteEarly_ring (c : Cmd) (ts : List (Fin 128)) (s : State) : (noteEarly c ts s).train.ring = s.train.ring := by
  unfold noteEarly; split <;> rfl
@[simp] theorem startCmd_ring (id : Nat) (s : State) : (startCmd id s).train.ring = s.train.ring := by
  unfold startCmd; dsimp only; (repeat' split) <;> simp
@[simp] theorem dropCmd_ring (id : Nat) (s : State) : (dropCmd id s).train.ring = s.train.ring := rfl
@[simp] theorem pushCompletion_ring (q : Fin 64) (c : Slot) (admitted : Bool) (st : Status) (detail : BitVec 64) (s : State) :
    (pushCompletion q c admitted st detail s).train.ring = s.train.ring := rfl
@[simp] theorem retire_ring (c : Cmd) (st : Status) (detail : Nat) (s : State) : (retire c st detail s).train.ring = s.train.ring := by
  unfold retire; split <;> rfl
@[simp] theorem advanceHead_ring (q : Fin 64) (s : State) : (advanceHead q s).train.ring = s.train.ring := rfl
@[simp] theorem wakeFor_ring (op : Nat) (s : State) : (wakeFor op s).train.ring = s.train.ring := by unfold wakeFor; split <;> rfl
@[simp] theorem enterCmd_ring (info : List Nat) (q : Fin 64) (c : Slot) (s : State) :
    (enterCmd info q c s).1.train.ring = s.train.ring := by simp [enterCmd]
@[simp] theorem waitAtHead_ring (q : Fin 64) (c : Slot) (s : State) : (waitAtHead q c s).train.ring = s.train.ring := rfl
@[simp] theorem enterHeldNow_ring (s : State) : (enterHeldNow s).train.ring = s.train.ring := by simp [enterHeldNow]
@[simp] theorem trainPort_ring (p : Fin 16) (s : State) : (trainPort p s).train.ring = s.train.ring := rfl
@[simp] theorem sendIdent_ring (p : Fin 16) (s : State) : (sendIdent p s).train.ring = s.train.ring := rfl
@[simp] theorem ackCodewords_ring (p : Fin 16) (ack : BitVec 8) (s : State) : (ackCodewords p ack s).train.ring = s.train.ring := by
  unfold ackCodewords; try dsimp only
  repeat' split
  all_goals first | rfl | simp [*] | simp_all
@[simp] theorem startReplay_ring (p : Fin 16) (s : State) : (startReplay p s).train.ring = s.train.ring := rfl
@[simp] theorem sendCodeword_ring (p : Fin 16) (kind : BitVec 4) (seq : BitVec 8) (fs : List (BitVec 512)) (s : State) :
    (sendCodeword p kind seq fs s).train.ring = s.train.ring := rfl
@[simp] theorem setGroup_ring (p : BitVec 1536) (members : List Nat) (s : State) : (setGroup p members s).train.ring = s.train.ring := rfl
@[simp] theorem useTurn_ring (q : Fin 64) (s : State) : (useTurn q s).train.ring = s.train.ring := rfl
@[simp] theorem disableSq_ring (q : Fin 64) (s : State) : (disableSq q s).train.ring = s.train.ring := by simp [disableSq]
@[simp] theorem haltTile_ring (s : State) (t : Fin 128) : (haltTile s t).train.ring = s.train.ring := by
  unfold haltTile; try dsimp only
  repeat' split
  all_goals first | rfl | simp [*] | simp_all
@[simp] theorem updClk_ring (f : Clocks → Clocks) (s : State) : (updClk f s).train.ring = s.train.ring := rfl
@[simp] theorem updMux_ring (d : Domain) (f : Mux → Mux) (s : State) : (updMux d f s).train.ring = s.train.ring := by
  unfold updMux; split <;> rfl
@[simp] theorem withAlerts_ring (f : Clocks → Clocks) (s : State) : (withAlerts f s).train.ring = s.train.ring := by
  unfold withAlerts; try dsimp only
  repeat' split
  all_goals first | rfl | simp [*] | simp_all
@[simp] theorem raiseAlert_ring (k : Nat) (s : State) : (raiseAlert k s).train.ring = s.train.ring := by simp [raiseAlert]
@[simp] theorem noteAlert_ring (k : Nat) (holds : Bool) (s : State) : (noteAlert k holds s).train.ring = s.train.ring := by
  unfold noteAlert; split <;> simp
@[simp] theorem clearAlerts_ring (mask : BitVec 16) (s : State) : (clearAlerts mask s).train.ring = s.train.ring := by
  simp [clearAlerts]
@[simp] theorem powerCount_ring (f : PowerCounters → PowerCounters) (s : State) : (powerCount f s).train.ring = s.train.ring := rfl
@[simp] theorem updHist_ring (f : History → History) (s : State) : (updHist f s).train.ring = s.train.ring := rfl
@[simp] theorem updSlot_ring (i : Fin 256) (f : HistSlot → HistSlot) (s : State) : (updSlot i f s).train.ring = s.train.ring := rfl

/-- What a request's end does besides: the Weave, the links, BAR2 and a counter. -/
@[simp] theorem countMesh_ring (a b : MeshPort) (n : Nat) (s : State) : (countMesh a b n s).train.ring = s.train.ring :=
  foldl_ring _ _ s fun s r => by split <;> rfl
@[simp] theorem crossWeave_ring (who tier a n : Nat) (write : Bool) (s : State) : (crossWeave who tier a n write s).train.ring = s.train.ring := by
  unfold crossWeave; (repeat' split) <;> simp
@[simp] theorem sendOrDrop_ring (p : Packet) (s : State) : (sendOrDrop p s).train.ring = s.train.ring := by
  have send : ∀ u, sendPacket .inject p s = some u → u.train.ring = s.train.ring := by
    intro u h
    unfold sendPacket at h
    split at h
    · cases h; rfl
    · obtain ⟨q, -, rfl⟩ := Option.map_eq_some_iff.mp h; rfl
  unfold sendOrDrop
  split
  · exact send _ ‹_›
  · rfl
@[simp] theorem updFwd_ring (key : Nat) (f : FwdReq → FwdReq) (s : State) : (updFwd key f s).train.ring = s.train.ring := rfl
@[simp] theorem sendTile_ring (src : Nat) (dst : Fin 128) (addr : Nat) (drain : Bool) (body : WBody) (s : State) :
    (sendTile src dst addr drain body s).train.ring = s.train.ring := rfl
@[simp] theorem answerBar2_ring (group parts : Nat) (s : State) : (answerBar2 group parts s).train.ring = s.train.ring := by
  unfold answerBar2; dsimp only; (repeat' split) <;> rfl
@[simp] theorem forwardOn_ring (key hub : Nat) (s : State) : (forwardOn key hub s).train.ring = s.train.ring := by
  unfold forwardOn; dsimp only; (repeat' split) <;> first | rfl | simp
@[simp] theorem countRecordFail_ring (s : State) : (countRecordFail s).train.ring = s.train.ring := rfl
@[simp] theorem runAct_ring (r : MReq) (act : ReqAct) (st : Status) (d : Data) (s : State) : (runAct r act st d s).train.ring = s.train.ring := by
  unfold runAct; dsimp only; (repeat' split) <;> simp
@[simp] theorem endReq_ring (id : Nat) (st : Status) (d : Data) (s : State) : (endReq id st d s).train.ring = s.train.ring := by
  unfold endReq; dsimp only; (repeat' split) <;> simp
@[simp] theorem orphanReq_ring (act : ReqAct) (id : Nat) (s : State) : (orphanReq act id s).train.ring = s.train.ring := by
  unfold orphanReq; (repeat' split) <;> simp
@[simp] theorem takeEntry_ring (e : ChanEntry) (s : State) : (takeEntry e s).train.ring = s.train.ring := by
  unfold takeEntry readStack; dsimp only; (repeat' split) <;> first | rfl | simp [updStacks]
@[simp] theorem postStack_ring (id a n : Nat) (write : Bool) (d : Data) (s : State) :
    (postStack id a n write d s).train.ring = s.train.ring := by
  unfold postStack takeNext; dsimp only; split <;> simp [updStacks]

/-- Endings, with the commands that end because of them. -/
@[simp] theorem loseWalk_ring (w : WalkRun) (s : State) : (loseWalk w s).1.train.ring = s.train.ring := by
  unfold loseWalk; dsimp only; split <;> rfl
@[simp] theorem failAppendOn_ring (a : AppendRun) (s : State) : (failAppendOn a s).1.train.ring = s.train.ring := by
  have fold (l : List WalkRun) : ∀ acc : State × List Ending,
      (l.foldl (fun acc w => let r := loseWalk w acc.1; (r.1, acc.2 ++ r.2.toList)) acc).1.train.ring = acc.1.train.ring := by
    induction l with
    | nil => intro acc; rfl
    | cons w ws ih => intro acc; rw [List.foldl_cons, ih]; simp
  unfold failAppendOn; dsimp only
  rw [fold]; dsimp only
  split <;> simp
@[simp] theorem leaveWalker_ring (cmd : Nat) (s : State) : (leaveWalker cmd s).1.train.ring = s.train.ring := by
  unfold leaveWalker; split <;> first | rfl | simp
@[simp] theorem markAbort_ring (n : BitVec 64) (st : Status) (held : Bool) (s : State) : (markAbort n st held s).1.train.ring = s.train.ring := by
  unfold markAbort; (repeat' split) <;> simp
@[simp] theorem markFailure_ring (n : BitVec 64) (phase : Nat) (st : Status) (s : State) :
    (markFailure n phase st s).1.train.ring = s.train.ring := by
  unfold markFailure; (repeat' split) <;> simp
@[simp] theorem endOne_ring (e : Ending) (s : State) : (endOne e s).1.train.ring = s.train.ring := by
  unfold endOne; dsimp only; (repeat' split) <;> simp
@[simp] theorem endAll_ring (n : Nat) (es : List Ending) (s : State) : (endAll n es s).train.ring = s.train.ring := by
  induction n generalizing es s with
  | zero => rfl
  | succ n ih => cases es with
    | nil => rfl
    | cons e es => rw [endAll, ih]; simp
@[simp] theorem endCmds_ring (es : List Ending) (s : State) : (endCmds es s).train.ring = s.train.ring := endAll_ring _ _ s
@[simp] theorem endUnstartedOf_ring (n : BitVec 64) (s : State) : (endUnstartedOf n s).train.ring = s.train.ring := endCmds_ring _ s
@[simp] theorem abortStep_ring (n : BitVec 64) (st : Status) (held : Bool) (s : State) : (abortStep n st held s).train.ring = s.train.ring := by
  simp [abortStep]
@[simp] theorem stepFailure_ring (n : BitVec 64) (phase : Nat) (st : Status) (s : State) :
    (stepFailure n phase st s).train.ring = s.train.ring := by simp [stepFailure]
@[simp] theorem completeCmd_ring (id : Nat) (st : Status) (detail : Nat) (s : State) : (completeCmd id st detail s).train.ring = s.train.ring :=
  endCmds_ring _ s
@[simp] theorem refuseSlot_ring (q : Fin 64) (c : Slot) (st : Status) (detail : Nat) (s : State) :
    (refuseSlot q c st detail s).train.ring = s.train.ring := by
  unfold refuseSlot
  dsimp only
  split <;> simp
@[simp] theorem runAtOnce_ring (effect : Cmd → State → State × Option (Status × Nat)) (k : Cmd) (s : State)
    (h : ∀ k s, (effect k s).1.train.ring = s.train.ring) : (runAtOnce effect k s).train.ring = s.train.ring := by
  unfold runAtOnce; dsimp only; (repeat' split) <;> simp [h]

end Sys2Proof.Machine
end

