-- ==== Sys2Proof/Laws/Sequencer.lean ====
section
/-!
SUPPORT. Everything that an instruction of the sequencer does beside its own action, and what an update of one tile leaves alone.
-/
namespace Sys2Proof.Machine

/-- A tile after an update of one tile. -/
theorem getTile_updTile (t v : Fin 128) (f : Tile → Tile) (s : State) :
    getTile (updTile t f s) v = if v = t then f (getTile s t) else getTile s v := by
  unfold getTile updTile updAt
  by_cases h : v = t
  · subst h; simp
  · have : t.val ≠ v.val := fun e => h (Fin.ext e.symm)
    simp only [h, if_false]
    simp [Vector.getElem_set_ne, this]

/-- Two updates of one tile are one. -/
theorem updTile_updTile (t : Fin 128) (f g : Tile → Tile) (s : State) : updTile t f (updTile t g s) = updTile t (fun x => f (g x)) s := by
  simp [updTile, updAt]

/-- An update of a tile moves the tiles alone. -/
theorem sameBut_updTile (t : Fin 128) (f : Tile → Tile) (s : State) : SameBut [.tile] s (updTile t f s) := by
  refine ⟨rfl, fun p hp => ?_⟩
  cases p <;> first | rfl | simp at hp

/-- Every state is as before. -/
theorem sameBut_refl (ps : List Part) (s : State) : SameBut ps s s := ⟨rfl, fun p _ => by cases p <;> rfl⟩

/-- What two changes leave alone. -/
theorem sameBut_trans {ps : List Part} {s u v : State} (h : SameBut ps s u) (k : SameBut ps u v) : SameBut ps s v := by
  refine ⟨k.1.trans h.1, fun p hp => ?_⟩
  have a := h.2 p hp
  have b := k.2 p hp
  cases p <;> exact b.trans a

/-- A change that may move less may move more. -/
theorem sameBut_weaken {ps qs : List Part} {s u : State} (h : SameBut ps s u) (hs : ∀ p ∈ ps, p ∈ qs) : SameBut qs s u :=
  ⟨h.1, fun p hp => h.2 p fun hq => hp (hs p hq)⟩

/-- The line of the instruction buffer that an instruction fetches changes the buffer and the cycle count alone. -/
theorem fillLine_eq (x : Tile) (r : Run) : ∃ ib c, fillLine x r = ({ x with ibuf := ib }, { r with cycles := c }) := by
  unfold fillLine
  split
  · exact ⟨x.ibuf, r.cycles, rfl⟩
  · exact ⟨_, _, rfl⟩

/-- An instruction that the sequencer meets runs its action on the tile with the line fetched and the instruction counted (R108, R109). -/
theorem seqInstr_run {t : Fin 128} {is : BitVec 32 → Bool} {gs : List (Fin 32)} {act : Tile → Run → State → State} {s : State} {r : Run}
    {w : BitVec 32} (h : seqAt s t = some (r, w)) (hw : is w = true) :
    seqInstr t is gs act s =
      (let x := getTile s t
       let f := fillLine x r
       let r' := { f.2 with cycles := issueCycles f.2 gs, wait := .none }
       let x' := { f.1 with run := some r', counters := { x.counters with seqInstr := addSat x.counters.seqInstr 1 } }
       act x' r' (updTile t (fun _ => x') { s with free := s.free + 1 })) := by
  unfold seqAt at h
  unfold seqInstr
  split at h
  · cases h
  · rename_i r0 hr
    split at h
    · rename_i hrun
      split at h
      · rename_i w0 hf
        cases h
        simp [hr, hrun, hf, hw]
      · cases h
    · cases h

/-- The result of an instruction, and the step to the next one (R108). -/
theorem seqSet_result {t : Fin 128} {s : State} {r : Run} {gd : Fin 32} {v : BitVec 64} {gs : List (Fin 32)} :
    let x := getTile s t
    let f := fillLine x r
    let r' := { f.2 with cycles := issueCycles f.2 gs, wait := .none }
    let x' := { f.1 with run := some r', counters := { x.counters with seqInstr := addSat x.counters.seqInstr 1 } }
    SeqResult t s (seqSet t gd v (updTile t (fun _ => x') { s with free := s.free + 1 })) r gd v := by
  obtain ⟨ib, c, h⟩ := fillLine_eq (getTile s t) r
  refine ⟨ib, issueCycles { r with cycles := c } gs, r.ready, ?_⟩
  rw [h]
  unfold seqSet seqNext setG updRun writeG
  split <;> simp [updTile, updAt, getTile]

end Sys2Proof.Machine
end

