-- ==== Sys2Proof/Laws/State.lean ====
section
/-!
SUPPORT. What each shared update of one part of the state leaves alone: every other part. True by `rfl`, so that no later proof unfolds an
update.
-/
namespace Sys2Proof.Machine

section updClk
variable (f : Clocks → Clocks) (s : State)
@[simp] theorem updClk_pending : (updClk f s).pending = s.pending := rfl
@[simp] theorem updClk_now : (updClk f s).now = s.now := rfl
@[simp] theorem updClk_free : (updClk f s).free = s.free := rfl
@[simp] theorem updClk_train : (updClk f s).train = s.train := rfl
@[simp] theorem updClk_num : (updClk f s).num = s.num := rfl
@[simp] theorem updClk_host : (updClk f s).host = s.host := rfl
@[simp] theorem updClk_dict : (updClk f s).dict = s.dict := rfl
@[simp] theorem updClk_mem : (updClk f s).mem = s.mem := rfl
@[simp] theorem updClk_tile : (updClk f s).tile = s.tile := rfl
@[simp] theorem updClk_links : (updClk f s).links = s.links := rfl
@[simp] theorem updClk_rows : (updClk f s).rows = s.rows := rfl
@[simp] theorem updClk_hist : (updClk f s).hist = s.hist := rfl
@[simp] theorem updClk_boot : (updClk f s).boot = s.boot := rfl
@[simp] theorem updClk_out : (updClk f s).out = s.out := rfl
end updClk

section updDict
variable (f : Dict → Dict) (s : State)
@[simp] theorem updDict_pending : (updDict f s).pending = s.pending := rfl
@[simp] theorem updDict_now : (updDict f s).now = s.now := rfl
@[simp] theorem updDict_free : (updDict f s).free = s.free := rfl
@[simp] theorem updDict_train : (updDict f s).train = s.train := rfl
@[simp] theorem updDict_num : (updDict f s).num = s.num := rfl
@[simp] theorem updDict_host : (updDict f s).host = s.host := rfl
@[simp] theorem updDict_mem : (updDict f s).mem = s.mem := rfl
@[simp] theorem updDict_tile : (updDict f s).tile = s.tile := rfl
@[simp] theorem updDict_links : (updDict f s).links = s.links := rfl
@[simp] theorem updDict_rows : (updDict f s).rows = s.rows := rfl
@[simp] theorem updDict_hist : (updDict f s).hist = s.hist := rfl
@[simp] theorem updDict_clk : (updDict f s).clk = s.clk := rfl
@[simp] theorem updDict_boot : (updDict f s).boot = s.boot := rfl
@[simp] theorem updDict_out : (updDict f s).out = s.out := rfl
end updDict

section noteEarly
variable (c : Cmd) (ts : List (Fin 128)) (s : State)
@[simp] theorem noteEarly_pending : (noteEarly c ts s).pending = s.pending := by unfold noteEarly; split <;> rfl
@[simp] theorem noteEarly_now : (noteEarly c ts s).now = s.now := by unfold noteEarly; split <;> rfl
@[simp] theorem noteEarly_free : (noteEarly c ts s).free = s.free := by unfold noteEarly; split <;> rfl
@[simp] theorem noteEarly_num : (noteEarly c ts s).num = s.num := by unfold noteEarly; split <;> rfl
@[simp] theorem noteEarly_host : (noteEarly c ts s).host = s.host := by unfold noteEarly; split <;> rfl
@[simp] theorem noteEarly_dict : (noteEarly c ts s).dict = s.dict := by unfold noteEarly; split <;> rfl
@[simp] theorem noteEarly_mem : (noteEarly c ts s).mem = s.mem := by unfold noteEarly; split <;> rfl
@[simp] theorem noteEarly_tile : (noteEarly c ts s).tile = s.tile := by unfold noteEarly; split <;> rfl
@[simp] theorem noteEarly_links : (noteEarly c ts s).links = s.links := by unfold noteEarly; split <;> rfl
@[simp] theorem noteEarly_rows : (noteEarly c ts s).rows = s.rows := by unfold noteEarly; split <;> rfl
@[simp] theorem noteEarly_hist : (noteEarly c ts s).hist = s.hist := by unfold noteEarly; split <;> rfl
@[simp] theorem noteEarly_clk : (noteEarly c ts s).clk = s.clk := by unfold noteEarly; split <;> rfl
@[simp] theorem noteEarly_boot : (noteEarly c ts s).boot = s.boot := by unfold noteEarly; split <;> rfl
@[simp] theorem noteEarly_out : (noteEarly c ts s).out = s.out := by unfold noteEarly; split <;> rfl
end noteEarly

section startCmd
variable (id : Nat) (s : State)
@[simp] theorem startCmd_pending : (startCmd id s).pending = s.pending := by unfold startCmd; dsimp only; (repeat' split) <;> simp
@[simp] theorem startCmd_now : (startCmd id s).now = s.now := by unfold startCmd; dsimp only; (repeat' split) <;> simp
@[simp] theorem startCmd_free : (startCmd id s).free = s.free := by unfold startCmd; dsimp only; (repeat' split) <;> simp
@[simp] theorem startCmd_num : (startCmd id s).num = s.num := by unfold startCmd; dsimp only; (repeat' split) <;> simp
@[simp] theorem startCmd_dict : (startCmd id s).dict = s.dict := by unfold startCmd; dsimp only; (repeat' split) <;> simp
@[simp] theorem startCmd_mem : (startCmd id s).mem = s.mem := by unfold startCmd; dsimp only; (repeat' split) <;> simp
@[simp] theorem startCmd_tile : (startCmd id s).tile = s.tile := by unfold startCmd; dsimp only; (repeat' split) <;> simp
@[simp] theorem startCmd_links : (startCmd id s).links = s.links := by unfold startCmd; dsimp only; (repeat' split) <;> simp
@[simp] theorem startCmd_rows : (startCmd id s).rows = s.rows := by unfold startCmd; dsimp only; (repeat' split) <;> simp
@[simp] theorem startCmd_hist : (startCmd id s).hist = s.hist := by unfold startCmd; dsimp only; (repeat' split) <;> simp
@[simp] theorem startCmd_clk : (startCmd id s).clk = s.clk := by unfold startCmd; dsimp only; (repeat' split) <;> simp
@[simp] theorem startCmd_boot : (startCmd id s).boot = s.boot := by unfold startCmd; dsimp only; (repeat' split) <;> simp
@[simp] theorem startCmd_out : (startCmd id s).out = s.out := by unfold startCmd; dsimp only; (repeat' split) <;> simp
end startCmd

section waitAtHead
variable (q : Fin 64) (c : Slot) (s : State)
@[simp] theorem waitAtHead_pending : (waitAtHead q c s).pending = s.pending := rfl
@[simp] theorem waitAtHead_now : (waitAtHead q c s).now = s.now := rfl
@[simp] theorem waitAtHead_free : (waitAtHead q c s).free = s.free := rfl
@[simp] theorem waitAtHead_train : (waitAtHead q c s).train = s.train := rfl
@[simp] theorem waitAtHead_num : (waitAtHead q c s).num = s.num := rfl
@[simp] theorem waitAtHead_dict : (waitAtHead q c s).dict = s.dict := rfl
@[simp] theorem waitAtHead_mem : (waitAtHead q c s).mem = s.mem := rfl
@[simp] theorem waitAtHead_tile : (waitAtHead q c s).tile = s.tile := rfl
@[simp] theorem waitAtHead_links : (waitAtHead q c s).links = s.links := rfl
@[simp] theorem waitAtHead_rows : (waitAtHead q c s).rows = s.rows := rfl
@[simp] theorem waitAtHead_hist : (waitAtHead q c s).hist = s.hist := rfl
@[simp] theorem waitAtHead_clk : (waitAtHead q c s).clk = s.clk := rfl
@[simp] theorem waitAtHead_boot : (waitAtHead q c s).boot = s.boot := rfl
@[simp] theorem waitAtHead_out : (waitAtHead q c s).out = s.out := rfl
end waitAtHead

section disableQueues
variable (s : State)
@[simp] theorem disableQueues_pending : (disableQueues s).pending = s.pending := rfl
@[simp] theorem disableQueues_now : (disableQueues s).now = s.now := rfl
@[simp] theorem disableQueues_free : (disableQueues s).free = s.free := rfl
@[simp] theorem disableQueues_train : (disableQueues s).train = s.train := rfl
@[simp] theorem disableQueues_num : (disableQueues s).num = s.num := rfl
@[simp] theorem disableQueues_dict : (disableQueues s).dict = s.dict := rfl
@[simp] theorem disableQueues_mem : (disableQueues s).mem = s.mem := rfl
@[simp] theorem disableQueues_tile : (disableQueues s).tile = s.tile := rfl
@[simp] theorem disableQueues_links : (disableQueues s).links = s.links := rfl
@[simp] theorem disableQueues_rows : (disableQueues s).rows = s.rows := rfl
@[simp] theorem disableQueues_hist : (disableQueues s).hist = s.hist := rfl
@[simp] theorem disableQueues_clk : (disableQueues s).clk = s.clk := rfl
@[simp] theorem disableQueues_boot : (disableQueues s).boot = s.boot := rfl
@[simp] theorem disableQueues_out : (disableQueues s).out = s.out := rfl
end disableQueues

section updBoot
variable (f : Boot → Boot) (s : State)
@[simp] theorem updBoot_pending : (updBoot f s).pending = s.pending := rfl
@[simp] theorem updBoot_now : (updBoot f s).now = s.now := rfl
@[simp] theorem updBoot_free : (updBoot f s).free = s.free := rfl
@[simp] theorem updBoot_train : (updBoot f s).train = s.train := rfl
@[simp] theorem updBoot_num : (updBoot f s).num = s.num := rfl
@[simp] theorem updBoot_host : (updBoot f s).host = s.host := rfl
@[simp] theorem updBoot_dict : (updBoot f s).dict = s.dict := rfl
@[simp] theorem updBoot_mem : (updBoot f s).mem = s.mem := rfl
@[simp] theorem updBoot_tile : (updBoot f s).tile = s.tile := rfl
@[simp] theorem updBoot_links : (updBoot f s).links = s.links := rfl
@[simp] theorem updBoot_rows : (updBoot f s).rows = s.rows := rfl
@[simp] theorem updBoot_hist : (updBoot f s).hist = s.hist := rfl
@[simp] theorem updBoot_clk : (updBoot f s).clk = s.clk := rfl
@[simp] theorem updBoot_out : (updBoot f s).out = s.out := rfl
end updBoot

section updSlot
variable (i : Fin 256) (f : HistSlot → HistSlot) (s : State)
@[simp] theorem updSlot_pending : (updSlot i f s).pending = s.pending := rfl
@[simp] theorem updSlot_now : (updSlot i f s).now = s.now := rfl
@[simp] theorem updSlot_free : (updSlot i f s).free = s.free := rfl
@[simp] theorem updSlot_train : (updSlot i f s).train = s.train := rfl
@[simp] theorem updSlot_num : (updSlot i f s).num = s.num := rfl
@[simp] theorem updSlot_host : (updSlot i f s).host = s.host := rfl
@[simp] theorem updSlot_dict : (updSlot i f s).dict = s.dict := rfl
@[simp] theorem updSlot_mem : (updSlot i f s).mem = s.mem := rfl
@[simp] theorem updSlot_tile : (updSlot i f s).tile = s.tile := rfl
@[simp] theorem updSlot_links : (updSlot i f s).links = s.links := rfl
@[simp] theorem updSlot_rows : (updSlot i f s).rows = s.rows := rfl
@[simp] theorem updSlot_clk : (updSlot i f s).clk = s.clk := rfl
@[simp] theorem updSlot_boot : (updSlot i f s).boot = s.boot := rfl
@[simp] theorem updSlot_out : (updSlot i f s).out = s.out := rfl
end updSlot

section updHist
variable (f : History → History) (s : State)
@[simp] theorem updHist_pending : (updHist f s).pending = s.pending := rfl
@[simp] theorem updHist_now : (updHist f s).now = s.now := rfl
@[simp] theorem updHist_free : (updHist f s).free = s.free := rfl
@[simp] theorem updHist_train : (updHist f s).train = s.train := rfl
@[simp] theorem updHist_num : (updHist f s).num = s.num := rfl
@[simp] theorem updHist_host : (updHist f s).host = s.host := rfl
@[simp] theorem updHist_dict : (updHist f s).dict = s.dict := rfl
@[simp] theorem updHist_mem : (updHist f s).mem = s.mem := rfl
@[simp] theorem updHist_tile : (updHist f s).tile = s.tile := rfl
@[simp] theorem updHist_links : (updHist f s).links = s.links := rfl
@[simp] theorem updHist_rows : (updHist f s).rows = s.rows := rfl
@[simp] theorem updHist_clk : (updHist f s).clk = s.clk := rfl
@[simp] theorem updHist_boot : (updHist f s).boot = s.boot := rfl
@[simp] theorem updHist_out : (updHist f s).out = s.out := rfl
end updHist

section updXlate
variable (f : Xlate → Xlate) (s : State)
@[simp] theorem updXlate_pending : (updXlate f s).pending = s.pending := rfl
@[simp] theorem updXlate_now : (updXlate f s).now = s.now := rfl
@[simp] theorem updXlate_free : (updXlate f s).free = s.free := rfl
@[simp] theorem updXlate_train : (updXlate f s).train = s.train := rfl
@[simp] theorem updXlate_num : (updXlate f s).num = s.num := rfl
@[simp] theorem updXlate_host : (updXlate f s).host = s.host := rfl
@[simp] theorem updXlate_dict : (updXlate f s).dict = s.dict := rfl
@[simp] theorem updXlate_tile : (updXlate f s).tile = s.tile := rfl
@[simp] theorem updXlate_links : (updXlate f s).links = s.links := rfl
@[simp] theorem updXlate_rows : (updXlate f s).rows = s.rows := rfl
@[simp] theorem updXlate_hist : (updXlate f s).hist = s.hist := rfl
@[simp] theorem updXlate_clk : (updXlate f s).clk = s.clk := rfl
@[simp] theorem updXlate_boot : (updXlate f s).boot = s.boot := rfl
@[simp] theorem updXlate_out : (updXlate f s).out = s.out := rfl
end updXlate

section updReq
variable (id : Nat) (f : MReq → MReq) (s : State)
@[simp] theorem updReq_pending : (updReq id f s).pending = s.pending := rfl
@[simp] theorem updReq_now : (updReq id f s).now = s.now := rfl
@[simp] theorem updReq_free : (updReq id f s).free = s.free := rfl
@[simp] theorem updReq_train : (updReq id f s).train = s.train := rfl
@[simp] theorem updReq_num : (updReq id f s).num = s.num := rfl
@[simp] theorem updReq_host : (updReq id f s).host = s.host := rfl
@[simp] theorem updReq_dict : (updReq id f s).dict = s.dict := rfl
@[simp] theorem updReq_tile : (updReq id f s).tile = s.tile := rfl
@[simp] theorem updReq_links : (updReq id f s).links = s.links := rfl
@[simp] theorem updReq_rows : (updReq id f s).rows = s.rows := rfl
@[simp] theorem updReq_hist : (updReq id f s).hist = s.hist := rfl
@[simp] theorem updReq_clk : (updReq id f s).clk = s.clk := rfl
@[simp] theorem updReq_boot : (updReq id f s).boot = s.boot := rfl
@[simp] theorem updReq_out : (updReq id f s).out = s.out := rfl
end updReq

section forgetReq
variable (id : Nat) (s : State)
@[simp] theorem forgetReq_pending : (forgetReq id s).pending = s.pending := rfl
@[simp] theorem forgetReq_now : (forgetReq id s).now = s.now := rfl
@[simp] theorem forgetReq_free : (forgetReq id s).free = s.free := rfl
@[simp] theorem forgetReq_train : (forgetReq id s).train = s.train := rfl
@[simp] theorem forgetReq_num : (forgetReq id s).num = s.num := rfl
@[simp] theorem forgetReq_host : (forgetReq id s).host = s.host := rfl
@[simp] theorem forgetReq_dict : (forgetReq id s).dict = s.dict := rfl
@[simp] theorem forgetReq_tile : (forgetReq id s).tile = s.tile := rfl
@[simp] theorem forgetReq_links : (forgetReq id s).links = s.links := rfl
@[simp] theorem forgetReq_rows : (forgetReq id s).rows = s.rows := rfl
@[simp] theorem forgetReq_hist : (forgetReq id s).hist = s.hist := rfl
@[simp] theorem forgetReq_clk : (forgetReq id s).clk = s.clk := rfl
@[simp] theorem forgetReq_boot : (forgetReq id s).boot = s.boot := rfl
@[simp] theorem forgetReq_out : (forgetReq id s).out = s.out := rfl
end forgetReq

section updStacks
variable (f : Stacks → Stacks) (s : State)
@[simp] theorem updStacks_pending : (updStacks f s).pending = s.pending := rfl
@[simp] theorem updStacks_now : (updStacks f s).now = s.now := rfl
@[simp] theorem updStacks_free : (updStacks f s).free = s.free := rfl
@[simp] theorem updStacks_train : (updStacks f s).train = s.train := rfl
@[simp] theorem updStacks_num : (updStacks f s).num = s.num := rfl
@[simp] theorem updStacks_host : (updStacks f s).host = s.host := rfl
@[simp] theorem updStacks_dict : (updStacks f s).dict = s.dict := rfl
@[simp] theorem updStacks_tile : (updStacks f s).tile = s.tile := rfl
@[simp] theorem updStacks_links : (updStacks f s).links = s.links := rfl
@[simp] theorem updStacks_rows : (updStacks f s).rows = s.rows := rfl
@[simp] theorem updStacks_hist : (updStacks f s).hist = s.hist := rfl
@[simp] theorem updStacks_clk : (updStacks f s).clk = s.clk := rfl
@[simp] theorem updStacks_boot : (updStacks f s).boot = s.boot := rfl
@[simp] theorem updStacks_out : (updStacks f s).out = s.out := rfl
end updStacks

section updLinks
variable (f : Links → Links) (s : State)
@[simp] theorem updLinks_pending : (updLinks f s).pending = s.pending := rfl
@[simp] theorem updLinks_now : (updLinks f s).now = s.now := rfl
@[simp] theorem updLinks_free : (updLinks f s).free = s.free := rfl
@[simp] theorem updLinks_train : (updLinks f s).train = s.train := rfl
@[simp] theorem updLinks_num : (updLinks f s).num = s.num := rfl
@[simp] theorem updLinks_host : (updLinks f s).host = s.host := rfl
@[simp] theorem updLinks_dict : (updLinks f s).dict = s.dict := rfl
@[simp] theorem updLinks_mem : (updLinks f s).mem = s.mem := rfl
@[simp] theorem updLinks_tile : (updLinks f s).tile = s.tile := rfl
@[simp] theorem updLinks_rows : (updLinks f s).rows = s.rows := rfl
@[simp] theorem updLinks_hist : (updLinks f s).hist = s.hist := rfl
@[simp] theorem updLinks_clk : (updLinks f s).clk = s.clk := rfl
@[simp] theorem updLinks_boot : (updLinks f s).boot = s.boot := rfl
@[simp] theorem updLinks_out : (updLinks f s).out = s.out := rfl
end updLinks

section updTrain
variable (f : Train → Train) (s : State)
@[simp] theorem updTrain_pending : (updTrain f s).pending = s.pending := rfl
@[simp] theorem updTrain_now : (updTrain f s).now = s.now := rfl
@[simp] theorem updTrain_free : (updTrain f s).free = s.free := rfl
@[simp] theorem updTrain_num : (updTrain f s).num = s.num := rfl
@[simp] theorem updTrain_host : (updTrain f s).host = s.host := rfl
@[simp] theorem updTrain_dict : (updTrain f s).dict = s.dict := rfl
@[simp] theorem updTrain_mem : (updTrain f s).mem = s.mem := rfl
@[simp] theorem updTrain_tile : (updTrain f s).tile = s.tile := rfl
@[simp] theorem updTrain_links : (updTrain f s).links = s.links := rfl
@[simp] theorem updTrain_rows : (updTrain f s).rows = s.rows := rfl
@[simp] theorem updTrain_hist : (updTrain f s).hist = s.hist := rfl
@[simp] theorem updTrain_clk : (updTrain f s).clk = s.clk := rfl
@[simp] theorem updTrain_boot : (updTrain f s).boot = s.boot := rfl
@[simp] theorem updTrain_out : (updTrain f s).out = s.out := rfl
end updTrain

section clearRing
variable (s : State)
@[simp] theorem clearRing_pending : (clearRing s).pending = s.pending := rfl
@[simp] theorem clearRing_now : (clearRing s).now = s.now := rfl
@[simp] theorem clearRing_free : (clearRing s).free = s.free := rfl
@[simp] theorem clearRing_num : (clearRing s).num = s.num := rfl
@[simp] theorem clearRing_host : (clearRing s).host = s.host := rfl
@[simp] theorem clearRing_dict : (clearRing s).dict = s.dict := rfl
@[simp] theorem clearRing_mem : (clearRing s).mem = s.mem := rfl
@[simp] theorem clearRing_tile : (clearRing s).tile = s.tile := rfl
@[simp] theorem clearRing_links : (clearRing s).links = s.links := rfl
@[simp] theorem clearRing_rows : (clearRing s).rows = s.rows := rfl
@[simp] theorem clearRing_hist : (clearRing s).hist = s.hist := rfl
@[simp] theorem clearRing_clk : (clearRing s).clk = s.clk := rfl
@[simp] theorem clearRing_boot : (clearRing s).boot = s.boot := rfl
@[simp] theorem clearRing_out : (clearRing s).out = s.out := rfl
end clearRing

section emit
variable (o : Out) (s : State)
@[simp] theorem emit_pending : (emit o s).pending = s.pending := rfl
@[simp] theorem emit_now : (emit o s).now = s.now := rfl
@[simp] theorem emit_free : (emit o s).free = s.free := rfl
@[simp] theorem emit_train : (emit o s).train = s.train := rfl
@[simp] theorem emit_num : (emit o s).num = s.num := rfl
@[simp] theorem emit_host : (emit o s).host = s.host := rfl
@[simp] theorem emit_dict : (emit o s).dict = s.dict := rfl
@[simp] theorem emit_mem : (emit o s).mem = s.mem := rfl
@[simp] theorem emit_tile : (emit o s).tile = s.tile := rfl
@[simp] theorem emit_links : (emit o s).links = s.links := rfl
@[simp] theorem emit_rows : (emit o s).rows = s.rows := rfl
@[simp] theorem emit_hist : (emit o s).hist = s.hist := rfl
@[simp] theorem emit_clk : (emit o s).clk = s.clk := rfl
@[simp] theorem emit_boot : (emit o s).boot = s.boot := rfl
end emit

section updTile
variable (t : Fin 128) (f : Tile → Tile) (s : State)
@[simp] theorem updTile_pending : (updTile t f s).pending = s.pending := rfl
@[simp] theorem updTile_now : (updTile t f s).now = s.now := rfl
@[simp] theorem updTile_free : (updTile t f s).free = s.free := rfl
@[simp] theorem updTile_train : (updTile t f s).train = s.train := rfl
@[simp] theorem updTile_num : (updTile t f s).num = s.num := rfl
@[simp] theorem updTile_host : (updTile t f s).host = s.host := rfl
@[simp] theorem updTile_dict : (updTile t f s).dict = s.dict := rfl
@[simp] theorem updTile_mem : (updTile t f s).mem = s.mem := rfl
@[simp] theorem updTile_links : (updTile t f s).links = s.links := rfl
@[simp] theorem updTile_rows : (updTile t f s).rows = s.rows := rfl
@[simp] theorem updTile_hist : (updTile t f s).hist = s.hist := rfl
@[simp] theorem updTile_clk : (updTile t f s).clk = s.clk := rfl
@[simp] theorem updTile_boot : (updTile t f s).boot = s.boot := rfl
@[simp] theorem updTile_out : (updTile t f s).out = s.out := rfl
end updTile

section updStep
variable (n : BitVec 64) (f : Step → Step) (s : State)
@[simp] theorem updStep_pending : (updStep n f s).pending = s.pending := rfl
@[simp] theorem updStep_now : (updStep n f s).now = s.now := rfl
@[simp] theorem updStep_free : (updStep n f s).free = s.free := rfl
@[simp] theorem updStep_num : (updStep n f s).num = s.num := rfl
@[simp] theorem updStep_host : (updStep n f s).host = s.host := rfl
@[simp] theorem updStep_dict : (updStep n f s).dict = s.dict := rfl
@[simp] theorem updStep_mem : (updStep n f s).mem = s.mem := rfl
@[simp] theorem updStep_tile : (updStep n f s).tile = s.tile := rfl
@[simp] theorem updStep_links : (updStep n f s).links = s.links := rfl
@[simp] theorem updStep_rows : (updStep n f s).rows = s.rows := rfl
@[simp] theorem updStep_hist : (updStep n f s).hist = s.hist := rfl
@[simp] theorem updStep_clk : (updStep n f s).clk = s.clk := rfl
@[simp] theorem updStep_boot : (updStep n f s).boot = s.boot := rfl
@[simp] theorem updStep_out : (updStep n f s).out = s.out := rfl
end updStep

section hostCount
variable (f : HostCounters → HostCounters) (s : State)
@[simp] theorem hostCount_pending : (hostCount f s).pending = s.pending := rfl
@[simp] theorem hostCount_now : (hostCount f s).now = s.now := rfl
@[simp] theorem hostCount_free : (hostCount f s).free = s.free := rfl
@[simp] theorem hostCount_train : (hostCount f s).train = s.train := rfl
@[simp] theorem hostCount_num : (hostCount f s).num = s.num := rfl
@[simp] theorem hostCount_dict : (hostCount f s).dict = s.dict := rfl
@[simp] theorem hostCount_mem : (hostCount f s).mem = s.mem := rfl
@[simp] theorem hostCount_tile : (hostCount f s).tile = s.tile := rfl
@[simp] theorem hostCount_links : (hostCount f s).links = s.links := rfl
@[simp] theorem hostCount_rows : (hostCount f s).rows = s.rows := rfl
@[simp] theorem hostCount_hist : (hostCount f s).hist = s.hist := rfl
@[simp] theorem hostCount_clk : (hostCount f s).clk = s.clk := rfl
@[simp] theorem hostCount_boot : (hostCount f s).boot = s.boot := rfl
@[simp] theorem hostCount_out : (hostCount f s).out = s.out := rfl
end hostCount

section memCount
variable (f : MemCounters → MemCounters) (s : State)
@[simp] theorem memCount_pending : (memCount f s).pending = s.pending := rfl
@[simp] theorem memCount_now : (memCount f s).now = s.now := rfl
@[simp] theorem memCount_free : (memCount f s).free = s.free := rfl
@[simp] theorem memCount_train : (memCount f s).train = s.train := rfl
@[simp] theorem memCount_num : (memCount f s).num = s.num := rfl
@[simp] theorem memCount_host : (memCount f s).host = s.host := rfl
@[simp] theorem memCount_dict : (memCount f s).dict = s.dict := rfl
@[simp] theorem memCount_tile : (memCount f s).tile = s.tile := rfl
@[simp] theorem memCount_links : (memCount f s).links = s.links := rfl
@[simp] theorem memCount_rows : (memCount f s).rows = s.rows := rfl
@[simp] theorem memCount_hist : (memCount f s).hist = s.hist := rfl
@[simp] theorem memCount_clk : (memCount f s).clk = s.clk := rfl
@[simp] theorem memCount_boot : (memCount f s).boot = s.boot := rfl
@[simp] theorem memCount_out : (memCount f s).out = s.out := rfl
end memCount

section linkCount
variable (f : PortCounters → PortCounters) (s : State)
@[simp] theorem linkCount_pending : (linkCount f s).pending = s.pending := rfl
@[simp] theorem linkCount_now : (linkCount f s).now = s.now := rfl
@[simp] theorem linkCount_free : (linkCount f s).free = s.free := rfl
@[simp] theorem linkCount_train : (linkCount f s).train = s.train := rfl
@[simp] theorem linkCount_num : (linkCount f s).num = s.num := rfl
@[simp] theorem linkCount_host : (linkCount f s).host = s.host := rfl
@[simp] theorem linkCount_dict : (linkCount f s).dict = s.dict := rfl
@[simp] theorem linkCount_mem : (linkCount f s).mem = s.mem := rfl
@[simp] theorem linkCount_tile : (linkCount f s).tile = s.tile := rfl
@[simp] theorem linkCount_rows : (linkCount f s).rows = s.rows := rfl
@[simp] theorem linkCount_hist : (linkCount f s).hist = s.hist := rfl
@[simp] theorem linkCount_clk : (linkCount f s).clk = s.clk := rfl
@[simp] theorem linkCount_boot : (linkCount f s).boot = s.boot := rfl
@[simp] theorem linkCount_out : (linkCount f s).out = s.out := rfl
end linkCount

section collCount
variable (f : CollCounters → CollCounters) (s : State)
@[simp] theorem collCount_pending : (collCount f s).pending = s.pending := rfl
@[simp] theorem collCount_now : (collCount f s).now = s.now := rfl
@[simp] theorem collCount_free : (collCount f s).free = s.free := rfl
@[simp] theorem collCount_train : (collCount f s).train = s.train := rfl
@[simp] theorem collCount_num : (collCount f s).num = s.num := rfl
@[simp] theorem collCount_host : (collCount f s).host = s.host := rfl
@[simp] theorem collCount_dict : (collCount f s).dict = s.dict := rfl
@[simp] theorem collCount_mem : (collCount f s).mem = s.mem := rfl
@[simp] theorem collCount_tile : (collCount f s).tile = s.tile := rfl
@[simp] theorem collCount_rows : (collCount f s).rows = s.rows := rfl
@[simp] theorem collCount_hist : (collCount f s).hist = s.hist := rfl
@[simp] theorem collCount_clk : (collCount f s).clk = s.clk := rfl
@[simp] theorem collCount_boot : (collCount f s).boot = s.boot := rfl
@[simp] theorem collCount_out : (collCount f s).out = s.out := rfl
end collCount

section updPort
variable (p : Fin 16) (f : Port → Port) (s : State)
@[simp] theorem updPort_pending : (updPort p f s).pending = s.pending := rfl
@[simp] theorem updPort_now : (updPort p f s).now = s.now := rfl
@[simp] theorem updPort_free : (updPort p f s).free = s.free := rfl
@[simp] theorem updPort_train : (updPort p f s).train = s.train := rfl
@[simp] theorem updPort_num : (updPort p f s).num = s.num := rfl
@[simp] theorem updPort_host : (updPort p f s).host = s.host := rfl
@[simp] theorem updPort_dict : (updPort p f s).dict = s.dict := rfl
@[simp] theorem updPort_mem : (updPort p f s).mem = s.mem := rfl
@[simp] theorem updPort_tile : (updPort p f s).tile = s.tile := rfl
@[simp] theorem updPort_rows : (updPort p f s).rows = s.rows := rfl
@[simp] theorem updPort_hist : (updPort p f s).hist = s.hist := rfl
@[simp] theorem updPort_clk : (updPort p f s).clk = s.clk := rfl
@[simp] theorem updPort_boot : (updPort p f s).boot = s.boot := rfl
@[simp] theorem updPort_out : (updPort p f s).out = s.out := rfl
end updPort

section updUnit
variable (u : Fin 4) (f : CollUnit → CollUnit) (s : State)
@[simp] theorem updUnit_pending : (updUnit u f s).pending = s.pending := rfl
@[simp] theorem updUnit_now : (updUnit u f s).now = s.now := rfl
@[simp] theorem updUnit_free : (updUnit u f s).free = s.free := rfl
@[simp] theorem updUnit_train : (updUnit u f s).train = s.train := rfl
@[simp] theorem updUnit_num : (updUnit u f s).num = s.num := rfl
@[simp] theorem updUnit_host : (updUnit u f s).host = s.host := rfl
@[simp] theorem updUnit_dict : (updUnit u f s).dict = s.dict := rfl
@[simp] theorem updUnit_mem : (updUnit u f s).mem = s.mem := rfl
@[simp] theorem updUnit_tile : (updUnit u f s).tile = s.tile := rfl
@[simp] theorem updUnit_rows : (updUnit u f s).rows = s.rows := rfl
@[simp] theorem updUnit_hist : (updUnit u f s).hist = s.hist := rfl
@[simp] theorem updUnit_clk : (updUnit u f s).clk = s.clk := rfl
@[simp] theorem updUnit_boot : (updUnit u f s).boot = s.boot := rfl
@[simp] theorem updUnit_out : (updUnit u f s).out = s.out := rfl
end updUnit

section updEngine
variable (k : Fin 16) (f : CopyEngine → CopyEngine) (s : State)
@[simp] theorem updEngine_pending : (updEngine k f s).pending = s.pending := rfl
@[simp] theorem updEngine_now : (updEngine k f s).now = s.now := rfl
@[simp] theorem updEngine_free : (updEngine k f s).free = s.free := rfl
@[simp] theorem updEngine_train : (updEngine k f s).train = s.train := rfl
@[simp] theorem updEngine_num : (updEngine k f s).num = s.num := rfl
@[simp] theorem updEngine_dict : (updEngine k f s).dict = s.dict := rfl
@[simp] theorem updEngine_mem : (updEngine k f s).mem = s.mem := rfl
@[simp] theorem updEngine_tile : (updEngine k f s).tile = s.tile := rfl
@[simp] theorem updEngine_links : (updEngine k f s).links = s.links := rfl
@[simp] theorem updEngine_rows : (updEngine k f s).rows = s.rows := rfl
@[simp] theorem updEngine_hist : (updEngine k f s).hist = s.hist := rfl
@[simp] theorem updEngine_clk : (updEngine k f s).clk = s.clk := rfl
@[simp] theorem updEngine_boot : (updEngine k f s).boot = s.boot := rfl
@[simp] theorem updEngine_out : (updEngine k f s).out = s.out := rfl
end updEngine

section updTable
variable (id : Nat) (f : Table → Table) (s : State)
@[simp] theorem updTable_pending : (updTable id f s).pending = s.pending := rfl
@[simp] theorem updTable_now : (updTable id f s).now = s.now := rfl
@[simp] theorem updTable_free : (updTable id f s).free = s.free := rfl
@[simp] theorem updTable_train : (updTable id f s).train = s.train := rfl
@[simp] theorem updTable_num : (updTable id f s).num = s.num := rfl
@[simp] theorem updTable_host : (updTable id f s).host = s.host := rfl
@[simp] theorem updTable_dict : (updTable id f s).dict = s.dict := rfl
@[simp] theorem updTable_mem : (updTable id f s).mem = s.mem := rfl
@[simp] theorem updTable_tile : (updTable id f s).tile = s.tile := rfl
@[simp] theorem updTable_links : (updTable id f s).links = s.links := rfl
@[simp] theorem updTable_hist : (updTable id f s).hist = s.hist := rfl
@[simp] theorem updTable_clk : (updTable id f s).clk = s.clk := rfl
@[simp] theorem updTable_boot : (updTable id f s).boot = s.boot := rfl
@[simp] theorem updTable_out : (updTable id f s).out = s.out := rfl
end updTable

section updEng
variable (e : Fin 16) (f : Engine → Engine) (s : State)
@[simp] theorem updEng_pending : (updEng e f s).pending = s.pending := rfl
@[simp] theorem updEng_now : (updEng e f s).now = s.now := rfl
@[simp] theorem updEng_free : (updEng e f s).free = s.free := rfl
@[simp] theorem updEng_train : (updEng e f s).train = s.train := rfl
@[simp] theorem updEng_num : (updEng e f s).num = s.num := rfl
@[simp] theorem updEng_host : (updEng e f s).host = s.host := rfl
@[simp] theorem updEng_dict : (updEng e f s).dict = s.dict := rfl
@[simp] theorem updEng_mem : (updEng e f s).mem = s.mem := rfl
@[simp] theorem updEng_tile : (updEng e f s).tile = s.tile := rfl
@[simp] theorem updEng_links : (updEng e f s).links = s.links := rfl
@[simp] theorem updEng_hist : (updEng e f s).hist = s.hist := rfl
@[simp] theorem updEng_clk : (updEng e f s).clk = s.clk := rfl
@[simp] theorem updEng_boot : (updEng e f s).boot = s.boot := rfl
@[simp] theorem updEng_out : (updEng e f s).out = s.out := rfl
end updEng

section updRowObj
variable (f : RowObjects → RowObjects) (s : State)
@[simp] theorem updRowObj_pending : (updRowObj f s).pending = s.pending := rfl
@[simp] theorem updRowObj_now : (updRowObj f s).now = s.now := rfl
@[simp] theorem updRowObj_free : (updRowObj f s).free = s.free := rfl
@[simp] theorem updRowObj_train : (updRowObj f s).train = s.train := rfl
@[simp] theorem updRowObj_num : (updRowObj f s).num = s.num := rfl
@[simp] theorem updRowObj_host : (updRowObj f s).host = s.host := rfl
@[simp] theorem updRowObj_dict : (updRowObj f s).dict = s.dict := rfl
@[simp] theorem updRowObj_mem : (updRowObj f s).mem = s.mem := rfl
@[simp] theorem updRowObj_tile : (updRowObj f s).tile = s.tile := rfl
@[simp] theorem updRowObj_links : (updRowObj f s).links = s.links := rfl
@[simp] theorem updRowObj_hist : (updRowObj f s).hist = s.hist := rfl
@[simp] theorem updRowObj_clk : (updRowObj f s).clk = s.clk := rfl
@[simp] theorem updRowObj_boot : (updRowObj f s).boot = s.boot := rfl
@[simp] theorem updRowObj_out : (updRowObj f s).out = s.out := rfl
end updRowObj

section leaveBatch
variable (cmd : Nat) (s : State)
@[simp] theorem leaveBatch_pending : (leaveBatch cmd s).pending = s.pending := rfl
@[simp] theorem leaveBatch_now : (leaveBatch cmd s).now = s.now := rfl
@[simp] theorem leaveBatch_free : (leaveBatch cmd s).free = s.free := rfl
@[simp] theorem leaveBatch_train : (leaveBatch cmd s).train = s.train := rfl
@[simp] theorem leaveBatch_num : (leaveBatch cmd s).num = s.num := rfl
@[simp] theorem leaveBatch_host : (leaveBatch cmd s).host = s.host := rfl
@[simp] theorem leaveBatch_dict : (leaveBatch cmd s).dict = s.dict := rfl
@[simp] theorem leaveBatch_mem : (leaveBatch cmd s).mem = s.mem := rfl
@[simp] theorem leaveBatch_tile : (leaveBatch cmd s).tile = s.tile := rfl
@[simp] theorem leaveBatch_links : (leaveBatch cmd s).links = s.links := rfl
@[simp] theorem leaveBatch_hist : (leaveBatch cmd s).hist = s.hist := rfl
@[simp] theorem leaveBatch_clk : (leaveBatch cmd s).clk = s.clk := rfl
@[simp] theorem leaveBatch_boot : (leaveBatch cmd s).boot = s.boot := rfl
@[simp] theorem leaveBatch_out : (leaveBatch cmd s).out = s.out := rfl
end leaveBatch

section updStore
variable (e : Fin 16) (f : Mem → Mem) (s : State)
@[simp] theorem updStore_pending : (updStore e f s).pending = s.pending := rfl
@[simp] theorem updStore_now : (updStore e f s).now = s.now := rfl
@[simp] theorem updStore_free : (updStore e f s).free = s.free := rfl
@[simp] theorem updStore_train : (updStore e f s).train = s.train := rfl
@[simp] theorem updStore_num : (updStore e f s).num = s.num := rfl
@[simp] theorem updStore_host : (updStore e f s).host = s.host := rfl
@[simp] theorem updStore_dict : (updStore e f s).dict = s.dict := rfl
@[simp] theorem updStore_tile : (updStore e f s).tile = s.tile := rfl
@[simp] theorem updStore_links : (updStore e f s).links = s.links := rfl
@[simp] theorem updStore_rows : (updStore e f s).rows = s.rows := rfl
@[simp] theorem updStore_hist : (updStore e f s).hist = s.hist := rfl
@[simp] theorem updStore_clk : (updStore e f s).clk = s.clk := rfl
@[simp] theorem updStore_boot : (updStore e f s).boot = s.boot := rfl
@[simp] theorem updStore_out : (updStore e f s).out = s.out := rfl
end updStore

section updHost
variable (f : HostIf → HostIf) (s : State)
@[simp] theorem updHost_pending : (updHost f s).pending = s.pending := rfl
@[simp] theorem updHost_now : (updHost f s).now = s.now := rfl
@[simp] theorem updHost_free : (updHost f s).free = s.free := rfl
@[simp] theorem updHost_train : (updHost f s).train = s.train := rfl
@[simp] theorem updHost_num : (updHost f s).num = s.num := rfl
@[simp] theorem updHost_dict : (updHost f s).dict = s.dict := rfl
@[simp] theorem updHost_mem : (updHost f s).mem = s.mem := rfl
@[simp] theorem updHost_tile : (updHost f s).tile = s.tile := rfl
@[simp] theorem updHost_links : (updHost f s).links = s.links := rfl
@[simp] theorem updHost_rows : (updHost f s).rows = s.rows := rfl
@[simp] theorem updHost_hist : (updHost f s).hist = s.hist := rfl
@[simp] theorem updHost_clk : (updHost f s).clk = s.clk := rfl
@[simp] theorem updHost_boot : (updHost f s).boot = s.boot := rfl
@[simp] theorem updHost_out : (updHost f s).out = s.out := rfl
end updHost

section updRecord
variable (p : Step) (f : PhaseRec → PhaseRec) (s : State)
@[simp] theorem updRecord_pending : (updRecord p f s).pending = s.pending := rfl
@[simp] theorem updRecord_now : (updRecord p f s).now = s.now := rfl
@[simp] theorem updRecord_free : (updRecord p f s).free = s.free := rfl
@[simp] theorem updRecord_num : (updRecord p f s).num = s.num := rfl
@[simp] theorem updRecord_host : (updRecord p f s).host = s.host := rfl
@[simp] theorem updRecord_dict : (updRecord p f s).dict = s.dict := rfl
@[simp] theorem updRecord_mem : (updRecord p f s).mem = s.mem := rfl
@[simp] theorem updRecord_tile : (updRecord p f s).tile = s.tile := rfl
@[simp] theorem updRecord_links : (updRecord p f s).links = s.links := rfl
@[simp] theorem updRecord_rows : (updRecord p f s).rows = s.rows := rfl
@[simp] theorem updRecord_hist : (updRecord p f s).hist = s.hist := rfl
@[simp] theorem updRecord_clk : (updRecord p f s).clk = s.clk := rfl
@[simp] theorem updRecord_boot : (updRecord p f s).boot = s.boot := rfl
@[simp] theorem updRecord_out : (updRecord p f s).out = s.out := rfl
end updRecord

section countRecordFail
variable (s : State)
@[simp] theorem countRecordFail_pending : (countRecordFail s).pending = s.pending := rfl
@[simp] theorem countRecordFail_now : (countRecordFail s).now = s.now := rfl
@[simp] theorem countRecordFail_free : (countRecordFail s).free = s.free := rfl
@[simp] theorem countRecordFail_num : (countRecordFail s).num = s.num := rfl
@[simp] theorem countRecordFail_host : (countRecordFail s).host = s.host := rfl
@[simp] theorem countRecordFail_dict : (countRecordFail s).dict = s.dict := rfl
@[simp] theorem countRecordFail_mem : (countRecordFail s).mem = s.mem := rfl
@[simp] theorem countRecordFail_tile : (countRecordFail s).tile = s.tile := rfl
@[simp] theorem countRecordFail_links : (countRecordFail s).links = s.links := rfl
@[simp] theorem countRecordFail_rows : (countRecordFail s).rows = s.rows := rfl
@[simp] theorem countRecordFail_hist : (countRecordFail s).hist = s.hist := rfl
@[simp] theorem countRecordFail_clk : (countRecordFail s).clk = s.clk := rfl
@[simp] theorem countRecordFail_boot : (countRecordFail s).boot = s.boot := rfl
@[simp] theorem countRecordFail_out : (countRecordFail s).out = s.out := rfl
end countRecordFail

section updExchange
variable (n : BitVec 64) (f : Exchange → Exchange) (s : State)
@[simp] theorem updExchange_pending : (updExchange n f s).pending = s.pending := rfl
@[simp] theorem updExchange_now : (updExchange n f s).now = s.now := rfl
@[simp] theorem updExchange_free : (updExchange n f s).free = s.free := rfl
@[simp] theorem updExchange_train : (updExchange n f s).train = s.train := rfl
@[simp] theorem updExchange_num : (updExchange n f s).num = s.num := rfl
@[simp] theorem updExchange_host : (updExchange n f s).host = s.host := rfl
@[simp] theorem updExchange_dict : (updExchange n f s).dict = s.dict := rfl
@[simp] theorem updExchange_mem : (updExchange n f s).mem = s.mem := rfl
@[simp] theorem updExchange_tile : (updExchange n f s).tile = s.tile := rfl
@[simp] theorem updExchange_rows : (updExchange n f s).rows = s.rows := rfl
@[simp] theorem updExchange_hist : (updExchange n f s).hist = s.hist := rfl
@[simp] theorem updExchange_clk : (updExchange n f s).clk = s.clk := rfl
@[simp] theorem updExchange_boot : (updExchange n f s).boot = s.boot := rfl
@[simp] theorem updExchange_out : (updExchange n f s).out = s.out := rfl
end updExchange

section dropMsgs
variable (x : Exchange) (down : Bool) (s : State)
@[simp] theorem dropMsgs_pending : (dropMsgs x down s).pending = s.pending := rfl
@[simp] theorem dropMsgs_now : (dropMsgs x down s).now = s.now := rfl
@[simp] theorem dropMsgs_free : (dropMsgs x down s).free = s.free := rfl
@[simp] theorem dropMsgs_train : (dropMsgs x down s).train = s.train := rfl
@[simp] theorem dropMsgs_num : (dropMsgs x down s).num = s.num := rfl
@[simp] theorem dropMsgs_host : (dropMsgs x down s).host = s.host := rfl
@[simp] theorem dropMsgs_dict : (dropMsgs x down s).dict = s.dict := rfl
@[simp] theorem dropMsgs_mem : (dropMsgs x down s).mem = s.mem := rfl
@[simp] theorem dropMsgs_tile : (dropMsgs x down s).tile = s.tile := rfl
@[simp] theorem dropMsgs_rows : (dropMsgs x down s).rows = s.rows := rfl
@[simp] theorem dropMsgs_hist : (dropMsgs x down s).hist = s.hist := rfl
@[simp] theorem dropMsgs_clk : (dropMsgs x down s).clk = s.clk := rfl
@[simp] theorem dropMsgs_boot : (dropMsgs x down s).boot = s.boot := rfl
@[simp] theorem dropMsgs_out : (dropMsgs x down s).out = s.out := rfl
end dropMsgs

section updExport
variable (cmd : Nat) (f : ExportRun → ExportRun) (s : State)
@[simp] theorem updExport_pending : (updExport cmd f s).pending = s.pending := rfl
@[simp] theorem updExport_now : (updExport cmd f s).now = s.now := rfl
@[simp] theorem updExport_free : (updExport cmd f s).free = s.free := rfl
@[simp] theorem updExport_train : (updExport cmd f s).train = s.train := rfl
@[simp] theorem updExport_num : (updExport cmd f s).num = s.num := rfl
@[simp] theorem updExport_host : (updExport cmd f s).host = s.host := rfl
@[simp] theorem updExport_dict : (updExport cmd f s).dict = s.dict := rfl
@[simp] theorem updExport_mem : (updExport cmd f s).mem = s.mem := rfl
@[simp] theorem updExport_tile : (updExport cmd f s).tile = s.tile := rfl
@[simp] theorem updExport_links : (updExport cmd f s).links = s.links := rfl
@[simp] theorem updExport_hist : (updExport cmd f s).hist = s.hist := rfl
@[simp] theorem updExport_clk : (updExport cmd f s).clk = s.clk := rfl
@[simp] theorem updExport_boot : (updExport cmd f s).boot = s.boot := rfl
@[simp] theorem updExport_out : (updExport cmd f s).out = s.out := rfl
end updExport

end Sys2Proof.Machine
end

