-- ==== Sys2Proof/WellFormed.lean ====
section
/-!
DEFINITION. Well-formed commands: operands that the environment can send. The meanings are total and take no step on the others, or read
what is there; nothing else of the model rests on these checks.
-/
namespace Sys2Proof

/-- A slot's OPCODE is that of its row (R360, R367). -/
def slotHas (op : Nat) (c : Slot) : Bool := (c.hdr.extractLsb' 0 8).toNat == op

/-- The value of a dictionary write: at most the largest encoded value of any object, 262,144 bytes (R393). -/
def valueFits (v : List Byte) : Bool := decide (v.length ≤ 262144)

/-- A codeword's flits: ten in a DATA codeword, none in the others (R305). -/
def codewordFits (cw : Codeword) : Bool := decide (cw.flits.length = if cw.kind = 0 then 10 else 0)

/-- A message's data: at most what an Ethernet frame or the mailbox carries (R401, R410). -/
def messageFits (ch : Chan) (m : Vmp) : Bool :=
  match ch with
  | .mailbox => decide (m.data.length ≤ 16384)
  | .fn _ => decide (m.data.length ≤ 1500 - 32)

/-- What the decoder makes of a wide error that it corrects wrongly is a codeword's 64 bytes (R283). -/
def errorFits : EccErr → Bool
  | .oneSymbol _ | .twoSymbols _ | .wideDetected _ => true
  | .wideWrong _ wrong => decide (wrong.length = 64)

/-- Whether a command is well-formed. -/
def Instr.wf : Instr → Bool
  | .stepBegin _ c => slotHas 0x01 c
  | .stepEnd _ c => slotHas 0x02 c
  | .ringClear _ v => valueFits v
  | .tileRun _ c => slotHas 0x10 c
  | .tmemWriteback m word _ => decide (64 * word < if m.val < 128 then 0x1800000 else 0x4000000)
  | .tileFence _ v => valueFits v
  | .tileUnfence _ v => valueFits v
  | .lossScaleWrite _ v => valueFits v
  | .tableSet _ c => slotHas 0x20 c
  | .gather _ c => slotHas 0x21 c
  | .prescan _ c => slotHas 0x22 c
  | .emberRefresh _ c => slotHas 0x23 c
  | .emberSetsWrite _ v => valueFits v
  | .scatter _ c => slotHas 0x28 c
  | .merge _ c => slotHas 0x29 c
  | .optimSet _ c => slotHas 0x2A c
  | .rowOptimise _ c => slotHas 0x2B c
  | .deferForward _ _ row => decide (row < 2 ^ 32)
  | .deltaMap _ c => slotHas 0x2C c
  | .exportCmd _ c => slotHas 0x30 c
  | .importCmd _ c => slotHas 0x31 c
  | .slotSet _ c => slotHas 0x38 c
  | .slotExtend _ c => slotHas 0x39 c
  | .histAppend _ c => slotHas 0x3A c
  | .histWalk _ c => slotHas 0x3B c
  | .memRequest _ _ errs => errs.all errorFits
  | .memCeWriteback stack word => decide (word / 2 ^ 30 = stack.val)
  | .scrubRead _ err => err.all errorFits
  | .dieCeCollect _ counts => decide (counts.length = 16)
  | .pageWalkStart _ page => decide (page < 2 ^ 27)
  | .pageWalkDone _ page => decide (page < 2 ^ 27)
  | .ptInvalidate _ v => valueFits v
  | .ptRootWrite _ v => valueFits v
  | .xlateSpansWrite _ v => valueFits v
  | .farMapWrite _ v => valueFits v
  | .memUeLogClear _ v => valueFits v
  | .codewordRx _ cw => codewordFits cw
  | .groupSet _ c => slotHas 0x40 c
  | .collective _ c => slotHas 0x41 c
  | .nodeIdWrite _ v => valueFits v
  | .linkPortsWrite _ v => valueFits v
  | .portDisableWrite _ v => valueFits v
  | .routingTableWrite _ _ v => valueFits v
  | .bar2Read off len => decide (0 < len) && decide (off.toNat + len ≤ 2 ^ 36)
  | .bar2Write off bytes _ => decide (0 < bytes.length) && decide (off.toNat + bytes.length ≤ 2 ^ 36)
  | .nop _ c => slotHas 0x00 c
  | .copy _ c => slotHas 0x18 c
  | .inlineWrite _ c => slotHas 0x19 c
  | .fwBlock _ c => slotHas 0x50 c
  | .vmpRead ch m => messageFits ch m.msg
  | .vmpWrite ch m => messageFits ch m.msg
  | .vmpDescribe ch m => messageFits ch m.msg
  | .memRead ch m => messageFits ch m.msg
  | .memWrite ch m => messageFits ch m.msg
  | .discover mac m => messageFits (.fn mac) m.msg
  | .unsolicitedOpRx ch m => messageFits ch m.msg
  | .fnFrameDiscard mac m => messageFits (.fn mac) m.msg
  | .counterSnapshot _ v => valueFits v
  | .counterLive _ v => valueFits v
  | .registerWrite off bytes => decide (0 < bytes.length) && decide (off.toNat + bytes.length ≤ 2 ^ 24)
  | .deviceReset _ v => valueFits v
  | .powerModeWrite _ v => valueFits v
  | .parkEnter _ v => valueFits v
  | .parkExit _ v => valueFits v
  | .thermalSample quads stackTemps => decide (quads.length = 4) && decide (stackTemps.length = 8)
  | .alertClear _ v => valueFits v
  | .bootHoldWrite _ v => valueFits v
  | .bootContinue _ v => valueFits v
  | .ownerKeyWrite _ v => valueFits v
  | .protInstall _ v => valueFits v
  | .fwReceivePcie _ v => valueFits v
  | .fwReceiveKindle _ v => valueFits v
  | .fwAbort _ v => valueFits v
  | .fwActivate _ v => valueFits v
  | .fwConfirm _ v => valueFits v
  | .measExtend _ v => valueFits v
  | .attestSign _ v => valueFits v
  | .verdictContribution _ | .commitStart _ | .commitLogWaitEnd _ | .localCommitComplete _ | .stepClose _ | .recordWriteAck _ _
  | .earlyRedo _ | .weavePacketDelivery _ _ _ | .blockCounterIncrement _ _ _ | .weightLoadStart _ | .waleFrontStart _
  | .feederVectorReady _ _ | .drainBlockRelease _ | .arrayPassComplete _ | .zbReplay _ | .tileProgramStart _ | .tileProgramStop _
  | .stop _ _ | .seqNop _ | .add _ _ _ _ | .addi _ _ _ _ | .sub _ _ _ _ | .mul _ _ _ _ | .and _ _ _ _ | .or _ _ _ _ | .xor _ _ _ _
  | .shli _ _ _ _ | .shri _ _ _ _ | .lui _ _ _ | .ld _ _ _ _ | .st _ _ _ _ | .beq _ _ _ _ | .bne _ _ _ _ | .bltu _ _ _ _ | .jr _ _
  | .sys _ _ _ | .sysWindowCheck _ _ _ | .sysWindowClear _ _ | .pass _ _ | .move _ _ | .vloop _ _ | .bcset _ _ _ | .bcwait _ _ _
  | .bcwaitResume _ | .bcread _ _ _ | .phase _ _ | .fence _ _ | .fenceResume _ | .redrd _ _ _ | .redrdResume _ | .verd _ _ _
  | .verdResume _ | .sharddef _ _ _ _ | .shardget _ _ _ | .moverRequestIssue _ | .moverRequestDone _ _ | .vectorLoopStart _
  | .vectorBundleIssue _ | .vectorLoopEnd _ | .versionRetire _ | .bagDispatch _ | .probe _ _ | .waitListRelease _ _
  | .rowPieceArrive _ _ _ | .poolPiece _ | .bagOutputWrite _ _ _ | .prescanPosition _ | .prescanRowArrive _ _ | .emberEntryApply _
  | .emberInstallDone _ | .scatterKeysWritten _ | .mergeComplete _ | .rowOptimiseStart _ | .rowApplyEntry _ | .deferDrainBatch _
  | .replicaHashCheck _ _ _ | .exportCapture _ | .exportCommit _ | .appendGroupStart _ | .appendGroupDone _ | .stallExpiry _
  | .walkListRead _ | .walkPositionWaitEnd _ | .forwardedRequestIssue | .forwardedRequestAck _ | .farRequestIssue _
  | .farRequestDone _ _ _ | .portRetrainTimer _ | .portEqualisationDone _ _ | .codewordLock _ | .portUp _ | .trainingStepTimeout _
  | .identRx _ | .nakRx _ _ | .replayTimeout _ | .ackStallTimeout _ | .lockLoss _ | .creditRx _ | .creditReport _ | .packetForward _ _
  | .collDataRx _ | .verdictUpRx _ | .verdictDownRx _ | .pullRx _ | .abortRx _ | .auditRx _ | .refetchRx _ | .remoteWriteRx _
  | .readReqRx _ | .readRespRx _ | .writeAckRx _ | .remoteTimeout _ _ | .collDescriptorStart _ _ | .collDescriptorComplete _ _
  | .collTimeout _ _ | .verdictTimeout _ | .permuteReceiveStart _ _ | .permuteStageCopy _ _ | .perstNAssert | .perstNDeassert
  | .hotReset | .pcieLinkDown | .functionLevelReset | .enterHeld | .hostWatchdogExpiry | .heartbeat _ | .sqTailDoorbell _ _
  | .cqHeadDoorbell _ _ | .sqConfigWrite _ _ _ | .cqConfigWrite _ _ _ | .slotFetch _ _ | .admissionRetry _ | .completionRecordWrite
  | .cqIrqDelay _ | .regionTagAddrWrite _ | .regionHeaderRead _ | .sessionOpen | .sessionClose | .sessionResume | .sessionRelease
  | .sessionReinit | .reinitTimeout | .drainEnd | .copyRequestIssue _ | .copyRequestDone _ _ _ | .pcieCompletionTimeout _ _
  | .mailboxGo | .readLatchExpiry _ | .writeBufferExpiry _ | .configStoreCommit | .cmdActionEnd | .notifySend
  | .plcaBeacon | .lockCheck _ _ | .rootLockTimeout | .refLossDetect _ | .refclkReturn | .muxSelect _ _ | .muxSwitchDone _
  | .clockHangDetect _ | .deviceResetAssert | .pwrEnRise _ _ _ | .porRelease _ | .pwrEnFall | .vinUndervoltage | .powerModeChangeDone
  | .governorSample _ _ | .wakeComplete | .thermtrip | .bootStart | .bootHoldExpiry | .bootReady | .bootWatchdogExpiry
  | .fwReceiveTimeout | .kindleBlockTake | .flashBlockWritten | .kindlePush _ | .kindleChildDrop _ | .fwImageVerify | .attestSignDone
  | .tapReset | .tapExtest | .tapSamplePreload | .tapIdcode | .tapBypass | .arrayBeat _ | .codewordTx _ | .phaseTimerTick
  | .moduleParked | .deviceFault | .seqReservedOpcode _ => true

end Sys2Proof
end

