-- ==== Sys2Proof/Tests/Slice0.lean ====
section
/-!
SUPPORT. Tests: ill-formed commands, and for every premise of the obligations a state and operands that meet it.

Each `test_witness_…` shows concrete values that meet together the premises of a statement, or of one of its clauses; the states are made
by hand, from `running` by small changes. Where a premise rests on an open function of Config, the theorem assumes what it answers.
-/
open Sys2Proof Sys2Proof.Machine
namespace Sys2Proof.Tests

set_option Elab.async false

/-- A slot with an opcode only. -/
def bare (op : Nat) : Slot := { hdr := BitVec.ofNat 512 op, pay := 0 }
/-- A message of `n` bytes. -/
def bytesMessage (n : Nat) : VmpRx :=
  { frame := { dst := 0, etherType := 0x88B5, tagged := false }, msg := { hdr := 0, data := List.replicate n 0 } }

theorem test_wf_opcode : (Instr.tableSet 0 (bare 0x21)).wf = false ∧ (Instr.tableSet 0 (bare 0x20)).wf = true := by decide +kernel
theorem test_wf_value (n : Nat) (h : 262144 < n) : (Instr.ringClear .mailbox (List.replicate n 0)).wf = false := by simp [Instr.wf, valueFits, h]
theorem test_wf_writeback : (Instr.tmemWriteback 0 0x60000 false).wf = false ∧ (Instr.tmemWriteback 0 0x5FFFF false).wf = true := by decide
theorem test_wf_row : (Instr.deferForward 0 0 (2 ^ 32)).wf = false := by decide
theorem test_wf_codeword : (Instr.codewordRx 0 { fec := .clean, seq := 0, ack := 0, kind := 0, flits := [0] }).wf = false ∧
    (Instr.codewordRx 0 { fec := .clean, seq := 0, ack := 0, kind := 1, flits := List.replicate 10 0 }).wf = false := by decide
theorem test_wf_frame (n : Nat) (h : 1468 < n) : (Instr.vmpRead (.fn 0) (bytesMessage n)).wf = false ∧ (Instr.discover 0 (bytesMessage n)).wf = false := by
  simp [Instr.wf, messageFits, bytesMessage, h]
theorem test_wf_mailbox (n : Nat) (h : 16384 < n) : (Instr.vmpRead .mailbox (bytesMessage n)).wf = false := by
  simp [Instr.wf, messageFits, bytesMessage, h]
theorem test_wf_error : (Instr.memRequest 0 0 [.wideWrong 0 (List.replicate 63 0)]).wf = false ∧
    (Instr.scrubRead 0 (some (.wideWrong 0 []))).wf = false := by decide
theorem test_wf_word : (Instr.memCeWriteback 1 (2 ^ 30 - 1)).wf = false := by decide
theorem test_wf_counts : (Instr.dieCeCollect 0 (List.replicate 15 0)).wf = false := by decide
theorem test_wf_page : (Instr.pageWalkStart 0 (2 ^ 27)).wf = false ∧ (Instr.pageWalkDone 0 (2 ^ 27)).wf = false := by decide
theorem test_wf_bar2 : (Instr.bar2Read 0 0).wf = false ∧ (Instr.bar2Read (-1) 2).wf = false ∧ (Instr.bar2Write (-1) [0, 0] false).wf = false ∧
    (Instr.bar2Write 0 [] false).wf = false := by decide
theorem test_wf_register : (Instr.registerWrite 0 []).wf = false ∧ (Instr.registerWrite (-1) [0, 0]).wf = false := by decide
theorem test_wf_thermal : (Instr.thermalSample [0, 0, 0] (List.replicate 8 0)).wf = false ∧ (Instr.thermalSample [0, 0, 0, 0] []).wf = false := by decide

/-- A device in RUNNING, on the loop's clock, whose queue 0 is enabled and holds one command. -/
def running : State :=
  { State.reset with
    host := { HostIf.reset with
      dev := .running, pcie := { perst := false, linkUp := true, cto := 0, d3hot := false },
      sqs := HostIf.reset.sqs.set 0 { SQueue.reset with enable := true, sizeLog2 := 4, tail := 1 } }
    boot := { Boot.reset with phase := .done }
    clk := { Clocks.reset with
      root := { Loop.start 0 with passes := 3, locked := true }, control := { Mux.bypass with onLoop := true },
      memCtl := { Mux.bypass with onLoop := true }, arith := { Mux.bypass with onLoop := true } } }

/-- A slot with an opcode, PAYLOAD_BYTES, more header bits and a payload. -/
def slot (op bytes more pay : Nat) : Slot :=
  { hdr := BitVec.ofNat 512 (op + bytes * 2 ^ 48 + more), pay := BitVec.ofNat 1536 pay }

/-- NO_STEP. -/
def noStep : Nat := 2 ^ 24

/-- A state with port 0 ACTIVE and on the way to node 1. -/
def linked (s : State) : State :=
  { s with links := { s.links with
      ports := s.links.ports.set 0 { Port.reset with state := .active, trained := true, credits := vcFlits }
      routes := { s.links.routes with memberInject := s.links.routes.memberInject.set 1 0x10001 } } }

/-- A state with commands in flight. -/
def flying (cs : List Cmd) (s : State) : State := { s with host := { s.host with cmds := cs, nextCmd := 9 } }

/-- Command 7, in flight with a slot. -/
def cmd7 (c : Slot) : Cmd := { id := 7, sq := 0, slot := c, step := none, started := true, xorder := 0, info := [], redo := false }

/-- A state with groups. -/
def grouped (gs : List Group) (s : State) : State := { s with links := { s.links with groups := gs } }

/-- A group of nodes 0, which this module is, and 1. -/
def pair (rank : Nat) : Group := { id := 0, members := if rank = 0 then [0, 1] else [1, 0], rank := rank, seq := 0 }

/-- Access `n` of a requester is under way as request `n`, and that has ended. -/
def accessed (n who key : Nat) (w : Bool) (a len : Nat) (st : Status) (d : Data) (s : State) : State :=
  { s with mem := { s.mem with
      io := s.mem.io ++ [{ who := who, key := key, write := w, dva := a, len := len, req := n }]
      requests := s.mem.requests ++ [{
        id := n, who := who, write := w, tier := 1, pa := a, node := 0, len := len, data := [], act := none, state := .ended st d }] } }

/-- Every number that the state has given lies below `n`. -/
def numbered (n : Nat) (s : State) : Bool :=
  (s.mem.requests.all fun r => decide (r.id < n) && (match r.act with | some (.forward key) => decide (key < n) | _ => true)) &&
    (s.mem.stackCtl.queue.all fun e => decide (e.id < n)) && s.hist.fwd.all fun f => decide (f.key < n)

theorem unused_of_numbered {n : Nat} {s : State} (h : numbered n s = true) : Unused n s := by
  simp only [numbered, Bool.and_eq_true, List.all_eq_true, decide_eq_true_eq] at h
  refine ⟨fun r hr => ⟨(h.1.1 r hr).1, fun key hk => ?_⟩, h.1.2, h.2⟩
  simpa [hk] using (h.1.1 r hr).2
/-- A STEP_BEGIN of step 5. -/
def beginSlot : Slot := slot 1 24 (5 * 2 ^ 32) 5

/-- `running` with step 5 open. -/
def opened : State := openStep beginSlot running

/-- Step 5 as it was opened. -/
def step5 : Step := newStep running beginSlot

/-- `opened` with its step changed. -/
def stepIs (f : Step → Step) : State := updStep 5 f opened

/-- A STEP_END of step 5. -/
def endSlot : Slot := slot 2 16 (5 * 2 ^ 32) 5

/-- The STEP_END in flight as command 7. -/
def endCmd : Cmd := cmd7 endSlot

/-- A step in a state, sealed, that has voted. -/
def sealedIn (st : StepState) (p : Step) : Step := { p with closedToWork := true, voteSent := true, state := st }

/-- A group of this module alone. -/
def alone0 : Group := { id := 0, members := [0], rank := 0, seq := 0 }

theorem test_witness_step_begin : reachesHead running 0 0x01 beginSlot = true ∧ stepTagWrong beginSlot = false ∧
    stepBeginMalformed beginSlot = false ∧ stepMayOpen running beginSlot = true := by decide +kernel

theorem test_witness_step_end : reachesHead opened 0 0x02 endSlot = true ∧ stepTagWrong endSlot = false ∧ fld endSlot.pay 127 65 = 0 ∧
    findStep opened (BitVec.ofNat 64 (fld endSlot.pay 63 0)) = some step5 ∧ step5.closedToWork = false ∧ opened.rows.merges = [] := by
  decide +kernel

/-- Step 5 as it stands before COMMITTING, in item 1 and in item 2. -/
def commits : Step := sealedIn .decidedCommit step5
/-- Step 5 in item 1. -/
def item1 : Step := sealedIn .committing step5
/-- Step 5 in item 2. -/
def item2 : Step := { item1 with item := .item2 }

theorem test_witness_commit_start : findStep (stepIs fun _ => commits) 5 = some commits ∧ mayCommit (stepIs fun _ => commits) commits = true ∧
    exportWaits (stepIs fun _ => commits) 5 = false ∧ (∀ e, nextToDefer (stepIs fun _ => commits) e 5 = none) ∧
    boundWaits (stepIs fun _ => commits) 5 = false := by decide +kernel

theorem test_witness_commit_log_wait_end : findStep (stepIs fun _ => item1) 5 = some item1 ∧ item1.state = .committing ∧ item1.item = .item1 ∧
    item1.torn = none ∧ exportWaits (stepIs fun _ => item1) 5 = false ∧ (∀ e, nextToDefer (stepIs fun _ => item1) e 5 = none) ∧
    boundWaits (stepIs fun _ => item1) 5 = false := by decide +kernel

theorem test_witness_local_commit_complete : findStep (stepIs fun _ => item2) 5 = some item2 ∧ item2.state = .committing ∧
    item2.item = .item2 ∧ item2.torn = none ∧ allApplied (stepIs fun _ => item2) 5 = true ∧
    Quiet (stepIs fun _ => item2) := by
  unfold Quiet
  decide +kernel

/-- Step 5 published, with its STEP_END in flight. -/
def published : Step := { sealedIn .publishing step5 with endCmd := some 7 }
/-- The state of `published`. -/
def publishedState : State := flying [endCmd] (stepIs fun _ => published)

theorem test_witness_step_close : findStep publishedState 5 = some published ∧ published.voteSent = true ∧
    mayClose publishedState published = some .committed ∧ (publishedState.host.cmds.filter fun c => c.step == some 5 && !c.started) = [] ∧
    published.record = false ∧ published.endCmd = some endCmd.id ∧ findCmd publishedState endCmd.id = some endCmd ∧ endCmd.step = none ∧
    publishedState.host.dev = .running ∧
    slotOpcode endCmd.slot = 0x02 ∧ endCmd.redo = false ∧ Quiet publishedState := by
  unfold Quiet
  decide +kernel

/-- Step 5 torn, with its STEP_END in flight. -/
def tornStep : Step := { sealedIn .committing step5 with endCmd := some 7, torn := some .internal }
/-- The state of `tornStep`. -/
def tornState : State := flying [endCmd] (stepIs fun _ => tornStep)

theorem test_witness_step_torn : findStep tornState 5 = some tornStep ∧ tornStep.voteSent = true ∧ mayClose tornState tornStep = some .torn ∧
    (tornState.host.cmds.filter fun c => c.step == some 5 && !c.started) = [] ∧ tornStep.record = false ∧ tornStep.endCmd = some endCmd.id ∧
    findCmd tornState endCmd.id = some endCmd ∧ tornState.host.dev = .running ∧ Quiet tornState ∧ memWf tornState.mem.t1 = true := by
  unfold Quiet
  decide +kernel

/-- Step 5 closed, with its record's write under way. -/
def writing : Step := { published with state := .closed, outcome := .committed, recordWait := some 3 }
/-- The state of `writing`, whose write ended with a status. -/
def writingState (st : Status) : State :=
  accessed 3 whoFront (recordKey writing) true 0 128 st [] (flying [endCmd] (stepIs fun _ => writing))

theorem test_witness_record_write_ack : findStep (writingState .ok) 5 = some writing ∧ writing.recordWait = some 3 ∧
    (writePhaseRecord writing (writingState .ok)).2 = .done [[]] ∧ writing.endCmd = some endCmd.id ∧
    findCmd (writePhaseRecord writing (writingState .ok)).1 endCmd.id = some endCmd ∧ slotOpcode endCmd.slot = 0x02 ∧ endCmd.step = none ∧
    endCmd.redo = false ∧ findStep (writingState .accessDenied) 5 = some writing ∧
    (writePhaseRecord writing (writingState .accessDenied)).2 = .fail .accessDenied ∧
    findCmd (writePhaseRecord writing (writingState .accessDenied)).1 endCmd.id = some endCmd := by decide +kernel

/-- Step 5 sealed, merged and not voted, over a group. -/
def votes (gs : List Group) : State := grouped gs (linked (sealAll 5 (stepIs fun p => { p with closedToWork := true })))

/-- The step of `votes`. -/
def voter : Step := { step5 with closedToWork := true }

/-- What `voter` contributes. -/
def nothing : NormTerm := { sumsq := 0, nonfinite := false }

/-- The exchange of `voter`. -/
def exch0 : Exchange := { step := 5, group := voter.group, own := some nothing, vote := false, dueAt := 0, upSent := false, done := false }

theorem test_witness_verdict_contribution : findStep (votes [pair 0]) 5 = some voter ∧ contribution (votes [pair 0]) voter = some (nothing, false) ∧
    findGroup (votes [pair 0]) voter.group.toNat = some (pair 0) ∧ treeRoutable (votes [pair 0]) (pair 0) = true ∧
    (∃ r ∈ treeChildren (pair 0).members.length (pair 0).rank, ((votes [pair 0]).links.msgs.find? fun m => forExchange exch0 false m && m.node.toNat == (pair 0).members.getD r 0) = none) ∧
    findStep (votes []) 5 = some voter ∧ contribution (votes []) voter = some (nothing, false) ∧ findGroup (votes []) 0 = none ∧
    findStep (votes [alone0]) 5 = some voter ∧ contribution (votes [alone0]) voter = some (nothing, false) ∧
    findGroup (votes [alone0]) 0 = some alone0 ∧ voter.state = .stOpen ∧ ((votes [alone0]).host.cmds.filter fun k => !k.started) = [] ∧
    voter.earlies = [] ∧ Quiet (votes [alone0]) := by
  unfold Quiet
  decide +kernel

theorem test_witness_phase_timer_tick : controlRuns opened = true ∧ opened.train.steps = [step5] ∧ step5.state ≠ .closed := by decide +kernel
/-- An instruction word (R109). -/
def word (op gd ga imm : Nat) : BitVec 32 := BitVec.ofNat 32 (op * 2 ^ 26 + gd * 2 ^ 21 + ga * 2 ^ 16 + imm)

/-- A TILE_RUN on tile 3 at offset 0, NO_STEP. -/
def runSlot : Slot := slot 0x10 96 noStep (2 ^ 3)

/-- The program of `runSlot` at offset 0. -/
def run0 : Run :=
  { prog := { cmd := 7, slot := runSlot, step := none, redo := false }, pc := 0, phase := 0, cycles := 0, ready := .replicate 32 0,
    wait := .none, stopping := none, failed := false, stored := [] }

/-- Tile 3 runs the program on tile memory that starts with a word. -/
def ran (w : BitVec 32) (f : Tile → Tile) (s : State) : State :=
  updTile 3 (fun x => f { x with mem := memWrite x.mem 0 (clean (bytesOf 4 w)), run := some run0 }) s

/-- `ran` changes nothing else. -/
def plain (w : BitVec 32) : State := ran w id running

/-- Words that the sequencer meets and that name no unit: (OP, IMM). -/
def plainWords : List (Nat × Nat) :=
  [(0x02, 0), (0x03, 5), (0x04, 0), (0x05, 0), (0x06, 0), (0x07, 0), (0x08, 0), (0x09, 63), (0x0A, 63), (0x0B, 0xFFFF), (0x0E, 0xFFFF),
   (0x0F, 1), (0x10, 1), (0x11, 0), (0x01, 0), (0x00, 0), (0x19, 15), (0x12, 7), (0x12, 8), (0x12, 10), (0x12, 11), (0x12, 12), (0x12, 13),
   (0x12, 14), (0x16, 31), (0x18, 31), (0x1D, 63)]

theorem test_witness_sequencer_words : plainWords.all (fun p =>
    seqAt (plain (word p.1 2 1 p.2)) 3 == some (run0, word p.1 2 1 p.2) && iOp (word p.1 2 1 p.2) == p.1 && iImm (word p.1 2 1 p.2) == p.2) = true := by
  decide +kernel

theorem test_witness_sequencer_memory : seqAt (plain (word 0x0C 2 0 8)) 3 = some (run0, word 0x0C 2 0 8) ∧
    seqAt (plain (word 0x0D 2 0 8)) 3 = some (run0, word 0x0D 2 0 8) ∧
    (gReg (getTile (plain (word 0x0C 2 0 8)) 3) 0 + (iImm (word 0x0C 2 0 8)).signExtend 64).toNat = 8 ∧ 8 < tmemSize ∧
    poisoned (memRead (getTile (plain (word 0x0C 2 0 8)) 3).mem 8 8) = false := by decide +kernel

theorem test_witness_sequencer_waits : seqAt (plain (word 0x17 0 0 4)) 3 = some (run0, word 0x17 0 0 4) ∧
    seqAt (plain (word 0x1A 0 0 7)) 3 = some (run0, word 0x1A 0 0 7) ∧ unitsDone (plain (word 0x1A 0 0 7)) 3 7 = true ∧
    seqAt (plain (word 0x1B 2 0 15)) 3 = some (run0, word 0x1B 2 0 15) ∧ redPending (getTile (plain (word 0x1B 2 0 15)) 3) 7 = false ∧
    seqAt (plain (word 0x1C 2 0 3)) 3 = some (run0, word 0x1C 2 0 3) ∧
    verdValue (plain (word 0x1C 2 0 3)) run0.prog 3 = some (.ok ((one32).zeroExtend 64)) := by decide +kernel

/-- Tile 3 with its program waiting. -/
def waits (w : SeqWait) : State := updTile 3 (fun x => { x with run := some { run0 with wait := w } }) running

theorem test_witness_sequencer_resumes : (getTile (waits (.bc 4 0)) 3).run = some { run0 with wait := .bc 4 0 } ∧
    0 ≤ (getTile (waits (.bc 4 0)) 3).bc[4] ∧ unitsDone (waits (.fence 7)) 3 7 = true ∧
    redPending (getTile (waits (.redrd 2 15)) 3) 7 = false ∧
    verdValue (waits (.verd 2 3)) run0.prog 3 = some (.ok ((one32).zeroExtend 64)) := by decide +kernel

/-- `plain` with a descriptor of `n` bytes at offset 64, where g1 points. -/
def hands (op n d : Nat) : State :=
  let bytes (x : Tile) : Mem := memWrite (memWrite x.mem 0 (clean (bytesOf 4 (word op 0 1 0)))) 64 (clean (leBytes n d))
  updTile 3 (fun x => { x with mem := bytes x, g := x.g.set 1 64, run := some run0 }) running

/-- Whether a descriptor is what memory holds. -/
def describes (s : State) (n d : Nat) : Bool := match descriptorAt (getTile s 3) 64 n with | .ok x => x == d | .error _ => false

/-- A pass of 16 vectors from offset 0 to offset 4096 with RELEASE. -/
def passDesc : Nat := 2 ^ 9 + 16 * 2 ^ 16 + 127 * 2 ^ 32 + 127 * 2 ^ 39 + 2 ^ 96 + 4096 * 2 ^ 224 + 2 ^ 272
/-- A move of one row of 64 bytes from offset 0 to offset 64. -/
def moveDesc : Nat := 64 * 2 ^ 32 + 2 ^ 64 + 64 * 2 ^ 160
/-- A loop of one empty bundle at offset 0x400, twice. -/
def loopDesc : Nat := 2 * 2 ^ 4 + 0x400 * 2 ^ 64

theorem test_witness_sequencer_hands_over :
    seqAt (hands 0x13 64 passDesc) 3 = some (run0, word 0x13 0 1 0) ∧ (gReg (getTile (hands 0x13 64 passDesc) 3) 1).toNat = 64 ∧
    describes (hands 0x13 64 passDesc) 64 passDesc = true ∧ (getTile (hands 0x13 64 passDesc) 3).arr.queue.length < 4 ∧
    passCheck (hands 0x13 64 passDesc) (getTile (hands 0x13 64 passDesc) 3).arr (BitVec.ofNat 512 passDesc) = none ∧
    seqAt (hands 0x14 64 moveDesc) 3 = some (run0, word 0x14 0 1 0) ∧ describes (hands 0x14 64 moveDesc) 64 moveDesc = true ∧
    (getTile (hands 0x14 64 moveDesc) 3).mover.queue.length < 8 ∧ moveCheck (hands 0x14 64 moveDesc) (BitVec.ofNat 512 moveDesc) = none ∧
    seqAt (hands 0x15 128 loopDesc) 3 = some (run0, word 0x15 0 1 0) ∧ describes (hands 0x15 128 loopDesc) 128 loopDesc = true ∧
    (getTile (hands 0x15 128 loopDesc) 3).vec.queue.length < 2 ∧
    loopCheck (getTile (hands 0x15 128 loopDesc) 3).mem (BitVec.ofNat 1024 loopDesc) = none := by decide +kernel

/-- The run of `run0` for step 5. -/
def run5 : Run := { run0 with prog := { run0.prog with step := some 5 } }

/-- Tile 3 in a state with step 5 open meets a SHARDGET of the shadow copy of shard 1. -/
def shadow : State :=
  updTile 3 (fun x => { x with
    mem := memWrite x.mem 0 (clean (bytesOf 4 (word 0x1E 2 0 0x41))), run := some run5,
    shards := x.shards.set 1 { defined := true, a := 64, b := 128, sel := false, marks := [] } }) opened

/-- The same for the live copy. -/
def live : State := updTile 3 (fun x => { x with mem := memWrite x.mem 0 (clean (bytesOf 4 (word 0x1E 2 0 1))) }) shadow

theorem test_witness_sequencer_shards : running.train.steps = [] ∧ seqAt live 3 = some (run5, word 0x1E 2 0 1) ∧
    (getTile live 3).shards[(shardIndex 1)].defined = true ∧ bit (iImm (word 0x1E 2 0 1)) 6 = false ∧
    seqAt shadow 3 = some (run5, word 0x1E 2 0 0x41) ∧ (getTile shadow 3).shards[(shardIndex 0x41)].defined = true ∧
    bit (iImm (word 0x1E 2 0 0x41)) 6 = true ∧ run5.prog.step = some 5 ∧ (findStep shadow 5).isSome = true ∧
    (getTile shadow 3).shards[(shardIndex 0x41)].marks.contains 5 = false := by decide +kernel

theorem test_witness_sequencer_stops : seqAt (plain (word 0x1F 0 0 0)) 3 = some (run0, word 0x1F 0 0 0) ∧
    seqAt (plain (word 0x3F 0 0 0)) 3 = some (run0, word 0x3F 0 0 0) ∧
    seqAt (plain (word 0x0C 2 0 4)) 3 = some (run0, word 0x0C 2 0 4) ∧ (iImm (word 0x0C 2 0 4)).toNat % 8 ≠ 0 ∧
    seqAt (plain (word 0x0D 2 0 0x8000)) 3 = some (run0, word 0x0D 2 0 0x8000) ∧
    tmemSize ≤ ((iImm (word 0x0D 2 0 0x8000)).signExtend 64).toNat ∧
    seqAt (ran (word 0x11 0 1 0) (fun x => { x with g := x.g.set 1 2 }) running) 3 = some (run0, word 0x11 0 1 0) ∧
    seqAt (plain (word 0x19 0 0 13)) 3 = some (run0, word 0x19 0 0 13) ∧
    seqAt (ran (word 0x1D 0 0 0) id opened) 3 = some (run0, word 0x1D 0 0 0) ∧ opened.train.steps ≠ [] := by decide +kernel
/-- The pass of `passDesc`. -/
def pass0 : ArrPass :=
  { id := 0, desc := BitVec.ofNat 512 passDesc, step := 0, group := 0, predict := some false, nextVec := 0, entered := 0, started := false, fed := false }

/-- Its accumulation group. -/
def group0 : AccGroup :=
  { id := 0, passes := [{ pass := 0, desc := BitVec.ofNat 512 passDesc, load := BitVec.ofNat 512 passDesc, step := 0 }], wellBegun := true,
    skips := [], corr := List.replicate 128 0, closed := true, complete := 16, nextBlock := 0, released := false }

/-- An empty block. -/
def block0 : Block := { load := BitVec.ofNat 512 passDesc, rows := [], nonfinite := false, poison := false }

/-- Tile 3 with an array. -/
def arrayIs (f : ArrayUnit → ArrayUnit) : State := updTile 3 (fun x => { x with arr := f x.arr }) running

/-- A packet from tile 2 to tile 3. -/
def carried (b : WBody) : WPacket := { id := 0, src := 2, dst := 3, vc := 0, drain := false, body := b }

/-- A packet on the Weave. -/
def carries (b : WBody) : State := { running with tile := { running.tile with weave := { packets := [carried b], nextId := 1 } } }

theorem test_witness_weave_delivers : flowHead (carries (.data 64 [(1, false)])) 2 3 0 = some (carried (.data 64 [(1, false)])) ∧
    flowHead (carries (.bit 64 7 true)) 2 3 0 = some (carried (.bit 64 7 true)) ∧
    flowHead (carries (.signal 31)) 2 3 0 = some (carried (.signal 31)) := by decide +kernel

/-- A pass is queued. -/
def queued : State := arrayIs fun a => { a with queue := [pass0] }
/-- Its first row is read. -/
def rowRead : State := arrayIs fun a => { a with queue := [pass0], rowq := [{ pass := 0, codes := [], poison := false }] }
/-- Its block is complete. -/
def loaded : State := arrayIs fun a => { a with queue := [pass0], chain := { pass := some 0, rows := 128, block := block0 } }

theorem test_witness_weights_load : loadingPass (getTile queued 3).arr = some (pass0, 0) ∧ (getTile queued 3).arr.rowq.length < 16 ∧
    (getTile rowRead 3).arr.chain.pass = none ∧ ((getTile rowRead 3).arr.queue.find? fun q => q.id == 0) = some pass0 ∧
    (getTile loaded 3).arr.chain = { pass := some 0, rows := 128, block := block0 } ∧
    ((getTile loaded 3).arr.queue.find? fun q => some q.id == (getTile loaded 3).arr.chain.pass) = some pass0 ∧ mayStart (getTile loaded 3) pass0 = true := by
  decide +kernel

theorem test_witness_feeder_takes_vector : ((getTile queued 3).arr.queue.find? fun q => !q.fed) = some pass0 ∧ pass0.predict = some false ∧
    pass0.nextVec < pdLen pass0.desc ∧ ((getTile queued 3).arr.feed.filter fun f => f.count == 0).length < 16 ∧
    feedChoice (getTile queued 3) pass0.desc false 0 = .feed := by decide +kernel

/-- `pass0` under way. -/
def entering : ArrPass := { pass0 with started := true, nextVec := 1 }
/-- Its first vector. -/
def vec0 : FeedItem := { pass := 0, vec := 0, elems := List.replicate 128 0, count := 0, late := false, poison := false }
/-- Its first vector is ready. -/
def fedState : State := arrayIs fun a => { a with queue := [entering], feed := [vec0], active := block0, loaded := true }

/-- `pass0` fed and entered. -/
def passed : ArrPass := { pass0 with started := true, fed := true, nextVec := 16, entered := 16 }
/-- Its last vector. -/
def lastFlight : Flight := { pass := 0, vec := 15, age := 254, result := List.replicate 128 0, count := 0, poison := false }
/-- The last vector is about to reach the drain. -/
def drained : State := arrayIs fun a => { a with queue := [passed], flights := [lastFlight] }

theorem test_witness_array_beat : startKept (zbAllows fedState) (getTile fedState 3) = getTile fedState 3 ∧ enteringPass (getTile fedState 3).arr = some entering ∧
    drainStops (getTile fedState 3) = false ∧ (getTile fedState 3).arr.active.poison = false ∧
    (getTile fedState 3).arr.chain.pass = none ∧ (getTile fedState 3).arr.flights = [] := by
  refine ⟨rfl, ?_⟩
  decide +kernel

theorem test_witness_array_beat_last : ((getTile drained 3).arr.queue.find? fun q => q.id == lastFlight.pass) = some passed ∧
    (getTile drained 3).arr.queue.all (fun q => q.started) = true ∧ enteringPass (getTile drained 3).arr = none ∧
    (getTile drained 3).arr.chain.pass = none ∧ drainStops (getTile drained 3) = false := by decide +kernel

/-- A complete group waits for its release. -/
def releases : State := arrayIs fun a => { a with queue := [passed], groups := [group0] }
/-- A group whose block 0 was skipped wrongly. -/
def replayed : AccGroup :=
  { group0 with
    passes := [{ pass := 0, desc := setFld (BitVec.ofNat 512 passDesc) 312 288 0x2000, load := BitVec.ofNat 512 passDesc, step := 0 }]
    skips := [(0, 0)] }
/-- The bit of that block is known. -/
def replays : State :=
  updTile 3 (fun x => { x with
    mem := memWrite x.mem 0x2000 [(1, false)],
    arr := { x.arr with groups := [replayed] } }) running

theorem test_witness_array_blocks : ((getTile releases 3).arr.groups.find? fun g => g.closed && !g.released) = some group0 ∧
    releaseDesc (getTile releases 3).arr group0 = some passed.desc ∧ blockReady (getTile releases 3) group0 passed.desc = true ∧
    (getTile releases 3).arr.outq.length + blockLen (pdLen passed.desc) 0 ≤ 16 ∧ allEntered (getTile releases 3).arr passed = true ∧
    ((getTile releases 3).arr.flights.any fun f => f.pass == passed.id) = false ∧ (getTile releases 3).arr.poison = false ∧
    ((getTile replays 3).arr.groups.find? fun g => g.closed && !g.released && !(openBlocks (getTile replays 3) g).isEmpty) = some replayed ∧
    skipsKnown (getTile replays 3) replayed = true ∧ (getTile replays 3).arr.queue = [] := by
  decide +kernel
/-- Command 7, a TILE_RUN, in flight with one of its tiles left. -/
def runCmd : TileCmd := { cmd := 7, left := [3], failed := none }

/-- Tile 3 with the program of command 7 in its queue. -/
def programQueued : State := flying [{ cmd7 runSlot with started := false }] (updTile 3 (fun x => { x with progs := [run0.prog] }) running)

/-- The early run that tile 3 must repeat. -/
def earlyRun : EarlyRun := { cmd := 7, sq := 0, slot := runSlot, info := [], ran := [3], redo := [3], running := [], counted := false }
/-- Step 5 with that run to repeat. -/
def repeats : Step := { step5 with state := .decidedCommit, earlies := [earlyRun] }

/-- The program of `run0` has ended. -/
def ended : Run := { run0 with stopping := some .ok }
/-- Tile 3 with that program, and its command. -/
def stopping (cs : List TileCmd) : State :=
  let s := flying [cmd7 runSlot] (updTile 3 (fun x => { x with run := some ended, progs := [run0.prog] }) running)
  { s with tile := { s.tile with cmds := cs } }

theorem test_witness_tile_run : reachesHead running 0 0x10 runSlot = true ∧ (tileRunCheck 0 runSlot running).2 = .accept := by decide +kernel

theorem test_witness_tile_program_start : (getTile programQueued 3).run = none ∧ (getTile programQueued 3).progs = [run0.prog] ∧
    findCmd programQueued run0.prog.cmd = some { cmd7 runSlot with started := false } ∧
    mayBegin programQueued run0.prog.slot run0.prog.step = true ∧ redoFor programQueued 3 = none ∧
    redoFor (stepIs fun _ => repeats) 3 = some (repeats, earlyRun) ∧ (getTile (stepIs fun _ => repeats) 3).run = none := by decide +kernel

theorem test_witness_tile_program_stop : (getTile (stopping [runCmd]) 3).run = some ended ∧ ended.stopping = some .ok ∧
    unitsIdle (stopping [runCmd]) 3 = true ∧ ended.prog.redo = false ∧ (stopping [runCmd]).tile.cmds = [runCmd] ∧
    findCmd (stopping [runCmd]) 7 = some (cmd7 runSlot) ∧
    (∀ c ∈ (stopping [{ runCmd with left := [3, 4] }]).tile.cmds, c.cmd = 7 → (c.left.filter fun v => v ≠ (3 : Fin 128)) ≠ []) := by decide +kernel

/-- The move of `moveDesc` under way. -/
def moving : MoveRun :=
  { id := 0, desc := BitVec.ofNat 512 moveDesc, row := 0, off := 0, signalled := 0, xorder := 0, ahead := false, stop := false, bad := none }
/-- Its request with its data. -/
def moved : MoveReq := { move := 0, row := 0, off := 0, len := 64, phase := .have_ (List.replicate 64 (1, false)) }
/-- Tile 3 with the move, and with the move's request. -/
def moves (qs : List MoveReq) : State := updTile 3 (fun x => { x with mover := { x.mover with queue := [moving], reqs := qs } }) running

theorem test_witness_mover : issuing (getTile (moves []) 3).mover = some moving ∧ (getTile (moves []) 3).mover.reqs.length < 32 ∧
    mdSrcSpace moving.desc = 0 ∧ moving.ahead = false ∧ (getTile (moves [moved]) 3).mover.reqs[0]? = some moved ∧
    ((getTile (moves [moved]) 3).mover.queue.find? fun r => r.id == moved.move) = some moving ∧ (getTile (moves []) 3).mover.fetches = [] ∧ mdDstSpace moving.desc = 0 := by decide +kernel

/-- A bundle that adds v1 and v2 into v3 in FP32. -/
def addBundle : BitVec 128 := BitVec.ofNat 128 (0x01 + 3 * 2 ^ 8 + 1 * 2 ^ 13 + 2 * 2 ^ 18)
/-- A loop of that bundle, once. -/
def loop0 : VLoopRun :=
  { desc := BitVec.ofNat 1024 (2 ^ 4), body := [addBundle], step := 0, started := true, iter := 0, bundle := 0, convs := 0 }
/-- Tile 3 with a loop. -/
def loops (l : VLoopRun) : State := updTile 3 (fun x => { x with vec := { x.vec with queue := [l] } }) running

theorem test_witness_vector_loops : (getTile (loops loop0) 3).vec.queue = [loop0] ∧ loop0.started = true ∧
    loop0.body[loop0.bundle]? = some addBundle ∧ loop0.iter < vdIter loop0.desc ∧ bit addBundle 72 = false ∧ bit addBundle 100 = false ∧
    feedsRed loop0 addBundle = false ∧ vbOp addBundle ≠ 0 ∧ isCompare (vbOp addBundle) = false ∧
    (getTile (loops { loop0 with started := false }) 3).vec.queue = [{ loop0 with started := false }] ∧
    vdIter loop0.desc ≤ ({ loop0 with iter := 1 } : VLoopRun).iter := by decide +kernel

theorem test_witness_tile_memory_errors : 64 * 0x5FFFF < tmemSize ∧ fenced running 127 = false := by decide +kernel
/-- T1 from address 0 on, tile 0's memory from 0x40000000 on, both as device virtual addresses, and a window that allows every access. -/
def mapped (s : State) : State :=
  { s with
    mem := { s.mem with xlate := { s.mem.xlate with spans := [
      BitVec.ofNat 256 (0x0F + 64 * 2 ^ 192), BitVec.ofNat 256 (0x07 + 0x40000000 * 2 ^ 64 + 0x10000000000 * 2 ^ 128 + 8 * 2 ^ 192)] } }
    boot := { s.boot with windows := [BitVec.ofNat 256 (0xFF + 0x7FFF * 2 ^ 24 + 2 ^ 44 * 2 ^ 128)] } }

/-- A table descriptor: F32 rows of 16 elements, 16 rows from 0x10000 on. -/
def desc1 : Nat := 1 + 3 * 2 ^ 16 + 16 * 2 ^ 64 + 0x10000 * 2 ^ 128 + 2 ^ 320

/-- Version 1 of that table. -/
def ver1 : TabVer := { desc := BitVec.ofNat 512 (desc1 + 2 ^ 368), version := 1 }

/-- The table. -/
def table1 : Table := { id := 1, cur := ver1, prev := none, stale := false, bcasts := [], optim := none, keyDva := none }

/-- `running` with memory mapped, a step 5 open under queue 0 and tables. -/
def rowed (ts : List Table) : State := { mapped opened with rows := { opened.rows with tables := ts } }

/-- What a command's checks gave, as the premises of the statements: for a check that answers at once. -/
def passesNow (check : Fin 64 → Slot → State → State × Adm) (op : Nat) (q : Fin 64) (c : Slot) (info : List Nat) (s : State) : Bool :=
  reachesHead s q op c && ((decide ((check q c s).2 = .accept) && info.isEmpty) || decide ((check q c s).2 = .admitWith info)) &&
    !skippedByVerdict (check q c s).1 (enterCmd info q c (check q c s).1).2 && (findCmd (check q c s).1 (check q c s).1.host.nextCmd).isNone

theorem passes_of_now {check op q c info} {s : State} (h : passesNow check op q c info s = true) :
    Passes check op q c info s (check q c s).1 := by
  simp only [passesNow, Bool.and_eq_true, Bool.or_eq_true, decide_eq_true_eq, List.isEmpty_iff, Bool.not_eq_true', Option.isNone_iff_eq_none] at h
  refine ⟨h.1.1.1, h.1.1.2.imp (fun x => ⟨Prod.ext rfl x.1, x.2⟩) fun x => Prod.ext rfl x, h.1.2, h.2⟩

theorem passes_of_same {check op q c info} {s : State} (h : passesNow check op q c info s = true) (hs : (check q c s).1 = s) :
    Passes check op q c info s s := by
  have := passes_of_now h
  rwa [hs] at this
/-- A TABLE_SET of `desc1`. -/
def tableSlot : Slot := slot 0x20 64 noStep desc1

theorem test_witness_table_set : mayBegin running tableSlot (slotStep running tableSlot) = true ∧ reachesHead running 0 0x20 tableSlot = true ∧
    tableSetCheck tableSlot running = .accept := by decide +kernel

/-- No step open and tables. -/
def tabled (ts : List Table) : State := { mapped running with rows := { running.rows with tables := ts } }

/-- An OPTIM_SET for table 1. -/
def optimSlot : Slot := slot 0x2A 64 noStep 1

theorem test_witness_optim_set : mayBegin (tabled [table1]) optimSlot (slotStep (tabled [table1]) optimSlot) = true ∧
    Passes optimSetRule.check 0x2A 0 optimSlot [] (tabled [table1]) (tabled [table1]) :=
  ⟨by decide +kernel, passes_of_same (by decide +kernel) rfl⟩

/-- `table1` as a delta table. -/
def delta1 : Table := { table1 with cur := { desc := BitVec.ofNat 512 (desc1 + 2 ^ 21 + 2 ^ 368), version := 1 } }
/-- A DELTA_MAP for table 1. -/
def deltaSlot : Slot := slot 0x2C 32 noStep (1 + 0x20000 * 2 ^ 64)

theorem test_witness_delta_map : mayBegin (tabled [delta1]) deltaSlot (slotStep (tabled [delta1]) deltaSlot) = true ∧
    Passes deltaMapRule.check 0x2C 0 deltaSlot [] (tabled [delta1]) (tabled [delta1]) :=
  ⟨by decide +kernel, passes_of_same (by decide +kernel) rfl⟩

/-- Step tag 5. -/
def tag5 : Nat := 5 * 2 ^ 32

/-- A GATHER on engine 0 of two bags of one row each into tile 3, its list in tile 0's memory. -/
def gatherSlot : Slot := slot 0x21 96 noStep
  (2 ^ 4 + 2 * 2 ^ 6 + 2 ^ 8 + 2 ^ 16 + 2 * 2 ^ 32 + 2 ^ 48 + 0x40000000 * 2 ^ 128 + 8 * 2 ^ 192 + 0x1000 * 2 ^ 512 + 3 * 2 ^ 560 +
    64 * 2 ^ 576 + 128 * 2 ^ 608)

theorem test_witness_gather : Passes gatherCheck 0x21 0 gatherSlot [0, 2] (tabled [table1]) (gatherCheck 0 gatherSlot (tabled [table1])).1 ∧
    findTable (gatherCheck 0 gatherSlot (tabled [table1])).1 (gTable gatherSlot.pay) = some table1 :=
  ⟨passes_of_now (by decide +kernel), by decide +kernel⟩

/-- A PRESCAN of the same bags. -/
def prescanSlot : Slot := slot 0x22 32 noStep (2 ^ 16 + 2 * 2 ^ 32 + 2 ^ 48 + 0x40000000 * 2 ^ 64 + 8 * 2 ^ 128)

theorem test_witness_prescan : Passes prescanCheck 0x22 0 prescanSlot [0, 2] (tabled [table1]) (prescanCheck 0 prescanSlot (tabled [table1])).1 ∧
    findTable (prescanCheck 0 prescanSlot (tabled [table1])).1 (gTable prescanSlot.pay) = some table1 :=
  ⟨passes_of_now (by decide +kernel), by decide +kernel⟩

/-- An EMBER_REFRESH with two entries. -/
def refreshSlot : Slot := slot 0x23 32 noStep (2 * 2 ^ 32 + 0x40000000 * 2 ^ 64 + 32 * 2 ^ 128)

theorem test_witness_ember_refresh : Passes refreshCheck 0x23 0 refreshSlot [] (tabled []) (refreshCheck 0 refreshSlot (tabled [])).1 :=
  passes_of_now (by decide +kernel)

/-- Engines with a key area and an update log. -/
def areas (s : State) : State :=
  { s with rows := { s.rows with obj := { s.rows.obj with
      keyDva := .replicate 16 0x40040000, keyBytes := .replicate 16 4096, logDva := .replicate 16 0x40050000, logBytes := .replicate 16 65536 } } }

/-- A SCATTER of step 5 of the same bags with F32 gradients. -/
def scatterSlot : Slot := slot 0x28 96 tag5
  (2 ^ 4 + 2 * 2 ^ 6 + 2 ^ 16 + 2 * 2 ^ 32 + 2 ^ 48 + 0x3F800000 * 2 ^ 96 + 0x40000000 * 2 ^ 128 + 8 * 2 ^ 192 + 0x40060000 * 2 ^ 512 +
    64 * 2 ^ 576 + 128 * 2 ^ 608)

/-- Step 5 open over table 1, with areas. -/
def scatters : State := areas (rowed [table1])

theorem test_witness_scatter : Passes scatterCheck 0x28 0 scatterSlot [0, 2] scatters (scatterCheck 0 scatterSlot scatters).1 ∧
    findTable (scatterCheck 0 scatterSlot scatters).1 (gTable scatterSlot.pay) = some table1 ∧
    slotStep (scatterCheck 0 scatterSlot scatters).1 scatterSlot = some 5 :=
  ⟨passes_of_now (by decide +kernel), by decide +kernel⟩

/-- A ROW_OPTIMISE of step 5 on engine 0. -/
def optimiseSlot : Slot := slot 0x2B 16 tag5 1

theorem test_witness_row_optimise : Passes rowOptimiseRule.check 0x2B 0 optimiseSlot [] scatters (rowOptimiseRule.check 0 optimiseSlot scatters).1 ∧
    slotStep scatters optimiseSlot = some 5 := ⟨passes_of_now (by decide +kernel), by decide +kernel⟩

/-- An EXPORT of rows 0 to 3 of table 1 to 0x40080000. -/
def exportSlot : Slot := slot 0x30 64 noStep (2 ^ 16 + 4 * 2 ^ 64 + 0x40080000 * 2 ^ 256 + 4096 * 2 ^ 320)

theorem test_witness_export : Passes exportRule.check 0x30 0 exportSlot [] (tabled [table1]) (exportRule.check 0 exportSlot (tabled [table1])).1 :=
  passes_of_now (by decide +kernel)

/-- A MERGE of step 5 on engine 0. -/
def mergeSlot : Slot := slot 0x29 16 tag5 1

/-- A key of table 1, row 2, that lies at the start of the key area. -/
def key0 : SortKey := { word := BitVec.ofNat 256 (2 + 2 ^ 32), dva := 0x40040000 }

/-- What engine 0 keeps for step 5. -/
def kept (ks : List SortKey) (es : List LogEntry) : EngineStep :=
  { step := 5, nextSeq := 1, tables := [1], scatters := [], keys := ks, sealed := false, formed := none, merged := false, norm := 0, nonfinite := false,
    entries := es, applied := 0 }

/-- `scatters` with engine 0's part of step 5. -/
def keeps (x : EngineStep) : State := updEng 0 (fun g => { g with steps := [x] }) scatters

theorem test_witness_merge : Passes mergeRule.check 0x29 0 mergeSlot [] (keeps (kept [key0] [])) (keeps (kept [key0] [])) ∧
    maskEngines mergeSlot.pay = [0] ∧ slotStep (keeps (kept [key0] [])) mergeSlot = some 5 ∧ (keeps (kept [key0] [])).rows.merges = [] ∧
    engStep (keeps (kept [key0] [])) 0 5 = some (kept [key0] []) ∧ mayBegin (keeps (kept [key0] [])) mergeSlot (some 5) = true ∧
    (kept [key0] []).keys ≠ [] ∧ (kept [key0] []).merged = false :=
  ⟨passes_of_same (by decide +kernel) rfl, by decide +kernel⟩

/-- The same MERGE under the phase tag COMMIT, before its step publishes. -/
def mergeLater : Slot := slot 0x29 16 (tag5 + 10 * 2 ^ 20) 1

theorem test_witness_merge_waits : Passes mergeRule.check 0x29 0 mergeLater [] scatters scatters ∧ maskEngines mergeLater.pay = [0] ∧
    slotStep scatters mergeLater = some 5 ∧ mayBegin scatters mergeLater (some 5) = false :=
  ⟨passes_of_same (by decide +kernel) rfl, by decide +kernel⟩

theorem test_witness_merge_without_keys : Passes mergeRule.check 0x29 0 mergeSlot [] scatters scatters ∧ maskEngines mergeSlot.pay = [0] ∧
    slotStep scatters mergeSlot = some 5 ∧ scatters.rows.merges = [] ∧ engStep scatters 0 5 = none ∧ mayBegin scatters mergeSlot (some 5) = true :=
  ⟨passes_of_same (by decide +kernel) rfl, by decide +kernel⟩

/-- Table 1 with a version that nothing is bound to. -/
def older : Table := { table1 with cur := { ver1 with version := 2 }, prev := some ver1 }

theorem test_witness_version_retire : findTable (tabled [older]) 1 = some older ∧ older.prev = some ver1 ∧ batchesOn (tabled [older]) 1 1 = 0 := by
  decide +kernel
/-- The GATHER of `gatherSlot` as engine 0 holds it. -/
def gather0 : GatherRun :=
  { cmd := 7, slot := gatherSlot, step := none, desc := ver1, delta := none, keyDva := none, p0 := 0, p1 := 2, next := 0, ended := 0,
    outputs := 0, beyond := [], signalled := 0, stop := none, unwritten := none, failed := none, xorder := 0, ahead := true,
    hitShift := 4, missShift := 6, ringDva := 0, ringEntries := 0 }

/-- Its first bag on a thread. -/
def bag0 : BagThread := newBag gather0 0 0 1 none false

/-- The window of its list, which the list reader holds. -/
def list0 : ListLine := { cmd := 7, base := 0x40000000, state := .here (List.replicate 256 (0, false)) }

/-- Engine 0 with the GATHER and a core. -/
def gathers (f : Core → Core) : State :=
  flying [cmd7 gatherSlot] (updEng 0 (fun g => { g with queue := [.gather gather0], cores := updAt g.cores 0 f, lines := [list0] }) (tabled [table1]))

/-- A thread in place 0. -/
def onThread (t : BagThread) (c : Core) : Core := { c with threads := c.threads.set 0 (some t) }

theorem test_witness_bag_dispatch : nextGather (getEng (gathers id) 0).queue = some gather0 ∧ pickThread (getEng (gathers id) 0) = some (0, 0) ∧
    bagMayStart (gathers id) gather0 = true ∧ (gToTile gather0.slot.pay && fenced (gathers id) (gOutTile gather0.slot.pay).val) = false ∧
    (bagRange 0 gather0 (startCmd gather0.cmd (gathers id))).2.toOption = some (0, 1, none, false) := by decide +kernel

/-- `gathers` with row 0 of table 1 in the ember set of engine 0. -/
def probes : State :=
  let s := gathers (onThread bag0)
  let m := setTag (emberSet s 1 0) 0 (BitVec.ofNat 128 (2 ^ 32 + 2 ^ 44 + 2 ^ 45 + 65536 * 2 ^ 64)) .empty
  { s with mem := { s.mem with rowStore := s.mem.rowStore.set 0 m } }

/-- The state in which the stage of `probes` is settled. -/
def probing : State :=
  updEng 0 (fun g => { g with cores := updAt g.cores 0 (settleStage g.nextReady), nextReady := g.nextReady + 1 }) probes

/-- The state after the reads of the probe. -/
def probed : State := (probePart 0 gather0 bag0 (0, false) probing).1

theorem test_witness_probe : (getCore probing 0 0).stage = some 0 ∧ (getCore probing 0 0).threads[(0 : Fin 16)] = some bag0 ∧
    (getCore probing 0 0).shadow = none ∧ bag0.retry = [] ∧ findGather (getEng probing 0) bag0.cmd = some gather0 ∧
    (probePart 0 gather0 bag0 bag0.next probing).2 = (.hit ver1 0 false (emberSet probes 1 0) 0, one32) ∧
    poisoned (memRead probed.mem.rowStore[(0 : Fin 16)] (emberData (tagUnit (tagAt probed.mem.rowStore[(0 : Fin 16)] (emberSet probes 1 0) 0))) 64) = false ∧
    (getCore probed 0 0).threads[(0 : Fin 16)] = some bag0 := by decide +kernel

/-- A request for the row of `bag0`. -/
def rowReq0 (req : Option Nat) : RowReq :=
  { row := 0, off := 0, len := 64, entry := { pa := 0x10000, tier := 1, write := true, runahead := true, node := 0 }, bank := none,
    outside := false, req := req }

theorem test_witness_wait_list_release : leavable (getCore (gathers fun c => { c with waits := [rowReq0 none] }) 0 0) = some (rowReq0 none) ∧
    unissued (getCore (gathers fun c => { c with waits := [rowReq0 none] }) 0 0) = [] ∧ (rowReq0 none).entry.tier = 1 ∧
    accessFails (gathers fun c => { c with waits := [rowReq0 none] }) .cmd 0x10000 64 false = none ∧
    meetsRecord (gathers fun c => { c with waits := [rowReq0 none] }) 0x10000 64 = false ∧
    (gathers fun c => { c with waits := [rowReq0 none] }).mem.stackCtl.queue = [] := by decide +kernel

/-- A row of a bag that misses `missing` pieces. -/
def row0 (missing : Nat) (order : Option Nat) : PendRow :=
  { id := 0, pos := 0, delta := false, zero := false, bucket := none, again := false, desc := ver1.desc, dva := 0x10000, record := List.replicate 64 (0, false), toIssue := [],
    missing := missing, weight := one32, order := order, taken := 0 }

/-- A core whose row has arrived, and a request of it. -/
def arrives : State :=
  accessed 3 (whoEngine 0) (opKey kRow 0) false 0 64 .ok (List.replicate 64 (1, false))
    (gathers fun c => { onThread { bag0 with rows := [row0 1 none], next := (1, false) } c with slots := [rowReq0 (some 3)] })

theorem test_witness_row_piece_arrive : (getCore arrives 0 0).slots[0]? = some (rowReq0 (some 3)) ∧ (rowReq0 (some 3)).req = some 3 ∧
    reqEnded arrives 3 = some (.ok, List.replicate 64 (1, false)) ∧ fine .ok = true ∧ poisoned (List.replicate 64 (1, false)) = false ∧
    rowOwner (getCore arrives 0 0) 0 = some (0, { bag0 with rows := [row0 1 none], next := (1, false) }, row0 1 none) ∧
    findGather (getEng arrives 0) bag0.cmd = some gather0 ∧ (row0 1 none).again = false ∧ (row0 1 none).bucket = none := by
  decide +kernel

/-- `arrives` with a row that was updated meanwhile. -/
def arrivesAgain : State :=
  accessed 3 (whoEngine 0) (opKey kRow 0) false 0 64 .ok (List.replicate 64 (1, false))
    (gathers fun c => { onThread { bag0 with rows := [{ row0 1 none with again := true }], next := (1, false) } c with slots := [rowReq0 (some 3)] })

theorem test_witness_row_piece_again : (getCore arrivesAgain 0 0).slots[0]? = some (rowReq0 (some 3)) ∧
    reqEnded arrivesAgain 3 = some (.ok, List.replicate 64 (1, false)) ∧
    rowOwner (getCore arrivesAgain 0 0) 0 =
      some (0, { bag0 with rows := [{ row0 1 none with again := true }], next := (1, false) }, { row0 1 none with again := true }) ∧
    findGather (getEng arrivesAgain 0) bag0.cmd = some gather0 ∧ (row0 1 none).missing = 1 ∧
    (putData (row0 1 none).record 0 (List.replicate 64 (1, false))).length = (row0 1 none).record.length := by decide +kernel

/-- A thread whose row may be pooled. -/
def pools : BagThread := { bag0 with rows := [row0 0 (some 0)], next := (1, false) }

theorem test_witness_pool_piece : poolChoice (getEng (gathers (onThread pools)) 0) = some (0, 0, pools, row0 0 (some 0)) ∧
    findGather (getEng (gathers (onThread pools)) 0) pools.cmd = some gather0 ∧
    (row0 0 (some 0)).record.length ≤ ((row0 0 (some 0)).taken + 1) * 256 ∧
    (let r : PendRow := { row0 0 (some 0) with record := List.replicate 512 (0, false) }
     poolChoice (getEng (gathers (onThread { pools with rows := [r] })) 0) = some (0, 0, { pools with rows := [r] }, r) ∧
     (r.taken + 1) * 256 < r.record.length) := by decide +kernel

/-- A thread whose bag is pooled, and one whose output is written. -/
def full0 : BagThread := { bag0 with next := (1, false), pool := (1, false) }

theorem test_witness_bag_output : findGather (getEng (gathers (onThread full0)) 0) full0.cmd = some gather0 ∧ full0.written = false ∧
    full0.fail = none ∧ full0.last ≤ full0.pool.1 ∧ gToTile gather0.slot.pay = true ∧
    fenced (gathers (onThread full0)) (gOutTile gather0.slot.pay).val = false ∧ gPool gather0.slot.pay = 1 ∧
    (full0.packets.any fun id => (gathers (onThread { full0 with written := true })).tile.weave.packets.any fun w => w.id == id) = false ∧
    gather0.next < (gatherLists gather0.slot.pay).count ∧ gather0.stop = none ∧ gSignal gather0.slot.pay = false := by decide +kernel

/-- The PRESCAN of `prescanSlot`, at the first position of a bag of two. -/
def scan0 (fs : List PreFetch) : PreRun :=
  { cmd := 7, slot := prescanSlot, step := none, table := ver1, gen := true, xorder := 0, bag := 0, range := some (0, 2), fetches := fs,
    stop := false }

/-- Engine 0 with it. -/
def scans (fs : List PreFetch) (s : State) : State :=
  flying [cmd7 prescanSlot] (updEng 0 (fun g => { g with prescans := [scan0 fs] }) s)

/-- The read of its position. -/
def scanRead (s : State) : State × IoRes := aheadReads (whoEngine 0) 7 0 [(0x40000000, 4)] (startCmd 7 s)

theorem test_witness_prescan_position_fetches : (getEng (scans [] (tabled [table1])) 0).prescans = [scan0 []] ∧
    ((scan0 []).fetches.map fun f => f.reqs.length).sum < 64 ∧ mayBegin (scans [] (tabled [table1])) prescanSlot none = true ∧
    (scan0 []).bag < (prescanLists prescanSlot.pay).count ∧ afterRefresh (getEng (scans [] (tabled [table1])) 0) 7 = false ∧
    (scanRead (scans [] (tabled [table1]))).2 = .done [List.replicate 4 (0, false)] ∧ 0 < tdRows ver1.desc ∧
    (let s := (scanRead (scans [] (tabled [table1]))).1
     (getEng s 0).prescans = [scan0 []] ∧ (findWay s.mem.rowStore[(0 : Fin 16)] (emberSet s 1 0) 1 0 1).isSome = false ∧
     (findWay s.mem.rowStore[(0 : Fin 16)] (stagingSet 1 0) 1 0 1).isSome = false ∧ preBad 0 0x10000 64 s = false ∧
     (preReqs 0 0 0x10000 64 0 s).2.isSome = true ∧ allocUnits (getEng (preReqs 0 0 0x10000 64 0 s).1 0) 1 = some 0) := by decide +kernel

/-- `scans` with row 0 in the ember set. -/
def scansHeld : State := scans [] { probes with rows := (tabled [table1]).rows }

theorem test_witness_prescan_position_skips :
    (findWay (scanRead scansHeld).1.mem.rowStore[(0 : Fin 16)] (emberSet (scanRead scansHeld).1 1 0) 1 0 1).isSome = true ∧
    (getEng (scanRead scansHeld).1 0).prescans = [scan0 []] ∧ (scanRead scansHeld).2 = .done [List.replicate 4 (0, false)] := by decide +kernel

/-- A fetch whose one request is sent. -/
def fetch0 : PreFetch :=
  { row := 0, unit := 0, record := List.replicate 64 (0, false), reqs := [rowReq0 (some 3)], again := false, dropped := false }

/-- Its data is here. -/
def fetched0 : State := scans [fetch0] { tabled [table1] with mem := { (tabled [table1]).mem with requests := arrives.mem.requests } }

theorem test_witness_prescan_row_arrive : (getEng fetched0 0).prescans = [scan0 [fetch0]] ∧
    reqEnded fetched0 3 = some (.ok, List.replicate 64 (1, false)) ∧
    ((List.range 4).find? fun w => !tagValid (tagAt fetched0.mem.rowStore[(0 : Fin 16)] (stagingSet 1 0) w)) = some 0 := by decide +kernel

/-- The EMBER_REFRESH of `refreshSlot`. -/
def refresh0 (is : List Install) : RefreshRun := { cmd := 7, slot := refreshSlot, step := none, next := 0, installs := is, failed := none }

/-- Engine 0 with it, its entries in tile 0's memory: an INSTALL of row 2 at unit 65,536, or an invalidation. -/
def refreshes (is : List Install) (entry : Nat) : State :=
  let s := flying [cmd7 refreshSlot] (updEng 0 (fun g => { g with queue := [.refresh (refresh0 is)] }) (tabled [table1]))
  updTile 0 (fun x => { x with mem := memWrite x.mem 0 (clean (leBytes 16 entry)) }) s

/-- INSTALL of row 2 of table 1 at unit 65,536, way 0. -/
def installEntry : Nat := 1 + 2 ^ 4 + 2 * 2 ^ 16 + 65536 * 2 ^ 48
/-- Invalidation of row 2, way 0. -/
def clearEntry : Nat := 2 ^ 4 + 2 * 2 ^ 16

/-- The read of its first entry. -/
def entryRead (entry : Nat) : State × IoRes := ioReadOne .cmd (whoEngine 0) (opKey kEntry 7) 0x40000000 16 (startCmd 7 (refreshes [] entry))

theorem test_witness_ember_entry_apply : runningRefresh (refreshes [] installEntry) 0 = some (refresh0 []) ∧
    (refresh0 []).next + 1 < fld refreshSlot.pay 63 32 ∧
    (entryRead installEntry).2 = .done [clean (leBytes 16 installEntry)] ∧ (getEng (entryRead installEntry).1 0).queue = [.refresh (refresh0 [])] ∧
    entryFails (entryRead installEntry).1 (BitVec.ofNat 128 installEntry) = none ∧ findTable (entryRead installEntry).1 1 = some table1 ∧
    (entryRead clearEntry).2 = .done [clean (leBytes 16 clearEntry)] ∧ (getEng (entryRead clearEntry).1 0).queue = [.refresh (refresh0 [])] ∧
    entryFails (entryRead clearEntry).1 (BitVec.ofNat 128 clearEntry) = none ∧ findTable (entryRead clearEntry).1 1 = some table1 := by decide +kernel

/-- An install whose row lies in tile 0's memory. -/
def install0 : Install := { entry := 0, table := 1, row := 2, way := 0, unit := 65536, version := 1, dva := 0x40000000, len := 64, again := false }

/-- The read of its row, with `again` or without. -/
def rowRead0 (again : Bool) : State × IoRes :=
  installRead 0 { install0 with again := again } (refreshes [{ install0 with again := again }] 0)

theorem test_witness_ember_install_done : (∀ again, runningRefresh (refreshes [{ install0 with again := again }] 0) 0 =
      some (refresh0 [{ install0 with again := again }]) ∧ inBatch (refreshes [{ install0 with again := again }] 0) 1 2 = false ∧
      (rowRead0 again).2 = .done [List.replicate 64 (0, false)] ∧
      (getEng (rowRead0 again).1 0).queue = [.refresh (refresh0 [{ install0 with again := again }])]) ∧
    (refresh0 [install0]).next < fld refreshSlot.pay 63 32 := by decide +kernel

theorem test_witness_rows_apply : rowsApply (stepIs fun _ => item2) = true := by decide +kernel
/-- The SCATTER of `scatterSlot`, of one bag. -/
def oneBag : Slot := { scatterSlot with pay := setFld scatterSlot.pay 47 32 1 }

/-- It, not yet begun. -/
def scatter0 : ScatterRun :=
  { cmd := 7, slot := oneBag, table := ver1, keyDva := none, seq := 0, p0 := 0, p1 := 1, next := 0, pos := 0, ready := none, failed := none,
    stop := none }

/-- Engine 0 with it. -/
def scattering : State := flying [{ cmd7 oneBag with step := some 5 }] (keeps { kept [] [] with scatters := [scatter0] })

/-- Its bag is read. -/
def bagRead : State × BagKeys := scatterBag 0 scatter0 (startCmd 7 scattering)

/-- The key of the bag. -/
def bagKeys : List (BitVec 256) := [mkKey oneBag.pay scatter0 0 0 0 0x40060000 one32]

/-- The key with its place. -/
def placed0 : BagKeyList := { keys := bagKeys.map fun k => { word := k, dva := 0x40040000 }, missing := 0, upTo := 1 }

/-- Its keys have their places. -/
def keysPlaced : State := placeKeys 0 5 7 bagKeys 0 1 bagRead.1

/-- The SCATTER that an engine holds. -/
def heldScatter (s : State) : Option ScatterRun := (engStep s 0 5).bind fun x => x.scatters.find? fun y => y.cmd == 7

theorem test_witness_scatter_keys_written : nextScatter scattering 0 = some (5, scatter0) ∧ (scatterLists oneBag.pay).count = 1 ∧
    heldScatter (startCmd 7 scattering) = some scatter0 ∧ bagRead.2 = .ok bagKeys 0 1 ∧ heldScatter bagRead.1 = some scatter0 ∧
    ((heldScatter keysPlaced).bind fun r => r.ready) = some placed0 ∧ (writeKeys 0 5 7 placed0 keysPlaced).2 = true ∧
    heldScatter (writeKeys 0 5 7 placed0 keysPlaced).1 = some { scatter0 with next := 1, pos := 1 } ∧
    (findCmd (writeKeys 0 5 7 placed0 keysPlaced).1 7).isSome = true := by decide +kernel

/-- The key of a row of table 1 with a gradient of zeros. -/
def key1 : SortKey := { word := BitVec.ofNat 256 (2 + 2 ^ 32 + 2 * 2 ^ 59 + 0x40060000 * 2 ^ 64 + 0x3F800000 * 2 ^ 160), dva := 0x40040000 }

/-- Engine 0 with it, sealed. -/
def merges : State := keeps { kept [key1] [] with sealed := true }

/-- The merge's reads. -/
def mergeRead : State × IoRes := ioMany .cmd (whoEngine 0) (opKey kMerge 10) (runReads merges 5 [key1]) merges
/-- The merge has formed its entry. -/
def mergeFormed : State := formEntries 0 5 [([(key1, List.replicate 64 0)], [])] mergeRead.1
/-- The engine's part of the step then. -/
def formed0 : EngineStep := (engStep mergeFormed 0 5).getD default
/-- The entry is written. -/
def mergeWritten : State × IoRes :=
  ioMany .cmd (whoEngine 0) (opKey kMerge 11) (formed0.entries.map fun z => ioWrite z.dva (entryData z)) mergeFormed

theorem test_witness_merge_complete : ((getEng merges 0).steps.find? fun x => x.sealed && !x.merged && x.scatters.isEmpty) =
      some { kept [key1] [] with sealed := true } ∧
    mergeRead.2 = .done [[], List.replicate 32 (0, false), List.replicate 64 (0, false)] ∧
    stepTable mergeRead.1 5 (fld key1.word 43 32) = some (ver1, 0) ∧ tdDelta ver1.desc = false ∧
    engStep mergeRead.1 0 5 = some { kept [key1] [] with sealed := true } ∧ formed0.entries.length = 1 ∧
    mergeWritten.2 = .done [[]] ∧ engStep mergeWritten.1 0 5 = some formed0 ∧ mergeWritten.1.rows.merges = [] := by decide +kernel

/-- An entry of table 1, row 2, with values or a gradient of zeros. -/
def entry0 (values : Nat) : LogEntry :=
  { hdr := BitVec.ofNat 256 (2 + 2 ^ 32 + values * 2 ^ 46 + 2 * 2 ^ 64 + 2 ^ 96 + 5 * 2 ^ 128), body := List.replicate 64 0, dva := 0x40050000,
    size := 96, table := ver1, keyDva := 0, unwritten := values == 0 }

/-- A ROW_OPTIMISE of step 5 under way, the step's decision being commit. -/
def decided : Decision := { skip := false, cause := 0, norm := 0, clip := one32 }
/-- Step 5 decided. -/
def commits5 : Step := { commits with decision := some decided }
/-- Its ROW_OPTIMISE. -/
def opt0 : OptCmd := { cmd := 7, step := 5, mask := 1, found := false }
/-- Row 2 of table 1 has been read for `entry0`. -/
def rowHere (s : State) : State :=
  accessed 100 (whoEngine 0) (entryKey (entry0 0) 0) false 0x10080 64 .ok (List.replicate 64 (0, false)) s
/-- The state of both, engine 0 having entries. -/
def optimises (es : List LogEntry) : State :=
  let s := updStep 5 (fun _ => commits5) (flying [{ cmd7 optimiseSlot with step := some 5 }] (rowHere (keeps (kept [] es))))
  { s with rows := { s.rows with optimises := [opt0] } }

/-- `optimises` once its command has started. -/
def optimised (es : List LogEntry) : State :=
  let s := optimises es
  { startCmd 7 s with rows := { s.rows with
      optimises := mapIf (fun x => x.cmd == 7) (fun x => { x with found := opt0.found || (nextToOptimise s 5 opt0.mask).isSome }) s.rows.optimises } }

theorem test_witness_row_optimise_start : ∀ es ∈ [[], [entry0 0]], ((optimises es).rows.optimises.find? fun o => o.step == 5) = some opt0 ∧
    findStep (optimises es) 5 = some commits5 ∧ findCmd (optimises es) 7 = some { cmd7 optimiseSlot with step := some 5 } ∧
    mayBegin (optimises es) optimiseSlot (some 5) = true ∧ commits5.decision.isSome = true ∧ commits5.state = .decidedCommit ∧ earlierOpen (optimises es) 5 = false ∧
    (optimiseAll (entryCount (optimised es) 5 + 1) 5 opt0.mask (stepClip commits5) (optimised es)).2 = none ∧
    findCmd (optimiseAll (entryCount (optimised es) 5 + 1) 5 opt0.mask (stepClip commits5) (optimised es)).1 7 =
      some { cmd7 optimiseSlot with step := some 5, started := true } := by decide +kernel
/-- A table of INT8 rows with residuals at 0x20000 and ADAGRAD state at 0x30000. -/
def ver2 : TabVer := { desc := BitVec.ofNat 512 (1 + 2 ^ 16 + 16 * 2 ^ 64 + 0x10000 * 2 ^ 128 + 0x20000 * 2 ^ 192 + 2 ^ 320 + 2 ^ 368), version := 1 }
/-- The table with its optimiser. -/
def table2 : Table := { table1 with cur := ver2, optim := some (BitVec.ofNat 512 (1 + 2 * 2 ^ 12 + 0x30000 * 2 ^ 64)) }
/-- An entry of its row 2. -/
def entry2 : LogEntry := { entry0 0 with table := ver2 }
/-- Its row has been read. -/
def planes2 : State :=
  let there (n a len : Nat) (s : State) : State :=
    accessed n (whoEngine 0) (entryKey entry2 0) false a len .ok (List.replicate len (0, false)) s
  there 100 (recAddr ver2.desc 2) (recSize ver2.desc) (there 101 (resAddr ver2.desc 2) (resSize ver2.desc) (there 102 0x30080 64 (areas (rowed [table2]))))

theorem test_witness_entry_optimised : leNew entry2 = false ∧ resSize ver2.desc ≠ 0 ∧ stateSize (optimOf planes2 (leTable entry2)) ver2.desc ≠ 0 ∧
    (ioMany .cmd (whoEngine 0) (entryKey entry2 0)
      (ioRead entry2.dva (32 + entry2.body.length) :: (rowPlanes planes2 entry2).map fun p => ioRead p.1 p.2) planes2).2 =
      .done [List.replicate 96 (0, false), List.replicate (recSize ver2.desc) (0, false), List.replicate (resSize ver2.desc) (0, false),
        List.replicate 64 (0, false)] := by decide +kernel

/-- Step 5 at item 2 with an entry, whose row has been read and written. -/
def applies (y : LogEntry) : State :=
  accessed 101 (whoEngine 0) (entryKey y 2) true 0x10080 64 .ok [] (updStep 5 (fun _ => item2) (rowHere (keeps (kept [] [y]))))

/-- `entry0` with its values, in the log. -/
def entryDone : LogEntry := { entry0 1 with unwritten := false }

theorem test_witness_row_apply_entry : applyingStep (applies entryDone) = some item2 ∧
    engStep (applies entryDone) 0 5 = some (kept [] [entryDone]) ∧
    entryAt (kept [] [entryDone]) 0 = some ([], entryDone) ∧ leValues entryDone = true ∧
    (applyNewRow 0 none entryDone (applies entryDone)).2 = .ok entryDone ∧
    (engStep (applyNewRow 0 none entryDone (applies entryDone)).1 0 5).isSome = true := by decide +kernel

/-- The entry of `applies` optimised, written to its log and applied. -/
def applySteps : List EntryRes :=
  let o := optimiseEntry 0 (stepClip item2) [] (entry0 0) (applies (entry0 0))
  match o.2 with
  | .ok z =>
    let w := storeEntry 0 z (setEntry 0 5 0 z o.1)
    match w.2 with
    | .ok v => let r := applyNewRow 0 none v (setEntry 0 5 0 v w.1); [o.2, w.2, r.2, if (engStep r.1 0 5).isSome then .ok v else .wait]
    | _ => []
  | _ => []

theorem test_witness_row_apply_unoptimised : applyingStep (applies (entry0 0)) = some item2 ∧ leValues (entry0 0) = false ∧
    applySteps.length = 4 ∧ (applySteps.all fun r => match r with | .ok _ => true | _ => false) = true := by decide +kernel

/-- Engine 0 with a deferred entry and a probe that wants its row, the accesses of the drain having ended. -/
def defers0 (n : Nat) : State :=
  accessed 100 (whoEngine 0) (drainKey n 0) false 0x10080 64 .ok (List.replicate 64 (0, false))
    (accessed 101 (whoEngine 0) (drainKey n 1) true 0x10080 64 .ok []
      (updEng 0 (fun g => { g with deferred := [entry0 0], forwards := [(1, 2)] }) scatters))

/-- The number of the drain of that row alone. -/
def forward0 : Nat := 1 + 2 * (1 + 4096 * 2)

/-- The drain of the entry has read and written its row; what else is left. -/
def drainGoes (n : Nat) : Bool :=
  let d : Drain := { n := n, entries := [entry0 0], windows := drainWindows (defers0 n) 0 [entry0 0], read := false }
  let s := updEng 0 (fun g => { g with drains := [d] }) (defers0 n)
  let a := ioMany .cmd (whoEngine 0) (drainKey n 0) ((d.windows.map fun w => (ioRead w.1 w.2).one) ++ [ioRead 0x40050000 96]) s
  let o := optimiseRow 0 (leClip (entry0 0)) [] (entry0 0) (List.replicate 64 0) a.1
  let b := updDrain 0 n (fun d => { d with entries := [o.2], read := true }) o.1
  let c := ioMany .cmd (whoEngine 0) (drainKey n 1) (rowWrites b o.2) b
  decide (a.2 = .done [List.replicate 64 (0, false), List.replicate 96 (0, false)]) && decide (c.2 = .done [[]]) &&
    (List.finRange 16).all fun f => f == 0 || (getEng c.1 f).deferred.isEmpty

theorem test_witness_defer_drain : (∀ n ∈ [0, forward0], drains (defers0 n) = true ∧ (getEng (defers0 n) 0).deferred = [entry0 0] ∧
      (getEng (defers0 n) 0).drains = [] ∧ mayTake (defers0 n) 0 (entry0 0) = true ∧ drainGoes n = true) ∧
    0 < (defers0 0).rows.obj.deferBatch.toNat ∧ (1, 2) ∈ (getEng (defers0 forward0) 0).forwards ∧ leTable (entry0 0) = 1 ∧
    leRow (entry0 0) = 2 := by decide +kernel

/-- A dense EXPORT of 64 bytes of entry 0 of tile 3 to 0x40080000, and an EXPORT of rows. -/
def denseSlot : Slot := slot 0x30 64 noStep (1 + 3 * 2 ^ 96 + 64 * 2 ^ 128 + 0x40080000 * 2 ^ 256 + 4096 * 2 ^ 320)
/-- Its run. -/
def export0 (c : Slot) (t : Option TabVer) (written : Bool) : ExportRun :=
  { cmd := 7, slot := c, step := none, table := t, data := none, written := written }
/-- The state of an export; the rows of an export have been read. -/
def exports (x : ExportRun) : State :=
  let s := flying [cmd7 x.slot] (updTile 3 (fun t => { t with shards := t.shards.set 0 { defined := true, a := 0, b := 64, sel := false, marks := [] } })
    (tabled [table1]))
  accessed 100 whoFront (exportKey 7 0) false 0x10000 256 .ok (List.replicate 256 (0, false)) { s with rows := { s.rows with exports := [x] } }

/-- The writes of an export. -/
def exportWrites (x : ExportRun) (d : Data) (s : State) : State × IoRes :=
  let s := updExport 7 (fun y => { y with data := some d }) s
  ioMany .cmd whoFront (exportKey 7 1) [ioWrite 0x40080080 d, ioWrite 0x40080000 (clean (exportHeader s x (dataBytes d)))] s

/-- The state of the dense export. -/
def exportsDense : State := exports (export0 denseSlot none false)

theorem test_witness_export_capture_dense :
    (exportsDense.rows.exports.find? fun y => y.cmd == 7 && !y.written) = some (export0 denseSlot none false) ∧
    mayBegin exportsDense denseSlot none = true ∧
    memRead (getTile exportsDense 3).mem (liveCopy (shardOf exportsDense 3 0)) (xBytes denseSlot.pay) = List.replicate 64 (0, false) ∧
    (exportWrites (export0 denseSlot none false) (List.replicate 64 (0, false)) (startCmd 7 exportsDense)).2 = .done [[], []] := by decide +kernel

/-- The state of the export of rows, and its reads. -/
def exportsRows : State := exports (export0 exportSlot (some ver1) false)
/-- The reads of its rows. -/
def exportRead : State × IoRes :=
  ioMany .cmd whoFront (exportKey 7 0) (exportReads (startCmd 7 exportsRows) (export0 exportSlot (some ver1) false)) (startCmd 7 exportsRows)

theorem test_witness_export_capture_rows :
    ((List.finRange 16).any fun e => (getEng exportsRows e).deferred.any fun y => leTable y == tdId ver1.desc) = false ∧
    exportRead.2 = .done [List.replicate 256 (0, false), [], []] ∧
    (exportWrites (export0 exportSlot (some ver1) false) (List.replicate 256 (0, false)) exportRead.1).2 = .done [[], []] := by decide +kernel

/-- The state of an export that is written. -/
def exportsDone : State := exports (export0 exportSlot (some ver1) true)
/-- The write of its VALID byte. -/
def exportCommits : State × IoRes := ioMany .cmd whoFront (exportKey 7 2) [ioWrite (0x40080000 + 100) [(1, false)]] exportsDone

theorem test_witness_export_commit :
    (exportsDone.rows.exports.find? fun y => y.cmd == 7 && y.written) = some (export0 exportSlot (some ver1) true) ∧
    exportCommits.2 = .done [[]] ∧ findCmd exportCommits.1 7 = some (cmd7 exportSlot) := by decide +kernel
/-- A record of 64 zero bytes for a dense target, committed. -/
def record0 : List Byte :=
  let h := exportHeader (tabled []) (export0 denseSlot none false) (List.replicate 64 0)
  h.set 100 1 ++ List.replicate 64 0
/-- It lies in tile 0's memory, and tile 3 has the target's shard entry. -/
def imports : State := updTile 0 (fun t => { t with mem := memWrite t.mem 0 (clean record0) }) (flying [] (exports (export0 denseSlot none false)))
/-- An IMPORT of it. -/
def importSlot : Slot := slot 0x31 64 noStep (1 + 4 + 8 + 3 * 2 ^ 32 + 0x40000000 * 2 ^ 64 + 192 * 2 ^ 128)
/-- What its checks keep: the record's bytes. -/
def importInfo : List Nat := match (importCheck 0 importSlot imports).2 with | .admitWith ns => ns | _ => []

theorem test_witness_import : Passes importCheck 0x31 0 importSlot importInfo imports (importCheck 0 importSlot imports).1 ∧
    fld importSlot.pay 1 0 = 1 ∧ mayBegin (importCheck 0 importSlot imports).1 importSlot (slotStep (importCheck 0 importSlot imports).1 importSlot) = true :=
  ⟨passes_of_now (by decide +kernel), by decide +kernel⟩
/-- A descriptor of sequence slot 3: one head of 64 FP8 elements, 16 positions of two pages. -/
def desc3 : Nat := 3 + 2 ^ 16 + 16 * 2 ^ 96 + 0x70000 * 2 ^ 128 + 2 * 2 ^ 192 + 0x3F800000 * 2 ^ 288 + 0x3F800000 * 2 ^ 320
/-- A SLOT_SET, a SLOT_EXTEND to three pages, a HIST_APPEND of 20 positions from tile 0 and a HIST_WALK of positions 0 to 7 to tile 5. -/
def setSlot3 : Slot := slot 0x38 64 noStep desc3
@[inherit_doc setSlot3] def extendSlot : Slot := slot 0x39 16 noStep (3 + 3 * 2 ^ 8)
@[inherit_doc setSlot3] def appendSlot : Slot := slot 0x3A 64 noStep (3 + 20 * 2 ^ 8 + 0x2000 * 2 ^ 128 + 2 ^ 160)
@[inherit_doc setSlot3] def walkPay : Nat :=
  3 + 7 * 2 ^ 64 + 5 * 2 ^ 80 + 0x10000 * 2 ^ 160 + 0x20000 * 2 ^ 192 + 16384 * 2 ^ 256 + 512 * 2 ^ 288
@[inherit_doc setSlot3] def walkSlot : Slot := slot 0x3B 96 noStep walkPay

/-- Slot 3 as set. -/
def hist3 : HistSlot := { desc := BitVec.ofNat 512 desc3, length := 16, stall := none, mark0 := none, mark1 := none, kept := [] }
/-- A state with slot 3 and commands of the walker. -/
def walking (x : HistSlot) (cs : List WalkerCmd) (fs : List FwdReq) : State :=
  let s := mapped running
  { s with hist := { s.hist with slots := s.hist.slots.set 3 (some x), cmds := cs, fwd := fs } }

theorem test_witness_history_slots : mayBegin running setSlot3 (slotStep running setSlot3) = true ∧
    Passes slotSetRule.check 0x38 0 setSlot3 [] running running ∧
    mayBegin (walking hist3 [] []) extendSlot (slotStep (walking hist3 [] []) extendSlot) = true ∧
    Passes slotExtendRule.check 0x39 0 extendSlot [] (walking hist3 [] []) (walking hist3 [] []) ∧
    getSlot (walking hist3 [] []) (fin (fld extendSlot.pay 7 0)) = some hist3 :=
  ⟨by decide +kernel, passes_of_same (by decide +kernel) rfl, by decide +kernel, passes_of_same (by decide +kernel) rfl, by decide +kernel⟩

/-- Slot 3 with one page, where an append stalled at reset. -/
def stalledSlot (now : Nat) : State :=
  let x : HistSlot := { hist3 with desc := setFld hist3.desc 202 192 0, stall := some 0 }
  let a : AppendRun := { cmd := 7, cmdStep := none, slot := 3, pay := appendSlot, first := 16, done := 0, group := 0, todo := [], stop := none }
  { walking x [.append a true] [] with now := now }

theorem test_witness_slot_extend_stalled : ∀ now ∈ [10000, 10001],
    passesNow slotExtendRule.check 0x39 0 extendSlot [] (stalledSlot now) = true ∧ (appendsOn (stalledSlot now) 3).length = 1 ∧
    (getSlot (stalledSlot now) 3).bind (fun x => x.stall) = some 0 ∧ ((appendsOn (stalledSlot now) 3).all fun a => decide (groupPage a < 3)) = true := by
  decide +kernel

theorem test_witness_history_commands : getSlot (walking hist3 [] []) (fin (fld appendSlot.pay 7 0)) = some hist3 ∧
    Passes histAppendCheck 0x3A 0 appendSlot [] (walking hist3 [] []) (walking hist3 [] []) ∧
    getSlot (walking hist3 [] []) (fin (fld walkSlot.pay 7 0)) = some hist3 ∧
    Passes histWalkCheck 0x3B 0 walkSlot [] (walking hist3 [] []) (walking hist3 [] []) :=
  ⟨by decide +kernel, passes_of_same (by decide +kernel) rfl, by decide +kernel, passes_of_same (by decide +kernel) rfl⟩

/-- The append as command 7, with its first groups done and a group under way. -/
def append0 (done group : Nat) : AppendRun :=
  { cmd := 7, cmdStep := none, slot := 3, pay := appendSlot, first := 16, done := done, group := group, todo := [], stop := none }
/-- Its state. -/
def appending (x : HistSlot) (done group : Nat) : State := flying [cmd7 appendSlot] (walking x [.append (append0 done group) true] [])
/-- Slot 3 with a single page, and stalled at reset. -/
def short3 : HistSlot := { hist3 with desc := setFld hist3.desc 202 192 0 }
@[inherit_doc short3] def stalled3 : HistSlot := { short3 with stall := some 0 }

theorem test_witness_append_starts : (∀ x ∈ [hist3, short3], getSlot (appending x 0 0) 3 = some x ∧
    (appendsOn (appending x 0 0) 3).head? = some (append0 0 0) ∧ (append0 0 0).cmd = (cmd7 appendSlot).id ∧ (append0 0 0).stop = none ∧
    (append0 0 0).group = 0 ∧ mayRun (appending x 0 0) 7 = true ∧ mayBegin (appending x 0 0) appendSlot none = true ∧
    fld appendSlot.pay 40 37 = 0 ∧ x.stall = none) ∧ groupPage (append0 0 0) < hdPages hist3.desc ∧ hdPages short3.desc ≤ groupPage (append0 0 0) := by
  decide +kernel

theorem test_witness_append_done : (∀ g ∈ [(0, 16), (16, 4)], getSlot (appending hist3 g.1 g.2) 3 = some hist3 ∧
    (appendsOn (appending hist3 g.1 g.2) 3).head? = some (append0 g.1 g.2) ∧ (append0 g.1 g.2).stop = none ∧ (append0 g.1 g.2).group ≠ 0 ∧
    (append0 g.1 g.2).todo = [] ∧ outstanding (appending hist3 g.1 g.2) 7 = false ∧ findCmd (appending hist3 g.1 g.2) 7 = some (cmd7 appendSlot)) ∧
    0 + 16 < haCount appendSlot ∧ haCount appendSlot ≤ 16 + 4 := by decide +kernel

/-- 10 µs later. -/
def stalledState : State := { appending stalled3 0 0 with now := 10000 }

theorem test_witness_stall_expiry : getSlot stalledState 3 = some stalled3 ∧ stalled3.stall = some 0 ∧ 0 + 10000 ≤ stalledState.now ∧
    appendsOn stalledState 3 = [append0 0 0] ∧ findCmd stalledState 7 = some (cmd7 appendSlot) ∧ (cmd7 appendSlot).step = none ∧
    slotOpcode appendSlot = 0x3A ∧ walksOn stalledState 3 = [] := by decide +kernel

/-- A walk, command 8, that waits for position 16. -/
def waiter8 : WalkRun :=
  { cmd := 8, cmdStep := none, slot := 3, pay := walkSlot, desc := stalled3.desc, bound := 36, read := true, deliver := [16],
    todo := [.rows 0 false 0 16 1], waits := true, cap := none, signalled := 0, stop := none }
/-- `stalledState` with it. -/
def stalledWaiter : State :=
  { flying [cmd7 appendSlot, { cmd7 walkSlot with id := 8 }] (walking stalled3 [.append (append0 0 0) true, .walk waiter8 true] []) with now := 10000 }

theorem test_witness_stall_expiry_walk : walksOn stalledWaiter 3 = [waiter8] ∧ appendsOn stalledWaiter 3 = [append0 0 0] ∧
    getSlot stalledWaiter 3 = some stalled3 ∧ waiter8.read = true ∧ waiter8.stop = none ∧ waiter8.todo ≠ [] ∧
    waiter8.todo.any (issuable (min 16 (min (waiter8.cap.getD (16 + 0)) (16 + 0)))) = false ∧ outstanding stalledWaiter 8 = false ∧
    findCmd stalledWaiter 8 = some { cmd7 walkSlot with id := 8 } ∧ slotOpcode walkSlot = 0x3B := by decide +kernel

theorem test_witness_append_stalled : getSlot (appending stalled3 0 0) 3 = some stalled3 ∧ stalled3.stall ≠ none ∧
    (appendsOn (appending stalled3 0 0) 3).head? = some (append0 0 0) := by decide +kernel

/-- The walk, and one of the same range that reads a global list of two entries. -/
def walk0 : WalkRun :=
  { cmd := 7, cmdStep := none, slot := 3, pay := walkSlot, desc := hist3.desc, bound := 16, read := false, deliver := [], todo := [],
    waits := false, cap := none, signalled := 0, stop := none }
@[inherit_doc walk0] def walk1 : WalkRun :=
  { walk0 with pay := slot 0x3B 96 noStep (walkPay + 2 ^ 8 + 2 ^ 16 + 7 * 2 ^ 32 - 7 * 2 ^ 64)
               desc := setFld (setFld hist3.desc 214 208 2) 271 224 0x72000 }
/-- A state of one walk. -/
def walks (w : WalkRun) (fs : List FwdReq) : State := flying [cmd7 w.pay] (walking hist3 [.walk w true] fs)
/-- Entries 0 and 1 of the global list have been read. -/
def globals : State := accessed 100 whoWalker (opKey kCmd 7) false 0x72000 8 .ok (clean [0, 0, 0, 0, 1, 0, 0, 0]) (walks walk1 [])
/-- What reading it answers. -/
def globalsRead : State × IoRes :=
  ioMany .cmd whoWalker (opKey kCmd 7) [(ioRead (hdGlist walk1.desc) 8).stack] (updWalk 7 id (startCmd 7 globals))

theorem test_witness_walk_list_read : findWalk (walks walk0 []) 7 = some walk0 ∧ walk0.stop = none ∧ walk0.read = false ∧
    mayRun (walks walk0 []) 7 = true ∧ mayBegin (walks walk0 []) walk0.pay none = true ∧ bit walk0.pay.pay 8 = false := by decide +kernel

theorem test_witness_walk_global_list : findWalk globals 7 = some walk1 ∧ walk1.stop = none ∧ walk1.read = false ∧
    mayRun globals 7 = true ∧ mayBegin globals walk1.pay none = true ∧ bit walk1.pay.pay 8 = true ∧ hdGcount walk1.desc = 2 ∧
    hdGlist walk1.desc = 0x72000 ∧ globalsRead.2 = .done [clean [0, 0, 0, 0, 1, 0, 0, 0]] ∧
    findWalk globalsRead.1 7 = some walk1 ∧ globalRows [0, 1] 16 (localRange walk1.pay.pay walk1.desc 16).1 = some [0, 1] := by decide +kernel

/-- The walk with its position list to issue; it waits, or does not. -/
def listed (waits : Bool) : WalkRun :=
  { walk0 with read := true, deliver := List.range 8, todo := walkItems walk0 [] (List.range 8), waits := waits }

theorem test_witness_walk_position_wait_end : findWalk (walks (listed true) []) 7 = some (listed true) ∧ (listed true).stop = none ∧
    (listed true).read = true ∧ (listed true).waits = true ∧ bit (listed true).pay.pay 9 = false ∧
    (listed true).todo.any (issuable (walkLength (walks (listed true) []) (listed true))) = true := by decide +kernel

/-- The append with rows to issue, as they stand after its group has started. -/
def copies : AppendRun := { append0 0 16 with todo := [.rows 0 false 0 16 16, .rows 0 true 0 16 16] }
/-- Slot 3 with the first entry of its page list kept. -/
def paged3 : HistSlot := { hist3 with kept := [(0, 0)] }
/-- Its state, the state after the page is found, and the address. -/
def copying : State := flying [cmd7 appendSlot] (walking paged3 [.append copies true] [])
@[inherit_doc copying] def copyPage : State × Except (Option Status) XEntry :=
  pageRows 3 7 hist3.desc true 0 false 16 (updHist (fun h => { h with turn := 7 }) copying)

theorem test_witness_forward_append : copying.hist.cmds = [.append copies true] ∧ copying.hist.fwd.length < 256 ∧
    copies.todo = .rows 0 false 0 16 16 :: [.rows 0 true 0 16 16] ∧ getSlot copying copies.slot = some paged3 ∧ fenced copying 0 = false ∧
    copyPage.2.toOption = some { pa := 16 * 64, tier := 1, write := true, runahead := true, node := 0 } ∧
    copyPage.1.hist.cmds = [.append copies true] ∧ pieces (16 * 64) (16 * 64) = [(16 * 64, 16 * 64)] ∧ hdRow paged3.desc = 64 ∧
    accessFails copyPage.1 .cmd (16 * 64) (16 * 64) true = none ∧ channelEntries copyPage.1 (16 * 64) = [] ∧
    numbered copyPage.1.mem.nextId copyPage.1 = true := by decide +kernel

theorem test_witness_forward_walk : (walks (listed false) []).hist.cmds = [.walk (listed false) true] ∧
    (walks (listed false) []).hist.fwd.length < 256 ∧ (listed false).read = true ∧ (listed false).waits = false ∧ (listed false).stop = none ∧
    (listed false).todo = .list :: (listed false).todo.drop 1 ∧
    ((listed false).todo.drop 1).any (issuable (walkLength (walks (listed false) []) (listed false))) = true ∧ bit (listed false).pay.pay 9 = false ∧
    fenced (walks (listed false) []) (hwTile (listed false).pay.pay).val = false := by decide +kernel

/-- A request of command 7 that the stack has answered, of an append, and one whose packet has arrived, as the last of a walk. -/
def request7 : FwdReq := { key := 0, cmd := 7, row := 0, dst := none, parts := 0, state := .over .ok }
@[inherit_doc request7] def sent7 : FwdReq := { request7 with state := .sent 3 }
@[inherit_doc request7] def acked : State := { copying with hist := { copying.hist with fwd := [request7] } }
@[inherit_doc request7] def issued : WalkRun := { listed false with todo := [] }

theorem test_witness_forward_ack : acked.hist.fwd[0]? = some request7 ∧ fwdEnded acked request7 = some .ok ∧
    (acked.hist.cmds.find? fun x => wcmdId x == request7.cmd) = some (.append copies true) ∧ copies.stop = none ∧
    (walks issued [sent7]).hist.fwd[0]? = some sent7 ∧ fwdEnded (walks issued [sent7]) sent7 = some .ok ∧
    (walks issued [sent7]).hist.cmds = [.walk issued true] ∧ issued.cmd = sent7.cmd ∧ (walks issued [sent7]).hist.fwd = [sent7] ∧
    issued.read = true ∧ issued.stop = none ∧ issued.todo = [] ∧ bit issued.pay.pay 9 = false ∧
    findCmd (walks issued [sent7]) 7 = some (cmd7 issued.pay) := by decide +kernel
/-- A read, or a write that has taken effect, of 64 bytes at 0 in a channel's queue. -/
def waitingReq (w : Bool) : MReq :=
  { id := 3, who := whoFront, write := w, tier := 1, pa := 0, node := 0, len := 64, data := [], act := none, state := .waiting }
@[inherit_doc waitingReq] def entry3 (w : Bool) : ChanEntry :=
  { id := 3, pa := 0, len := 64, write := w, part := false, arrived := 0, taken := true, data := List.replicate 64 (0, false) }
/-- Its state, also with a codeword of another bank to write back. -/
def channel0 (w : Bool) : State :=
  { running with mem := { running.mem with
      requests := [waitingReq w]
      nextId := 4
      stackCtl := { running.mem.stackCtl with queue := [entry3 w], writeBacks := [{ word := 1024, scrub := false }] } } }

theorem test_witness_controllers : ∀ w : Bool, (channel0 w).clk.refclk = true ∧
    nextRequest (channel0 w) (channelQueue (channel0 w) 0 0) = some (entry3 w) ∧ (entry3 w).write = w ∧
    (channel0 w).mem.stackCtl.queue = [entry3 w] ∧ (entry3 w).taken = true ∧
    findReq (channel0 w) 3 = some (waitingReq w) ∧ (waitingReq w).act = none ∧ 0 ∈ wordsOf (entry3 w).pa (entry3 w).len ∧
    memPoisoned (channel0 w).mem.t1 (64 * 0) = false := by decide +kernel

theorem test_witness_errors : (channel0 false).clk.refclk = true ∧ stackOf (64 * 1024) = 0 ∧
    ((channel0 false).mem.stackCtl.writeBacks.any fun x => x.word == 1024) = true ∧
    ((channel0 false).mem.stackCtl.queue.any fun e => stackOf e.pa == stackOf (64 * 1024) && channelOf e.pa == channelOf (64 * 1024) &&
      bankOf e.pa == bankOf (64 * 1024)) = false ∧
    requestReady (channel0 false) (ownEntry (channel0 false) 1024 true) = true ∧
    requestReady (channel0 false) (ownEntry (channel0 false) (7 * 2 ^ 30 + 0) false) = true ∧ numbered 4 (channel0 false) = true ∧
    (channel0 false).mem.stackCtl.scrubPeriod ≠ 0 ∧ memPoisoned (channel0 false).mem.t1 (64 * (7 * 2 ^ 30 + 0)) = false ∧
    (channel0 false).mem.stackCtl.scrubPos[(7 : Fin 8)] < 2 ^ 30 ∧ (List.replicate 16 1).length = 16 := by decide +kernel

/-- A walk of page 5. -/
def walk5 : Walk := { quad := 1, page := 5, start := 0, reads := [9], stale := false }
/-- Page 5 wanted in quadrant 1, walked or not, under a page table at 0x100000. -/
def wanting (pte : List Byte) (walked : Bool) : State :=
  let x := running.mem.xlate
  let m := memWrite (memWrite running.mem.t1 0x100000 (clean [1, 0, 4, 0, 0, 0, 0, 0])) 0x40028 (clean pte)
  { running with mem := { running.mem with
      t1 := m, xlate := { x with
        ptRoot := 0x100000, waiters := [{ quad := 1, page := 5, who := whoFront, key := 0, dva := 0 }], walks := if walked then [walk5] else [] } } }

/-- `wanting` with a read of the walk still in its channel. -/
def walkReads : State :=
  let s := wanting [] true
  { s with mem := { s.mem with stackCtl := { s.mem.stackCtl with queue := [{ entry3 false with id := 9 }] } } }

theorem test_witness_page_walks : ((wanting [] false).mem.xlate.waiters.any fun w => w.quad == 1 && w.page == 5) = true ∧
    ((wanting [] false).mem.xlate.walks.any fun w => w.quad == 1 && w.page == 5) = false ∧
    ((wanting [] false).mem.xlate.walks.filter fun w => w.quad == 1).length < 8 ∧ 5 < 2 ^ 27 ∧
    ((wanting [] true).mem.xlate.walks.find? fun w => w.quad == 1 && w.page == 5) = some walk5 ∧ walk5.stale = false ∧
    ((wanting [] true).mem.stackCtl.queue.any fun e => walk5.reads.contains e.id) = false ∧ (wanting [] true).mem.posted = [] ∧
    (walkPage (wanting [11, 0, 0, 0, 0, 0, 0, 0] true) 5).toOption = some 11 ∧
    (match walkPage (wanting [] true) 5 with | .ok _ => false | .error x => x == .addressRange) = true ∧
    (walkReads.mem.xlate.walks.find? fun w => w.quad == 1 && w.page == 5) = some walk5 ∧
    (walkReads.mem.stackCtl.queue.any fun e => walk5.reads.contains e.id) = true := by decide +kernel

/-- A far request of copy-engine pair 0, waiting for a slot or in one. -/
def farReq (w : Bool) : MReq :=
  { id := 3, who := whoFront, write := w, tier := 2, pa := 2 ^ 47, node := 0, len := 64, data := clean (List.replicate 64 1), act := none, state := .waiting }
@[inherit_doc farReq] def fars (w sent : Bool) : State :=
  let g := { running.host.engines[(0 : Fin 16)] with waiting := if sent then [] else [3], slots := if sent then [.far 3 0] else [] }
  { running with mem := { running.mem with requests := [farReq w] }
                 host := { running.host with engines := running.host.engines.set 0 g } }

theorem test_witness_far_requests : hostReachable (fars false false) = true ∧
    (fars false false).host.engines[(0 : Fin 16)].waiting = 3 :: [] ∧ (fars false false).host.engines[(0 : Fin 16)].slots.length < 64 ∧
    copyNext (fars false false) (fars false false).host.engines[(0 : Fin 16)] = none ∧ findReq (fars false false) 3 = some (farReq false) ∧
    (farReq false).write = false ∧ (∀ w : Bool, (fars w true).host.engines[(0 : Fin 16)].slots[0]? = some (.far 3 0) ∧
      findReq (fars w true) 3 = some (farReq w) ∧ (farReq w).act = none ∧ (farReq w).write = w) := by decide +kernel
/-- `running`, 1 s after its reset, with port 0 changed. -/
def port0 (f : Port → Port) : State :=
  { running with now := 1000000000, links := { running.links with ports := running.links.ports.set 0 (f Port.reset) } }
/-- A port in a state since reset, in a training step. -/
def inState (st : PortState) (step : Nat) (x : Port) : Port := { x with state := st, step := step }
/-- A codeword sent and not acknowledged. -/
def sent1 : Codeword := { fec := .clean, seq := 1, ack := 0, kind := 0, flits := List.replicate 10 0 }
/-- A link flit of a KIND with a node, or credits, in its BODY. -/
def linkFlit (kind node : Nat) : Packet := { hdr := BitVec.ofNat 512 (kind * 2 ^ 184 + node * 2 ^ 256), pay := [] }
/-- A port whose receiver holds a packet. -/
def receiving (k : Packet) (x : Port) : Port := { x with rx := [k] }

theorem test_witness_ports_train : (getPort (port0 (inState .down 0)) 0).state = .down ∧ portEnabled (port0 (inState .down 0)) 0 = true ∧ (port0 id).boot.phase = .done ∧
    (getPort (port0 (inState .down 0)) 0).since + 100000000 ≤ (port0 (inState .down 0)).now ∧
    (∀ st ∈ [1, 2, 3], (getPort (port0 (inState .training st)) 0).state = .training ∧ (getPort (port0 (inState .training st)) 0).step = st ∧
      0 + trainLimit st < (port0 (inState .training st)).now) ∧
    (let s := port0 (inState .training 1)
     let t : State := { s with clk := { s.clk with linkPhy := s.clk.linkPhy.set 0 { Loop.start 0 with passes := 3, locked := true } } }
     (getPort t 0).state = .training ∧ (getPort t 0).step = 1 ∧ (t.clk.linkPhy[(0 : Fin 16)]).locked = true) ∧
    (getPort (port0 (inState .up 4)) 0).state = .up ∧ (getPort (port0 (inState .up 4)) 0).step = 4 ∧ 0 + trainLimit 4 < 1000000000 ∧
    (getPort (port0 fun x => { inState .active 4 x with replay := [sent1] }) 0).replay ≠ [] ∧ 0 + 100000 ≤ (port0 id).now ∧
    receives (port0 (inState .active 4)) 0 = true := by decide +kernel

theorem test_witness_ident : (∀ n ∈ [0, 1], (getPort (port0 fun x => inState .up 4 (receiving (linkFlit 2 n) x)) 0).state = .up ∧
    (takeRx 0 (isLink 2) (port0 fun x => inState .up 4 (receiving (linkFlit 2 n) x))).map (fun r => fld r.1.hdr 270 256) = some n) ∧
    nodeId (port0 id) = 0 := by decide +kernel

/-- The header of a packet of `n` flits for a node from node 1, with hops left. -/
def header (node n hops : Nat) : BitVec 512 := BitVec.ofNat 512 (1 + n * 2 ^ 6 + node * 2 ^ 16 + 2 ^ 32 + hops * 2 ^ 48)

theorem test_witness_codewords :
    (∀ ack ∈ [(1 : BitVec 8), 5], ((getPort (port0 fun x => { inState .active 4 x with replay := [sent1] }) 0).replay.findIdx? fun c => c.seq == ack) =
      if ack = 1 then some 0 else none) ∧
    (getPort (port0 fun x => { inState .active 4 x with replay := [sent1] }) 0).nakCount = 0 ∧ (0 : BitVec 8) ≠ (getPort (port0 id) 0).rxSeq + 1 ∧
    (1 : BitVec 8) = (getPort (port0 id) 0).rxSeq + 1 ∧ pkFlits (header 0 9 1) = 9 ∧ fld (header 0 9 1) 3 0 ≠ 0 ∧
    reservedHeader (header 0 9 1) = false ∧ (getPort (port0 id) 0).partial_ = [] ∧
    (getPort (port0 fun x => { inState .active 4 x with nakCount := 15, nakSeq := 6 }) 0).nakSeq = 5 + 1 ∧ 0 + 2000 ≤ (port0 id).now := by
  decide +kernel

/-- Port 9's receiver holds a packet for node 1 with hops left; port 0 leads there, or does not. -/
def through (hops : Nat) (route : BitVec 32) : State :=
  let s := port0 (inState .active 4)
  { s with links := { s.links with
      ports := s.links.ports.set 9 (receiving { hdr := header 1 0 hops, pay := [] } (inState .active 4 Port.reset))
      routes := { s.links.routes with memberC := s.links.routes.memberC.set 1 route } } }

/-- The packet. -/
def passing (hops : Nat) : Packet := { hdr := header 1 0 hops, pay := [] }

theorem test_witness_forward : (∀ h ∈ [0, 1],
      (takeRx 9 (forForward (through h 0) 0) (through h 0)).map (fun r => r.1) = some (passing h) ∧ pkHops (passing h) = h) ∧
    ((takeRx 9 (forForward (through 1 0) 0) (through 1 0)).map fun r => routePort r.2 .c (pkDst (passing 1)) (pkFlow (passing 1))) = some none ∧
    ((takeRx 9 (forForward (through 1 0x10001) 0) (through 1 0x10001)).map fun r => routePort r.2 .c (pkDst (passing 1)) (pkFlow (passing 1))) =
      some (some 0) := by decide +kernel

/-- An active port 0 with a packet to send and its credits. -/
def sending0 : State := port0 fun x =>
  { inState .active 4 x with credits := vcFlits, txq := [(.inject, { hdr := header 1 1 9, pay := [7] })] }

theorem test_witness_flits_flow :
    ((takeRx 0 (isLink 1) (port0 (receiving (linkFlit 1 3)))).map fun r => r.1) = some (linkFlit 1 3) ∧
    (64 ≤ (getPort (port0 fun x => { inState .active 4 x with freed := .replicate 4 64 }) 0).freed[(3 : Fin 4)]) ∧
    receives (port0 fun x => { inState .active 4 x with sinceMarker := 16383 }) 0 = true ∧ (getPort sending0 0).state = .active ∧
    (getPort sending0 0).sinceMarker < 16383 ∧ (getPort sending0 0).nakDue = false ∧ (getPort sending0 0).resend = 0 ∧
    (getPort sending0 0).replay.length < 128 ∧ (fillFlits 10 { getPort sending0 0 with sinceMarker := 1 }).1 = [header 1 1 9, 7] ∧
    (getPort (port0 fun x => { inState .active 4 x with nakDue := true }) 0).nakDue = true ∧
    (let x := getPort (port0 fun x => { inState .active 4 x with replay := [sent1], resend := 1 }) 0
     x.nakDue = false ∧ x.resend ≠ 0 ∧ x.replay[x.replay.length - x.resend]? = some sent1) ∧
    (fillFlits 10 { getPort (port0 (inState .active 4)) 0 with sinceMarker := 1 }).1 = [] := by decide +kernel
/-- A packet that has reached port 4 from node 1: TYPE, FLOW, ADDR, TAG, BODY and payload, with the payload's CRC. -/
def fromNode1 (type addr tag body : Nat) (pay : List (BitVec 512)) : Packet :=
  { hdr := BitVec.ofNat 512 (type + pay.length * 2 ^ 6 + 2 ^ 32 + addr * 2 ^ 64 + tag * 2 ^ 112 + body * 2 ^ 256 +
      (if pay.isEmpty then 0 else (crc32c (pay.flatMap (bytesOf 64))).toNat) * 2 ^ 192)
    pay := pay }
/-- A state whose port 4 holds it. -/
def arrived (k : Packet) (s : State) : State :=
  { s with links := { s.links with ports := s.links.ports.set 4 (receiving k (inState .active 4 Port.reset)) } }
/-- The state once it is taken. -/
def taken (f : Packet → Bool) (s : State) : State := match takePacket 4 f s with | some r => r.2 | none => s
/-- Remote requests of node 1: a write of 32 bytes and a read. -/
def remoteWrite (a : Nat) : Packet := fromNode1 3 a 9 32 [7]
@[inherit_doc remoteWrite] def remoteRead (a : Nat) : Packet := fromNode1 4 a 9 32 []
/-- Where they arrive. -/
def serves0 (k : Packet) (s : State) : State := arrived k (linked s)

/-- What happens with such a request: taken from the port, in a state where its address is mapped, or is not. -/
def takenRemote (k : Packet) (t : Nat) (s : State) : Option (Packet × State) :=
  takePacket 4 (nextRemote (serves0 k s) 4 t) (serves0 k s)
@[inherit_doc takenRemote] def remoteTaken (k : Packet) (t : Nat) (s : State) : State := match takenRemote k t s with | some r => r.2 | none => s

theorem test_witness_remote_write : (∀ s ∈ [mapped running, running], pkCrcOk (remoteWrite 0x100) = true ∧
      (takenRemote (remoteWrite 0x100) 3 s).map (fun r => r.1) = some (remoteWrite 0x100)) ∧
    remoteCheck (remoteTaken (remoteWrite 0x100) 3 (mapped running)) (remoteWrite 0x100) true = .ok ∧
    remoteCheck (remoteTaken (remoteWrite 0x100) 3 running) (remoteWrite 0x100) true = .accessDenied ∧
    numbered (remoteTaken (remoteWrite 0x100) 3 (mapped running)).mem.nextId (remoteTaken (remoteWrite 0x100) 3 (mapped running)) = true ∧
    channelEntries (remoteTaken (remoteWrite 0x100) 3 (mapped running)) 0x100 = [] ∧
    pkSrc (remoteWrite 0x100) ≠ nodeId (remoteTaken (remoteWrite 0x100) 3 (mapped running)) ∧
    routePort (remoteTaken (remoteWrite 0x100) 3 (mapped running)) .inject (pkSrc (remoteWrite 0x100)) (pkFlow (remoteWrite 0x100)) =
      some 0 := by decide +kernel

theorem test_witness_remote_read : (∀ s ∈ [mapped running, running], pkCrcOk (remoteRead 0x100) = true ∧
      (takenRemote (remoteRead 0x100) 4 s).map (fun r => r.1) = some (remoteRead 0x100)) ∧
    remoteCheck (remoteTaken (remoteRead 0x100) 4 (mapped running)) (remoteRead 0x100) false = .ok ∧
    remoteCheck (remoteTaken (remoteRead 0x100) 4 running) (remoteRead 0x100) false = .accessDenied ∧
    numbered (remoteTaken (remoteRead 0x100) 4 (mapped running)).mem.nextId (remoteTaken (remoteRead 0x100) 4 (mapped running)) = true ∧
    channelEntries (remoteTaken (remoteRead 0x100) 4 (mapped running)) 0x100 = [] ∧
    meetsRecord (remoteTaken (remoteRead 0x100) 4 (mapped running)) 0x100 32 = false := by decide +kernel

/-- The channel entry of that read, which its controller serves next. -/
def entryRemote : ChanEntry :=
  { id := 3, pa := 0x100, len := 32, write := false, part := false, arrived := 0, taken := true, data := List.replicate 32 (0, false) }
/-- The request. -/
def reqRemote : MReq :=
  { id := 3, who := whoFront, write := false, tier := 1, pa := 0x100, node := 0, len := 32, data := [], act := some (.remote 1 0 9),
    state := .waiting }
/-- The state of both. -/
def remoteWaits : State :=
  let s := linked running
  { s with mem := { s.mem with requests := [reqRemote], stackCtl := { s.mem.stackCtl with queue := [entryRemote] } } }

theorem test_witness_remote_read_served : remoteWaits.clk.refclk = true ∧
    (∃ ch ∈ List.finRange 32, nextRequest remoteWaits (channelQueue remoteWaits (stackOf 0x100) ch) = some entryRemote) ∧
    findReq remoteWaits 3 = some reqRemote ∧ pkSrc (remoteRead 0x100) = 1 ∧ pkFlow (remoteRead 0x100) = 0 ∧ pkTag (remoteRead 0x100) = 9 ∧
    nodeId remoteWaits = 0 ∧ routePort remoteWaits .inject 1 0 = some 0 := by decide +kernel

/-- A Remote request of this module with TAG 9, outstanding at unit 1, and its answers. -/
def outstanding9 : RemoteReq := { tag := 9, req := 3, sentAt := 0 }
@[inherit_doc outstanding9] def remoteReq (w : Bool) : MReq :=
  { id := 3, who := whoFront, write := w, tier := 3, pa := 0, node := 1, len := 32, data := [], act := none, state := .sent }
@[inherit_doc outstanding9] def asked (w : Bool) : State :=
  { running with now := 1000000, mem := { running.mem with requests := [remoteReq w] }
                 links := { running.links with units := running.links.units.set 1 { queue := [], remote := [outstanding9], waiting := [], nextTag := 10 } } }
@[inherit_doc outstanding9] def answer9 (w : Bool) : Packet := if w then fromNode1 6 0 9 0 [] else fromNode1 5 0 9 0 [7]
@[inherit_doc outstanding9] def answered9 (w : Bool) : State := taken (fun k => pkType k == if w then 6 else 5) (arrived (answer9 w) (asked w))

theorem test_witness_remote_answers : ∀ w : Bool, pkCrcOk (answer9 w) = true ∧ ((answered9 w).links.units[(1 : Fin 4)]).waiting = [] ∧
    remoteByTag (answered9 w) (pkTag (answer9 w)) = some (1, outstanding9) ∧ findReq (answered9 w) 3 = some (remoteReq w) ∧
    (remoteReq w).act = none ∧ pkStatus (answer9 w) = 0 ∧ (remoteReq w).write = w ∧
    (takePacket 4 (fun k => pkType k == if w then 6 else 5) (arrived (answer9 w) (asked w))).map (fun r => r.1) = some (answer9 w) ∧
    ((asked w).links.units[(1 : Fin 4)]).remote[0]? = some outstanding9 ∧
    outstanding9.sentAt + 1000 * (asked w).links.remoteTimeoutUs.toNat ≤ (asked w).now := by decide +kernel
/-- A VERDICT message of node 1 for group 0 and step 5: VERDICT_UP, or VERDICT_DOWN. -/
def verdictFrom (down : Nat) : Packet :=
  { hdr := BitVec.ofNat 512 (2 + 2 ^ 32 + down * 2 ^ 184 + 5 * 2 ^ 224 + 0x40000000 * 2 ^ 256), pay := [] }
/-- The exchange of step 5. -/
def exchange5 (up : Bool) : Exchange := { step := 5, group := 0, own := some nothing, vote := false, dueAt := 0, upSent := up, done := false }
/-- Step 5, voted, in a group where this module has a rank, with exchanges. -/
def exchanging (rank : Nat) (xs : List Exchange) (now : Nat) : State :=
  let s := grouped [pair rank] (linked (stepIs fun p => { p with closedToWork := true, voteSent := true }))
  { s with now := now, links := { s.links with exchanges := xs } }
/-- Step 5, voted. -/
def voted : Step := { voter with voteSent := true }
/-- A message taken. -/
def heard (kind : Nat) (s : State) : State := taken (isVerdict kind) (arrived (verdictFrom kind) s)

theorem test_witness_verdict_up : pkCrcOk (verdictFrom 0) = true ∧
    (takePacket 4 (isVerdict 0) (arrived (verdictFrom 0) (exchanging 0 [] 0))).map (fun r => r.1) = some (verdictFrom 0) ∧
    findGroup (heard 0 (exchanging 0 [] 0)) (pkGroup (verdictFrom 0)) = some (pair 0) ∧ (pair 0).members.contains (pkSrc (verdictFrom 0)) = true ∧
    (heard 0 (exchanging 0 [] 0)).links.exchanges = [] ∧
    (let s1 := heard 0 (exchanging 0 [exchange5 false] 0)
     (takePacket 4 (isVerdict 0) (arrived (verdictFrom 0) (exchanging 0 [exchange5 false] 0))).map (fun r => r.1) = some (verdictFrom 0) ∧
     s1.links.exchanges = [exchange5 false] ∧ s1.links.msgs = [] ∧ (exchange5 false).group.toNat = pkGroup (verdictFrom 0) ∧
     (exchange5 false).step.toNat % 65536 = pkAux (verdictFrom 0) % 65536 ∧ findGroup s1 (pkGroup (verdictFrom 0)) = some (pair 0) ∧
     (pair 0).rank = 0 ∧ (pair 0).members = [nodeId s1, pkSrc (verdictFrom 0)] ∧ pkSrc (verdictFrom 0) ≠ nodeId s1 ∧
     routePort s1 .inject (pkSrc (verdictFrom 0)) 0 = some 0 ∧ findStep s1 5 = some voted ∧ voted.state = .stOpen ∧ voted.voteSent = true ∧
     (s1.host.cmds.filter fun k => !k.started) = [] ∧ Quiet s1 ∧ voted.earlies = []) := by unfold Quiet; decide +kernel

theorem test_witness_verdict_down : pkCrcOk (verdictFrom 1) = true ∧
    (takePacket 4 (isVerdict 1) (arrived (verdictFrom 1) (exchanging 1 [exchange5 true] 0))).map (fun r => r.1) = some (verdictFrom 1) ∧
    (let s1 := heard 1 (exchanging 1 [exchange5 true] 0)
     s1.links.exchanges = [exchange5 true] ∧ s1.links.msgs = [] ∧ (exchange5 true).group.toNat = pkGroup (verdictFrom 1) ∧
     (exchange5 true).step.toNat % 65536 = pkAux (verdictFrom 1) % 65536 ∧ findGroup s1 (pkGroup (verdictFrom 1)) = some (pair 1) ∧
     (pair 1).rank ≠ 0 ∧ treeChildren (pair 1).members.length (pair 1).rank = [] ∧ treeRoutable s1 (pair 1) = true ∧
     (pair 1).members.contains (pkSrc (verdictFrom 1)) = true ∧ findStep s1 5 = some voted ∧
     (s1.host.cmds.filter fun k => !k.started) = [] ∧ Quiet s1 ∧ voted.earlies = []) ∧
    ((exchanging 1 [exchange5 true] 2000000000).links.exchanges.find? fun x => x.step == 5 && !x.done) = some (exchange5 true) ∧
    findStep (exchanging 1 [exchange5 true] 2000000000) 5 = some voted ∧
    (exchange5 true).dueAt + 1000000 * (exchanging 1 [exchange5 true] 2000000000).links.collTimeoutMs.toNat ≤ 2000000000 := by
  unfold Quiet; decide +kernel

/-- A GROUP_SET of group 0 with nodes 0 and 1. -/
def groupSlot : Slot := slot 0x40 32 noStep (2 * 2 ^ 16 + 0x40000000 * 2 ^ 64 + 4 * 2 ^ 128)
/-- Its list in tile 0's memory. -/
def listed2 : State := updTile 0 (fun t => { t with mem := memWrite t.mem 0 (clean [0, 0, 1, 0]) }) (mapped running)

theorem test_witness_group_set : Passes groupSetCheck 0x40 0 groupSlot [0, 1] listed2 (groupSetCheck 0 groupSlot listed2).1 ∧
    mayBegin (groupSetCheck 0 groupSlot listed2).1 groupSlot (slotStep (groupSetCheck 0 groupSlot listed2).1 groupSlot) = true :=
  ⟨passes_of_now (by decide +kernel), by decide +kernel⟩

/-- Plan entries: 128 bytes from rank 1 to 0x1000 and 128 bytes to rank 1 from an address. -/
def recvEntry : Nat := 1 + 2 ^ 15 + 128 * 2 ^ 32 + 0x1000 * 2 ^ 64
@[inherit_doc recvEntry] def sendEntry (a : Nat) : Nat := 1 + 128 * 2 ^ 32 + a * 2 ^ 64
/-- A PERMUTE of two entries, staged at 0x3000. -/
def permuteSlot : Slot := slot 0x41 128 noStep (4 + 0x3000 * 2 ^ 192 + 256 * 2 ^ 288 + 0x40000000 * 2 ^ 416 + 2 * 2 ^ 480)
/-- A state of group 0. -/
def grouped0 : State := grouped [pair 0] (linked (mapped running))
/-- The plan in tile 0's memory. -/
def planned : State := updTile 0 (fun t => { t with mem := memWrite t.mem 0 (clean (leBytes 32 recvEntry ++ leBytes 32 (sendEntry 0x2000))) }) grouped0

theorem test_witness_collective :
    Passes collectiveCheck 0x41 0 permuteSlot [recvEntry, sendEntry 0x2000] planned (collectiveCheck 0 permuteSlot planned).1 ∧
    findGroup (collectiveCheck 0 permuteSlot planned).1 (kGroup permuteSlot.pay) = some (pair 0) :=
  ⟨passes_of_now (by decide +kernel), by decide +kernel⟩

/-- The PERMUTE as command 7, started or not, with the states of its entries. -/
def permute7 (run : Bool) (a : Nat) (st : RecvState) (pulled : Bool) : Coll :=
  { cmd := 7, slot := permuteSlot, group := 0, seq := 0, step := none, started := run, running := run, lastRx := 0, src := [], ins := []
    outs := [], plan := [{ planEntry recvEntry with state := st }, { planEntry (sendEntry a) with pulled := pulled }], norm := none
    scratch := false, result := none, written := false, writes := [], refetches := [], poison := none, audited := false, audits := [] }
/-- Its state. -/
def colls (c : Coll) : State :=
  let s := flying [cmd7 c.slot] grouped0
  { s with now := 2000000000, links := { s.links with units := s.links.units.set 0 { queue := [c], remote := [], waiting := [], nextTag := 0 } } }

/-- The descriptor before it starts, when its plan is done, and with its receive to start. -/
def idle7 : Coll := permute7 false 0x2000 .idle false
@[inherit_doc idle7] def done7 : Coll := permute7 true 0x2000 .done true
@[inherit_doc idle7] def run7 : Coll := permute7 true 0x2000 .idle false

theorem test_witness_collectives_run : ∀ x ∈ [idle7, done7, run7], ((colls x).links.units[(0 : Fin 4)]).queue[0]? = some x ∧
    findColl (colls x) 0 x.cmd = some x ∧ (cmd7 x.slot).id = x.cmd ∧ findCmd (colls x) 7 = some (cmd7 x.slot) ∧ (cmd7 x.slot).step = none ∧
    slotOpcode (cmd7 x.slot).slot = 0x41 ∧ x.step = none ∧ kOp x.slot.pay = 4 := by decide +kernel

theorem test_witness_collectives_start_end : idle7.started = false ∧ idle7.running = false ∧ bit idle7.slot.pay 19 = false ∧
    startable (colls idle7) 0 idle7 = true ∧ done7.started = true ∧ done7.running = true ∧ planDone done7.plan = true ∧
    kReplica done7.slot.pay = false ∧ run7.started = true ∧ waitsFor (colls run7) run7 = some 1 ∧
    run7.lastRx + 1000000 * (colls run7).links.collTimeoutMs.toNat ≤ (colls run7).now := by decide +kernel

theorem test_witness_coll_rests : CollRests idle7 ∧ CollRests done7 :=
  ⟨⟨rfl, rfl, rfl, rfl, by simp [idle7, permute7, planEntry]⟩, ⟨rfl, rfl, rfl, rfl, by simp [done7, permute7, planEntry]⟩⟩

theorem test_witness_receive_start : (run7.plan.filter inFlightRecv).length < 8 ∧
    (run7.plan.findSome? fun x => (startState run7.slot.pay run7.plan x).map fun st => (x, st)) = some (planEntry recvEntry, .direct) ∧
    (collNodes (colls run7) run7).getD (planEntry recvEntry).peer 0 = 1 ∧ 1 ≠ nodeId (colls run7) ∧
    routePort (colls run7) .inject 1 0 = some 0 := by decide +kernel

/-- The entry staged whole, and its range free. -/
def staged7 : Coll := permute7 true 0x1000 (.stagedFull 0) true

theorem test_witness_stage_copy : ((colls staged7).links.units[(0 : Fin 4)]).queue[0]? = some staged7 ∧
    (staged7.plan.findSome? fun e => match e.state with
        | .stagedFull h => if rangeFree staged7.plan e then some (e, h) else none | _ => none) =
      some ({ planEntry recvEntry with state := .stagedFull 0 }, 0) := by decide +kernel

/-- The PERMUTE whose send a PULL has asked for; one with data of its shard to be written; one that copies a staged shard, read or not. -/
def sending7 : Coll := { run7 with plan := [{ planEntry (sendEntry 0x2000) with asked := true }] }
@[inherit_doc sending7] def writing7 : Coll := { run7 with
  plan := [{ planEntry recvEntry with state := .direct }], writes := [{ peer := 1, shard := 0, off := 64, data := List.replicate 64 (3, false) }] }
@[inherit_doc sending7] def copying7 (d : Option Data) : Coll := { run7 with plan := [{ planEntry recvEntry with state := .copying 0 d }] }
/-- Its shard. -/
def shard128 : Data := List.replicate 128 (3, false)
/-- Their states, where access `key` of the descriptor has ended. -/
def worked (c : Coll) (part n : Nat) (w : Bool) (a len : Nat) (d : Data) : State :=
  accessed 100 (whoUnit 0) (shardKey c part n) w a len .ok d (colls c)
/-- A descriptor is there, and its one entry `e` is found. -/
def oneEntry (c : Coll) (s : State) (e : PlanEntry) : Prop :=
  (s.links.units[(0 : Fin 4)]).queue[0]? = some c ∧ findColl s 0 c.cmd = some c ∧ c.started = true ∧ c.running = true ∧ kOp c.slot.pay = 4 ∧
    c.refetches = [] ∧ c.audits = [] ∧ c.plan = [e] ∧ (collNodes s c).getD e.peer 0 = 1 ∧ nodeId s = 0
/-- An access of a descriptor. -/
def accessOf (c : Coll) (part n : Nat) (op : IoOp) (s : State) : State × IoRes := ioMany .own (whoUnit 0) (shardKey c part n) [op.own] s
/-- The write of data of the shard. -/
def writing64 (s : State) : State × IoRes :=
  accessOf writing7 5 (shardNum true 1 0 + 2 ^ 40 * 64) (ioWrite 0x1040 (List.replicate 64 (3, false))) s
/-- A state where the channels of 0x1000 hold all the requests they can. -/
def fullChannels (s : State) : State :=
  let e (pa : Nat) : ChanEntry := { id := 99, pa := pa, len := 64, write := false, part := false, arrived := 0, taken := true, data := [] }
  { s with mem := { s.mem with stackCtl := { s.mem.stackCtl with queue := List.replicate 64 (e 0x1000) ++ List.replicate 64 (e 0x1040) } } }
/-- The states of the four. -/
def sendAt : State := worked sending7 4 (shardNum false 1 0) false 0x2000 128 shard128
@[inherit_doc sendAt] def writeAt : State := worked writing7 5 (shardNum true 1 0 + 2 ^ 40 * 64) true 0x1040 64 []
@[inherit_doc sendAt] def copiedAt : State := worked (copying7 (some shard128)) 7 (shardNum true 1 0) true 0x1000 128 []
@[inherit_doc sendAt] def copyAt : State := fullChannels (worked (copying7 none) 6 (shardNum true 1 0) false 0x3000 128 shard128)
/-- The copy once its half is read. -/
def copyHeld : State := updPlan 0 7 true 1 0 (fun e => { e with state := .copying 0 (some shard128) })
  (accessOf (copying7 none) 6 (shardNum true 1 0) (ioRead 0x3000 128) copyAt).1

theorem test_witness_permute_send : oneEntry sending7 sendAt { planEntry (sendEntry 0x2000) with asked := true } ∧ sending7.writes = [] ∧
    (accessOf sending7 4 (shardNum false 1 0) (ioRead 0x2000 128) sendAt).2 = .done [shard128] := by unfold oneEntry; decide +kernel

theorem test_witness_permute_write : oneEntry writing7 writeAt { planEntry recvEntry with state := .direct } ∧
    recvAt writing7.slot.pay { planEntry recvEntry with state := .direct } = some 0x1000 ∧ (writing64 writeAt).2 = .done [[]] := by
  unfold oneEntry; decide +kernel

theorem test_witness_permute_copied :
    oneEntry (copying7 (some shard128)) copiedAt { planEntry recvEntry with state := .copying 0 (some shard128) } ∧
    (accessOf (copying7 (some shard128)) 7 (shardNum true 1 0) (ioWrite 0x1000 shard128) copiedAt).2 = .done [[]] := by
  unfold oneEntry; decide +kernel

theorem test_witness_permute_copies : oneEntry (copying7 none) copyAt { planEntry recvEntry with state := .copying 0 none } ∧
    stagingHalf permuteSlot.pay 0 = (0x3000, 128) ∧
    (accessOf (copying7 none) 6 (shardNum true 1 0) (ioRead 0x3000 128) copyAt).2 = .done [shard128] ∧
    (accessOf (copying7 none) 7 (shardNum true 1 0) (ioWrite 0x1000 shard128) copyHeld).2 = .wait := by unfold oneEntry; decide +kernel

set_option maxRecDepth 1000000 in
set_option exponentiation.threshold 4000 in
theorem test_witness_permute_links : (accessOf sending7 4 (shardNum false 1 0) (ioRead 0x2000 128) sendAt).1.links = sendAt.links ∧
    (writing64 writeAt).1.links = writeAt.links ∧
    (accessOf (copying7 (some shard128)) 7 (shardNum true 1 0) (ioWrite 0x1000 shard128) copiedAt).1.links = copiedAt.links ∧
    (accessOf (copying7 none) 6 (shardNum true 1 0) (ioRead 0x3000 128) copyAt).1.links = copyAt.links ∧
    (accessOf (copying7 none) 7 (shardNum true 1 0) (ioWrite 0x1000 shard128) copyHeld).1.links = copyHeld.links :=
  ⟨by rfl, by rfl, by rfl, by rfl, by rfl⟩

theorem test_witness_permute_route (f : Nat) : ∀ c ∈ [sending7, writing7, copying7 (some shard128), copying7 none], ∀ part n w a len d,
    routePort (worked c part n w a len d) .inject 1 f = some 0 ∧ routePort (fullChannels (worked c part n w a len d)) .inject 1 f = some 0 := by
  intro c hc part n w a len d
  have h : popcount 16 ((fld (routeEntry (colls c) .inject 1) 15 0) &&& activePorts (colls c)) = 1 ∧
      bit (routeEntry (colls c) .inject 1) 16 = true ∧ routePort (colls c) .inject 1 0 = some 0 := by
    revert hc; revert c; decide +kernel
  have g := h.2.2
  suffices k : routePort (colls c) .inject 1 f = some 0 from ⟨k, k⟩
  simp only [routePort, h.2.1, if_true, h.1, Nat.mod_one] at g ⊢
  exact g

/-- A shard not yet audited. -/
def unaudited (owner : Nat) : AuditShard := { owner := owner, ok := none, tries := 0, reports := [], closed := false }
/-- An audited ALL_GATHER of 64 bytes a member, whose hash of rank 1's block did not match it yet. -/
def gather7 : Coll :=
  { permute7 true 0x2000 .idle false with
    slot := slot 0x41 128 noStep (2 + 64 * 2 ^ 64 + 0x3000 * 2 ^ 192 + 64 * 2 ^ 256 + 128 * 2 ^ 288 + 0x3F800000 * 2 ^ 320 + 0x3F800000 * 2 ^ 352)
    plan := [], audited := true, audits := [unaudited 1, unaudited 0]
    ins := [{ rank := 1, parts := [{ off := 0, data := clean (List.replicate 128 0), stamp := 1 }] }] }

theorem test_witness_replica_hash_check : (collNodes (colls gather7) gather7).getD 1 0 = 1 ∧ nodeId (colls gather7) = 0 ∧
    routePort (colls gather7) .inject 1 0 = some 0 ∧ ((colls gather7).links.units[(0 : Fin 4)]).queue[0]? = some gather7 ∧ findColl (colls gather7) 0 7 = some gather7 ∧
    (gather7.audits.find? fun a => a.owner == 1 && a.ok.isNone) = some (unaudited 1) ∧
    gBlock (viewOf (colls gather7) gather7) none 1 = some (clean (List.replicate 64 0)) ∧
    gHash (viewOf (colls gather7) gather7) none 1 = some (clean (List.replicate 32 0)) ∧
    (unaudited 1).tries < (colls gather7).rows.obj.refetchLimit.toNat := by decide +kernel

theorem test_witness_hash_differs : sha256 (dataBytes (clean (List.replicate 64 0))) ≠ dataBytes (clean (List.replicate 32 0)) := by decide +kernel
/-- A COLL_CTRL packet of node 1 to the descriptor. -/
def ctrl (kind body : Nat) (pay : List (BitVec 512)) : Packet :=
  let k := fromNode1 2 0 0 body pay
  { k with hdr := BitVec.ofNat 512 (k.hdr.toNat + kind * 2 ^ 184) }
/-- The state after a packet for a descriptor is taken. -/
def member (type kind : Nat) (k : Packet) (c : Coll) : State := taken (takeable (arrived k (colls c)) type kind) (arrived k (colls c))
/-- The premises that all packets of a descriptor share. -/
def reaches (type kind : Nat) (k : Packet) (c : Coll) : Prop :=
  pkCrcOk k = true ∧ addressee (member type kind k c) k = .coll 0 c 1 ∧ findColl (member type kind k c) 0 7 = some c ∧
    findCmd (member type kind k c) 7 = some (cmd7 c.slot) ∧ c.step = none ∧ kReplica c.slot.pay = false ∧
    (takePacket 4 (takeable (arrived k (colls c)) type kind) (arrived k (colls c))).map (fun r => r.1) = some k
/-- The PERMUTE receiving directly. -/
def direct7 : Coll := permute7 true 0x2000 .direct false
/-- Its data, from an offset on. -/
def coll1 (off : Nat) : Packet := fromNode1 1 off 0 0 [7]

theorem test_witness_coll_data_first : reaches 1 0 (coll1 0) direct7 ∧ pkAddr (coll1 0) = 0 ∧ pkAux (coll1 0) ≠ collDigest direct7.slot.pay ∧
    slotOpcode (cmd7 direct7.slot).slot = 0x41 ∧ (cmd7 direct7.slot).step = none := by unfold reaches; decide +kernel

/-- The PERMUTE with a longer shard. -/
def long7 : Coll := { direct7 with plan := direct7.plan.map fun e => { e with bytes := 192 } }

theorem test_witness_coll_data_more : reaches 1 0 (coll1 64) gather7 ∧ kOp gather7.slot.pay ≠ 4 ∧ reaches 1 0 (coll1 64) long7 ∧
    kOp long7.slot.pay = 4 ∧ pkAddr (coll1 64) % 2 ^ 32 ≠ 0 ∧
    (long7.plan.find? fun e => e.recv && e.peer == 1 && e.shard == pkAddr (coll1 64) / 2 ^ 32) =
      some { planEntry recvEntry with state := .direct, bytes := 192 } ∧
    recvAt long7.slot.pay { planEntry recvEntry with state := .direct, bytes := 192 } = some 0x1000 ∧
    64 * (coll1 64).pay.length ≤ 192 - 64 := by unfold reaches; decide +kernel

theorem test_witness_abort_pull : reaches 2 3 (ctrl 3 0 []) direct7 ∧
    slotOpcode (cmd7 direct7.slot).slot = 0x41 ∧ (cmd7 direct7.slot).step = none ∧ (∀ n ∈ [0, 64, 128],
      reaches 2 2 (ctrl 2 (n * 2 ^ 32) []) direct7 ∧
      (takePacket 4 (pullable (arrived (ctrl 2 (n * 2 ^ 32) []) (colls direct7))) (arrived (ctrl 2 (n * 2 ^ 32) []) (colls direct7))).map
        (fun r => r.1) = some (ctrl 2 (n * 2 ^ 32) []) ∧ pkBody (ctrl 2 (n * 2 ^ 32) []) 319 288 = n) ∧
    (direct7.plan.find? fun e => !e.recv && e.peer == 1 && e.shard == 0) = some (planEntry (sendEntry 0x2000)) ∧
    64 ≠ (planEntry (sendEntry 0x2000)).bytes ∧ 128 = (planEntry (sendEntry 0x2000)).bytes := by unfold reaches; decide +kernel

theorem test_witness_audit_refetch : reaches 2 5 (ctrl 5 0 [0]) gather7 ∧ ∀ b : Bool,
    reaches 2 4 (ctrl 4 0 [if b then 2 ^ 17 else 0]) gather7 ∧
      (leNat (slice (pkBytes (ctrl 4 0 [if b then 2 ^ 17 else 0])) 0 4) / 2 ^ 17 % 2 = 1 ↔ b = true) := by unfold reaches; decide +kernel

/-- The ALL_GATHER, which has written its destination, asked to send its shard again to rank 1, for the first try, once the source is read. -/
def asked7 : Coll :=
  { gather7 with outs := [{ rank := 1, sent := 2 }], result := some [], written := true, refetches := [(1, 1)] }
@[inherit_doc asked7] def refetching : State :=
  worked asked7 3 (1 * 2 ^ 16 + 1) false (kSrc asked7.slot.pay) 64 (clean (List.replicate 64 0))

theorem test_witness_refetch_served : addressee refetching (ctrl 5 0 [0]) = .coll 0 asked7 1 ∧ pkCrcOk (ctrl 5 0 [0]) = true ∧
    findColl refetching 0 7 = some asked7 ∧ findCmd refetching 7 = some (cmd7 asked7.slot) ∧ (refetching.links.units[(0 : Fin 4)]).queue[0]? = some asked7 ∧
    asked7.plan = [] ∧ asked7.writes = [] ∧ kReplica asked7.slot.pay = false ∧
    (∀ a ∈ asked7.audits, a.owner = collRank refetching asked7 → ∃ q < (collNodes refetching asked7).length, q ≠ collRank refetching asked7 ∧ q ∉ a.reports) ∧
    (accessOf asked7 3 (1 * 2 ^ 16 + 1) (ioRead (kSrc asked7.slot.pay) (sourceBytes refetching asked7)) refetching).2 =
      .done [clean (List.replicate 64 0)] ∧
    (collNodes refetching asked7).getD 1 0 = 1 ∧ 1 ≠ nodeId refetching := by decide +kernel

set_option maxRecDepth 1000000 in
set_option exponentiation.threshold 4000 in
theorem test_witness_refetch_rests : collProgress 0 7 refetching = refetching ∧ (accessOf asked7 3 (1 * 2 ^ 16 + 1)
    (ioRead (kSrc asked7.slot.pay) (sourceBytes refetching asked7)) refetching).1.links = refetching.links := ⟨by rfl, by rfl⟩

theorem test_witness_refetch_route (f : Nat) : routePort refetching .inject 1 f = some 0 := by
  have h : popcount 16 ((fld (routeEntry refetching .inject 1) 15 0) &&& activePorts refetching) = 1 ∧
      bit (routeEntry refetching .inject 1) 16 = true ∧ routePort refetching .inject 1 0 = some 0 := by decide +kernel
  have g := h.2.2
  simp only [routePort, h.2.1, if_true, h.1, Nat.mod_one] at g ⊢
  exact g
/-- A STEP_BEGIN of step 5 under profile 1, which is not the one in use. -/
def otherProfile : Slot := slot 1 24 (5 * 2 ^ 32) (5 + 2 ^ 64)

theorem test_witness_step_admission : (∀ c ∈ [beginSlot, otherProfile], reachesHead running 0 0x01 c = true ∧ stepTagWrong c = false ∧
      stepBeginMalformed c = false) ∧ running.rows.obj.restoreRequired = false ∧ running.train.steps = [] ∧
    running.train.lastCommitted.toNat < fld beginSlot.pay 63 0 ∧ fld beginSlot.pay 71 64 = running.train.profile.toNat ∧
    fld otherProfile.pay 71 64 ≠ running.train.profile.toNat ∧ slotStep running otherProfile = none := by decide +kernel

/-- A NOP. -/
def nopSlot : Slot := slot 0 0 noStep 0
/-- Command 7, a NOP with the same TAG, in flight. -/
def tagged : State := flying [cmd7 nopSlot] running

theorem test_witness_tag_in_use : headFree tagged 0 = true ∧ mayAdmit tagged 0 = true ∧ ((tagged.host.sqs[(0 : Fin 64)])).fence = none ∧
    (opcodeSize (slotOpcode nopSlot) (slotBytes nopSlot)).isSome = true ∧ bit nopSlot.hdr 28 = false ∧ inFlight tagged < 4096 ∧
    tagInUse tagged 0 (slotTag nopSlot) = true ∧ slotStep tagged nopSlot = none := by decide +kernel

/-- A front end in a device state, with PERST_N asserted or not. -/
def hostIs (d : DevState) (f : HostIf → HostIf) : State := { running with host := f { running.host with dev := d } }

theorem test_witness_front_end_resets : (∀ k : Fin 16, (running.host.engines[k]).queue = [] ∧ (running.host.engines[k]).slots = [] ∧
      (running.host.engines[k]).waiting = []) ∧ running.train.steps = [] ∧ running.host.pcie.perst = false ∧
    running.host.dev ≠ .off ∧ (∀ e : Fin 16, (getEng running e).drains = []) ∧ (hostIs .off id).host.dev = .off ∧
    (hostIs .running fun h => { h with pcie := { h.pcie with perst := true } }).host.pcie.perst = true ∧ running.host.dev = .running ∧
    running.host.heldDue = false ∧
    (let t : State := { hostIs .running (fun h => { h with watchdogMs := 1 }) with now := 1000000 }
     t.host.watchdogMs ≠ 0 ∧ t.host.lastBeat + 1000000 * t.host.watchdogMs.toNat ≤ t.now) ∧
    opened.train.steps = [step5] ∧ step5.state = .stOpen ∧ opened.host.dev = .running ∧
    (hostIs .running fun h => { h with heldDue := true }).host.heldDue = true ∧
    (hostIs .running fun h => { h with heldDue := true }).train.steps.all restsForHeld = true := by decide +kernel

/-- A CQ that is enabled. -/
def cqOn (x : CQueue) : State := hostIs .running fun h => { h with cqs := h.cqs.set 0 { x with enable := true, sizeLog2 := 4 } }

theorem test_witness_queues_configured : bar0Open running = true ∧ ((running.host.sqs[(1 : Fin 64)])).enable = false ∧
    ((running.host.sqs[(0 : Fin 64)])).enable = true ∧ ((running.host.cqs[(0 : Fin 64)])).enable = false ∧
    (((cqOn .reset).host.cqs[(0 : Fin 64)])).enable = true ∧ (15 : Nat) < queueSize ((running.host.sqs[(0 : Fin 64)])).sizeLog2 ∧
    queueSize ((running.host.sqs[(0 : Fin 64)])).sizeLog2 ≤ 16 ∧ (15 : Nat) < queueSize (((cqOn .reset).host.cqs[(0 : Fin 64)])).sizeLog2 ∧
    queueSize (((cqOn .reset).host.cqs[(0 : Fin 64)])).sizeLog2 ≤ 16 := by decide +kernel

/-- Queue 0 fenced. -/
def fencedQueue : State := hostIs .running fun h => { h with sqs := h.sqs.set 0 { running.host.sqs[(0 : Fin 64)] with fence := some 9 } }
/-- A slot that waits at the head. -/
def waitingSlot : State := hostIs .running fun h => { h with sqs := h.sqs.set 0 { running.host.sqs[(0 : Fin 64)] with waiting := some nopSlot } }

theorem test_witness_slots_admitted : (∀ c ∈ [nopSlot, slot 0xFF 0 noStep 0, slot 0 24 noStep 0, slot 0 0 (noStep + 2 ^ 28) 0],
      slotStep running c = none ∧ slotNoStep c = true) ∧ (∀ s ∈ [running, fencedQueue, waitingSlot], slotStep s nopSlot = none ∧
      findCmd s s.host.nextCmd = none) ∧ mayAdmit running 0 = true ∧ mayAdmit fencedQueue 0 = true ∧ mayRetry waitingSlot 0 = true ∧
    (waitingSlot.host.sqs[(0 : Fin 64)]).waiting = some nopSlot ∧ (waitingSlot.host.sqs[(0 : Fin 64)]).enable = true ∧
    waitingSlot.host.dev = .running := by decide +kernel

/-- A completion of a NOP. -/
def completed : Completion := { sq := 0, tag := 0, opcode := 0, status := .ok, detail := 0, user := 0, admitted := true }

/-- It is due, in HELD, in a release, and in RUNNING under an interrupt count. -/
def dueHeld : State := hostIs .held fun h => { h with done := [completed] }
@[inherit_doc dueHeld] def dueRelease : State :=
  hostIs .draining fun h => { h with done := [completed], session := { h.session with op := some .release } }
@[inherit_doc dueHeld] def dueRunning (n : BitVec 16) : State :=
  let t := cqOn { CQueue.reset with irqCount := n }
  { t with host := { t.host with done := [completed] } }
/-- A CQ whose interrupt delay has passed. -/
def delayed : State := { cqOn { CQueue.reset with irqCount := 2, irqDelay := 1, news := 1 } with now := 1000 }

theorem test_witness_records_kept : holdsRecords dueHeld = true ∧ dueHeld.host.done = completed :: [] ∧ dueHeld.host.dev ≠ .ready ∧
    holdsRecords dueRelease = false ∧ dropsRecords dueRelease = true ∧ dueRelease.host.done = completed :: [] := by decide +kernel

theorem test_witness_records_written : holdsRecords (dueRunning 0) = false ∧ dropsRecords (dueRunning 0) = false ∧
    (dueRunning 0).host.dev ≠ .ready ∧ writable (dueRunning 0) = some completed ∧ holdsRecords (dueRunning 1) = false ∧
    dropsRecords (dueRunning 1) = false ∧ (dueRunning 1).host.dev ≠ .ready ∧ writable (dueRunning 1) = some completed := by decide +kernel

theorem test_witness_cq_irq_delay : (delayed.host.cqs[(0 : Fin 64)]).irqCount ≠ 0 ∧ (delayed.host.cqs[(0 : Fin 64)]).irqDelay ≠ 0 ∧ (delayed.host.cqs[(0 : Fin 64)]).news ≠ 0 ∧
    (delayed.host.cqs[(0 : Fin 64)]).oldest + 1000 * (delayed.host.cqs[(0 : Fin 64)]).irqDelay.toNat ≤ delayed.now := by decide +kernel

/-- BAR2 open onto a base in units of 1 GiB. -/
def bar2On (base : BitVec 18) : State :=
  let s := mapped running
  { s with host := { s.host with bar0 := { s.host.bar0 with bar2Enable := true, bar2Base := base } } }

/-- BAR2 onto the far tier's first segment. -/
def bar2Far : State :=
  let s := bar2On 0x4000
  { s with boot := { s.boot with windows := [BitVec.ofNat 256 (0xFF + 0x7FFF * 2 ^ 24 + 2 ^ 45 * 2 ^ 128)] }
           mem := { s.mem with farMap := s.mem.farMap.set 0 (3 + 0x1000 * 2 ^ 64) } }

theorem test_witness_regions : running.host.session.reading = none ∧ running.host.dev = .running ∧ (64 : BitVec 64) ≠ 0 ∧
    (64 : BitVec 64).toNat % 64 = 0 ∧ (∀ d ∈ [DevState.running, .held],
      (hostIs d fun h => { h with session := { h.session with reading := some 3 } }).host.session.reading = some 3) := by decide +kernel

theorem test_witness_bar2 : functionAnswers (hostIs .off id) = false ∧ (∀ s ∈ [running, bar2On 0, bar2Far], functionAnswers s = true) ∧
    bar2Denied running .bar2R 0 4 false = true ∧ bar2Denied (bar2On 0) .bar2R 0 4 false = false ∧
    place (bar2Addr (bar2On 0) 0) = .stack (bar2Addr (bar2On 0) 0) ∧ bar2Addr (bar2On 0) 0 % 2048 + 4 ≤ 2048 ∧
    meetsRecord (bar2On 0) (bar2Addr (bar2On 0) 0) 4 = false ∧ channelEntries (bar2On 0) (bar2Addr (bar2On 0) 0) = [] ∧
    bar2Denied running .bar2W 0 [1, 2].length true = true ∧ bar2Denied (bar2On 0) .bar2W 0 [1, 2].length true = false ∧
    bar2Denied bar2Far .bar2W 0 [1, 2].length true = false ∧ place (bar2Addr bar2Far 0) = .far 0x100000000000 ∧
    hostReachable bar2Far = true ∧ (bar2Addr bar2Far 0) % 2048 + 2 ≤ 2048 ∧
    ∀ s ∈ [bar2On 0, bar2Far], numbered s.mem.nextId s = true := by decide +kernel

/-- A read of BAR2 that its channel serves next. -/
def bar2Request : MReq :=
  { id := 3, who := whoFront, write := false, tier := 1, pa := 0x100, node := 0, len := 32, data := [], act := some (.bar2 2 1), state := .waiting }
@[inherit_doc bar2Request] def bar2Waits : State :=
  { running with mem := { running.mem with requests := [bar2Request], stackCtl := { running.mem.stackCtl with queue := [entryRemote] } } }

theorem test_witness_bar2_served : bar2Waits.clk.refclk = true ∧
    (∃ ch ∈ List.finRange 32, nextRequest bar2Waits (channelQueue bar2Waits (stackOf 0x100) ch) = some entryRemote) ∧
    findReq bar2Waits 3 = some bar2Request ∧ bar2Pieces bar2Waits 2 1 = [bar2Request] := by decide +kernel
/-- A device in READY with or without a session area, and in RUNNING. -/
def readyState (area : BitVec 64) : State := hostIs .ready fun h => { h with sessionArea := area }

theorem test_witness_sessions_begin : sessionFree (readyState 0x1000) = true ∧ (readyState 0x1000).host.dev = .ready ∧
    (readyState 0x1000).host.sessionArea ≠ 0 ∧ sessionFree (readyState 0) = true ∧ (readyState 0).host.sessionArea = 0 ∧
    sessionFree running = true ∧ running.host.dev = .running ∧ running.host.heldDue = false ∧ running.train.steps = [] ∧
    sessionFree opened = true ∧ opened.train.steps ≠ [] := by decide +kernel

/-- A device in HELD with a completion held. -/
def heldState : State := hostIs .held fun h => { h with session := { h.session with live := true, held := [completed] } }

theorem test_witness_session_resume : sessionFree heldState = true ∧ heldState.host.dev = .held ∧
    Quiet heldState ∧ committing running = false := by unfold Quiet; decide +kernel

/-- A device in DRAINING with a session operation. -/
def draining (o : Option SessOp) : State := hostIs .draining fun h => { h with session := { h.session with op := o } }
/-- 100 ms later. -/
def reinitOver : State := { draining (some (.reinit 0 false)) with now := 100000000 }

theorem test_witness_sessions_end : reinitOver.host.session.op = some (.reinit 0 false) ∧ 0 + 100000000 ≤ reinitOver.now ∧
    running.host.dev ≠ .off ∧ (draining none).host.dev = .draining ∧ (draining none).host.session.op = none ∧ (draining none).host.cmds = [] ∧
    (draining none).host.done = [] ∧ (∀ q : Fin 64, ((draining none).host.sqs[q]).waiting = none) := by decide +kernel

theorem test_witness_drain_end : (draining (some .release)).host.session.op = some .release ∧ unitsQuiet (draining (some .release)) = true ∧
    (draining (some (.reinit 0 false))).host.session.op = some (.reinit 0 false) ∧ unitsQuiet (draining (some (.reinit 0 false))) = true ∧
    owesRecords (draining (some (.reinit 0 false))) = false ∧ (draining (some (.reinit 0 false))).host.heldDue = false := by decide +kernel

theorem test_witness_nop : Passes nopRule.check 0x00 0 nopSlot [] running running ∧ mayBegin running nopSlot (slotStep running nopSlot) = true :=
  ⟨passes_of_same (by decide +kernel) rfl, by decide +kernel⟩

/-- A COPY of two rows of 64 bytes on an engine, inbound or outbound. -/
def copySlot (out : Nat) : Slot :=
  slot 0x18 64 noStep (out * 2 ^ 3 + 2 * 2 ^ 32 + 0x10000 * 2 ^ 64 + 0x20000 * 2 ^ 128 + 64 * 2 ^ 192 + 64 * 2 ^ 224 + 64 * 2 ^ 256 + 128 * 2 ^ 288 +
    128 * 2 ^ 352)

theorem test_witness_copy : Passes copyCheck 0x18 0 (copySlot 0) [] (mapped running) (mapped running) :=
  passes_of_same (by decide +kernel) rfl

/-- An INLINE_WRITE of 32 bytes at an address. -/
def inlineSlot (a : Nat) : Slot := { slot 0x19 32 noStep 7 with hdr := (slot 0x19 32 (noStep + a * 2 ^ 128) 7).hdr }
/-- A state where the channel of 0x20000 holds all the requests it can. -/
def fullChannel (s : State) : State :=
  let e : ChanEntry := { id := 99, pa := 0x20000, len := 64, write := false, part := false, arrived := 0, taken := true, data := [] }
  { s with mem := { s.mem with nextId := 100, stackCtl := { s.mem.stackCtl with queue := List.replicate 64 e } } }

/-- A state once the checks of the command are made. -/
def checkedAt (a : Nat) (s : State) : State := (inlineCheck 0 (inlineSlot a) s).1

theorem test_witness_inline_passes :
    Passes inlineCheck 0x19 0 (inlineSlot 0x20000) [0x20000] (mapped running) (checkedAt 0x20000 (mapped running)) ∧
    Passes inlineCheck 0x19 0 (inlineSlot 0x40000000) [0x10000000000] (mapped running) (checkedAt 0x40000000 (mapped running)) ∧
    Passes inlineCheck 0x19 0 (inlineSlot 0x20000) [0x20000] (fullChannel (mapped running)) (checkedAt 0x20000 (fullChannel (mapped running))) :=
  ⟨passes_of_now (by decide +kernel), passes_of_now (by decide +kernel), passes_of_now (by decide +kernel)⟩

theorem test_witness_inline_write : (∀ x ∈ [(0x20000, mapped running, 0x20000), (0x40000000, mapped running, 0x10000000000),
      (0x20000, fullChannel (mapped running), 0x20000)], ∀ s, s = checkedAt x.1 x.2.1 →
      mayBegin s (inlineSlot x.1) (slotStep s (inlineSlot x.1)) = true ∧ numbered s.mem.nextId s = true ∧ slotBytes (inlineSlot x.1) = 32 ∧
      ioBusy s whoFront (opKey kCmd (4 * s.host.nextCmd)) = false ∧ accessFails s .cmd x.2.2 32 true = none) ∧
    place 0x20000 = .stack 0x20000 ∧ place 0x10000000000 = .tileMem 0 0 ∧ channelEntries (checkedAt 0x20000 (mapped running)) 0x20000 = [] ∧
    (channelEntries (checkedAt 0x20000 (fullChannel (mapped running))) 0x20000).length = 64 ∧
    ∀ x ∈ channelEntries (checkedAt 0x20000 (fullChannel (mapped running))) 0x20000, x.taken = true := by
  simp only [forall_eq]
  decide +kernel

/-- The COPY as command 7 at its engine: what it has issued, and the requests in slots. -/
def copy7 (row : Nat) (done : Bool) : CopyRun :=
  { cmd := 7, row := row, off := 0, issued := done, xlated := [], acks := [], moved := 64, stop := none, poison := none }
@[inherit_doc copy7] def copiesIn (s : State) (k : Fin 16) (out : Nat) (r : CopyRun) (slots : List CopySlot) : State :=
  let s := flying [cmd7 (copySlot out)] s
  { s with host := { s.host with engines := s.host.engines.set k { queue := [r], slots := slots, waiting := [], farTurn := false } } }
@[inherit_doc copy7] def copies7 : Fin 16 → Nat → CopyRun → List CopySlot → State := copiesIn (mapped running)
/-- Memory mapped for nobody. -/
def closedMemory : State := { mapped running with boot := { (mapped running).boot with windows := [] } }
/-- Its second request translated. -/
def translated (k : Fin 16) (out : Nat) (s : State) : State × List (Nat × Nat) × IoRes :=
  copyXlate k (out == 0) 7 [(0x20040, 64)] [] (startCmd 7 (copiesIn s k out (copy7 1 false) []))

theorem test_witness_copy_request_issue : (∀ s ∈ [mapped running, running, closedMemory], ∀ x ∈ [((0 : Fin 16), 0), (8, 1)],
      copyNext (copiesIn s x.1 x.2 (copy7 1 false) []) ((copiesIn s x.1 x.2 (copy7 1 false) []).host.engines[x.1]) =
        some (copy7 1 false, cmd7 (copySlot x.2)) ∧ hostReachable (copiesIn s x.1 x.2 (copy7 1 false) []) = true ∧
      findCmd (copiesIn s x.1 x.2 (copy7 1 false) []) 7 = some (cmd7 (copySlot x.2))) ∧
    cpOut (copySlot 0).pay = false ∧ cpOut (copySlot 1).pay = true ∧ (∀ out ∈ [0, 1], cpDva (copySlot out).pay + cpDvaStride (copySlot out).pay = 0x20040 ∧
      pieces 0x20040 64 = [(0x20040, 64)] ∧ cpRowBytes (copySlot out).pay = 64) := by decide +kernel

theorem test_witness_copy_translates : ∀ x ∈ [((0 : Fin 16), 0), (8, 1)], (translated x.1 x.2 (mapped running)).2 = ([(0x20040, 64)], .done []) ∧
    (translated x.1 x.2 running).2 = ([], .wait) ∧ (translated x.1 x.2 closedMemory).2 = ([], .fail .accessDenied) := by decide +kernel

set_option maxRecDepth 1000000 in
set_option exponentiation.threshold 4000 in
theorem test_witness_copy_host :
    (translated 0 0 (mapped running)).1.host = (startCmd 7 (copies7 0 0 (copy7 1 false) [])).host ∧
    (translated 8 1 (mapped running)).1.host = (startCmd 7 (copies7 8 1 (copy7 1 false) [])).host ∧
    (translated 0 0 closedMemory).1.host = (startCmd 7 (copiesIn closedMemory 0 0 (copy7 1 false) [])).host ∧
    (translated 8 1 closedMemory).1.host = (startCmd 7 (copiesIn closedMemory 8 1 (copy7 1 false) [])).host ∧
    (copyPost 8 false [(0x20040, 64)] [] (translated 8 1 (mapped running)).1).1.host = (translated 8 1 (mapped running)).1.host :=
  ⟨by rfl, by rfl, by rfl, by rfl, by rfl⟩

/-- One request of it, which for an outbound COPY has read its device side as request 100, or still reads. -/
def request64 (reqs : List Nat) : CopySlot := .copy 7 1 64 0x10040 [(0x20040, 64)] reqs 0
@[inherit_doc request64] def read64 (st : ReqState) (s : State) : State :=
  { s with mem := { s.mem with requests := [{
      id := 100, who := whoCopy 8, write := false, tier := 1, pa := 0x20040, node := 0, len := 64, data := [], act := none, state := st }] } }

/-- The last request, and the same with another in a slot. -/
def lastCopy (k : Fin 16) (out : Nat) (st : ReqState) : State :=
  read64 st (copies7 k out (copy7 2 true) [request64 (if out = 0 then [] else [100])])
@[inherit_doc lastCopy] def oneOfTwo (k : Fin 16) (out : Nat) (st : ReqState) : State :=
  read64 st (copies7 k out (copy7 2 true) [request64 (if out = 0 then [] else [100]), request64 []])

theorem test_witness_copies_end : (∀ st ∈ [ReqState.ended .ok (List.replicate 64 (0, false)), .waiting], ∀ x ∈ [((0 : Fin 16), 0), (8, 1)],
      ((lastCopy x.1 x.2 st).host.engines[x.1]).slots[0]? = some (request64 (if x.2 = 0 then [] else [100])) ∧
      ((oneOfTwo x.1 x.2 st).host.engines[x.1]).slots[0]? = some (request64 (if x.2 = 0 then [] else [100])) ∧
      findCmd (lastCopy x.1 x.2 st) 7 = some (cmd7 (copySlot x.2)) ∧ findCmd (oneOfTwo x.1 x.2 st) 7 = some (cmd7 (copySlot x.2)) ∧
      slotOpcode (copySlot x.2) = 0x18 ∧ cpSignal (copySlot x.2).pay = false) ∧
    (cmd7 (copySlot 0)).step = none ∧ (copy7 2 true).stop = none ∧ (copy7 2 true).issued = true ∧ (copy7 2 true).poison = none ∧
    (∀ a b, (dropIdx [request64 a] 0).any (slotOf 7) = false ∧ (dropIdx [request64 a, request64 b] 0).any (slotOf 7) = true) :=
  ⟨by decide +kernel, rfl, rfl, rfl, rfl, fun _ _ => ⟨rfl, rfl⟩⟩

/-- What the data of an inbound request do. -/
def posted64 (s : State) : State × List Nat := copyPost 0 true [(0x20040, 64)] (dslice (clean (List.replicate 64 1)) 0 64) (freeSlot 0 0 s)

set_option maxRecDepth 1000000 in
set_option exponentiation.threshold 4000 in
theorem test_witness_copy_in_host : (posted64 (lastCopy 0 0 .waiting)).1.host = (freeSlot 0 0 (lastCopy 0 0 .waiting)).host ∧
    (posted64 (oneOfTwo 0 0 .waiting)).1.host = (freeSlot 0 0 (oneOfTwo 0 0 .waiting)).host ∧
    (posted64 (fullChannel (lastCopy 0 0 .waiting))).1.host = (freeSlot 0 0 (fullChannel (lastCopy 0 0 .waiting))).host :=
  ⟨by rfl, by rfl, by rfl⟩

theorem test_witness_copy_in : (∀ s ∈ [lastCopy 0 0 .waiting, oneOfTwo 0 0 .waiting],
      reqsRes (posted64 s).1 (posted64 s).2 = .done [[]]) ∧
    reqsRes (posted64 (fullChannel (lastCopy 0 0 .waiting))).1 (posted64 (fullChannel (lastCopy 0 0 .waiting))).2 = .wait := by decide +kernel

theorem test_witness_copy_out :
    reqsRes (lastCopy 8 1 (.ended .ok (List.replicate 64 (0, false)))) [100] = .done [List.replicate 64 (0, false)] ∧
    poisoned [List.replicate 64 ((0 : Byte), false)].flatten = false ∧ reqsRes (lastCopy 8 1 .waiting) [100] = .wait := by decide +kernel

theorem test_witness_copy_timeout (s : State) (h : s ∈ [lastCopy 0 0 .waiting, oneOfTwo 0 0 .waiting]) (n : Nat) :
    s.host.engines[(0 : Fin 16)].slots[0]? = some (request64 []) ∧ s.now = 0 ∧ completionTimeout s = 10000000 ∧
      0 + completionTimeout s ≤ { s with now := 10000000 + n }.now ∧ s.now < 0 + completionTimeout s := by
  have h' : s.host.engines[(0 : Fin 16)].slots[0]? = some (request64 []) ∧ s.now = 0 ∧ completionTimeout s = 10000000 := by
    revert h; revert s; decide +kernel
  refine ⟨h'.1, h'.2.1, h'.2.2, ?_, ?_⟩ <;> simp [h'.2.1, h'.2.2]
/-- A channel of the field network. -/
def net : Chan := .fn 5
/-- What `MayWrite` says, as a Bool. -/
def mayWrite (s : State) (i j : Nat) (v : List Byte) : Bool :=
  serves s net && match findObject i j with | some o => (writeFails net o v s).isNone | none => false

theorem of_mayWrite {s i j v} (h : mayWrite s i j v = true) : MayWrite s net i j v := by
  simp only [mayWrite, Bool.and_eq_true] at h
  refine ⟨h.1, ?_⟩
  cases hf : findObject i j with
  | none => simp [hf] at h
  | some o => exact ⟨o, rfl, by simpa [hf] using h.2⟩

/-- The objects of O_WritesChecked. -/
def written : List (Nat × Nat) :=
  [(0x6101, 4), (0x3001, 2), (0x3001, 3), (0x5020, 3), (0x3100, 1), (0x2001, 2), (0x2001, 1), (0x2001, 3), (0x2002, 1), (0x2003, 3), (0x4000, 1),
   (0x4000, 2), (0x4000, 3), (0x4010, 1), (0x4010, 2), (0x4010, 3), (0x4011, 1), (0x4011, 2), (0x4011, 3), (0x6000, 1), (0x6000, 2)] ++
  [(0x1000, 1), (0x1002, 1), (0x1002, 4), (0x1004, 3), (0x7003, 7), (0x7003, 8), (0x7003, 6), (0x7003, 5), (0x7001, 1), (0x7001, 2), (0x7001, 3),
   (0x7001, 4), (0x7004, 2), (0x7004, 4)]

theorem test_witness_writes_checked : serves State.reset net = false ∧ serves running net = true ∧
    (written.all fun x => match findObject x.1 x.2 with | some o => (writeFails net o [] running).isSome | none => false) = true := by decide +kernel

/-- `running` with tile 5 fenced. -/
def fenced5 : State := { running with dict := { running.dict with keep := { running.dict.keep with tilesFenced := 32 } } }
/-- `running` with a walk under way. -/
def walkingPage : State := wanting [] true

theorem test_witness_unit_writes : MayWrite running net 0x6101 4 [1] ∧ MayWrite fenced5 net 0x3001 2 [5, 0] ∧ fenced fenced5 5 = true ∧
    MayWrite running net 0x3001 2 [5, 0] ∧ fenced running 5 = false ∧ MayWrite fenced5 net 0x3001 3 [5, 0] ∧ MayWrite running net 0x3001 3 [5, 0] ∧
    MayWrite running net 0x5020 3 [0, 0, 128, 63] ∧ MayWrite running net 0x3100 1 [0, 16, 0, 0] ∧
    ∀ e : Fin 16, (running.mem.rowStore[e]).lost = none := by
  refine ⟨?_, ?_, ?_, ?_, ?_, ?_, ?_, ?_, ?_, ?_⟩
  case refine_3 => decide +kernel
  case refine_5 => decide +kernel
  case refine_10 => decide +kernel
  all_goals exact of_mayWrite (by decide +kernel)

theorem test_witness_memory_writes : MayWrite running net 0x2001 2 (leBytes 8 (2 ^ 64 - 1)) ∧ MayWrite walkingPage net 0x2001 2 (leBytes 8 0x200000) ∧
    MayWrite running net 0x2001 1 (leBytes 8 0x8000) ∧ MayWrite running net 0x2001 3 [0, 0, 8, 0] ∧
    MayWrite running net 0x2002 1 ([64, 0, 8, 0] ++ List.replicate 1024 0) ∧ MayWrite running net 0x2003 3 [1] := by
  refine ⟨?_, ?_, ?_, ?_, ?_, ?_⟩ <;> exact of_mayWrite (by decide +kernel)

/-- `running` parked. -/
def parkedState : State := { running with clk := { running.clk with park := .parked } }

theorem test_witness_link_and_clock_writes : MayWrite running net 0x4000 1 [7, 0] ∧ MayWrite running net 0x4000 2 [12] ∧
    MayWrite running net 0x4000 3 [1, 0] ∧ MayWrite running net 0x4010 1 ([128, 0, 3, 0] ++ List.replicate 512 0) ∧
    MayWrite running net 0x4011 3 ([0, 1, 3, 0] ++ List.replicate 1024 0) ∧ MayWrite running net 0x6000 1 [1] ∧ MayWrite running net 0x6000 2 [1] ∧
    MayWrite running net 0x1000 1 [0xA5] ∧ MayWrite running net 0x1002 1 [0] ∧ running.clk.mode.toNat = 0 ∧ MayWrite running net 0x1002 1 [2] ∧
    MayWrite running net 0x1002 4 [1] ∧ running.clk.park = .awake ∧ MayWrite parkedState net 0x1002 4 [0] ∧ parkedState.clk.park = .parked ∧
    MayWrite running net 0x1002 4 [0] ∧ MayWrite running net 0x1004 3 [0xFF, 0] := by
  refine ⟨?_, ?_, ?_, ?_, ?_, ?_, ?_, ?_, ?_, ?_, ?_, ?_, ?_, ?_, ?_, ?_, ?_⟩
  case refine_10 => rfl
  case refine_13 => rfl
  case refine_15 => rfl
  all_goals exact of_mayWrite (by decide +kernel)

/-- The tables' values. -/
def tableValue (w : RouteTable) : List Byte :=
  if (routeIndex w).1 = 0x4010 then [128, 0, 3, 0] ++ List.replicate 512 0 else [0, 1, 3, 0] ++ List.replicate 1024 0
/-- A write of one waits with `k` entries in place. -/
def routing (w : RouteTable) (k : Nat) : State :=
  { running with
    dict := { running.dict with waiting := [{
      ch := net, req := none, index := (routeIndex w).1, sub := (routeIndex w).2, value := tableValue w, store := false }] }
    links := { running.links with routeWrites := [{
      index := (routeIndex w).1, sub := (routeIndex w).2, values := (arrVals 4 (tableValue w)).map (BitVec.ofNat 32), next := k }] } }

theorem test_witness_routes_change : ∀ w ∈ [RouteTable.groupInject, .groupB, .groupC, .memberInject, .memberB, .memberC],
    mayWrite running (routeIndex w).1 (routeIndex w).2 (tableValue w) = true ∧ running.links.routeWrites = [] ∧
    ((arrVals 4 (tableValue w)).map (BitVec.ofNat 32)).length = (if (routeIndex w).1 = 0x4010 then 128 else 256) ∧
    (∀ k ∈ [0, 128], ((routing w k).dict.waiting.find? (actionOver (routing w k))).map (fun y => (y.req, y.index, y.sub)) =
      some (none, routeIndex w) ∧ controlRuns (routing w k) = true) := by decide +kernel

/-- The boot hold. -/
def holding : State := { State.reset with boot := { Boot.reset with phase := .hold }, clk := { Clocks.reset with control := running.clk.control, root := running.clk.root } }
/-- READY, with an image that can be activated. -/
def updatable : State :=
  { running with
    host := { running.host with dev := .ready }
    boot := { running.boot with trialBoot := true, kindleArea := 0x800000, flash := { Flash.shipped with rec0 := some { BootRec.shipped with stateA := 4, stateB := 2 } } } }
/-- A reception that came from READY or from RUNNING. -/
def recv0 (back : Nat) : Recv := { source := 1, back := back, blocks := 0, next := 0, inFlash := 0, told := 0, last := 0, children := [] }
@[inherit_doc recv0] def receivingState (back : Nat) : State :=
  { running with host := { running.host with dev := .updating }, boot := { running.boot with recv := some (recv0 back) } }
/-- Such a reception whose front end was reset. -/
def receivingHeld : State := { receivingState 3 with host := { (receivingState 3).host with heldDue := true } }
/-- A module that a host may update. -/
def hostRole (s : State) : State := { s with dict := { s.dict with keep := { s.dict.keep with roles := 7 } } }

theorem test_witness_boot_writes : MayWrite holding net 0x7003 7 [1] ∧ holding.boot.phase = .hold ∧ MayWrite holding net 0x7003 8 [1] ∧
    MayWrite running net 0x7003 8 [1] ∧ running.boot.phase ≠ .hold ∧ MayWrite holding net 0x7003 6 (List.replicate 32 3) ∧
    MayWrite running net 0x7003 5 (List.replicate 8016 0) ∧ installFails running (List.replicate 8016 0) = some .malformed := by
  refine ⟨?_, ?_, ?_, ?_, ?_, ?_, ?_, ?_⟩
  case refine_2 => rfl
  case refine_5 => decide
  case refine_8 => decide +kernel
  all_goals exact of_mayWrite (by decide +kernel)

theorem test_witness_firmware_writes : MayWrite (hostRole updatable) net 0x7001 1 [1] ∧ MayWrite updatable net 0x7001 1 [2] ∧
    MayWrite (receivingState 2) net 0x7001 2 [1] ∧ (receivingState 2).boot.recv = some (recv0 2) ∧ MayWrite (receivingState 3) net 0x7001 2 [1] ∧
    (recv0 3).back ≠ 2 ∧ (receivingState 3).host.heldDue = false ∧ MayWrite receivingHeld net 0x7001 2 [1] ∧
    receivingHeld.boot.recv = some (recv0 3) ∧ receivingHeld.host.heldDue = true ∧ MayWrite updatable net 0x7001 3 [1] ∧ MayWrite updatable net 0x7001 4 [1] ∧
    MayWrite running net 0x7004 2 (List.replicate 32 1) ∧ MayWrite running net 0x7004 4 [1] := by
  refine ⟨?_, ?_, ?_, ?_, ?_, ?_, ?_, ?_, ?_, ?_, ?_, ?_, ?_, ?_⟩
  case refine_4 => rfl
  case refine_6 => decide
  case refine_7 => rfl
  case refine_9 => rfl
  case refine_10 => rfl
  all_goals exact of_mayWrite (by decide +kernel)
/-- The blob of one window for the first 4 KiB of T1. -/
def blob1 : List Byte :=
  leBytes 6 (0x50585348 + 2 ^ 32) ++ leBytes 2 0x0451 ++ leBytes 4 2 ++ leBytes 4 1 ++ List.replicate 16 0 ++ [1] ++ List.replicate 95 0 ++
    leBytes 32 (3 + 4096 * 2 ^ 128) ++ List.replicate 7856 0
/-- A device that has an owner. -/
def owned : State := { running with boot := { running.boot with ownerKey := 1 :: List.replicate 31 0 } }

/-- The signature check is an open function of Config: it is assumed to accept. -/
theorem test_witness_prot_install (h : ∀ k m g, Config.slhVerify k m g = true) : MayWrite owned net 0x7003 5 blob1 ∧ installFails owned blob1 = none := by
  refine ⟨of_mayWrite (by decide +kernel), ?_⟩
  have e : blobFormOk blob1 = true ∧ noOwner owned = false ∧ blobKey blob1 = true ∧ blobFits blob1 = true := by decide +kernel
  simp [installFails, blobForged, blobSigned, h, e]
  decide +kernel

/-- A message for an object: OFFSET, LENGTH, TOTAL, ADDR and data, with FINAL or not. -/
def message (index sub off len total addr : Nat) (final : Bool) (data : List Byte) : Vmp :=
  { hdr := BitVec.ofNat 256 (1 + b2n final * 2 ^ 8 + 7 * 2 ^ 16 + index * 2 ^ 32 + sub * 2 ^ 48 + off * 2 ^ 64 + len * 2 ^ 96 + total * 2 ^ 128 +
      addr * 2 ^ 176)
    data := data }
/-- A frame of the field network to a MAC address. -/
def framedTo (dst : BitVec 48) : FnFrame := { dst := dst, etherType := 0x88B5, tagged := false }
/-- What the premises of `Claims.RequestsAnswered` and `Claims.MemoryOperated` call fresh, where the server is free. -/
def freshFor (op : Nat) (m : Vmp) (s : State) : Bool :=
  s.clk.refclk && serves s net && s.dict.serving.isNone && s.dict.queue.isEmpty && acceptsFrame s (framedTo s.dict.keep.fnMac) (withOp op m) &&
    ((chanState s net).kept.find? fun k => sameRequest k.request (withOp op m).hdr).isNone &&
    !vmpMalformed net (withOp op m) && !Machine.repeats s net (withOp op m).hdr &&
    !(s.dict.waiting.any fun w => w.ch == net && w.req.any (sameRequest (withOp op m).hdr))
/-- The channel with a state. -/
def onChan (f : ChanState → ChanState) : State := { running with dict := { running.dict with channels := [f (.fresh net)] } }
/-- Reads of the device's state, of its start and of the rest of a latched value, and a malformed one. -/
def readDev : Vmp := message 0x0210 1 0 1024 0 0 false []
@[inherit_doc readDev] def readRest : Vmp := message 0x0210 1 1 1024 0 0 false []
@[inherit_doc readDev] def readLong : Vmp := message 0x0210 1 0 1025 0 0 false []
/-- The kept answer to `readDev`. -/
def keptDev : KeptResponse := { request := (withOp 0 readDev).hdr, response := readDev }
/-- A latch of two bytes. -/
def latch2 : ReadLatch := { index := 0x0210, sub := 1, value := [1, 2], taken := 0 }

/-- A channel with an answer, or with a latch. -/
def kept1 : State := onChan fun c => { c with kept := [keptDev] }
@[inherit_doc kept1] def latched1 : State := onChan fun c => { c with latch := some latch2 }
/-- `running` with a frame counted. -/
def counted1 : State := { running with dict := { running.dict with counters := { running.dict.counters with rxFrames := 1 } } }

theorem test_witness_reads : freshFor 0 readDev running = true ∧ vmOffset readDev.hdr = 0 ∧ (findObject 0x0210 1).isSome = true ∧
    vmIndex readDev.hdr = 0x0210 ∧ vmSub readDev.hdr = 1 ∧
    ((findObject 0x0210 1).bind fun o => (readObject net o (updChan net (fun x => { x with latch := none }) counted1)).toOption) = some [3] ∧
    serves kept1 net = true ∧ (∀ op ∈ [0, 1], acceptsFrame kept1 (framedTo kept1.dict.keep.fnMac) (withOp op readDev) = true) ∧
    kept1.dict.serving = none ∧ kept1.dict.queue = [] ∧ kept1.dict.waiting = [] ∧
    ((chanState kept1 net).kept.find? fun k => sameRequest k.request (withOp 0 readDev).hdr) = some keptDev ∧
    ((chanState running net).kept.find? fun k => sameRequest k.request (withOp 0 readLong).hdr) = none ∧ vmpMalformed net (withOp 0 readLong) = true ∧
    freshFor 0 readRest latched1 = true ∧ vmOffset readRest.hdr = 1 ∧ ((findObject 0x0210 1).map fun o => bootForbids running o) = some false ∧
    (chanState latched1 net).latch = some latch2 ∧ latched1.now < latch2.taken + 1000000000 := by decide +kernel

theorem test_witness_discarded : acceptsFrame running (framedTo (running.dict.keep.fnMac + 1)) readDev = false ∧
    acceptsFrame running (framedTo 0xFFFFFFFFFFFF) (withOp 0 readDev) = false ∧
    acceptsFrame running { framedTo running.dict.keep.fnMac with tagged := true } (withOp 0 readDev) = false ∧
    ∀ op ∈ [2, 4], vmOp (withOp op readDev).hdr = op ∧ acceptsFrame running (framedTo running.dict.keep.fnMac) (withOp op readDev) = true := by
  decide +kernel

/-- Writes of HOP_LIMIT: whole, to an object that is only read, and the first segment of a routing table. -/
def writeHops : Vmp := message 0x4000 5 0 1 1 0 true [9]
@[inherit_doc writeHops] def writeDev : Vmp := message 0x0210 1 0 1 1 0 true [9]
@[inherit_doc writeHops] def writePart : Vmp := message 0x4010 1 0 4 516 0 false [128, 0, 3, 0]

/-- The state in which a first segment is taken. -/
def emptied1 : State := updChan net (fun x => { x with wbuf := none, lost := none }) (updChan net (expireBuffer running.now) counted1)
/-- A segment that goes on with a write. -/
def writeRest : Vmp := message 0x4010 1 4 4 516 0 false [0, 0, 0, 0]
/-- The buffer of the write, lost. -/
def lost1 : State := onChan fun c => { c with lost := some { index := 0x4010, sub := 1, total := 516, value := [128, 0, 3, 0], last := 0 } }

theorem test_witness_write_rest : (∀ s ∈ [running, lost1], freshFor 1 writeRest s = true ∧ (chanState s net).wbuf = none) ∧
    vmOffset writeRest.hdr ≠ 0 ∧ (chanState lost1 net).lost.any (fun b => nextSegment b (withOp 1 writeRest).hdr) = true := by decide +kernel

theorem test_witness_writes : freshFor 1 writeHops running = true ∧ vmOffset writeHops.hdr = 0 ∧ vmIndex writeHops.hdr = 0x4000 ∧ vmSub writeHops.hdr = 5 ∧
    running.host.dev ≠ .booting ∧ vmFinal writeHops.hdr = true ∧ vmTotal writeHops.hdr = 1 ∧ (writeHops.data.take (vmLength writeHops.hdr)) = [9] ∧
    freshFor 1 writeDev running = true ∧ firstSegment net (withOp 1 writeDev) emptied1 = some .accessDenied ∧
    freshFor 1 writePart running = true ∧ firstSegment net (withOp 1 writePart) emptied1 = none ∧ vmFinal writePart.hdr = false ∧
    (writePart.data.take (vmLength writePart.hdr)).length ≤ vmTotal writePart.hdr := by decide +kernel

/-- Memory operations at 64, and one at an address that does not exist. -/
def memOp (n a : Nat) : Vmp := message 0 0 0 n 0 a false (List.replicate 32 5)

theorem test_witness_other_messages : freshFor 3 (message 0x0210 1 0 0 0 0 false []) running = true ∧ freshFor 7 (message 0 0 0 0 0 0 false []) running = true ∧
    freshFor 5 (memOp 32 (2 ^ 47)) (mapped running) = true ∧ memOpFails .fieldR (withOp 5 (memOp 32 (2 ^ 47))).hdr false (mapped running) = some .addressRange ∧
    freshFor 5 (memOp 32 64) (mapped running) = true ∧ memOpFails .fieldR (withOp 5 (memOp 32 64)).hdr false (mapped running) = none ∧
    freshFor 6 (memOp 32 64) (mapped running) = true ∧ memOpFails .fieldW (withOp 6 (memOp 32 64)).hdr true (mapped running) = none ∧
    place 64 = .stack 64 ∧ numbered (mapped running).mem.nextId (mapped running) = true ∧ channelEntries (mapped running) 64 = [] ∧
    meetsRecord (mapped running) 64 32 = false := by decide +kernel

/-- The server waits for a memory read of another channel, which has ended or not, with requests queued behind it. -/
def servingOther (st : ReqState) (queue : List WaitingRequest) : State :=
  { running with
    dict := { running.dict with serving := some { ch := .fn 6, msg := withOp 5 (memOp 32 64), req := 3 }, queue := queue }
    mem := { running.mem with requests := [{
      id := 3, who := whoFront, write := false, tier := 1, pa := 64, node := 0, len := 32, data := [], act := none, state := st }] } }

theorem test_witness_server_waits : (∀ n ∈ [31, 32], let s := servingOther .waiting (List.replicate n { ch := net, msg := readLong })
      s.clk.refclk = true ∧ reqEnded s 3 = none ∧ serves s net = true ∧ acceptsFrame s (framedTo s.dict.keep.fnMac) (withOp 0 readDev) = true ∧
      Machine.repeats s net (withOp 0 readDev).hdr = false ∧ (s.dict.queue.filter fun q => onFieldNet q.ch).length = n) ∧
    (let s := servingOther (.ended .ok (List.replicate 32 (0, false))) []
     vmOp (withOp 5 (memOp 32 64)).hdr = 5 ∧ reqEnded s 3 = some (.ok, List.replicate 32 (0, false)) ∧ serves s net = true ∧
      acceptsFrame s (framedTo s.dict.keep.fnMac) (withOp 7 readDev) = true ∧ Machine.repeats s net (withOp 7 readDev).hdr = false ∧
      s.dict.channels = []) ∧
    (let m := message 0 0 0 0 0 0 false []
     let s := servingOther (.ended .ok (List.replicate 32 (0, false))) []
     acceptsFrame s (framedTo 0xFFFFFFFFFFFF) (withOp 7 m) = true ∧ Machine.repeats s net (withOp 7 m).hdr = false ∧
      vmpMalformed net (withOp 7 m) = false) := by decide +kernel

/-- A server with waiting writes. -/
def waiting (ws : List WaitingWrite) : State := { running with dict := { running.dict with waiting := ws } }
/-- A write that waits: for the config store, or for its action. -/
def waiter (i j : Nat) (store : Bool) : WaitingWrite := { ch := net, req := none, index := i, sub := j, value := [7, 0], store := store }
/-- A listed object whose value has changed. -/
def notified : Notified := { index := 0x0210, sub := 1, value := [2], at_ := none }
/-- Its state. -/
def notifies : State := { running with dict := { running.dict with notifyMac := 5, notified := [notified] } }

theorem test_witness_server_events : (onChan id).dict.channels = [.fresh net] ∧ (ChanState.fresh net).ch = net ∧ controlRuns (waiting []) = true ∧
    (∀ i ∈ [0x4000, 0x3001], ((waiting [waiter i 1 true]).dict.waiting.find? fun w => w.store) = some (waiter i 1 true)) ∧
    (∀ x ∈ [(0x7003, 5), (0x2001, 2), (0x7001, 4)], ((waiting [waiter x.1 x.2 false]).dict.waiting.find? (actionOver (waiting [waiter x.1 x.2 false]))) =
      some (waiter x.1 x.2 false)) ∧ notifies.dict.notifyMac ≠ 0 ∧ notifies.clk.refclk = true ∧ notifyDue notifies = some (notified, [3]) := by decide +kernel

/-- A mailbox whose request is a message. -/
def boxed (op : Nat) (m : Vmp) : State :=
  { running with dict := { running.dict with mailbox := { running.dict.mailbox with request := cellsSetAll [] 0 (bytesOf 32 (withOp op m).hdr) } } }

theorem test_witness_registers : bar0Open running = true ∧ running.host.session.op = none ∧ running.host.bar0.pba = 0 ∧
    ((7 : BitVec 64).toNat % 8 = 7) ∧ (∀ op ∈ [7, 3, 5], vmOp (mailboxRequest (boxed op (message 0x0210 1 0 0 0 0 false []))).hdr = op ∧
      vmpMalformed .mailbox (mailboxRequest (boxed op (message 0x0210 1 0 0 0 0 false []))) = false) := by decide +kernel

theorem test_witness_mailbox_go : (∀ op ∈ [7, 3, 5], (boxed op (message 0x0210 1 0 0 0 0 false [])).dict.serving = none ∧
      (boxed op (message 0x0210 1 0 0 0 0 false [])).dict.queue = []) ∧ (boxed 3 (message 0x0210 1 0 0 0 0 false [])).dict.mailbox.busy = false ∧
    (boxed 3 (message 0x0210 1 0 0 0 0 false [])).dict.mailbox.orphans = 0 ∧ (boxed 3 (message 0x0210 1 0 0 0 0 false [])).dict.mailbox.irq = false ∧
    serves (boxed 3 (message 0x0210 1 0 0 0 0 false [])) .mailbox = true ∧ (chanState (boxed 3 (message 0x0210 1 0 0 0 0 false [])) .mailbox).kept = [] ∧
    (findObject (vmIndex (mailboxRequest (boxed 3 (message 0x0210 1 0 0 0 0 false []))).hdr)
      (vmSub (mailboxRequest (boxed 3 (message 0x0210 1 0 0 0 0 false []))).hdr)).isSome = true := by decide +kernel
/-- A running device with other clocks. -/
def clocked (f : Clocks → Clocks) : State := { running with now := 6000000, clk := f running.clk }
/-- A loop two passes into its lock, one that is locked, and ones that are late, the second time and the last. -/
def loopPass (n : Nat) : Loop := { Loop.start 0 with passes := n }
@[inherit_doc loopPass] def loopLocked : Loop := { Loop.start 0 with passes := 3, locked := true }
@[inherit_doc loopPass] def loopLate (n : Nat) : Loop := { Loop.start 0 with fails := n }
/-- A device with a loop in place of its root loop, the loop of a stack and that of a port. -/
def looped (l : Loop) : State := clocked fun c => { c with root := l, memPhy := c.memPhy.set 2 l, linkPhy := c.linkPhy.set 3 l, pciePhy := l }

theorem test_witness_loops_lock : powered (looped (loopPass 1)) = true ∧ (looped (loopPass 1)).clk.refclk = true ∧
    ([LoopId.root, .memPhy 2, .linkPhy 3, .pcie].all fun l => decide (loopOf (looped (loopPass 1)) l = loopPass 1)) = true ∧
    (loopPass 1).enabled = true ∧ (loopPass 1).passes + 1 < 3 ∧ 3 ≤ (loopPass 2).passes + 1 ∧ (looped (loopPass 2)).clk.refclk = true := by decide +kernel

theorem test_witness_loops_fail : loopOf (looped loopLocked) .root = loopLocked ∧ loopLocked.enabled = true ∧ loopLocked.locked = true ∧
    loopOf (looped (loopLate 0)) .root = loopLate 0 ∧ (loopLate 0).locked = false ∧ LoopId.memPhy 2 ≠ .root ∧
    loopOf (looped (loopLate 1)) (.memPhy 2) = loopLate 1 ∧ (loopLate 1).since + 5000000 ≤ (looped (loopLate 1)).now ∧ (loopLate 1).fails + 1 < 3 ∧
    loopOf (looped (loopLate 2)) (.memPhy 2) = loopLate 2 ∧ 3 ≤ (loopLate 2).fails + 1 ∧ (looped (loopLate 2)).host.dev ≠ .booting := by decide +kernel

/-- Boot before any domain runs from the loop, which has not locked. -/
def rootLate (n : Nat) : State := { State.reset with now := 5000000, clk := { State.reset.clk with root := loopLate n, memPhy := .replicate 8 (loopLate n) } }

theorem test_witness_root_lock : (rootLate 1).host.dev = .booting ∧ (rootLate 2).clk.root = loopLate 2 ∧ loopOf (rootLate 2) (.memPhy 2) = loopLate 2 ∧
    (∀ d ∈ [Domain.control, .arith, .memCtl], (muxOf (rootLate 1) d).onLoop = false ∧ (muxOf (rootLate 1) d).target ≠ some true) ∧
    (rootLate 1).clk.root.since + 5000000 ≤ (rootLate 1).now ∧ (rootLate 1).clk.root.fails + 1 < 3 ∧ (rootLate 1).clk.root.enabled = true ∧
    powered (rootLate 1) = true ∧ 3 ≤ (rootLate 2).clk.root.fails + 1 ∧ (rootLate 2).clk.root.locked = false := by decide +kernel

/-- A device whose memory controllers' clock has stopped with the loop, and one that is switching. -/
def stopped : State := clocked fun c => { c with root := Loop.off, control := Mux.bypass }
@[inherit_doc stopped] def switching : State := clocked fun c => { c with arith := { c.arith with target := some false } }

theorem test_witness_clocks_switch : controlRuns running = true ∧ (muxOf running .arith).target = none ∧ (muxOf running .arith).onLoop ≠ false ∧
    (muxOf switching .arith).target = some false ∧ domainRuns switching .arith = true ∧
    powered stopped = true ∧ stopped.clk.refclk = true ∧ (muxOf stopped .memCtl).hung = false ∧ domainRuns stopped .memCtl = false ∧
    running.clk.refclk = true ∧ running.clk.control.onLoop = true ∧ (256 ≤ 256 ∧ 255 < 256) ∧
    (clocked fun c => { c with refclk := false }).clk.refclk = false := by decide +kernel

/-- A device with a device reset scheduled, and modules whose rails are off or rise. -/
def resetAt (t : Nat) : State := clocked fun c => { c with resetDue := some (t, 2) }
@[inherit_doc resetAt] def railed (r : Rails) : State := clocked fun c => { c with rails := r, pwrEn := false }

/-- The same with PERST_N low. -/
def perstHigh (s : State) : State := { s with host := { s.host with pcie := { s.host.pcie with perst := true } } }

theorem test_witness_module_starts : (resetAt 6000000).clk.resetDue = some (6000000, 2) ∧ 6000000 ≤ (resetAt 6000000).now ∧
    controlRuns (resetAt 6000000) = true ∧ (resetAt 6000001).now < 6000001 ∧ (railed .off).clk.pwrEn = false ∧ (railed .off).host.pcie.perst = false ∧
    (perstHigh (railed .off)).host.pcie.perst = true ∧ (railed .ramping).clk.rails = .ramping ∧ (railed .ramping).clk.rails ≠ .off ∧
    powered running = true ∧ (35999 < 36000 ∧ 99 < 100 ∧ 36000 ≤ 36000 ∧ 100 ≤ 100 ∧ 44000 ≤ 44000 ∧ 44000 < 44001) := by decide +kernel

/-- A change of POWER_MODE that a write waits for, and parking and waking modules. -/
def moding : State := { waiting [waiter 0x1002 1 false] with clk := { running.clk with changing := true, mode := 1 } }
@[inherit_doc moding] def parked (p : ParkState) : State := clocked fun c => { c with park := p }

theorem test_witness_power_follows : powered moding = true ∧ moding.clk.changing = true ∧ controlRuns moding = true ∧
    moding.dict.waiting = [waiter 0x1002 1 false] ∧ waitsOn 0x1002 1 (waiter 0x1002 1 false) = true ∧ (waiter 0x1002 1 false).req = none ∧
    powered (parked .parking) = true ∧ (parked .parking).clk.park = .parking ∧ (parked .parking).dict.waiting = [] ∧
    ((parked .parking).host.cmds.any fun c => !runsParked (slotOpcode c.slot)) = false ∧ (parked .waking).clk.park = .waking ∧
    (parked .waking).dict.waiting = [] ∧ Quiet (parked .waking) := by unfold Quiet; decide +kernel

/-- Readings of the governor on each side of the ceiling, and of the sensors. -/
def cool (t : Int) : List Int := [t, 50000, 60000, 70000]
@[inherit_doc cool] def stackReads (t : Int) : List Int := [t, 1, 2, 3, 4, 5, 6, 7]

theorem test_witness_governor : ¬(1000000 * ceilingNow running < 48000 * 1000 ∨ 1000 > 57000) ∧ 1000000 * ceilingNow running < 48000 * 50000 ∧
    57000 < 57001 ∧ 35999 < 36000 ∧ 44000 < 48000 ∧ powered running = true := by decide +kernel

/-- The temperature of the converter is an open function of Config: it is assumed to be low. -/
theorem test_witness_thermal (h : ∀ t, (Config.converterTemp t).toInt ≤ 105000) : converterHot (clocked fun c => { c with throttled := true, coolSince := some 5 }) = false ∧
    converterHot running = false ∧ (running.clk.throttled = false ∧ (cool 99999).length = 4 ∧ (stackReads 85000).length = 8 ∧
      (cool 108000).foldl max ((cool 108000).getD 0 0) = 108000 ∧ (cool 99999).foldl max ((cool 99999).getD 0 0) < 100000 ∧
      (cool 100000).foldl max ((cool 100000).getD 0 0) = 100000 ∧ (∃ x ∈ stackReads 85000, 85000 ≤ x) ∧
      (clocked fun c => { c with throttled := true, coolSince := some 5 }).clk.coolSince = some 5) := by
  have k (s : State) : converterHot s = false := decide_eq_false (by have := h s.now; omega)
  exact ⟨k _, k _, by decide +kernel⟩

theorem test_witness_tap_responds : powered running = true := by decide +kernel
/-- Lists of zeros read as zero. -/
theorem leNat_zeros (bs : List Byte) (h : ∀ b ∈ bs, b = 0) : leNat bs = 0 := by
  induction bs with
  | nil => rfl
  | cons b bs ih => simp [leNat, h b (by simp), ih fun x hx => h x (by simp [hx])]

theorem byteField_zeros (bs : List Byte) (off n : Nat) (h : ∀ b ∈ bs, b = 0) : byteField bs off n = 0 := by
  refine leNat_zeros _ fun b hb => ?_
  rcases List.mem_append.1 hb with hb | hb
  · exact h b (List.mem_of_mem_drop (List.mem_of_mem_take hb))
  · exact (List.mem_replicate.1 hb).2

/-- A bank with nothing in it reads as zeros. -/
theorem emptyBank_zeros (k : Nat) : ∀ b ∈ bankBlock (.written .empty) k, b = 0 := by
  intro b hb
  obtain ⟨x, hx, rfl⟩ := List.mem_map.1 hb
  obtain ⟨i, -, rfl⟩ := List.mem_map.1 hx
  rfl

/-- A device that boots on its loops, with its flash and phase changed. -/
def bootOn (f : Flash → Flash) (p : BootPhase) : State :=
  { running with now := 40000000000, host := { running.host with dev := .booting },
                 boot := { Boot.reset with flash := f Flash.shipped, phase := p, holdEnd := 30000000000 } }
/-- A flash without a boot record and with two empty banks. -/
def blank (f : Flash) : Flash := { f with rec0 := none, banks := #v[.written .empty, .written .empty] }

theorem test_witness_boot_start : (bootOn id .rom).host.dev = .booting ∧ (bootOn id .rom).boot.phase = .rom ∧ clocksReady (bootOn id .rom) = true ∧
    bootRec (bootOn id .rom).boot.flash = some (false, .shipped) ∧ BootRec.shipped.trial = false ∧ (bootOn id .rom).boot.failedBanks = [] ∧
    bankFailure (bootOn id .rom) ((bootOn id .rom).boot.flash.banks[bankIx BootRec.shipped.confirmed]) = 0 :=
  ⟨rfl, rfl, by decide +kernel, by decide +kernel, rfl, rfl, by
    show bankFailure (bootOn id .rom) .shipped = 0
    simp [bankFailure, bootOn, Boot.reset]⟩

theorem test_witness_boot_stops : bootRec (bootOn blank .rom).boot.flash = none ∧ (bootOn blank .rom).boot.failedBanks = [] ∧ clocksReady (bootOn blank .rom) = true ∧
    ∀ b, bankFailure (bootOn blank .rom) ((bootOn blank .rom).boot.flash.banks[bankIx b]) ≠ 0 := by
  refine ⟨rfl, rfl, by decide +kernel, fun b => ?_⟩
  have e : (bootOn blank .rom).boot.flash.banks[bankIx b] = .written .empty := by cases b <;> rfl
  simp [e, bankFailure, headerOk, byteField_zeros _ _ _ (emptyBank_zeros 0)]

/-- A device whose memory is trained and whose ports are through their training. -/
def trained : State :=
  { bootOn id .training with
    links := { running.links with ports := running.links.ports.map fun p => { p with trained := true } }
    clk := { running.clk with memPhy := .replicate 8 loopLocked } }

theorem test_witness_boot_goes_on : (bootOn id .hold).boot.phase = .hold ∧ (bootOn id .hold).boot.bootHold = false ∧
    (bootOn id .hold).boot.holdEnd ≤ (bootOn id .hold).now ∧ ({ bootOn id .hold with now := 1 } : State).now < (bootOn id .hold).boot.holdEnd ∧
    trained.host.dev = .booting ∧ trained.boot.phase = .training ∧ (∀ k : Fin 8, (trained.clk.memPhy[k]).locked = true) ∧
    (∀ p, portBooted trained p = true) ∧ trained.boot.began + 30000000000 ≤ trained.now := by decide +kernel

/-- A CRC from the state 0 over zeros is in the state 0. -/
theorem crc_zeros (n : Nat) : (List.replicate n (0 : Byte)).foldl (fun c b => crcStep 8 (c ^^^ b.toNat)) 0 = 0 := by
  induction n with
  | zero => rfl
  | succ n ih => simpa [List.replicate_succ, crcStep] using ih

/-- The first block that a device takes as its second: four bytes FFH and zeros, whose CRC is FFFFFFFFH. -/
def ones4 : List Byte := [0xFF, 0xFF, 0xFF, 0xFF]

theorem crc_ones4 (n : Nat) : crc32c (ones4 ++ List.replicate n 0) = 0xFFFFFFFF := by
  have e : ones4.foldl (fun c b => crcStep 8 (c ^^^ b.toNat)) 0xFFFFFFFF = 0 := by decide +kernel
  rw [crc32c, List.foldl_append, e, crc_zeros]
  rfl

/-- A part of a list that a function of the index gives. -/
theorem part_of_range (f : Nat → Byte) (m off n : Nat) (h : off + n ≤ m) :
    (((List.range m).map f).drop off).take n = (List.range n).map fun i => f (off + i) := by
  refine List.ext_getElem ?_ fun i h1 h2 => ?_
  · simp; omega
  · simp

/-- A memory with `ones4` and zeros at `a`, and its bytes. -/
theorem read_ones4 (m : Mem) (a n : Nat) (h : (List.range 4).map (fun i => memByte m (a + i)) = ones4)
    (z : ∀ i, 4 ≤ i → i < n + 4 → memByte m (a + i) = 0) : dataBytes (memRead m a (n + 4)) = ones4 ++ List.replicate n 0 := by
  have e : dataBytes (memRead m a (n + 4)) = (List.range (n + 4)).map fun i => memByte m (a + i) := by simp [dataBytes, memRead, Function.comp_def]
  have p := part_of_range (fun i => memByte m (a + i)) (n + 4) 0 4 (by omega)
  have q := part_of_range (fun i => memByte m (a + i)) (n + 4) 4 n (by omega)
  rw [e, ← List.take_append_drop 4 ((List.range (n + 4)).map fun i => memByte m (a + i))]
  simp only [Nat.zero_add, List.drop_zero] at p
  rw [List.take_of_length_le (by simp)] at q
  rw [p, q, h]
  refine congrArg _ (List.eq_replicate_iff.2 ⟨by simp, fun b hb => ?_⟩)
  obtain ⟨i, hi, rfl⟩ := List.mem_map.1 hb
  exact z _ (by omega) (by have := List.mem_range.1 hi; omega)

/-- A field of a block's bytes in a memory. -/
theorem field_of_read (m : Mem) (a off n : Nat) (h : off + n ≤ 65536) :
    byteField (dataBytes (memRead m a 65536)) off n = leNat ((List.range n).map fun i => memByte m (a + off + i)) := by
  have e : dataBytes (memRead m a 65536) = (List.range 65536).map fun i => memByte m (a + i) := by simp [dataBytes, memRead, Function.comp_def]
  rw [byteField, slice, e]
  simp only [part_of_range _ _ _ _ h]
  simp [Nat.add_assoc]

/-- What lies in the kindle area: block 0 with block 1's CRC, block 1, and the notice of block 1. -/
def staged : Mem :=
  { Mem.empty with
    cells := [(0x800104, 0xFF), (0x800105, 0xFF), (0x800106, 0xFF), (0x800107, 0xFF),
              (0x810000, 0xFF), (0x810001, 0xFF), (0x810002, 0xFF), (0x810003, 0xFF),
              (0xC00010, 1), (0xC00014, 0xFF), (0xC00015, 0xFF), (0xC00016, 0xFF), (0xC00017, 0xFF), (0xC00018, 1)] }

/-- A reception whose next block is 1, of four blocks in all, and a child. -/
def recv1 (src inFlash : Nat) (child : Child) : Recv :=
  { source := src, back := 2, blocks := 4, next := 1, inFlash := inFlash, told := 0, last := 0, children := [child] }
/-- A child to which a block was pushed, or none. -/
def child (n : Nat) : Child := { pushed := n, acked := 0, lastAck := 0, dropped := false }
/-- A device that receives. -/
def arriving (r : Recv) : State :=
  { running with
    now := 60000000000
    mem := { running.mem with t1 := staged }
    dict := { running.dict with keep := { running.dict.keep with roles := 3 } }
    boot := { running.boot with recv := some r, kindleArea := 0x800000, kindleChildren := [5] } }

theorem staged1 : dataBytes (memRead staged 0x810000 (65532 + 4)) = ones4 ++ List.replicate 65532 0 := by
  refine read_ones4 staged 0x810000 65532 (by decide +kernel) fun i h k => ?_
  simp only [memByte, cellsGet, staged, memBase, Mem.empty]
  repeat rw [if_neg (by omega)]
  rfl

/-- Data read from the memory of a place in the stacks. -/
theorem placeRead_stack (s : State) (a n b : Nat) (h : place a = .stack b) : placeRead s a n = memRead s.mem.t1 b n := by
  rw [placeRead, h]

/-- What a device with `staged` in its T1 and its kindle area at 800000H reads in the slots of blocks 1 and 0. -/
theorem block1 (s : State) (h : s.mem.t1 = staged) (k : s.boot.kindleArea = 0x800000) :
    dataBytes (placeRead s (slotAddr s 1) blockSize) = ones4 ++ List.replicate 65532 0 := by
  have e : slotAddr s 1 = 0x810000 := by simp [slotAddr, kindleBase, k, blockSize]
  have b : blockSize = 65532 + 4 := rfl
  rw [e, b, placeRead_stack _ _ _ 0x810000 (by decide +kernel), h, staged1]

theorem header1 (s : State) (r : Recv) (h : s.mem.t1 = staged) (k : s.boot.kindleArea = 0x800000) (z : r.inFlash = 0) :
    imCrc (recvHeader s r) 1 = 0xFFFFFFFF := by
  have e : slotAddr s 0 = 0x800000 := by simp [slotAddr, kindleBase, k]
  rw [imCrc, recvHeader, if_pos z, e, placeRead_stack _ _ _ 0x800000 (by decide +kernel), h, blockSize, field_of_read _ _ _ _ (by omega)]
  decide +kernel

/-- Block 1 passes its checks with its CRC, and with no other. -/
theorem status1 (s : State) (r : Recv) (crc : Nat) (h : s.mem.t1 = staged) (k : s.boot.kindleArea = 0x800000) (z : r.inFlash = 0) :
    fine (blockStatus s r 1 crc (ones4 ++ List.replicate 65532 0)) = decide (crc = 0xFFFFFFFF) := by
  have e : (0xFFFFFFFF : BitVec 32).toNat = 0xFFFFFFFF := rfl
  rw [blockStatus, crc_ones4, header1 s r h k z, e]
  by_cases g : crc = 0xFFFFFFFF
  · subst g; rfl
  · rw [if_pos (Ne.symm g), decide_eq_false g]; rfl

/-- The reception of block 1 by kindle. -/
def kindle1 : Recv := recv1 2 0 (child 0)
/-- The notice that the device looks at. -/
def notice1 : BitVec 128 := BitVec.ofNat 128 (memNat staged (noticeAddr (arriving kindle1) 1) 16)

theorem test_witness_firmware_times_out : (arriving kindle1).boot.recv = some kindle1 ∧ kindle1.next < kindle1.blocks ∧
    kindle1.last + 60000000000 ≤ (arriving kindle1).now ∧ kindle1.back = 2 := by decide +kernel

theorem test_witness_firmware_arrives : (refreshAcks (arriving kindle1)).boot.recv = some kindle1 ∧ kindle1.next = 1 ∧ kindle1.source = 2 ∧
    bit notice1 64 = true ∧ fld notice1 15 0 = 1 ∧ fld notice1 63 32 = 0xFFFFFFFF ∧ kindle1.next < kindle1.blocks ∧ slotFree (forwards (refreshAcks (arriving kindle1)) kindle1) kindle1 1 = true ∧
    (arriving kindle1).mem.t1 = staged := by decide +kernel

theorem acks1 : refreshAcks (arriving kindle1) = arriving kindle1 := by
  have e : refreshAcks (arriving kindle1) =
    { arriving kindle1 with boot := { (arriving kindle1).boot with recv := (refreshAcks (arriving kindle1)).boot.recv } } := rfl
  rw [e, test_witness_firmware_arrives.1]
  rfl

theorem test_witness_firmware_checked (crc : Nat) : fine (blockStatus (refreshAcks (arriving kindle1)) kindle1 1 crc
    (dataBytes (placeRead (arriving kindle1) (slotAddr (arriving kindle1) 1) blockSize))) = decide (crc = 0xFFFFFFFF) := by
  rw [acks1, block1 _ rfl rfl]
  exact status1 _ _ crc rfl rfl rfl

/-- A reception of block 1 over PCIe of which block 0 is in flash, at a module that forwards it to its child. -/
def relay (c : Child) : Recv := recv1 1 1 c

theorem test_witness_firmware_programs : (refreshAcks (arriving kindle1)).boot.recv = some kindle1 ∧ kindle1.inFlash < kindle1.next ∧
    (arriving kindle1).boot.flash.banks[bankIx (!(arriving kindle1).boot.bank)] = .written .empty := by decide +kernel

theorem test_witness_firmware_forwards : (refreshAcks (arriving (relay (child 0)))).boot.recv = some (relay (child 0)) ∧
    (relay (child 0)).children[0]? = some (child 0) ∧ (arriving (relay (child 0))).boot.kindleChildren[0]? = some 5 ∧
    (child 0).dropped = false ∧ (child 0).pushed < (relay (child 0)).next ∧ (child 0).pushed < (child 0).acked + 64 := by decide +kernel

theorem test_witness_firmware_relays : forwards (refreshAcks (arriving (relay (child 0)))) (relay (child 0)) = true := by
  have h : recvHeader (refreshAcks (arriving (relay (child 0)))) (relay (child 0)) = bankBlock (.written .empty) 0 := rfl
  have b : imBound (bankBlock (.written .empty) 0) = false := by simp [imBound, byteField_zeros _ _ _ (emptyBank_zeros 0)]
  rw [forwards, h, b]
  rfl

theorem test_witness_firmware_drops : (refreshAcks (arriving (relay (child 1)))).boot.recv = some (relay (child 1)) ∧
    (relay (child 1)).children[0]? = some (child 1) ∧ (child 1).dropped = false ∧ (child 1).acked < (child 1).pushed ∧
    (child 1).lastAck + 60000000000 ≤ (arriving (relay (child 1))).now := by decide +kernel

/-- A reception of which all blocks are in flash, at a module that forwards nothing. -/
def whole : Recv := { recv1 1 4 (child 0) with next := 4 }
/-- Its state. -/
def received : State :=
  { arriving whole with dict := { running.dict with keep := { running.dict.keep with roles := 1 } } }

theorem test_witness_firmware_verified : (refreshAcks received).boot.recv = some whole ∧ whole.blocks ≠ 0 ∧ whole.blocks ≤ whole.inFlash ∧
    forwards (refreshAcks received) whole = false := by decide +kernel

/-- A report that is being signed. -/
def signing : State := { running with boot := { running.boot with signing := some [1, 2] } }

theorem test_witness_attestation : signing.boot.signing = some [1, 2] := rfl
/-- A FW_BLOCK of block 1. -/
def blockSlot : Slot := slot 0x50 32 noStep (1 + 0x810000 * 2 ^ 64 + 0xFFFFFFFF * 2 ^ 128)
/-- A reception over PCIe whose next block is 1. -/
def pcie1 : Recv := recv1 1 0 (child 0)
/-- A part of block 1, of 2 KiB. -/
def part1 (a : Nat) : Data := clean (if a = 0x810000 then ones4 ++ List.replicate 2044 0 else List.replicate 2048 0)
/-- The accesses that read it, which have ended. -/
def reads1 : List MReq := (pieces 0x810000 65536).map fun p => {
  id := p.1, who := whoFront, write := false, tier := 1, pa := p.1, node := 0, len := 2048, data := [], act := none, state := .ended .ok (part1 p.1) }
/-- The device with them. -/
def loading : State :=
  let s := mapped { arriving pcie1 with host := { running.host with dev := .updating } }
  { s with mem := { s.mem with
      io := (pieces 0x810000 65536).map fun p => { who := whoFront, key := opKey kCheck 0, write := false, dva := p.1, len := p.2, req := p.1 }
      requests := reads1 } }
/-- The device after the read of the block. -/
def blockRead : State := ioForget whoFront (opKey kCheck 0) loading

/-- The pieces of an access that have all ended make it done: a fold that joins them. -/
theorem access_done (F : State × IoRes → Nat × Nat → State × IoRes) (P : Nat × Nat → State → State × IoRes)
    (hF : ∀ s ds p d, P p s = (s, .done [d]) → F (s, .done ds) p = (s, .done (ds ++ [d]))) (f : Nat × Nat → Data) (s : State) (ps : List (Nat × Nat)) :
    ∀ ds, (∀ p ∈ ps, P p s = (s, .done [f p])) → ps.foldl F (s, .done ds) = (s, .done (ds ++ ps.map f)) := by
  induction ps with
  | nil => intro ds _; simp
  | cons p ps ih =>
    intro ds h
    rw [List.foldl_cons, hF _ _ _ _ (h p (by simp)), ih _ fun p hp => h p (by simp [hp])]
    simp

/-- An operation of one access whose pieces have all ended is done. -/
theorem operation_done (c : AccClass) (who key : Nat) (op : IoOp) (f : Nat × Nat → Data) (s : State) (w : op.whole = false)
    (h : ∀ p ∈ pieces op.dva op.len, ∃ q, ioFind s who key op.write p.1 p.2 = some q ∧ reqRes s q.req = .done [f p]) :
    ioMany c who key [op] s = (ioForget who key s, .done [((pieces op.dva op.len).map f).flatten]) := by
  let P (p : Nat × Nat) (s : State) : State × IoRes := ioPiece c who key op p.1 p.2 (dslice op.data (p.1 - op.dva) p.2) s
  have g := access_done (fun acc p => ((P p acc.1).1, acc.2.join (P p acc.1).2)) P (fun s ds p d h => by simp only [h, IoRes.join])
    f s (pieces op.dva op.len) [] fun p hp => by
      obtain ⟨q, hq, hr⟩ := h p hp
      simp only [P, ioPiece, hq, hr]
  have a : ioAccess c who key op s = (s, .done [((pieces op.dva op.len).map f).flatten]) := by
    simp only [ioAccess, w, P] at g ⊢
    simp only [Bool.false_eq_true, if_false, g, List.nil_append]
  simp only [ioMany, List.foldl_cons, List.foldl_nil, a, IoRes.join, List.nil_append]

/-- A request of a list of requests whose numbers rise is found by its number. -/
theorem found_in_map (f : Nat × Nat → MReq) (hf : ∀ p, (f p).id = p.1) (ps : List (Nat × Nat)) (h : (ps.map Prod.fst).Nodup) :
    ∀ p ∈ ps, (ps.map f).find? (fun r => r.id == p.1) = some (f p) := by
  induction ps with
  | nil => simp
  | cons q ps ih =>
    intro p hp
    rw [List.map_cons, List.find?_cons]
    rw [List.map_cons, List.nodup_cons] at h
    rcases List.mem_cons.1 hp with rfl | hp
    · simp [hf]
    · have : q.1 ≠ p.1 := fun e => h.1 (e ▸ List.mem_map_of_mem hp)
      simp only [hf, beq_eq_false_iff_ne.2 this]
      exact ih h.2 p hp

theorem pieces1 : pieces 0x810000 65536 = (List.range 32).map fun i => (0x810000 + 2048 * i, 2048) := by decide +kernel

theorem loading_ended (p : Nat × Nat) (hp : p ∈ pieces 0x810000 65536) : reqRes loading p.1 = .done [part1 p.1] := by
  have h : findReq loading p.1 = some _ := found_in_map (fun p => {
    id := p.1, who := whoFront, write := false, tier := 1, pa := p.1, node := 0, len := 2048, data := [], act := none, state := .ended .ok (part1 p.1) })
    (fun _ => rfl) _ (by decide +kernel) p hp
  simp [reqRes, reqEnded, h, fine]

theorem loading_block : ioMany .cmd whoFront (opKey kCheck 0) [(ioRead 0x810000 blockSize).stack] loading =
    (blockRead, .done [clean (ones4 ++ List.replicate 65532 0)]) := by
  have b : blockSize = 65536 := rfl
  have f : ∀ p ∈ pieces 0x810000 65536, ∃ q, ioFind loading whoFront (opKey kCheck 0) false p.1 p.2 = some q ∧ q.req = p.1 := by
    have h : ((pieces 0x810000 65536).all fun p =>
      (ioFind loading whoFront (opKey kCheck 0) false p.1 p.2).map (fun q => q.req) == some p.1) = true := by decide +kernel
    intro p hp
    have := List.all_eq_true.1 h p hp
    obtain ⟨q, hq, e⟩ := Option.map_eq_some_iff.1 (beq_iff_eq.1 this)
    exact ⟨q, hq, e⟩
  have e : ((pieces 0x810000 65536).map fun p => part1 p.1).flatten = clean (ones4 ++ List.replicate 65532 0) := by
    have r : List.range 32 = 0 :: (List.range 31).map Nat.succ := List.range_succ_eq_map
    have z : (fun i => part1 (0x810000 + 2048 * (i + 1))) = fun _ => clean (List.replicate 2048 0) := by
      funext i
      rw [part1, if_neg (by omega)]
    have c (n : Nat) : clean (List.replicate n 0) = List.replicate n (0, false) := by rw [clean, List.map_replicate]
    have n : 2044 + 31 * 2048 = 65532 := by omega
    have j (a b : List Byte) : clean (a ++ b) = clean a ++ clean b := by rw [clean, List.map_append, clean, clean]
    have o : part1 (0x810000 + 2048 * 0) = clean ones4 ++ List.replicate 2044 (0, false) := by
      rw [part1, if_pos (by omega), j, c]
    rw [pieces1, List.map_map, r, List.map_cons, List.map_map]
    have k : ((fun p : Nat × Nat => part1 p.1) ∘ fun i => (0x810000 + 2048 * i, 2048)) ∘ Nat.succ =
      fun i => part1 (0x810000 + 2048 * (i + 1)) := by funext i; simp only [Function.comp_apply, Nat.succ_eq_add_one]
    rw [k, z, c, List.map_const', List.length_range, List.flatten_cons, List.flatten_replicate_replicate, Function.comp_apply, o,
      List.append_assoc, List.replicate_append_replicate, n, j, c]
  have g := operation_done .cmd whoFront (opKey kCheck 0) (ioRead 0x810000 blockSize).stack (fun p => part1 p.1) loading rfl fun p hp => by
    obtain ⟨q, hq, e⟩ := f p hp
    exact ⟨q, hq, e ▸ loading_ended p hp⟩
  rw [g]
  exact congrArg (fun d => (blockRead, IoRes.done [d])) e

theorem fwBlock_checks : fwBlockCheck 0 blockSlot loading = (blockRead, .admitWith ((ones4 ++ List.replicate 65532 0).map BitVec.toNat)) := by
  have k : fbBlock blockSlot = 1 := by decide +kernel
  have a : fbSrc blockSlot = 0x810000 := by decide +kernel
  have c : fld blockSlot.pay 159 128 = 0xFFFFFFFF := by decide +kernel
  have r : loading.boot.recv = some pcie1 := rfl
  have d : checks [
    (fld blockSlot.pay 63 16 != 0 || fld blockSlot.pay 127 112 != 0 || fld blockSlot.pay 255 160 != 0 || fbSrc blockSlot % 64 != 0, .malformed),
    (!hasRole loading 0, .accessDenied), stepRules loading blockSlot,
    (!((loading.boot.recv.map fun r => r.source) == some 1) || decide (fbBlock blockSlot > (loading.boot.recv.map fun r => r.next).getD 0), .stateConflict),
    (decide (fbBlock blockSlot < (loading.boot.recv.map fun r => r.next).getD 0), .okNoOp),
    (decide (fbBlock blockSlot ≥ 896) || ((loading.boot.recv.map fun r => r.blocks).getD 0 != 0 &&
      decide (fbBlock blockSlot ≥ (loading.boot.recv.map fun r => r.blocks).getD 0)), .addressRange)] = .accept := by
    decide +kernel
  have f (b : Bool) : slotFree b pcie1 1 = true := rfl
  have t : blockRead.mem.t1 = staged ∧ blockRead.boot.kindleArea = 0x800000 := by decide +kernel
  have g := status1 blockRead pcie1 0xFFFFFFFF t.1 t.2 rfl
  have p (bs : List Byte) : poisoned (clean bs) = false ∧ dataBytes (clean bs) = bs := by
    simp [poisoned, clean, dataBytes, Function.comp_def]
  simp only [fwBlockCheck]
  rw [d, r]
  simp only [k, a, c, f, Fin.val_zero, loading_block, fwBlockData, IoRes.data, p, g]
  rfl

theorem test_witness_fw_block : Passes fwBlockCheck 0x50 0 blockSlot ((ones4 ++ List.replicate 65532 0).map BitVec.toNat) loading blockRead :=
  ⟨by decide +kernel, .inr fwBlock_checks, by decide +kernel, by decide +kernel⟩

theorem test_witness_fw_block_begins : mayBegin blockRead blockSlot (slotStep blockRead blockSlot) = true := by decide +kernel

end Sys2Proof.Tests
end

section
/-!
SUPPORT. The host interface: the front-end reset of a module whose MERGE has failed (R47, R351, R382), the registers of the queues and regions
(R356, R357, R380), and a read of BAR2 whose number another request bears (R355).
-/
namespace Sys2Proof.Machine

/-! ### A front-end reset that meets a failed MERGE -/

/-- Step 5, in OPEN and not sealed. -/
def openStep5 : Step :=
  { num := 5, ring := 0, profile := 0, early := false, record := false, recordDva := 0, group := 0, state := .stOpen, closedToWork := false,
    endCmd := none, forceSkip := false, errSkip := false, voteSent := false, abort := none, abortHeld := false, exchDead := false,
    decision := none, lossScale := 0, norms := [], earlies := [], item := .item1, torn := none, publishFail := none, outcome := .stillOpen,
    recordWait := none }

/-- A MERGE of step 5 on engines 0 and 1, in flight. -/
def mergeOfStep5 : Cmd :=
  { id := 0, sq := 0, slot := { hdr := 0x29 + 6 * 2 ^ 20 + 5 * 2 ^ 32 + 16 * 2 ^ 48, pay := 3 }, step := some 5, started := true, xorder := 0,
    info := [], redo := false }

/-- A running module whose MERGE has met UNCORRECTABLE on engine 1 and waits for engine 0, which is not sealed. The statement does not
exclude it, although a MERGE seals its engines when it begins (R214). -/
def mergeHasFailed : State :=
  { State.reset with
    host := { HostIf.reset with dev := .running, cmds := [mergeOfStep5], nextCmd := 1 }
    train := { Train.reset with steps := [openStep5] }
    rows := { Rows.reset with merges := [{ cmd := 0, step := 5, left := [0], failed := some .uncorrectable }] } }

/-- The reset seals the step first: that ends the MERGE, and its failure aborts the step (R31, R45). The abort with outcome HELD (R47) then
finds the step aborting and leaves it as it is. -/
theorem frontEndReset_mergeHasFailed :
    (findStep (frontEndReset (clearConfigSpace mergeHasFailed)) 5).map (fun p => (p.state, p.closedToWork, p.abort, p.abortHeld)) =
      some (.aborting, true, some .uncorrectable, false) := by decide +kernel

/-- Refutes O44: a hot reset of `mergeHasFailed` leaves its open step aborting with UNCORRECTABLE and not with the outcome HELD. -/
theorem not_frontEndResets : ¬ Obligations.FrontEndResets := by
  unfold Obligations.FrontEndResets
  intro h
  obtain ⟨-, -, -, hOpen, -⟩ := h mergeHasFailed (by decide +kernel)
  obtain ⟨u, hu, -, hstep⟩ := hOpen openStep5 rfl rfl rfl
  obtain rfl : frontEndReset (clearConfigSpace mergeHasFailed) = u := Host.Outcome.next.inj hu
  exact absurd (frontEndReset_mergeHasFailed.symm.trans hstep) (by decide)

/-! ### Events -/

/-- A raised vector moves the pending bits and what leaves the module alone (R350). -/
theorem raiseVector_eq (v : BitVec 8) (s : State) : ∃ pba out,
    raiseVector v s = { s with out := out, host := { s.host with bar0 := { s.host.bar0 with pba := pba } } } := by
  unfold raiseVector
  dsimp only
  split
  · exact ⟨_, s.out, rfl⟩
  · exact ⟨s.host.bar0.pba, _, rfl⟩

/-- A set event moves beside its bit only what its vector moves (R354). -/
theorem setEvent_eq (k : Nat) (s : State) : ∃ pba out,
    setEvent k s = { s with out := out, host := { s.host with bar0 := { s.host.bar0 with
      events := s.host.bar0.events ||| (1#4 <<< k), pba := pba } } } := by
  unfold setEvent
  dsimp only
  split
  · obtain ⟨pba, out, e⟩ := raiseVector_eq s.host.bar0.eventVector
      { s with host := { s.host with bar0 := { s.host.bar0 with events := s.host.bar0.events ||| (1#4 <<< k) } } }
    exact ⟨pba, out, e⟩
  · exact ⟨s.host.bar0.pba, s.out, rfl⟩

/-- An event's bit is set. -/
theorem bit_setEvent {k : Nat} (hk : k < 4) (s : State) : bit (setEvent k s).host.bar0.events k = true := by
  obtain ⟨pba, out, e⟩ := setEvent_eq k s
  rw [e]
  have h : 2 ^ k < 16 := Nat.pow_lt_pow_right (by decide) hk
  simp [bit, Nat.shiftLeft_eq, Nat.mod_eq_of_lt h]

/-- An event moves the host interface and what leaves the module. -/
theorem sameBut_setEvent (k : Nat) (s : State) : SameBut [.host, .out] s (setEvent k s) := by
  obtain ⟨pba, out, e⟩ := setEvent_eq k s
  rw [e]
  exact ⟨rfl, fun p hp => by cases p <;> simp at hp <;> rfl⟩

@[simp] theorem setEvent_sqs (k : Nat) (s : State) : (setEvent k s).host.sqs = s.host.sqs := by
  obtain ⟨pba, out, e⟩ := setEvent_eq k s
  rw [e]

@[simp] theorem setEvent_cqs (k : Nat) (s : State) : (setEvent k s).host.cqs = s.host.cqs := by
  obtain ⟨pba, out, e⟩ := setEvent_eq k s
  rw [e]

/-! ### The registers of the queues -/

/-- Two changes of a queue that agree on the queue as it stands are one. -/
theorem updSq_congr {q : Fin 64} {f g : SQueue → SQueue} {s : State} (h : f s.host.sqs[q] = g s.host.sqs[q]) : updSq q f s = updSq q g s := by
  simp only [updSq, updHost, updAt, h]

@[inherit_doc updSq_congr] theorem updCq_congr {q : Fin 64} {f g : CQueue → CQueue} {s : State} (h : f s.host.cqs[q] = g s.host.cqs[q]) :
    updCq q f s = updCq q g s := by
  simp only [updCq, updHost, updAt, h]

/-- A change that leaves the queue as it is leaves the state as it is. -/
theorem updSq_id {q : Fin 64} {f : SQueue → SQueue} {s : State} (h : f s.host.sqs[q] = s.host.sqs[q]) : updSq q f s = s := by
  simp only [updSq, updHost, updAt_self _ _ _ h]

/-- A change of the host interface moves the host interface alone. -/
theorem sameBut_updHost (f : HostIf → HostIf) (s : State) : SameBut [.host] s (updHost f s) :=
  ⟨rfl, fun p hp => by cases p <;> simp at hp <;> rfl⟩

/-- A queue that fails changes like a queue that is written, and sets its event (R357). -/
theorem disableSq_eq (q : Fin 64) (s : State) :
    disableSq q s = setEvent 1 (updSq q (fun x => { x with enable := false, waiting := none }) s) := rfl

/-- SIZE_LOG2 as it is written is SIZE_LOG2 as it is kept (R356). -/
theorem sizeLog2_toNat (v : BitVec 64) : (BitVec.ofNat 4 (fld v 3 0)).toNat = fld v 3 0 := by
  rw [BitVec.toNat_ofNat]
  exact Nat.mod_eq_of_lt (Nat.mod_lt _ (by decide))

/-- BASE of a submission queue is written while ENABLE is 0 (R356). -/
theorem exec_sqConfigWrite_base {s : State} (hb : bar0Open s = true) (q : Fin 64) (v : BitVec 64) :
    exec (.sqConfigWrite q 0 v) s = .next (updSq q (fun x => if x.enable then x else { x with base := v }) s) := by
  show execSqConfigWrite q 0 v s = _
  simp only [execSqConfigWrite, hb, go]
  rfl

/-- The second word of a submission queue's configuration (R356). -/
theorem exec_sqConfigWrite_size {s : State} (hb : bar0Open s = true) (q : Fin 64) (v : BitVec 64) :
    exec (.sqConfigWrite q 1 v) s = .next (updSq q (fun x =>
      let y := if x.enable then x
        else { x with sizeLog2 := BitVec.ofNat 4 (fld v 3 0), cq := BitVec.ofNat 6 (fld v 9 4), weight := BitVec.ofNat 4 (fld v 13 10) }
      let on := bit v 14 && (x.enable || mayEnable s y.sizeLog2.toNat)
      { y with enable := on, waiting := if on then y.waiting else none }) s) := by
  show execSqConfigWrite q 1 v s = _
  simp only [execSqConfigWrite, hb, go]
  rfl

/-- BASE of a completion queue is written while ENABLE is 0 (R356). -/
theorem exec_cqConfigWrite_base {s : State} (hb : bar0Open s = true) (q : Fin 64) (v : BitVec 64) :
    exec (.cqConfigWrite q 0 v) s = .next (updCq q (fun x => if x.enable then x else { x with base := v }) s) := by
  show execCqConfigWrite q 0 v s = _
  simp only [execCqConfigWrite, hb, go]
  rfl

/-- The second word of a completion queue's configuration (R356). -/
theorem exec_cqConfigWrite_size {s : State} (hb : bar0Open s = true) (q : Fin 64) (v : BitVec 64) :
    exec (.cqConfigWrite q 1 v) s = .next (updCq q (fun x =>
      let y := if x.enable then x
        else { x with
          sizeLog2 := BitVec.ofNat 4 (fld v 3 0), vector := BitVec.ofNat 8 (fld v 11 4), irqCount := BitVec.ofNat 16 (fld v 47 32),
          irqDelay := BitVec.ofNat 16 (fld v 63 48) }
      { y with enable := bit v 12 && (x.enable || mayEnable s y.sizeLog2.toNat) }) s) := by
  show execCqConfigWrite q 1 v s = _
  simp only [execCqConfigWrite, hb, go]
  rfl

/-- A TAIL doorbell moves TAIL, or disables the queue where the index is too large (R357). -/
theorem exec_sqTailDoorbell {s : State} (hb : bar0Open s = true) (q : Fin 64) (v : BitVec 64) :
    exec (.sqTailDoorbell q v) s = .next (if queueSize s.host.sqs[q].sizeLog2 ≤ fld v 15 0 then disableSq q s
      else updSq q (fun x => { x with tail := BitVec.ofNat 16 (fld v 15 0), rung := true }) s) := by
  show execSqTailDoorbell q v s = _
  simp only [execSqTailDoorbell, hb, go]
  rfl

/-- A HEAD doorbell moves HEAD, or disables the queue where the index is too large (R357). -/
theorem exec_cqHeadDoorbell {s : State} (hb : bar0Open s = true) (q : Fin 64) (v : BitVec 64) :
    exec (.cqHeadDoorbell q v) s = .next (if queueSize s.host.cqs[q].sizeLog2 ≤ fld v 15 0 then
        setEvent 1 (updCq q (fun x => { x with enable := false }) s)
      else updCq q (fun x => { x with head := BitVec.ofNat 16 (fld v 15 0) }) s) := by
  show execCqHeadDoorbell q v s = _
  simp only [execCqHeadDoorbell, hb, go]
  rfl

/-- Queue registers and doorbells do what the statement on them says (R356, R357, R383). -/
theorem queuesConfigured : Claims.QueuesConfigured := by
  intro s q v hb
  dsimp only
  rw [exec_sqConfigWrite_base hb, exec_sqConfigWrite_size hb, exec_cqConfigWrite_base hb, exec_cqConfigWrite_size hb, exec_sqTailDoorbell hb,
    exec_cqHeadDoorbell hb]
  refine ⟨fun h => ?_, fun h => ?_, fun h => ?_, fun h hv => ?_, fun h => ?_, fun h => ?_, fun h hv => ?_, fun h => ?_, fun h => ?_,
    fun h => ?_, fun h => ?_, ?_⟩
  · exact congrArg _ (updSq_congr (if_neg (by simp only [h]; decide)))
  · exact congrArg _ (updSq_id (if_pos h))
  · refine congrArg _ (updSq_congr ?_)
    simp only [h, sizeLog2_toNat, Bool.false_or, Bool.false_eq_true, if_false]
  · refine congrArg _ (updSq_congr ?_)
    simp only [h, hv, if_true, Bool.false_and, Bool.false_eq_true, if_false]
  · exact congrArg _ (updCq_congr (if_neg (by simp only [h]; decide)))
  · refine congrArg _ (updCq_congr ?_)
    simp only [h, sizeLog2_toNat, Bool.false_or, Bool.false_eq_true, if_false]
  · refine congrArg _ (updCq_congr ?_)
    simp only [h, hv, if_true, Bool.false_and]
  · rw [if_neg (Nat.not_le.mpr h)]
  · rw [if_pos h, disableSq_eq]
    exact ⟨_, rfl, bit_setEvent (by decide) _, setEvent_sqs 1 _,
      sameBut_trans (sameBut_weaken (sameBut_updHost _ s) (by simp)) (sameBut_setEvent 1 _)⟩
  · rw [if_neg (Nat.not_le.mpr h)]
  · rw [if_pos h]
    exact ⟨_, rfl, bit_setEvent (by decide) _, setEvent_cqs 1 _,
      sameBut_trans (sameBut_weaken (sameBut_updHost _ s) (by simp)) (sameBut_setEvent 1 _)⟩
  · show execHeartbeat v s = _
    simp only [execHeartbeat, hb, go]
    rfl

/-! ### The regions -/

/-- A tag address that the session takes (R380): zero clears the region, and any other is read. -/
theorem exec_regionTagAddrWrite {s : State} {v : BitVec 64} (hr : s.host.session.reading = none)
    (hd : s.host.dev = .running ∨ s.host.dev = .held) (hv : v.toNat % 64 = 0) :
    exec (.regionTagAddrWrite v) s = .next (
      if v = 0 then updRegion (fin (min s.host.session.select.toNat 191)) (fun _ => .none) (updSession (fun x => { x with tagAddr := v }) s)
      else emit (.hostRead v.toNat 64) (updSession (fun x => { x with
        tagAddr := v, reading := some (fin (min s.host.session.select.toNat 191)) }) s)) := by
  have htaken : ¬ (s.host.session.reading.isSome ∨ (s.host.dev ≠ .running ∧ s.host.dev ≠ .held) ∨ v.toNat % 64 ≠ 0) := by
    rcases hd with h | h <;> simp [h, hr, hv]
  show execRegionTagAddrWrite v s = _
  rw [execRegionTagAddrWrite, if_neg htaken]
  rfl

/-- Region registers do what the statement on them says (R380). -/
theorem regionsRegistered : Claims.RegionsRegistered := by
  refine fun s => ⟨fun hr hd => ⟨?_, fun v hv h64 => ?_⟩, fun j r hj => ⟨fun hd => ?_, fun hd => ?_⟩⟩
  · rw [exec_regionTagAddrWrite hr hd rfl, if_pos rfl]
  · rw [exec_regionTagAddrWrite hr hd h64, if_neg hv]
  all_goals
    show execRegionHeaderRead r s = _
    simp only [execRegionHeaderRead, hj, updSession, updHost, updRegion, updAt, hd, go]

/-! ### A BAR2 read whose number another request bears -/

/-- The one piece of a BAR2 read, which waits for its channel. -/
def bar2Piece : MReq :=
  { id := 3, who := whoFront, write := false, tier := 1, pa := 0x100, node := 0, len := 32, data := [], act := some (.bar2 2 1), state := .waiting }

/-- Its entry in the channel. -/
def bar2Entry : ChanEntry :=
  { id := 3, pa := 0x100, len := 32, write := false, part := false, arrived := 0, taken := true, data := [] }

/-- A BAR2 read, and behind it a request of a unit that bears the same number. -/
def numberTwice : State :=
  { State.reset with mem := { MemSys.reset with
      requests := [bar2Piece, { bar2Piece with act := none }]
      stackCtl := { MemSys.reset.stackCtl with queue := [bar2Entry] } } }

/-- The channel serves the BAR2 read next. -/
theorem nextRequest_numberTwice : nextRequest numberTwice (channelQueue numberTwice 0 0) = some bar2Entry := by decide +kernel

/-- Once it is served and answered, its number still names the other request. -/
theorem findReq_serve_numberTwice : findReq (serveRequest bar2Entry [] numberTwice) bar2Entry.id ≠ none := by decide +kernel

/-- The statement on BAR2 fails: a read that is served and answered is said to leave no request of its number, but nothing in it says that
numbers are given once. -/
theorem not_bar2Accessed : ¬ Claims.Bar2Accessed := by
  intro h
  obtain ⟨-, -, hServed⟩ := h numberTwice 0 0 [] false
  obtain ⟨u, hu, -, hgone, -⟩ :=
    hServed 0 0 bar2Entry bar2Piece 2 rfl nextRequest_numberTwice (by decide +kernel) rfl rfl rfl rfl rfl
  have hrun : exec (.memRequest 0 0 []) numberTwice = .next (serveRequest bar2Entry [] numberTwice) := by
    show execMemRequest 0 0 [] numberTwice = _
    rw [execMemRequest, nextRequest_numberTwice]
    rfl
  obtain rfl : serveRequest bar2Entry [] numberTwice = u := Host.Outcome.next.inj (hrun.symm.trans hu)
  exact findReq_serve_numberTwice hgone

/-- Refutes O45: its part on BAR2 fails where another request bears the number of the read that is served. -/
theorem not_queuesAndRegions : ¬ Obligations.QueuesAndRegions := by
  rintro ⟨-, -, hBar2⟩
  exact not_bar2Accessed hBar2

end Sys2Proof.Machine
end

section
/-!
SUPPORT. What leaves the ring of phase records alone (R51, R54): one lemma for each function of the model that does not touch it, after
those under Sys2Proof/Laws. Functions that may have no result have theirs from the result.
-/
namespace Sys2Proof.Machine

/-- A state whose ring of phase records is that of `s`. A proof that has to see through a long body does so under this
name, where a change of the term is checked on the states and not on their rings. -/
def KeepsRing (s u : State) : Prop := u.train.ring = s.train.ring

theorem KeepsRing.trans {s t u : State} (h : KeepsRing s t) (k : KeepsRing t u) : KeepsRing s u := Eq.trans k h

theorem foldl_keepsRing {α : Type} (l : List α) (f : State → α → State) (s : State) (h : ∀ s x, KeepsRing s (f s x)) :
    (l.foldl f s).train.ring = s.train.ring := foldl_ring l f s h

/-- A fold that carries a result beside the state leaves the ring alone where each of its steps does. -/
theorem foldl_fst_ring {α β : Type} (l : List α) (f : State × β → α → State × β) (p : State × β)
    (h : ∀ p x, (f p x).1.train.ring = p.1.train.ring) : (l.foldl f p).1.train.ring = p.1.train.ring := by
  induction l generalizing p with
  | nil => rfl
  | cons x xs ih => rw [List.foldl_cons, ih, h]

@[simp] theorem waitCycle_ring (s : State) : (waitCycle s).train.ring = s.train.ring := by
  unfold waitCycle; split <;> simp
@[simp] theorem updRecv_ring (f : Recv → Recv) (s : State) : (updRecv f s).train.ring = s.train.ring := rfl
theorem sendPacket_ring {set : PortSet} {p : Packet} {s u : State} (h : sendPacket set p s = some u) : u.train.ring = s.train.ring := by
  unfold sendPacket at h
  split at h
  · cases h; rfl
  · obtain ⟨q, -, rfl⟩ := Option.map_eq_some_iff.mp h; rfl
@[simp] theorem ownWrite_ring (t : Fin 128) (a n : Nat) (s : State) : (ownWrite t a n s).train.ring = s.train.ring := rfl
@[simp] theorem noteOwn_ring (who a n : Nat) (s : State) : (noteOwn who a n s).train.ring = s.train.ring := by
  unfold noteOwn; (repeat' split) <;> simp
@[simp] theorem readStack_ring (a n : Nat) (s : State) : (readStack a n s).1.train.ring = s.train.ring := by
  unfold readStack; split <;> simp
@[simp] theorem takeNext_ring (a : Nat) (s : State) : (takeNext a s).train.ring = s.train.ring := by
  unfold takeNext; split <;> simp
@[simp] theorem sendRemote_ring (u : Fin 4) (r : MReq) (s : State) : (sendRemote u r s).train.ring = s.train.ring := by
  obtain ⟨f, hf⟩ : ∃ f, f = sendRemote := ⟨_, rfl⟩
  obtain ⟨mk, hmk⟩ : ∃ mk, mk = mkPacket := ⟨_, rfl⟩
  rw [← hf]
  delta sendRemote at hf
  rw [← hmk] at hf
  subst hf
  dsimp only
  split
  · simp
  · next h => simp [sendPacket_ring h]
@[simp] theorem pumpRemote_ring (u : Fin 4) (s : State) : (pumpRemote u s).train.ring = s.train.ring := by
  unfold pumpRemote; dsimp only
  rw [foldl_ring _ _ _ fun s id => by split <;> simp, updUnit_ring]
@[simp] theorem postFor_ring (act : Option ReqAct) (c : AccClass) (who : Nat) (write : Bool) (e : XEntry) (n : Nat) (d : Data)
    (s : State) :
    (postFor act c who write e n d s).1.train.ring = s.train.ring := by
  unfold postFor; dsimp only; (repeat' split) <;> simp
@[simp] theorem kindleWrite_ring (node pa : Nat) (d : Data) (s : State) :
    (kindleWrite node pa d s).train.ring = s.train.ring := by simp [kindleWrite]
@[simp] theorem ackParent_ring (s : State) : (ackParent s).train.ring = s.train.ring := by
  unfold ackParent; dsimp only; (repeat' split) <;> simp
@[simp] theorem refreshAcks_ring (s : State) : (refreshAcks s).train.ring = s.train.ring := rfl
@[simp] theorem kindleGoesOn_ring (s : State) : (kindleGoesOn s).train.ring = s.train.ring := by
  unfold kindleGoesOn; split <;> simp
@[simp] theorem advanceRoutes_ring (p : RouteWrite → Bool) (n : Nat) (s : State) : (advanceRoutes p n s).train.ring = s.train.ring := rfl
@[simp] theorem routesGoOn_ring (s : State) : (routesGoOn s).train.ring = s.train.ring := by
  unfold routesGoOn; split <;> simp
@[simp] theorem mgmtCount_ring (f : MgmtCounters → MgmtCounters) (s : State) : (mgmtCount f s).train.ring = s.train.ring := rfl
@[simp] theorem sendVmp_ring (ch : Chan) (m : Vmp) (s : State) : (sendVmp ch m s).train.ring = s.train.ring := by
  unfold sendVmp; dsimp only; (repeat' split) <;> simp
@[simp] theorem updChan_ring (ch : Chan) (f : ChanState → ChanState) (s : State) : (updChan ch f s).train.ring = s.train.ring := rfl
@[simp] theorem respond_ring (ch : Chan) (req : BitVec 256) (m : Vmp) (s : State) : (respond ch req m s).train.ring = s.train.ring := by
  unfold respond; split <;> simp
@[simp] theorem respondStatus_ring (c : Chan) (m : Vmp) (st : Status) (s : State) :
    (respondStatus c m st s).train.ring = s.train.ring := by simp [respondStatus]
@[simp] theorem countBad_ring (c : Chan) (s : State) : (countBad c s).train.ring = s.train.ring := by
  unfold countBad; split <;> simp
@[simp] theorem serveVmp_ring (c : Chan) (m : Vmp) (f : State → State) (s : State) (h : ∀ s, (f s).train.ring = s.train.ring) :
    (serveVmp c m f s).train.ring = s.train.ring := by
  unfold serveVmp; (repeat' split) <;> simp [h]
@[simp] theorem updKeep_ring (f : Persistent → Persistent) (s : State) : (updKeep f s).train.ring = s.train.ring := rfl
@[simp] theorem startAction_ring (index sub : Nat) (s : State) : (startAction index sub s).train.ring = s.train.ring := rfl
@[simp] theorem scheduleReset_ring (c : Chan) (s : State) : (scheduleReset c s).train.ring = s.train.ring := rfl
@[simp] theorem startMode_ring (m : BitVec 8) (s : State) : (startMode m s).train.ring = s.train.ring := by
  unfold startMode; split <;> simp
@[simp] theorem writeMode_ring (n : Nat) (s : State) : (writeMode n s).1.train.ring = s.train.ring := by
  unfold writeMode; dsimp only; split <;> simp
@[simp] theorem writePark_ring (n : Nat) (s : State) : (writePark n s).1.train.ring = s.train.ring := by
  unfold writePark; split <;> simp
@[simp] theorem afterWalks_ring (s : State) : (afterWalks s).1.train.ring = s.train.ring := rfl
@[simp] theorem invalidate_ring (p : Nat → Bool) (s : State) : (invalidate p s).train.ring = s.train.ring := rfl
@[simp] theorem setPtRoot_ring (v : BitVec 64) (s : State) : (setPtRoot v s).train.ring = s.train.ring := rfl
@[simp] theorem fenceTile_ring (t : Fin 128) (s : State) : (fenceTile t s).train.ring = s.train.ring := rfl
@[simp] theorem writeFence_ring (v : List Byte) (s : State) : (writeFence v s).1.train.ring = s.train.ring := by
  unfold writeFence; split <;> simp
@[simp] theorem unfenceTile_ring (t : Fin 128) (s : State) : (unfenceTile t s).train.ring = s.train.ring := rfl
@[simp] theorem writeUnfence_ring (v : List Byte) (s : State) : (writeUnfence v s).1.train.ring = s.train.ring := by
  unfold writeUnfence; split <;> simp
@[simp] theorem setEmberSets_ring (n : Nat) (s : State) : (setEmberSets n s).train.ring = s.train.ring := rfl
@[simp] theorem changeRegion_ring (cur : RowObjects → Vector (BitVec 64) 16) (put : Vector (BitVec 64) 16 → RowObjects → RowObjects)
    (anew : Engine → Engine) (xs : List Nat) (s : State) : (changeRegion cur put anew xs s).train.ring = s.train.ring := by
  unfold changeRegion; dsimp only
  rw [foldl_ring _ _ _ fun _ _ => by simp, updRowObj_train]
@[simp] theorem setNodeId_ring (n : Nat) (s : State) : (setNodeId n s).train.ring = s.train.ring := by
  unfold setNodeId; dsimp only
  rw [foldl_ring _ _ _ fun _ _ => sendIdent_ring .., updDict_train]
@[simp] theorem rerouteAll_ring (xs : List (PortSet × Packet)) (s : State) : (rerouteAll xs s).train.ring = s.train.ring := by
  unfold rerouteAll
  rw [foldl_ring]
  intro s x
  split
  · next h => exact sendPacket_ring h
  · simp
@[simp] theorem dropPort_ring (st : PortState) (p : Fin 16) (s : State) : (dropPort st p s).train.ring = s.train.ring := by
  unfold dropPort; dsimp only; split <;> simp
@[simp] theorem settlePorts_ring (s : State) : (settlePorts s).train.ring = s.train.ring := by
  unfold settlePorts
  exact foldl_ring _ _ _ fun s p => by dsimp only; (repeat' split) <;> simp
@[simp] theorem finishRoutes_ring (index sub : Nat) (s : State) : (finishRoutes index sub s).train.ring = s.train.ring := rfl
@[simp] theorem takeSnapshot_ring (c : Chan) (s : State) : (takeSnapshot c s).train.ring = s.train.ring := rfl
@[simp] theorem updFlash_ring (f : Flash → Flash) (s : State) : (updFlash f s).train.ring = s.train.ring := rfl
@[simp] theorem writeBootRec_ring (f : BootRec → BootRec) (s : State) : (writeBootRec f s).train.ring = s.train.ring := by
  unfold writeBootRec; split <;> simp
@[simp] theorem startReceive_ring (source : Nat) (s : State) : (startReceive source s).train.ring = s.train.ring := by
  show KeepsRing s _
  unfold startReceive; dsimp only
  rw [KeepsRing, setDev_ring, startAction_ring, writeBootRec_ring, updFlash_ring, updBoot_train, placeWrite_ring]
@[simp] theorem endAction_ring (index sub : Nat) (st : Status) (s : State) : (endAction index sub st s).train.ring = s.train.ring := rfl
@[simp] theorem settleReady_ring (s : State) : (settleReady s).train.ring = s.train.ring := by
  unfold settleReady; split <;> simp
@[simp] theorem endReceive_ring (st : Status) (s : State) : (endReceive st s).train.ring = s.train.ring := by
  unfold endReceive; dsimp only; (repeat' split) <;> simp
@[simp] theorem activate_ring (s : State) : (activate s).train.ring = s.train.ring := by simp [activate]
@[simp] theorem writeInstall_ring (v : List Byte) (s : State) : (writeInstall v s).1.train.ring = s.train.ring := by
  unfold writeInstall; split <;> simp
@[simp] theorem extendMeas_ring (k : Fin 8) (d : List Byte) (s : State) : (extendMeas k d s).train.ring = s.train.ring := rfl
@[simp] theorem endHold_ring (s : State) : (endHold s).train.ring = s.train.ring := by
  unfold endHold
  rw [foldl_ring _ _ _ fun _ _ => by simp]
  simp
@[simp] theorem applyBootHold_ring (on : Bool) (s : State) : (applyBootHold on s).train.ring = s.train.ring := by
  unfold applyBootHold; (repeat' split) <;> simp
@[simp] theorem startSigning_ring (s : State) : (startSigning s).train.ring = s.train.ring := rfl
@[simp] theorem readLatch_ring (c : Chan) (m : Vmp) (l : ReadLatch) (s : State) : (readLatch c m l s).train.ring = s.train.ring := by
  unfold readLatch; dsimp only; split <;> simp
@[simp] theorem answerWrite_ring (w : WaitingWrite) (st : Status) (s : State) : (answerWrite w st s).train.ring = s.train.ring := by
  unfold answerWrite; split <;> simp
@[simp] theorem fieldOnly_ring (c : Chan) (m : Vmp) (f : State → State) (s : State) (h : ∀ s, (f s).train.ring = s.train.ring) :
    (fieldOnly c m f s).train.ring = s.train.ring := by
  unfold fieldOnly; split <;> simp [h]
@[simp] theorem postReq_ring (c : AccClass) (who : Nat) (write : Bool) (e : XEntry) (n : Nat) (d : Data) (s : State) :
    (postReq c who write e n d s).1.train.ring = s.train.ring := by simp [postReq]
@[simp] theorem settleServing_ring (s : State) : (settleServing s).train.ring = s.train.ring := by
  unfold settleServing; (repeat' split) <;> simp
@[simp] theorem serveMem_ring (write : Bool) (c : Chan) (m : Vmp) (s : State) : (serveMem write c m s).train.ring = s.train.ring := by
  unfold serveMem; dsimp only; split <;> simp
@[simp] theorem serveDiscover_ring (c : Chan) (m : Vmp) (s : State) :
    (serveDiscover c m s).train.ring = s.train.ring := by simp [serveDiscover]
@[simp] theorem serveUnknown_ring (c : Chan) (m : Vmp) (s : State) :
    (serveUnknown c m s).train.ring = s.train.ring := by simp [serveUnknown]
@[simp] theorem ioHold_ring (who key : Nat) (write : Bool) (a n : Nat) (p : State × Nat) :
    (ioHold who key write a n p).1.train.ring = p.1.train.ring := rfl
@[simp] theorem postFailed_ring (who : Nat) (st : Status) (s : State) : (postFailed who st s).1.train.ring = s.train.ring := rfl
@[simp] theorem ioPiece_ring (c : AccClass) (who key : Nat) (op : IoOp) (a n : Nat) (d : Data) (s : State) :
    (ioPiece c who key op a n d s).1.train.ring = s.train.ring := by
  unfold ioPiece; dsimp only; (repeat' split) <;> simp
@[simp] theorem ioAccess_ring (c : AccClass) (who key : Nat) (op : IoOp) (s : State) :
    (ioAccess c who key op s).1.train.ring = s.train.ring := by
  unfold ioAccess; dsimp only
  rw [foldl_fst_ring _ _ _ fun _ _ => by simp]
@[simp] theorem ioForget_ring (who key : Nat) (s : State) : (ioForget who key s).train.ring = s.train.ring := by simp [ioForget]
@[simp] theorem ioMany_ring (c : AccClass) (who key : Nat) (ops : List IoOp) (s : State) :
    (ioMany c who key ops s).1.train.ring = s.train.ring := by
  unfold ioMany; dsimp only
  split
  · rw [foldl_fst_ring _ _ _ fun _ _ => by simp]
  · rw [ioForget_ring, foldl_fst_ring _ _ _ fun _ _ => by simp]
@[simp] theorem settleReplica_ring (c : Coll) (st : Status) (s : State) : (settleReplica c st s).train.ring = s.train.ring := by
  unfold settleReplica; split <;> simp
@[simp] theorem settleNorm_ring (c : Coll) (s : State) : (settleNorm c s).train.ring = s.train.ring := by
  unfold settleNorm; (repeat' split) <;> simp
@[simp] theorem forgetColl_ring (u : Fin 4) (c : Coll) (s : State) : (forgetColl u c s).train.ring = s.train.ring := by simp [forgetColl]
@[simp] theorem updWcmd_ring (cmd : Nat) (f : WalkerCmd → WalkerCmd) (s : State) : (updWcmd cmd f s).train.ring = s.train.ring := rfl
@[simp] theorem dropWcmd_ring (cmd : Nat) (s : State) : (dropWcmd cmd s).train.ring = s.train.ring := rfl
@[simp] theorem endColl_ring (u : Fin 4) (c : Coll) (st : Status) (detail : Nat) (s : State) :
    (endColl u c st detail s).train.ring = s.train.ring := by simp [endColl]
@[simp] theorem sendCtrl_ring (c : Coll) (kind rank status body : Nat) (payload : Data) (s : State) :
    (sendCtrl c kind rank status body payload s).1.train.ring = s.train.ring := by
  obtain ⟨f, hf⟩ : ∃ f, f = sendCtrl := ⟨_, rfl⟩
  obtain ⟨mk, hmk⟩ : ∃ mk, mk = mkPacket := ⟨_, rfl⟩
  rw [← hf]
  delta sendCtrl at hf
  rw [← hmk] at hf
  subst hf
  dsimp only
  split
  · next h => exact sendPacket_ring h
  · rfl
@[simp] theorem sendAborts_ring (c : Coll) (at_ : Option Nat) (status : Nat) (s : State) :
    (sendAborts c at_ status s).train.ring = s.train.ring := by
  have h : ∀ s a, KeepsRing s (sendCtrl c 3 a (if at_ = some a then status else 0) 0 [] s).1 := fun _ _ => sendCtrl_ring ..
  unfold sendAborts
  exact foldl_keepsRing _ _ _ h
@[simp] theorem failColl_ring (u : Fin 4) (c : Coll) (st : Status) (rank : Nat) (s : State) :
    (failColl u c st rank s).train.ring = s.train.ring := by simp [failColl]
@[simp] theorem updColl_ring (u : Fin 4) (cmd : Nat) (f : Coll → Coll) (s : State) : (updColl u cmd f s).train.ring = s.train.ring := rfl
@[simp] theorem readSource_ring (u : Fin 4) (c : Coll) (s : State) : (readSource u c s).train.ring = s.train.ring := by
  unfold readSource; dsimp only; split <;> simp
@[simp] theorem updPlan_ring (u : Fin 4) (cmd : Nat) (recv : Bool) (peer shard : Nat) (f : PlanEntry → PlanEntry) (s : State) :
    (updPlan u cmd recv peer shard f s).train.ring = s.train.ring := rfl
@[simp] theorem shardWritten_ring (u : Fin 4) (c : Coll) (e : PlanEntry) (x : ShardWrite) (s : State) :
    (shardWritten u c e x s).train.ring = s.train.ring := by
  unfold shardWritten; dsimp only; (repeat' split) <;> simp
@[simp] theorem writeShard_ring (u : Fin 4) (cmd : Nat) (s : State) (x : ShardWrite) :
    (writeShard u cmd s x).train.ring = s.train.ring := by
  unfold writeShard; dsimp only; (repeat' split) <;> simp
@[simp] theorem sendData_ring (u : Fin 4) (c : Coll) (rank off : Nat) (first : Bool) (d : Data) (s : State) :
    (sendData u c rank off first d s).1.train.ring = s.train.ring := by
  obtain ⟨f, hf⟩ : ∃ f, f = sendData := ⟨_, rfl⟩
  obtain ⟨mk, hmk⟩ : ∃ mk, mk = mkPacket := ⟨_, rfl⟩
  rw [← hf]
  delta sendData at hf
  rw [← hmk] at hf
  subst hf
  refine foldl_fst_ring _ _ _ fun acc x => ?_
  dsimp only
  split
  · rfl
  · split
    · rfl
    · next h => exact (sendPacket_ring h :)
@[simp] theorem servePull_ring (u : Fin 4) (cmd : Nat) (s : State) (e : PlanEntry) : (servePull u cmd s e).train.ring = s.train.ring := by
  unfold servePull; dsimp only; (repeat' split) <;> simp
@[simp] theorem copyShard_ring (u : Fin 4) (cmd : Nat) (s : State) (e : PlanEntry) : (copyShard u cmd s e).train.ring = s.train.ring := by
  unfold copyShard; dsimp only; (repeat' split) <;> simp
@[simp] theorem planProgress_ring (u : Fin 4) (cmd : Nat) (s : State) : (planProgress u cmd s).train.ring = s.train.ring := by
  unfold planProgress; dsimp only
  rw [foldl_ring _ _ _ fun _ _ => by simp]; simp
@[simp] theorem writeScratch_ring (u : Fin 4) (c : Coll) (s : State) : (writeScratch u c s).1.train.ring = s.train.ring := by
  unfold writeScratch; dsimp only; (repeat' split) <;> simp
@[simp] theorem convertAll_ring (u : Fin 4) (p : BitVec 1536) (step base : Nat) (ys : List Elem) (s : State) :
    (convertAll u p step base ys s).1.train.ring = s.train.ring := rfl
theorem reducedData_ring {u : Fin 4} {c : Coll} {s : State} {r : State × Data} (h : reducedData u c s = some r) :
    r.1.train.ring = s.train.ring := by
  unfold reducedData at h; dsimp only at h
  split at h
  · cases h
  · obtain ⟨ys, -, rfl⟩ := Option.map_eq_some_iff.mp h
    exact convertAll_ring ..
@[simp] theorem sendSegs_ring (u : Fin 4) (c : Coll) (b : Nat) (s : State) : (sendSegs u c b s).1.train.ring = s.train.ring := by
  unfold sendSegs; dsimp only
  rw [updColl_ring, foldl_fst_ring]
  intro p x
  split <;> simp
@[simp] theorem sendAll_ring (u : Fin 4) (cmd : Nat) (bs : List Nat) (s : State) : (sendAll u cmd bs s).1.train.ring = s.train.ring := by
  unfold sendAll
  rw [foldl_fst_ring]
  intro p x
  dsimp only
  split <;> simp
@[simp] theorem storeBlock_ring (u : Fin 4) (p : BitVec 1536) (step base : Nat) (d : Data) (s : State) :
    (storeBlock u p step base d s).1.train.ring = s.train.ring := by
  unfold storeBlock; split <;> simp
theorem collResult_ring {u : Fin 4} {c : Coll} {s : State} {r : State × Data} (h : collResult u c s = some r) :
    r.1.train.ring = s.train.ring := by
  have store (p : BitVec 1536) (step : Nat) (blocks : List (Nat × Data)) :
      (blocks.foldl (fun (acc : State × Data) b =>
        let x := storeBlock u p step b.1 b.2 acc.1; (x.1, acc.2 ++ x.2)) (s, [])).1.train.ring = s.train.ring :=
    foldl_fst_ring _ _ _ fun _ _ => storeBlock_ring ..
  unfold collResult at h; dsimp only at h
  split at h
  case h_1 | h_2 =>
    split at h
    · obtain ⟨d, -, rfl⟩ := Option.map_eq_some_iff.mp h; rfl
    · split at h
      · obtain ⟨x, hx, rfl⟩ := Option.map_eq_some_iff.mp h; exact (reducedData_ring hx :)
      · split at h
        · next hx _ => cases h; exact (reducedData_ring hx :)
        · cases h
  · split at h
    · cases h
    · obtain ⟨b, -, rfl⟩ := Option.map_eq_some_iff.mp h; exact store ..
  · obtain ⟨b, -, rfl⟩ := Option.map_eq_some_iff.mp h; exact store ..
  · split at h
    · cases h
    · obtain ⟨b, -, rfl⟩ := Option.map_eq_some_iff.mp h; exact store ..
  · cases h
@[simp] theorem formResult_ring (u : Fin 4) (c : Coll) (s : State) : (formResult u c s).train.ring = s.train.ring := by
  unfold formResult
  split
  · rfl
  · next h =>
    split at h
    · cases h
    · exact (collResult_ring h :)
@[simp] theorem engCount_ring (e : Fin 16) (f : EngineCounters → EngineCounters) (s : State) :
    (engCount e f s).train.ring = s.train.ring := rfl
@[simp] theorem writeThrough_ring (table row version : Nat) (record : Data) (s : State) :
    (writeThrough table row version record s).train.ring = s.train.ring := by
  unfold writeThrough; dsimp only
  rw [foldl_ring _ _ _ fun _ _ => by simp]
@[simp] theorem throughReplica_ring (c : Coll) (d : Data) (s : State) : (throughReplica c d s).train.ring = s.train.ring := by
  unfold throughReplica; dsimp only; split <;> simp
@[simp] theorem writeResult_ring (u : Fin 4) (c : Coll) (s : State) : (writeResult u c s).1.train.ring = s.train.ring := by
  unfold writeResult; dsimp only; (repeat' split) <;> simp
@[simp] theorem collProgress_ring (u : Fin 4) (cmd : Nat) (s : State) : (collProgress u cmd s).train.ring = s.train.ring := by
  unfold collProgress; dsimp only; (repeat' split) <;> simp
@[simp] theorem serveRefetch_ring (u : Fin 4) (cmd : Nat) (s : State) (x : Nat × Nat) :
    (serveRefetch u cmd s x).train.ring = s.train.ring := by
  unfold serveRefetch; dsimp only; (repeat' split) <;> simp
@[simp] theorem closeAudit_ring (u : Fin 4) (cmd : Nat) (s : State) : (closeAudit u cmd s).train.ring = s.train.ring := by
  unfold closeAudit; dsimp only
  split
  · rfl
  · split
    · rfl
    · rw [foldl_ring _ _ _ fun _ _ => by (repeat' split) <;> simp, updColl_ring]
@[simp] theorem collWork_ring (u : Fin 4) (cmd : Nat) (s : State) : (collWork u cmd s).train.ring = s.train.ring := by
  unfold collWork; (repeat' split) <;> simp
@[simp] theorem collsWork_ring (s : State) : (collsWork s).train.ring = s.train.ring := by
  unfold collsWork; simp
@[simp] theorem updCopy_ring (k : Fin 16) (cmd : Nat) (f : CopyRun → CopyRun) (s : State) :
    (updCopy k cmd f s).train.ring = s.train.ring := rfl
@[simp] theorem forgetReqs_ring (ids : List Nat) (s : State) : (forgetReqs ids s).train.ring = s.train.ring :=
  foldl_ring _ _ _ fun _ _ => forgetReq_ring ..
@[simp] theorem endCopy_ring (k : Fin 16) (cmd : Nat) (s : State) : (endCopy k cmd s).train.ring = s.train.ring := by
  unfold endCopy; dsimp only; (repeat' split) <;> simp
@[simp] theorem stopCopy_ring (k : Fin 16) (cmd : Nat) (st : Status) (s : State) :
    (stopCopy k cmd st s).train.ring = s.train.ring := by simp [stopCopy]
@[simp] theorem copyMoved_ring (k : Fin 16) (cmd n : Nat) (s : State) : (copyMoved k cmd n s).train.ring = s.train.ring := rfl
@[simp] theorem takeAcks_ring (k : Fin 16) (cmd : Nat) (s : State) : (takeAcks k cmd s).train.ring = s.train.ring := by
  unfold takeAcks; dsimp only
  split
  · rw [endCopy_ring, foldl_ring _ _ _ fun _ _ => by split <;> simp]
  · rfl
@[simp] theorem settleCopies_ring (s : State) : (settleCopies s).train.ring = s.train.ring := by
  unfold settleCopies
  exact foldl_ring _ _ _ fun s k => foldl_ring _ _ _ fun s r => by split <;> simp
@[simp] theorem updEngStep_ring (e : Fin 16) (n : BitVec 64) (f : EngineStep → EngineStep) (s : State) :
    (updEngStep e n f s).train.ring = s.train.ring := by
  unfold updEngStep; simp
@[simp] theorem engineMerged_ring (e : Fin 16) (n : BitVec 64) (st : Status) (s : State) :
    (engineMerged e n st s).train.ring = s.train.ring := by
  unfold engineMerged; dsimp only; split <;> simp
@[simp] theorem sealEngine_ring (n : BitVec 64) (s : State) (e : Fin 16) : (sealEngine n s e).train.ring = s.train.ring := by
  unfold sealEngine; (repeat' split) <;> simp
@[simp] theorem sealAll_ring (n : BitVec 64) (s : State) : (sealAll n s).train.ring = s.train.ring := by
  unfold sealAll; simp
@[simp] theorem tileRunCheck_ring (q : Fin 64) (c : Slot) (s : State) : (tileRunCheck q c s).1.train.ring = s.train.ring := by
  unfold tileRunCheck; simp
@[simp] theorem tileRunAdmit_ring (k : Cmd) (s : State) : (tileRunAdmit k s).train.ring = s.train.ring := by
  unfold tileRunAdmit; dsimp only
  rw [foldl_ring _ _ _ fun _ _ => by simp]
@[simp] theorem copyCheck_ring (q : Fin 64) (c : Slot) (s : State) : (copyCheck q c s).1.train.ring = s.train.ring := by
  unfold copyCheck; simp
@[simp] theorem inlineTarget_ring (q : Fin 64) (c : Slot) (s : State) :
    (inlineTarget q c s).1.train.ring = s.train.ring := by simp [inlineTarget]
@[simp] theorem inlineCheck_ring (q : Fin 64) (c : Slot) (s : State) : (inlineCheck q c s).1.train.ring = s.train.ring := by
  unfold inlineCheck; dsimp only; (repeat' split) <;> simp
@[simp] theorem inlineEffect_ring (k : Cmd) (s : State) : (inlineEffect k s).1.train.ring = s.train.ring := by
  unfold inlineEffect; dsimp only; (repeat' split) <;> simp
@[simp] theorem tableSetEffect_ring (c : Slot) (s : State) : (tableSetEffect c s).1.train.ring = s.train.ring := by
  unfold tableSetEffect; dsimp only; split <;> simp
@[simp] theorem listCheck_ring (q : Fin 64) (l : Lists) (s : State) : (listCheck q l s).1.train.ring = s.train.ring := by
  unfold listCheck; (repeat' split) <;> simp
@[simp] theorem listAdmission_ring (q : Fin 64) (before : List (Bool × Status)) (l : Lists) (after : Nat → Nat → List (Bool × Status))
    (full : Bool) (s : State) :
    (listAdmission q before l after full s).1.train.ring = s.train.ring := by
  unfold listAdmission; split <;> simp
@[simp] theorem gatherCheck_ring (q : Fin 64) (c : Slot) (s : State) : (gatherCheck q c s).1.train.ring = s.train.ring := by
  unfold gatherCheck; simp
@[simp] theorem joinBatch_ring (table : Nat) (step : Option (BitVec 64)) (cmd version : Nat) (s : State) :
    (joinBatch table step cmd version s).train.ring = s.train.ring := by
  unfold joinBatch; split <;> simp
@[simp] theorem gatherAdmit_ring (k : Cmd) (s : State) : (gatherAdmit k s).train.ring = s.train.ring := by
  unfold gatherAdmit; dsimp only; (repeat' split) <;> simp
@[simp] theorem prescanCheck_ring (q : Fin 64) (c : Slot) (s : State) :
    (prescanCheck q c s).1.train.ring = s.train.ring := by simp [prescanCheck]
@[simp] theorem prescanAdmit_ring (k : Cmd) (s : State) : (prescanAdmit k s).train.ring = s.train.ring := by
  unfold prescanAdmit; split <;> simp
@[simp] theorem refreshCheck_ring (q : Fin 64) (c : Slot) (s : State) : (refreshCheck q c s).1.train.ring = s.train.ring := by
  unfold refreshCheck; simp
@[simp] theorem refreshAdmit_ring (k : Cmd) (s : State) : (refreshAdmit k s).train.ring = s.train.ring := rfl
@[simp] theorem scatterCheck_ring (q : Fin 64) (c : Slot) (s : State) : (scatterCheck q c s).1.train.ring = s.train.ring := by
  unfold scatterCheck; simp
@[simp] theorem scatterAdmit_ring (k : Cmd) (s : State) : (scatterAdmit k s).train.ring = s.train.ring := by
  unfold scatterAdmit; dsimp only; split <;> simp
@[simp] theorem startMerge_ring (k : Cmd) (n : BitVec 64) (s : State) : (startMerge k n s).train.ring = s.train.ring := by
  unfold startMerge; dsimp only; split <;> simp
@[simp] theorem ioReadOne_ring (c : AccClass) (who key dva n : Nat) (s : State) :
    (ioReadOne c who key dva n s).1.train.ring = s.train.ring := by simp [ioReadOne]
@[simp] theorem importCheck_ring (q : Fin 64) (c : Slot) (s : State) : (importCheck q c s).1.train.ring = s.train.ring := by
  unfold importCheck; dsimp only; (repeat' split) <;> simp
@[simp] theorem importDone_ring (p : BitVec 1536) (h : List Byte) (s : State) : (importDone p h s).train.ring = s.train.ring := by
  unfold importDone; (repeat' split) <;> simp
@[simp] theorem restartDrain_ring (table : Nat) (s : State) : (restartDrain table s).train.ring = s.train.ring := by
  unfold restartDrain; simp
@[simp] theorem forgetDrain_ring (e : Fin 16) (s : State) (d : Drain) :
    (forgetDrain e s d).train.ring = s.train.ring := by simp [forgetDrain]
@[simp] theorem settleForwards_ring (s : State) : (settleForwards s).train.ring = s.train.ring := by
  unfold settleForwards; dsimp only
  rw [foldl_ring _ _ _ fun _ _ => by simp]
@[simp] theorem dropDeferred_ring (keep : LogEntry → Bool) (s : State) : (dropDeferred keep s).train.ring = s.train.ring := by
  unfold dropDeferred; simp
@[simp] theorem discardTable_ring (table : Nat) (s : State) : (discardTable table s).train.ring = s.train.ring := by
  unfold discardTable; dsimp only
  rw [foldl_ring _ _ _ fun _ _ => by simp]; simp
@[simp] theorem beginImport_ring (cmd table : Nat) (s : State) : (beginImport cmd table s).1.train.ring = s.train.ring := by
  unfold beginImport; split <;> simp
@[simp] theorem importRows_ring (t : TabVer) (h d : List Byte) (k : Nat) (m : ImportRun) (s : State) :
    (importRows t h d k m s).1.train.ring = s.train.ring := by
  induction k generalizing m s with
  | zero => rfl
  | succ k ih =>
    rw [importRows]; dsimp only
    (repeat' split) <;> simp [ih]
@[simp] theorem keepImport_ring (m : ImportRun) (on : Bool) (s : State) : (keepImport m on s).train.ring = s.train.ring := by
  unfold keepImport; split <;> simp
@[simp] theorem importEffect_ring (k : Cmd) (s : State) : (importEffect k s).1.train.ring = s.train.ring := by
  unfold importEffect; dsimp only
  (repeat' split) <;> simp
@[simp] theorem histAppendCheck_ring (q : Fin 64) (c : Slot) (s : State) : (histAppendCheck q c s).1.train.ring = s.train.ring := by
  unfold histAppendCheck; simp
@[simp] theorem histWalkCheck_ring (q : Fin 64) (c : Slot) (s : State) : (histWalkCheck q c s).1.train.ring = s.train.ring := by
  unfold histWalkCheck; simp
@[simp] theorem groupSetCheck_ring (q : Fin 64) (c : Slot) (s : State) : (groupSetCheck q c s).1.train.ring = s.train.ring := by
  unfold groupSetCheck; dsimp only; (repeat' split) <;> simp
@[simp] theorem collectiveCheck_ring (q : Fin 64) (c : Slot) (s : State) : (collectiveCheck q c s).1.train.ring = s.train.ring := by
  unfold collectiveCheck; dsimp only; (repeat' split) <;> simp
@[simp] theorem collectiveAdmit_ring (k : Cmd) (s : State) : (collectiveAdmit k s).train.ring = s.train.ring := by
  unfold collectiveAdmit; dsimp only; (repeat' split) <;> simp
@[simp] theorem kindleCount_ring (f : KindleCounters → KindleCounters) (s : State) : (kindleCount f s).train.ring = s.train.ring := rfl
@[simp] theorem fwBlockData_ring (r : Recv) (c : Slot) (data : Data) (s : State) :
    (fwBlockData r c data s).1.train.ring = s.train.ring := by
  unfold fwBlockData; dsimp only; (repeat' split) <;> simp
@[simp] theorem fwBlockCheck_ring (q : Fin 64) (c : Slot) (s : State) : (fwBlockCheck q c s).1.train.ring = s.train.ring := by
  unfold fwBlockCheck; dsimp only; (repeat' split) <;> simp
@[simp] theorem acceptBlock_ring (k : Nat) (bs : List Byte) (s : State) : (acceptBlock k bs s).train.ring = s.train.ring := by
  unfold acceptBlock; split <;> simp
@[simp] theorem failExchange_ring (n : BitVec 64) (st : Status) (s : State) :
    (failExchange n st s).train.ring = s.train.ring := by simp [failExchange]
theorem sendVerdict_ring {x : Exchange} {down : Bool} {node : Nat} {t : Totals} {s u : State} (h : sendVerdict x down node t s = some u) :
    u.train.ring = s.train.ring := sendPacket_ring h
theorem sendVerdicts_ring {x : Exchange} {down : Bool} {t : Totals} {ns : List Nat} {s u : State}
    (h : sendVerdicts x down t ns s = some u) : u.train.ring = s.train.ring := by
  induction ns generalizing s with
  | nil => cases h; rfl
  | cons n ns ih =>
    obtain ⟨v, hv, hu⟩ := Option.bind_eq_some_iff.mp h
    rw [ih hu, sendVerdict_ring hv]
@[simp] theorem countDecision_ring (d : Decision) (s : State) : (countDecision d s).train.ring = s.train.ring := rfl
@[simp] theorem endSkipped_ring (n : BitVec 64) (s : State) : (endSkipped n s).train.ring = s.train.ring := by simp [endSkipped]
@[simp] theorem commitError_ring (n : BitVec 64) (st : Status) (s : State) : (commitError n st s).train.ring = s.train.ring := by
  unfold commitError; split <;> simp
@[simp] theorem deferEntry_ring (e : Fin 16) (n : BitVec 64) (clip : BitVec 32) (i : Nat) (x : LogEntry) (s : State) :
    (deferEntry e n clip i x s).1.train.ring = s.train.ring := by
  unfold deferEntry; dsimp only; (repeat' split) <;> simp
@[simp] theorem deferAll_ring (k : Nat) (e : Fin 16) (n : BitVec 64) (clip : BitVec 32) (s : State) :
    (deferAll k e n clip s).train.ring = s.train.ring := by
  induction k generalizing s with
  | zero => rfl
  | succ k ih =>
    rw [deferAll]; dsimp only
    (repeat' split) <;> simp [ih]
@[simp] theorem drainLost_ring (n : BitVec 64) (s : State) : (drainLost n s).train.ring = s.train.ring := by
  unfold drainLost; (repeat' split) <;> simp
@[simp] theorem commitItem1_ring (n : BitVec 64) (s : State) : (commitItem1 n s).train.ring = s.train.ring := by
  have item (p : Step) (s : State) :
      ((List.finRange 16).foldl (fun s e => deferAll (entryCount s n + 1) e n (stepClip p) s) s).train.ring = s.train.ring :=
    foldl_ring _ _ _ fun _ _ => deferAll_ring ..
  unfold commitItem1; dsimp only
  (repeat' split) <;> simp [item]
@[simp] theorem flipShards_ring (n : BitVec 64) (s : State) : (flipShards n s).train.ring = s.train.ring := by
  unfold flipShards; simp
@[simp] theorem rowsCloseStep_ring (n : BitVec 64) (s : State) : (rowsCloseStep n s).train.ring = s.train.ring := by
  unfold rowsCloseStep; dsimp only
  rw [foldl_ring _ _ _ fun _ _ => by simp]
@[simp] theorem unmarkShards_ring (n : BitVec 64) (s : State) : (unmarkShards n s).train.ring = s.train.ring := rfl
@[simp] theorem stopDrain_ring (st : Status) (ts : List Nat) (s : State) : (stopDrain st ts s).train.ring = s.train.ring := rfl
@[simp] theorem tearRows_ring (n : BitVec 64) (s : State) : (tearRows n s).train.ring = s.train.ring := by
  unfold tearRows; dsimp only
  rw [foldl_ring _ _ _ fun _ _ => by simp]; simp
@[simp] theorem applyOutcome_ring (p : Step) (o : StepOutcome) (s : State) : (applyOutcome p o s).train.ring = s.train.ring := by
  unfold applyOutcome; (repeat' split) <;> simp
@[simp] theorem leaveStep_ring (p : Step) (failed : Bool) (s : State) : (leaveStep p failed s).train.ring = s.train.ring := by
  unfold leaveStep; split <;> simp
@[simp] theorem dropPosted_ring (who key : Nat) (s : State) : (dropPosted who key s).train.ring = s.train.ring := by
  unfold dropPosted; (repeat' split) <;> simp
@[simp] theorem postWrite_ring (who key dva : Nat) (d : Data) (s : State) : (postWrite who key dva d s).train.ring = s.train.ring := by
  unfold postWrite; dsimp only; (repeat' split) <;> simp
@[simp] theorem writePhaseRecord_ring (p : Step) (s : State) :
    (writePhaseRecord p s).1.train.ring = s.train.ring := by simp [writePhaseRecord]
@[simp] theorem haltCopies_ring (s : State) : (haltCopies s).train.ring = s.train.ring := by
  unfold haltCopies; simp
@[simp] theorem dropLines_ring (e : Fin 16) (cmd : Nat) (s : State) : (dropLines e cmd s).train.ring = s.train.ring := by
  unfold dropLines; dsimp only
  rw [updEng_train, foldl_ring _ _ _ fun _ _ => by split <;> simp]
@[simp] theorem haltAhead_ring (e : Fin 16) (s : State) : (haltAhead e s).train.ring = s.train.ring := by
  unfold haltAhead; dsimp only
  rw [foldl_ring _ _ _ fun _ _ => by simp]; simp
@[simp] theorem haltColls_ring (s : State) : (haltColls s).train.ring = s.train.ring := by
  unfold haltColls; simp
@[simp] theorem haltUnits_ring (s : State) : (haltUnits s).train.ring = s.train.ring := by
  unfold haltUnits; dsimp only
  rw [foldl_ring _ _ _ fun _ _ => by simp]; simp
@[simp] theorem pushAll_ring (p : Cmd → Bool) (st : Status) (detail : Nat) (s : State) :
    (pushAll p st detail s).train.ring = s.train.ring := by
  unfold pushAll; dsimp only
  rw [foldl_ring _ _ _ fun _ _ => by simp]
@[simp] theorem abandonAll_ring (s : State) : (abandonAll s).train.ring = s.train.ring := by
  unfold abandonAll
  rw [haltCopies_ring, haltUnits_ring, pushAll_ring]
@[simp] theorem sealStep_ring (n : BitVec 64) (s : State) : (sealStep n s).train.ring = s.train.ring := by
  unfold sealStep; (repeat' split) <;> simp
@[simp] theorem stallFlits_ring (p : WPacket) (s : State) : (stallFlits p s).train.ring = s.train.ring := by
  unfold stallFlits; dsimp only
  rw [foldl_ring _ _ _ fun _ _ => by (repeat' split) <;> simp]
@[simp] theorem countFlits_ring (p : WPacket) (s : State) : (countFlits p s).train.ring = s.train.ring := by simp [countFlits]
@[simp] theorem applyBody_ring (dst : Fin 128) (b : WBody) (s : State) : (applyBody dst b s).train.ring = s.train.ring := by
  unfold applyBody; split <;> simp
@[simp] theorem deliverPacket_ring (p : WPacket) (s : State) : (deliverPacket p s).train.ring = s.train.ring := by
  unfold deliverPacket; dsimp only; split <;> simp
@[simp] theorem updArr_ring (t : Fin 128) (f : ArrayUnit → ArrayUnit) (s : State) : (updArr t f s).train.ring = s.train.ring := rfl
@[simp] theorem countConv_ring (t : Fin 128) (sats nans : Nat) (s : State) : (countConv t sats nans s).train.ring = s.train.ring := rfl
@[simp] theorem drainSend_ring (t dst : Fin 128) (b : WBody) (s : State) : (drainSend t dst b s).train.ring = s.train.ring := by
  unfold drainSend; (repeat' split) <;> simp
@[simp] theorem releaseBlock_ring (t : Fin 128) (d : BitVec 512) (step b : Nat) (corr : List Int) (s : State) :
    (releaseBlock t d step b corr s).train.ring = s.train.ring := by
  unfold releaseBlock; dsimp only; (repeat' split) <;> simp
@[simp] theorem redoDone_ring (t : Fin 128) (p : Prog) (st : Status) (s : State) : (redoDone t p st s).train.ring = s.train.ring := by
  unfold redoDone; split <;> simp
@[simp] theorem tileDone_ring (t : Fin 128) (cmd : Nat) (st : Status) (s : State) : (tileDone t cmd st s).train.ring = s.train.ring := by
  unfold tileDone; dsimp only; (repeat' split) <;> simp
@[simp] theorem seqFail_ring (t : Fin 128) (st : Status) (s : State) : (seqFail t st s).train.ring = s.train.ring := rfl
@[simp] theorem seqInstr_ring (t : Fin 128) (is : BitVec 32 → Bool) (gs : List (Fin 32)) (act : Tile → Run → State → State) (s : State)
    (h : ∀ a b s, (act a b s).train.ring = s.train.ring) :
    (seqInstr t is gs act s).train.ring = s.train.ring := by
  unfold seqInstr; dsimp only; (repeat' split) <;> simp [*]
@[simp] theorem updRun_ring (t : Fin 128) (f : Run → Run) (s : State) : (updRun t f s).train.ring = s.train.ring := rfl
@[simp] theorem seqNext_ring (t : Fin 128) (s : State) : (seqNext t s).train.ring = s.train.ring := rfl
@[simp] theorem setG_ring (t : Fin 128) (g : Fin 32) (v : BitVec 64) (s : State) : (setG t g v s).train.ring = s.train.ring := by
  unfold setG; split <;> simp
@[simp] theorem seqSet_ring (t : Fin 128) (g : Fin 32) (v : BitVec 64) (s : State) :
    (seqSet t g v s).train.ring = s.train.ring := by simp [seqSet]
@[simp] theorem seqAlu_ring (op : Nat) (f : BitVec 64 → BitVec 64 → BitVec 64) (t : Fin 128) (gd ga gb : Fin 32) (s : State) :
    (seqAlu op f t gd ga gb s).train.ring = s.train.ring := by simp [seqAlu]
@[simp] theorem seqAluImm_ring (op : Nat) (f : BitVec 64 → BitVec 16 → BitVec 64) (t : Fin 128) (gd ga : Fin 32) (imm : BitVec 16)
    (s : State) :
    (seqAluImm op f t gd ga imm s).train.ring = s.train.ring := by simp [seqAluImm]
@[simp] theorem seqBranch_ring (op : Nat) (cond : BitVec 64 → BitVec 64 → Bool) (t : Fin 128) (gd ga : Fin 32) (imm : BitVec 16)
    (s : State) :
    (seqBranch op cond t gd ga imm s).train.ring = s.train.ring :=
  seqInstr_ring _ _ _ _ _ fun _ _ _ => by split <;> simp
@[simp] theorem seqPark_ring (t : Fin 128) (w : SeqWait) (s : State) : (seqPark t w s).train.ring = s.train.ring := rfl
@[simp] theorem seqHand_ring (op n : Nat) (full : Tile → Bool) (check : State → Tile → Nat → Option Status)
    (give : Run → Nat → State → State)
    (t : Fin 128) (ga : Fin 32) (s : State) (h : ∀ r d s, (give r d s).train.ring = s.train.ring) :
    (seqHand op n full check give t ga s).train.ring = s.train.ring := by
  unfold seqHand
  split
  · (repeat' split) <;> simp
  · exact seqInstr_ring _ _ _ _ _ fun _ _ _ => by (repeat' split) <;> simp [h]
@[simp] theorem updMover_ring (t : Fin 128) (f : Mover → Mover) (s : State) : (updMover t f s).train.ring = s.train.ring := rfl
@[simp] theorem seqResume_ring (t : Fin 128) (s : State) : (seqResume t s).train.ring = s.train.ring := rfl
@[simp] theorem takeFetch_ring (t : Fin 128) (s : State) (f : AheadFetch) : (takeFetch t s f).train.ring = s.train.ring := by
  unfold takeFetch; (repeat' split) <;> simp
@[simp] theorem takeFetches_ring (t : Fin 128) (s : State) : (takeFetches t s).train.ring = s.train.ring := by
  unfold takeFetches; simp
@[simp] theorem xlateAhead_ring (who dva since : Nat) (s : State) : (xlateAhead who dva since s).1.train.ring = s.train.ring := by
  unfold xlateAhead; dsimp only; (repeat' split) <;> simp
@[simp] theorem readAhead_ring (k : Nat) (t : Fin 128) (owner since dva : Nat) (s : State) :
    (readAhead k t owner since dva s).train.ring = s.train.ring := by
  induction k generalizing dva s with
  | zero => rfl
  | succ k ih => rw [readAhead]; dsimp only; split <;> simp [ih]
@[simp] theorem issueReq_ring (t : Fin 128) (r : MoveRun) (n : Nat) (ph : MovePhase) (s : State) :
    (issueReq t r n ph s).train.ring = s.train.ring := by
  unfold issueReq; dsimp only; split <;> simp
@[simp] theorem moveSignal_ring (t : Fin 128) (d : BitVec 512) (k : Nat) (s : State) :
    (moveSignal t d k s).train.ring = s.train.ring := by
  unfold moveSignal
  split
  · exact foldl_ring _ _ _ fun _ _ => sendSignal_ring ..
  · simp
@[simp] theorem settleMoves_ring (t : Fin 128) (rs : List MoveRun) (blocked : Bool) (s : State) :
    (settleMoves t rs blocked s).train.ring = s.train.ring := by
  induction rs generalizing blocked s with
  | nil => rfl
  | cons r rs ih =>
    rw [settleMoves]; dsimp only
    rw [ih, updMover_ring]
    simp only [apply_ite State.train, apply_ite Train.ring, moveSignal_ring, ite_self]
@[simp] theorem settleAll_ring (t : Fin 128) (s : State) : (settleAll t s).train.ring = s.train.ring := by simp [settleAll]
@[simp] theorem failMove_ring (t : Fin 128) (id : Nat) (st : Status) (s : State) : (failMove t id st s).train.ring = s.train.ring := rfl
@[simp] theorem failIssue_ring (t : Fin 128) (id : Nat) (st : Status) (s : State) :
    (failIssue t id st s).train.ring = s.train.ring := by simp [failIssue]
@[simp] theorem moverIssue_ring (t : Fin 128) (s : State) : (moverIssue t s).train.ring = s.train.ring := by
  unfold moverIssue; dsimp only; (repeat' split) <;> simp
@[simp] theorem setPhase_ring (t : Fin 128) (idx : Nat) (ph : MovePhase) (s : State) :
    (setPhase t idx ph s).train.ring = s.train.ring := rfl
@[simp] theorem endMoveReq_ring (t : Fin 128) (idx : Nat) (written : Nat) (s : State) :
    (endMoveReq t idx written s).train.ring = s.train.ring := by simp [endMoveReq]
@[simp] theorem failMoveReq_ring (t : Fin 128) (idx : Nat) (q : MoveReq) (st : Status) (s : State) :
    (failMoveReq t idx q st s).train.ring = s.train.ring := by simp [failMoveReq]
@[simp] theorem moveWrite_ring (t : Fin 128) (idx : Nat) (q : MoveReq) (d : BitVec 512) (data : Data) (s : State) :
    (moveWrite t idx q d data s).train.ring = s.train.ring := by
  unfold moveWrite; dsimp only; (repeat' split) <;> simp
@[simp] theorem moverDone_ring (k : Nat) (t : Fin 128) (idx : Nat) (s : State) : (moverDone k t idx s).train.ring = s.train.ring := by
  induction k generalizing s with
  | zero => rfl
  | succ k ih => rw [moverDone]; dsimp only; (repeat' split) <;> simp [ih]
@[simp] theorem updVec_ring (t : Fin 128) (f : VecUnit → VecUnit) (s : State) : (updVec t f s).train.ring = s.train.ring := rfl
@[simp] theorem issueBundle_ring (t : Fin 128) (seed : BitVec 64) (free : Nat) (l : VLoopRun) (b : BitVec 128) (s : State) :
    (issueBundle t seed free l b s).train.ring = s.train.ring := by
  unfold issueBundle; dsimp only; split <;> simp
@[simp] theorem updGather_ring (e : Fin 16) (cmd : Nat) (f : GatherRun → GatherRun) (s : State) :
    (updGather e cmd f s).train.ring = s.train.ring := by
  unfold updGather; simp
@[simp] theorem sendGroups_ring (k : Nat) (e : Fin 16) (g : GatherRun) (all : Bool) (s : State) :
    (sendGroups k e g all s).train.ring = s.train.ring := by
  induction k generalizing g s with
  | zero => rfl
  | succ k ih => rw [sendGroups]; split <;> simp [ih]
@[simp] theorem finishGather_ring (e : Fin 16) (cmd : Nat) (s : State) : (finishGather e cmd s).train.ring = s.train.ring := by
  unfold finishGather; dsimp only; (repeat' split) <;> simp
@[simp] theorem stopGather_ring (e : Fin 16) (cmd : Nat) (st : Status) (bag : Option Nat) (s : State) :
    (stopGather e cmd st bag s).train.ring = s.train.ring := by
  unfold stopGather; simp
@[simp] theorem setLine_ring (e : Fin 16) (cmd base : Nat) (x : LineState) (s : State) :
    (setLine e cmd base x s).train.ring = s.train.ring := rfl
@[simp] theorem demandLine_ring (e : Fin 16) (cmd base : Nat) (s : State) : (demandLine e cmd base s).1.train.ring = s.train.ring := by
  unfold demandLine; dsimp only; (repeat' split) <;> simp
@[simp] theorem needLine_ring (e : Fin 16) (g : GatherRun) (base : Nat) (s : State) :
    (needLine e g base s).1.train.ring = s.train.ring := by
  unfold needLine; (repeat' split) <;> simp
@[simp] theorem aheadLine_ring (e : Fin 16) (g : GatherRun) (base : Nat) (s : State) :
    (aheadLine e g base s).train.ring = s.train.ring := by
  unfold aheadLine; dsimp only; (repeat' split) <;> simp
@[simp] theorem readList_ring (e : Fin 16) (g : GatherRun) (dva n last : Nat) (s : State) :
    (readList e g dva n last s).1.train.ring = s.train.ring := by
  unfold readList; dsimp only; split <;> simp
@[simp] theorem readLists_ring (e : Fin 16) (g : GatherRun) (xs : List (Nat × Nat × Nat)) (s : State) :
    (readLists e g xs s).1.train.ring = s.train.ring :=
  foldl_fst_ring _ _ _ fun a x => readList_ring e g x.1 x.2.1 x.2.2 a.1
@[simp] theorem bagRange_ring (e : Fin 16) (g : GatherRun) (s : State) : (bagRange e g s).1.train.ring = s.train.ring := by
  unfold bagRange; dsimp only; split <;> simp
@[simp] theorem updCore_ring (e : Fin 16) (c : Fin 4) (f : Core → Core) (s : State) : (updCore e c f s).train.ring = s.train.ring := rfl
@[simp] theorem probePart_ring (e : Fin 16) (g : GatherRun) (t : BagThread) (part : Nat × Bool) (s : State) :
    (probePart e g t part s).1.train.ring = s.train.ring := by
  unfold probePart; dsimp only; (repeat' split) <;> simp
@[simp] theorem useShadow_ring (e : Fin 16) (c : Fin 4) (s : State) : (useShadow e c s).train.ring = s.train.ring := by
  unfold useShadow; simp
@[simp] theorem yieldStage_ring (e : Fin 16) (c : Fin 4) (s : State) : (yieldStage e c s).train.ring = s.train.ring := rfl
@[simp] theorem abandonBag_ring (e : Fin 16) (c : Fin 4) (i : Fin 16) (t : BagThread) (st : Status) (s : State) :
    (abandonBag e c i t st s).train.ring = s.train.ring := by
  unfold abandonBag; simp
@[simp] theorem updThread_ring (e : Fin 16) (c : Fin 4) (i : Fin 16) (f : BagThread → BagThread) (s : State) :
    (updThread e c i f s).train.ring = s.train.ring := rfl
@[simp] theorem useRow_ring (e : Fin 16) (s : State) : (useRow e s).train.ring = s.train.ring := rfl
@[simp] theorem retryPart_ring (e : Fin 16) (c : Fin 4) (i : Fin 16) (again deltaEn : Bool) (part : Nat × Bool) (s : State) :
    (retryPart e c i again deltaEn part s).train.ring = s.train.ring := rfl
@[simp] theorem holdPart_ring (e : Fin 16) (c : Fin 4) (i : Fin 16) (dEn again : Bool) (part : Nat × Bool) (table row : Nat) (s : State) :
    (holdPart e c i dEn again part table row s).train.ring = s.train.ring := rfl
@[simp] theorem sendRow_ring (e : Fin 16) (c : Fin 4) (r : RowReq) (s : State) :
    (sendRow e c r s).train.ring = s.train.ring := by simp [sendRow]
@[simp] theorem issuePieces_ring (e : Fin 16) (c : Fin 4) (id dva : Nat) (ps : List (Nat × Nat)) (s : State) :
    (issuePieces e c id dva ps s).1.train.ring = s.train.ring := by
  induction ps generalizing s with
  | nil => rfl
  | cons p ps ih => rw [issuePieces]; dsimp only; (repeat' split) <;> simp [ih]
@[simp] theorem placeRow_ring (e : Fin 16) (c : Fin 4) (i : Fin 16) (dEn : Bool) (t : BagThread) (shadow again : Bool)
    (part : Nat × Bool) (r : PendRow) (count : State → State) (s : State) (h : ∀ s, (count s).train.ring = s.train.ring) :
    (placeRow e c i dEn t shadow again part r count s).train.ring = s.train.ring := by
  unfold placeRow; dsimp only; (repeat' split) <;> simp [*]
@[simp] theorem countHit_ring (e : Fin 16) (c : Fin 4) (g : GatherRun) (staging : Bool) (set way : Nat) (s : State) :
    (countHit e c g staging set way s).train.ring = s.train.ring := by
  unfold countHit; dsimp only; (repeat' split) <;> simp
@[simp] theorem countDelta_ring (e : Fin 16) (delta : Bool) (s : State) : (countDelta e delta s).train.ring = s.train.ring := rfl
@[simp] theorem countMiss_ring (e : Fin 16) (g : GatherRun) (tv : TabVer) (row : Nat) (s : State) :
    (countMiss e g tv row s).train.ring = s.train.ring := by
  unfold countMiss; dsimp only; split <;> simp
@[simp] theorem placeMiss_ring (e : Fin 16) (c : Fin 4) (i : Fin 16) (g : GatherRun) (t : BagThread) (shadow again : Bool)
    (part : Nat × Bool) (tv : TabVer) (row : Nat) (w : BitVec 32) (s : State) :
    (placeMiss e c i g t shadow again part tv row w s).train.ring = s.train.ring := by simp [placeMiss]
@[simp] theorem applyProbe_ring (e : Fin 16) (c : Fin 4) (i : Fin 16) (g : GatherRun) (t : BagThread) (shadow again : Bool)
    (part : Nat × Bool) (w : BitVec 32) (r : Probed) (s : State) :
    (applyProbe e c i g t shadow again part w r s).train.ring = s.train.ring := by
  unfold applyProbe; dsimp only; (repeat' split) <;> simp
@[simp] theorem issueLeft_ring (e : Fin 16) (c : Fin 4) (s : State) (x : Fin 16 × PendRow) :
    (issueLeft e c s x).train.ring = s.train.ring := by
  unfold issueLeft; dsimp only; split <;> simp
@[simp] theorem endBag_ring (e : Fin 16) (c : Fin 4) (i : Fin 16) (g : GatherRun) (t : BagThread) (s : State) :
    (endBag e c i g t s).train.ring = s.train.ring := by
  unfold endBag; dsimp only; split <;> simp
@[simp] theorem sendOutputs_ring (e : Fin 16) (p : BitVec 1536) (os : List (Nat × List Byte)) (s : State) :
    (sendOutputs e p os s).1.train.ring = s.train.ring :=
  foldl_fst_ring _ _ _ fun _ _ => sendTile_ring ..
@[simp] theorem aheadPiece_ring (who key since dva n : Nat) (s : State) :
    (aheadPiece who key since dva n s).1.train.ring = s.train.ring := by
  unfold aheadPiece; dsimp only; (repeat' split) <;> simp
@[simp] theorem aheadReads_ring (who cmd since : Nat) (xs : List (Nat × Nat)) (s : State) :
    (aheadReads who cmd since xs s).1.train.ring = s.train.ring := by
  have read : (xs.foldl (fun (a : State × IoRes) x =>
      let r := aheadPiece who (opKey kScan cmd) since x.1 x.2 a.1; (r.1, a.2.join r.2)) (s, .done [])).1.train.ring = s.train.ring :=
    foldl_fst_ring _ _ _ fun _ _ => aheadPiece_ring ..
  have drop (ds : List Data) (s : State) : (ds.foldl (fun s _ => countDrop who s) s).train.ring = s.train.ring :=
    foldl_ring _ _ _ fun _ _ => rfl
  unfold aheadReads; dsimp only at read ⊢
  split <;> simp [drop, read]
@[simp] theorem preRange_ring (e : Fin 16) (cmd : Nat) (l : Lists) (since k bag : Nat) (s : State) :
    (preRange e cmd l since k bag s).1.train.ring = s.train.ring := by
  induction k generalizing bag s with
  | zero => rfl
  | succ k ih => rw [preRange]; dsimp only; (repeat' split) <;> simp [ih]
@[simp] theorem updPre_ring (e : Fin 16) (f : PreRun → PreRun) (s : State) : (updPre e f s).train.ring = s.train.ring := by
  unfold updPre; simp
@[simp] theorem finishPre_ring (e : Fin 16) (s : State) : (finishPre e s).train.ring = s.train.ring := by
  unfold finishPre; (repeat' split) <;> simp
@[simp] theorem preReqs_ring (e : Fin 16) (row dva size since : Nat) (s : State) :
    (preReqs e row dva size since s).1.train.ring = s.train.ring := by
  unfold preReqs
  rw [foldl_fst_ring]
  intro p x
  dsimp only
  split <;> simp
@[simp] theorem pumpFetch_ring (e : Fin 16) (fi : Nat) (s : State) (qi : Nat) : (pumpFetch e fi s qi).train.ring = s.train.ring := by
  unfold pumpFetch; dsimp only; (repeat' split) <;> simp
@[simp] theorem pumpPre_ring (e : Fin 16) (s : State) : (pumpPre e s).train.ring = s.train.ring := by
  unfold pumpPre; split <;> simp
@[simp] theorem preRow_ring (e : Fin 16) (r : PreRun) (row : Nat) (s : State) : (preRow e r row s).train.ring = s.train.ring := by
  unfold preRow; dsimp only; (repeat' split) <;> simp
@[simp] theorem stageRow_ring (e : Fin 16) (r : PreRun) (f : PreFetch) (s : State) : (stageRow e r f s).train.ring = s.train.ring := by
  unfold stageRow; dsimp only; split <;> simp
@[simp] theorem finishRefresh_ring (e : Fin 16) (s : State) : (finishRefresh e s).train.ring = s.train.ring := by
  unfold finishRefresh; (repeat' split) <;> simp
@[simp] theorem updRefresh_ring (e : Fin 16) (f : RefreshRun → RefreshRun) (s : State) :
    (updRefresh e f s).train.ring = s.train.ring := by
  unfold updRefresh; simp
@[simp] theorem installRead_ring (e : Fin 16) (i : Install) (s : State) :
    (installRead e i s).1.train.ring = s.train.ring := by simp [installRead]
@[simp] theorem applyEntry_ring (e : Fin 16) (n : Nat) (x : BitVec 128) (s : State) : (applyEntry e n x s).train.ring = s.train.ring := by
  unfold applyEntry; dsimp only; (repeat' split) <;> simp
@[simp] theorem updScatter_ring (e : Fin 16) (n : BitVec 64) (cmd : Nat) (f : ScatterRun → ScatterRun) (s : State) :
    (updScatter e n cmd f s).train.ring = s.train.ring := rfl
@[simp] theorem writeKeys_ring (e : Fin 16) (n : BitVec 64) (cmd : Nat) (b : BagKeyList) (s : State) :
    (writeKeys e n cmd b s).1.train.ring = s.train.ring := by
  unfold writeKeys; dsimp only; split <;> simp
@[simp] theorem listRange_ring (e : Fin 16) (l : Lists) (cmd k : Nat) (s : State) :
    (listRange e l cmd k s).1.train.ring = s.train.ring := by
  unfold listRange; split <;> simp
@[simp] theorem scatterBag_ring (e : Fin 16) (r : ScatterRun) (s : State) : (scatterBag e r s).1.train.ring = s.train.ring := by
  unfold scatterBag; dsimp only; (repeat' split) <;> simp
@[simp] theorem placeKeys_ring (e : Fin 16) (n : BitVec 64) (cmd : Nat) (ks : List (BitVec 256)) (missing upTo : Nat) (s : State) :
    (placeKeys e n cmd ks missing upTo s).train.ring = s.train.ring := rfl
@[simp] theorem scatterBags_ring (k : Nat) (e : Fin 16) (n : BitVec 64) (cmd : Nat) (s : State) :
    (scatterBags k e n cmd s).train.ring = s.train.ring := by
  induction k generalizing s with
  | zero => rfl
  | succ k ih => rw [scatterBags]; dsimp only; (repeat' split) <;> simp [ih]
@[simp] theorem writeMerged_ring (e : Fin 16) (n : BitVec 64) (x : EngineStep) (full : Bool) (s : State) :
    (writeMerged e n x full s).train.ring = s.train.ring := by
  unfold writeMerged; dsimp only; split <;> simp
@[simp] theorem formEntries_ring (e : Fin 16) (n : BitVec 64) (runs : List (List (SortKey × List Byte) × List Byte)) (s : State) :
    (formEntries e n runs s).train.ring = s.train.ring := by
  unfold formEntries; simp
@[simp] theorem mergeStep_ring (e : Fin 16) (n : BitVec 64) (x : EngineStep) (s : State) :
    (mergeStep e n x s).train.ring = s.train.ring := by
  unfold mergeStep; dsimp only; (repeat' split) <;> simp
@[simp] theorem optimiseRow_ring (e : Fin 16) (clip : BitVec 32) (before : List LogEntry) (x : LogEntry) (bytes : List Byte) (s : State) :
    (optimiseRow e clip before x bytes s).1.train.ring = s.train.ring := by
  unfold optimiseRow; split <;> simp
@[simp] theorem optimiseEntry_ring (e : Fin 16) (clip : BitVec 32) (before : List LogEntry) (x : LogEntry) (s : State) :
    (optimiseEntry e clip before x s).1.train.ring = s.train.ring := by
  unfold optimiseEntry; dsimp only; (repeat' split) <;> simp
@[simp] theorem storeEntry_ring (e : Fin 16) (x : LogEntry) (s : State) : (storeEntry e x s).1.train.ring = s.train.ring := by
  unfold storeEntry; simp
@[simp] theorem setEntry_ring (e : Fin 16) (n : BitVec 64) (i : Nat) (y : LogEntry) (s : State) :
    (setEntry e n i y s).train.ring = s.train.ring := rfl
@[simp] theorem optimiseOne_ring (e : Fin 16) (n : BitVec 64) (i : Nat) (clip : BitVec 32) (before : List LogEntry) (y : LogEntry)
    (s : State) :
    (optimiseOne e n i clip before y s).1.train.ring = s.train.ring := by
  unfold optimiseOne; dsimp only; (repeat' split) <;> simp
@[simp] theorem optimiseAll_ring (k : Nat) (n : BitVec 64) (mask : BitVec 16) (clip : BitVec 32) (s : State) :
    (optimiseAll k n mask clip s).1.train.ring = s.train.ring := by
  induction k generalizing s with
  | zero => rfl
  | succ k ih => rw [optimiseAll]; dsimp only; (repeat' split) <;> simp [ih]
@[simp] theorem rowWritten_ring (e : Fin 16) (prev : Option LogEntry) (x : LogEntry) (s : State) :
    (rowWritten e prev x s).train.ring = s.train.ring := rfl
@[simp] theorem applyNewRow_ring (e : Fin 16) (prev : Option LogEntry) (x : LogEntry) (s : State) :
    (applyNewRow e prev x s).1.train.ring = s.train.ring := by
  unfold applyNewRow; dsimp only; split <;> simp
@[simp] theorem startDrain_ring (e : Fin 16) (n : Nat) (xs : List LogEntry) (s : State) :
    (startDrain e n xs s).train.ring = s.train.ring := by
  unfold startDrain; dsimp only; split <;> simp
@[simp] theorem drainValues_ring (e : Fin 16) (before xs : List LogEntry) (m : Mem) (s : State) :
    (drainValues e before xs m s).1.train.ring = s.train.ring := by
  induction xs generalizing before m s with
  | nil => rfl
  | cons x xs ih => rw [drainValues]; dsimp only; rw [ih, optimiseRow_ring]
@[simp] theorem updDrain_ring (e : Fin 16) (n : Nat) (f : Drain → Drain) (s : State) : (updDrain e n f s).train.ring = s.train.ring := rfl
@[simp] theorem readDrain_ring (e : Fin 16) (d : Drain) (s : State) : (readDrain e d s).1.train.ring = s.train.ring := by
  unfold readDrain; dsimp only; (repeat' split) <;> simp
@[simp] theorem drainWritten_ring (e : Fin 16) (prev : Option LogEntry) (xs : List LogEntry) (s : State) :
    (drainWritten e prev xs s).train.ring = s.train.ring := by
  induction xs generalizing prev s with
  | nil => rfl
  | cons x xs ih => rw [drainWritten, ih, rowWritten_ring]
@[simp] theorem writeDrain_ring (e : Fin 16) (d : Drain) (s : State) : (writeDrain e d s).1.train.ring = s.train.ring := by
  unfold writeDrain; dsimp only; split <;> simp
@[simp] theorem drainFailed_ring (d : Drain) (st : Status) (s : State) : (drainFailed d st s).train.ring = s.train.ring := by
  unfold drainFailed; dsimp only
  rw [foldl_ring _ _ _ fun _ _ => by split <;> simp, stopDrain_ring]
@[simp] theorem runDrain_ring (e : Fin 16) (n : Nat) (s : State) : (runDrain e n s).1.train.ring = s.train.ring := by
  unfold runDrain; dsimp only; (repeat' split) <;> simp
@[simp] theorem reportShard_ring (u : Fin 4) (c : Coll) (rank : Nat) (ok : Bool) (s : State) :
    (reportShard u c rank ok s).train.ring = s.train.ring := by
  have send (d : Data) (s : State) : KeepsRing s (sendCtrl c 4 rank 0 0 d s).1 := sendCtrl_ring ..
  have goOn (a : State × Bool) : KeepsRing a.1 (if a.2 then collWork u c.cmd a.1 else failColl u c .peerUnreachable rank a.1) := by
    unfold KeepsRing; split <;> simp
  show KeepsRing s _
  exact .trans (updColl_ring u c.cmd _ s) (.trans (send _ _) (goOn _))
@[simp] theorem endExport_ring (cmd : Nat) (st : Status) (s : State) :
    (endExport cmd st s).train.ring = s.train.ring := by simp [endExport]
@[simp] theorem writeExport_ring (x : ExportRun) (d : Data) (s : State) : (writeExport x d s).train.ring = s.train.ring := by
  unfold writeExport; dsimp only; split <;> simp
@[simp] theorem drainTable_ring (cmd table : Nat) (acc : State × Option Status) (e : Fin 16) :
    (drainTable cmd table acc e).1.train.ring = acc.1.train.ring := by
  unfold drainTable; dsimp only; split <;> simp
@[simp] theorem captureExport_ring (x : ExportRun) (s : State) : (captureExport x s).1.train.ring = s.train.ring := by
  unfold captureExport; split <;> simp
@[simp] theorem failAppend_ring (a : AppendRun) (st : Status) (s : State) : (failAppend a st s).train.ring = s.train.ring := by
  unfold failAppend; split <;> simp
@[simp] theorem histCount_ring (f : HistCounters → HistCounters) (s : State) : (histCount f s).train.ring = s.train.ring := rfl
@[simp] theorem updAppend_ring (cmd : Nat) (f : AppendRun → AppendRun) (s : State) : (updAppend cmd f s).train.ring = s.train.ring := by
  unfold updAppend; simp
@[simp] theorem updWalk_ring (cmd : Nat) (f : WalkRun → WalkRun) (s : State) : (updWalk cmd f s).train.ring = s.train.ring := by
  unfold updWalk; simp
@[simp] theorem signalWalk_ring (k cmd : Nat) (s : State) : (signalWalk k cmd s).train.ring = s.train.ring := by
  induction k generalizing s with
  | zero => rfl
  | succ k ih => rw [signalWalk]; dsimp only; (repeat' split) <;> simp [ih]
@[simp] theorem settleWalk_ring (cmd : Nat) (s : State) : (settleWalk cmd s).train.ring = s.train.ring := by
  unfold settleWalk; dsimp only; (repeat' split) <;> simp
@[simp] theorem stopWalk_ring (cmd : Nat) (st : Status) (s : State) : (stopWalk cmd st s).train.ring = s.train.ring := by simp [stopWalk]
@[simp] theorem stopAppend_ring (a : AppendRun) (st : Status) (s : State) : (stopAppend a st s).train.ring = s.train.ring := by
  unfold stopAppend; dsimp only; split <;> simp
@[simp] theorem pageEntry_ring (slot : Fin 256) (cmd : Nat) (d : BitVec 512) (i : Nat) (s : State) :
    (pageEntry slot cmd d i s).1.train.ring = s.train.ring := by
  unfold pageEntry; dsimp only; (repeat' split) <;> simp
@[simp] theorem pageRows_ring (slot : Fin 256) (cmd : Nat) (d : BitVec 512) (write : Bool) (head : Nat) (value : Bool) (pos : Nat)
    (s : State) :
    (pageRows slot cmd d write head value pos s).1.train.ring = s.train.ring := by
  unfold pageRows; dsimp only; (repeat' split) <;> simp
@[simp] theorem countFwd_ring (bytes : Nat) (s : State) : (countFwd bytes s).train.ring = s.train.ring := rfl
@[simp] theorem forward_ring (cmd row who : Nat) (dst : Option FwdDst) (e : XEntry) (n : Nat) (d : Data) (s : State) :
    (forward cmd row who dst e n d s).train.ring = s.train.ring := by
  unfold forward; dsimp only
  rw [foldl_ring _ _ _ fun _ _ => by simp]; simp
@[simp] theorem issueAppend_ring (a : AppendRun) (d : BitVec 512) (s : State) : (issueAppend a d s).train.ring = s.train.ring := by
  unfold issueAppend; dsimp only; (repeat' split) <;> simp
@[simp] theorem walkSend_ring (w : WalkRun) (row : Nat) (b : WBody) (addr : Nat) (s : State) :
    (walkSend w row b addr s).train.ring = s.train.ring := rfl
@[simp] theorem issueWalk_ring (w : WalkRun) (s : State) : (issueWalk w s).train.ring = s.train.ring := by
  unfold issueWalk; dsimp only; (repeat' split) <;> simp
@[simp] theorem countBursts_ring (e : ChanEntry) (hit : Bool) (s : State) : (countBursts e hit s).train.ring = s.train.ring := by
  unfold countBursts; split <;> simp
@[simp] theorem openPage_ring (e : ChanEntry) (s : State) : (openPage e s).train.ring = s.train.ring := by
  unfold openPage; split <;> simp
@[simp] theorem serveBursts_ring (e : ChanEntry) (s : State) : (serveBursts e s).train.ring = s.train.ring := by simp [serveBursts]
@[simp] theorem corrected_ring (scrub : Bool) (w : Nat) (s : State) : (corrected scrub w s).train.ring = s.train.ring := by
  unfold corrected; split <;> simp
@[simp] theorem newUncorrectable_ring (source w : Nat) (e : ChanEntry) (s : State) :
    (newUncorrectable source w e s).train.ring = s.train.ring := by
  unfold newUncorrectable; dsimp only; split <;> simp
@[simp] theorem decodeError_ring (source : Nat) (e : ChanEntry) (x : EccErr) (acc : State × Data) :
    (decodeError source e x acc).1.train.ring = acc.1.train.ring := by
  unfold decodeError; dsimp only; (repeat' split) <;> simp
@[simp] theorem closePage_ring (e : ChanEntry) (s : State) : (closePage e s).train.ring = s.train.ring := by
  unfold closePage; dsimp only; split <;> simp
@[simp] theorem serveRequest_ring (e : ChanEntry) (errs : List EccErr) (s : State) :
    (serveRequest e errs s).train.ring = s.train.ring := by
  have decode (xs : List EccErr) (p : State × Data) :
      (xs.foldl (fun acc x => decodeError (b2n e.write) e x acc) p).1.train.ring = p.1.train.ring :=
    foldl_fst_ring _ _ _ fun _ _ => decodeError_ring ..
  unfold serveRequest; dsimp only
  rw [takeNext_ring, closePage_ring]
  split <;> simp [decode]
@[simp] theorem noteRead_ring (a n : Nat) (s : State) : (noteRead a n s).1.train.ring = s.train.ring := by simp [noteRead]
@[simp] theorem noteWalk_ring (page : Nat) (s : State) : (noteWalk page s).1.train.ring = s.train.ring := by
  unfold noteWalk; dsimp only; (repeat' split) <;> simp
@[simp] theorem retryPosted_ring (s : State) : (retryPosted s).train.ring = s.train.ring := by
  unfold retryPosted; dsimp only
  rw [foldl_ring _ _ _ fun _ _ => by simp]
@[simp] theorem deliverWalk_ring (quad : Fin 4) (page : Nat) (r : Except Status (BitVec 64)) (s : State) :
    (deliverWalk quad page r s).train.ring = s.train.ring := by
  unfold deliverWalk; split <;> simp
theorem farIssueAt_ring (k : Fin 16) (s : State) : ∀ u, farIssueAt k s = some u → u.train.ring = s.train.ring := by
  intro u h; unfold farIssueAt at h; dsimp only at h
  (repeat' split at h) <;> cases h <;> simp
@[simp] theorem portDown_ring (p : Fin 16) (s : State) : (portDown p s).train.ring = s.train.ring := by
  unfold portDown; split <;> simp
theorem takeRx_ring {p : Fin 16} {f : Packet → Bool} {s : State} {r : Packet × State} (h : takeRx p f s = some r) :
    r.2.train.ring = s.train.ring := by
  unfold takeRx at h
  split at h <;> cases h
  rfl
@[simp] theorem nakIn_ring (p : Fin 16) (ack : BitVec 8) (s : State) : (nakIn p ack s).train.ring = s.train.ring := by
  unfold nakIn; dsimp only; (repeat' split) <;> simp
@[simp] theorem countReserved_ring (p : Fin 16) (h : BitVec 512) (s : State) : (countReserved p h s).train.ring = s.train.ring := by
  unfold countReserved; split <;> simp
@[simp] theorem packetIn_ring (p : Fin 16) (fs : List (BitVec 512)) (s : State) : (packetIn p fs s).train.ring = s.train.ring := by
  unfold packetIn; dsimp only
  split
  · rfl
  · split
    · split
      · next h => rw [takeRx_ring h]; split <;> simp
      · split <;> simp
    · split <;> simp
@[simp] theorem flitIn_ring (p : Fin 16) (s : State) (f : BitVec 512) : (flitIn p s f).train.ring = s.train.ring := by
  unfold flitIn; dsimp only; (repeat' split) <;> simp
@[simp] theorem codewordIn_ring (p : Fin 16) (cw : Codeword) (s : State) : (codewordIn p cw s).train.ring = s.train.ring := by
  unfold codewordIn; dsimp only; (repeat' split) <;> simp
theorem takePacket_ring {p : Fin 17} {f : Packet → Bool} {s : State} {r : Packet × State} (h : takePacket p f s = some r) :
    r.2.train.ring = s.train.ring := by
  unfold takePacket at h
  split at h
  · exact takeRx_ring h
  · obtain ⟨k, -, rfl⟩ := Option.map_eq_some_iff.mp h; rfl
@[simp] theorem arrive_ring (p : Fin 17) (f : Packet → Bool) (act : Packet → State → State) (s : State)
    (h : ∀ k s, (act k s).train.ring = s.train.ring) : (arrive p f act s).train.ring = s.train.ring := by
  unfold arrive
  split
  · rfl
  · next k u hp =>
    have e : u.train.ring = s.train.ring := takePacket_ring hp
    split <;> simp [h, e]
@[simp] theorem toColl_ring (act : Fin 4 → Coll → Nat → State → State) (k : Packet) (s : State)
    (h : ∀ u c r s, (act u c r s).train.ring = s.train.ring) : (toColl act k s).train.ring = s.train.ring := by
  unfold toColl; split <;> simp [h]
@[simp] theorem permuteData_ring (u : Fin 4) (c : Coll) (rank : Nat) (k : Packet) (s : State) :
    (permuteData u c rank k s).train.ring = s.train.ring := by
  unfold permuteData; dsimp only; (repeat' split) <;> simp
@[simp] theorem collDataIn_ring (k : Packet) (u : Fin 4) (c : Coll) (rank : Nat) (s : State) :
    (collDataIn k u c rank s).train.ring = s.train.ring := by
  unfold collDataIn; dsimp only; (repeat' split) <;> simp
@[simp] theorem pullIn_ring (k : Packet) (u : Fin 4) (c : Coll) (rank : Nat) (s : State) :
    (pullIn k u c rank s).train.ring = s.train.ring := by
  unfold pullIn; dsimp only; (repeat' split) <;> simp
@[simp] theorem auditIn_ring (k : Packet) (u : Fin 4) (c : Coll) (rank : Nat) (s : State) :
    (auditIn k u c rank s).train.ring = s.train.ring := by
  unfold auditIn; simp
@[simp] theorem refetchIn_ring (k : Packet) (u : Fin 4) (c : Coll) (rank : Nat) (s : State) :
    (refetchIn k u c rank s).train.ring = s.train.ring := by simp [refetchIn]
@[simp] theorem countDenied_ring (st : Status) (s : State) : (countDenied st s).train.ring = s.train.ring := by
  unfold countDenied; split <;> simp
@[simp] theorem serveRemote_ring (write : Bool) (u : Fin 4) (k : Packet) (s : State) :
    (serveRemote write u k s).train.ring = s.train.ring := by
  unfold serveRemote; dsimp only; split <;> simp
@[simp] theorem endRemote_ring (u : Fin 4) (r : RemoteReq) (st : Status) (d : Data) (s : State) :
    (endRemote u r st d s).train.ring = s.train.ring := by simp [endRemote]
@[simp] theorem remoteResponse_ring (write : Bool) (k : Packet) (s : State) : (remoteResponse write k s).train.ring = s.train.ring := by
  unfold remoteResponse; (repeat' split) <;> simp
@[simp] theorem updSession_ring (f : Session → Session) (s : State) : (updSession f s).train.ring = s.train.ring := rfl
@[simp] theorem clearFront_ring (s : State) : (clearFront s).train.ring = s.train.ring := rfl
@[simp] theorem copyQueues_ring (s : State) : (copyQueues s).train.ring = s.train.ring := rfl
@[simp] theorem loseEngine_ring (s : State) (k : Fin 16) : (loseEngine s k).train.ring = s.train.ring := by
  unfold loseEngine; dsimp only
  rw [foldl_ring _ _ _ fun _ _ => by simp]; simp
@[simp] theorem haltDrains_ring (s : State) : (haltDrains s).train.ring = s.train.ring := by
  unfold haltDrains; simp
@[simp] theorem loseRequests_ring (s : State) : (loseRequests s).train.ring = s.train.ring := by
  unfold loseRequests; simp
@[simp] theorem clearConfigSpace_ring (s : State) : (clearConfigSpace s).train.ring = s.train.ring := rfl
@[simp] theorem updSq_ring (q : Fin 64) (f : SQueue → SQueue) (s : State) : (updSq q f s).train.ring = s.train.ring := rfl
@[simp] theorem updCq_ring (q : Fin 64) (f : CQueue → CQueue) (s : State) : (updCq q f s).train.ring = s.train.ring := rfl
@[simp] theorem dropDone_ring (c : Completion) (s : State) : (dropDone c s).train.ring = s.train.ring := rfl
@[simp] theorem holdRecord_ring (c : Completion) (s : State) : (holdRecord c s).train.ring = s.train.ring := by
  unfold holdRecord; dsimp only; split <;> simp
@[simp] theorem countNews_ring (q : Fin 64) (s : State) : (countNews q s).train.ring = s.train.ring := by
  unfold countNews; dsimp only; split <;> simp
@[simp] theorem writeRecord_ring (c : Completion) (s : State) : (writeRecord c s).train.ring = s.train.ring := by
  unfold writeRecord; simp
@[simp] theorem updRegion_ring (k : Fin 192) (f : Region → Region) (s : State) : (updRegion k f s).train.ring = s.train.ring := rfl
@[simp] theorem countBar2_ring (s : State) : (countBar2 s).train.ring = s.train.ring := rfl
@[simp] theorem postPhys_ring (act : ReqAct) (c : AccClass) (who : Nat) (write : Bool) (a n : Nat) (d : Data) (s : State) :
    (postPhys act c who write a n d s).train.ring = s.train.ring := by
  unfold postPhys; dsimp only
  rw [foldl_ring _ _ _ fun _ _ => by simp]
@[simp] theorem sessionDone_ring (st : Status) (s : State) : (sessionDone st s).train.ring = s.train.ring := rfl
@[simp] theorem endSession_ring (s : State) : (endSession s).train.ring = s.train.ring := rfl
@[simp] theorem enterRunning_ring (s : State) : (enterRunning s).train.ring = s.train.ring := by simp [enterRunning]
@[simp] theorem startRecord_ring (s : State) : (startRecord s).train.ring = s.train.ring := rfl
@[simp] theorem resume_ring (s : State) : (resume s).train.ring = s.train.ring := by
  unfold resume; dsimp only; split <;> simp
@[simp] theorem tearWaiting_ring (s : State) : (tearWaiting s).train.ring = s.train.ring := rfl
@[simp] theorem discardDeferred_ring (s : State) : (discardDeferred s).train.ring = s.train.ring := by
  unfold discardDeferred
  rw [updRowObj_train, dropDeferred_ring]
@[simp] theorem release_ring (s : State) : (release s).train.ring = s.train.ring := by
  show KeepsRing s _
  unfold release; dsimp only
  rw [KeepsRing, updSession_ring]; dsimp only
  rw [tearWaiting_ring, discardDeferred_ring, abandonAll_ring, setDev_ring]
@[simp] theorem enterFaulted_ring (s : State) : (enterFaulted s).train.ring = s.train.ring := by
  unfold enterFaulted; simp
@[simp] theorem drainToReady_ring (s : State) : (drainToReady s).train.ring = s.train.ring := by simp [drainToReady]
@[simp] theorem reinitQueues_ring (s : State) : (reinitQueues s).train.ring = s.train.ring := rfl
@[simp] theorem copyXlate_ring (k : Fin 16) (write : Bool) (cmd : Nat) (xs ps : List (Nat × Nat)) (s : State) :
    (copyXlate k write cmd xs ps s).1.train.ring = s.train.ring := by
  induction xs generalizing ps s with
  | nil => rfl
  | cons x xs ih => rw [copyXlate]; (repeat' split) <;> simp [ih]
@[simp] theorem copyPost_ring (k : Fin 16) (write : Bool) (xs : List (Nat × Nat)) (d : Data) (s : State) :
    (copyPost k write xs d s).1.train.ring = s.train.ring := by
  induction xs generalizing d s with
  | nil => rfl
  | cons x xs ih => rw [copyPost]; dsimp only; rw [ih, postReq_ring]
@[simp] theorem copyIssue_ring (eng : Fin 16) (r : CopyRun) (c : Cmd) (host n : Nat) (ps : List (Nat × Nat)) (s : State) :
    (copyIssue eng r c host n ps s).train.ring = s.train.ring := by
  unfold copyIssue; dsimp only; split <;> simp
@[simp] theorem freeSlot_ring (k : Fin 16) (idx : Nat) (s : State) : (freeSlot k idx s).train.ring = s.train.ring := rfl
@[simp] theorem copyDone_ring (k : Fin 16) (idx : Nat) (r : HostResult) (s : State) : (copyDone k idx r s).train.ring = s.train.ring := by
  unfold copyDone; dsimp only; (repeat' split) <;> simp
@[simp] theorem storeRecord_ring (index sub : Nat) (v : List Byte) (s : State) :
    (storeRecord index sub v s).train.ring = s.train.ring := rfl
@[simp] theorem commitRecords_ring (w : WaitingWrite) (s : State) : (commitRecords w s).train.ring = s.train.ring := by
  unfold commitRecords; (repeat' split) <;> simp
@[simp] theorem dropWaiting_ring (w : WaitingWrite) (s : State) : (dropWaiting w s).train.ring = s.train.ring := rfl
@[simp] theorem confirm_ring (s : State) : (confirm s).train.ring = s.train.ring := by
  unfold confirm; dsimp only; (repeat' split) <;> simp
@[simp] theorem finishAction_ring (w : WaitingWrite) (s : State) : (finishAction w s).train.ring = s.train.ring := by
  unfold finishAction; split <;> simp
@[simp] theorem writeMsix_ring (off : Nat) (bs : List Byte) (s : State) : (writeMsix off bs s).train.ring = s.train.ring := by
  unfold writeMsix; dsimp only; (repeat' split) <;> simp
@[simp] theorem writeReg_ring (off : Nat) (bs : List Byte) (s : State) : (writeReg off bs s).train.ring = s.train.ring := by
  unfold writeReg; dsimp only; (repeat' split) <;> simp
@[simp] theorem writeRegs_ring (n off : Nat) (bs : List Byte) (s : State) : (writeRegs n off bs s).train.ring = s.train.ring := by
  induction n generalizing off bs s with
  | zero => rfl
  | succ n ih => rw [writeRegs]; split <;> simp [ih]
@[simp] theorem updLoop_ring (l : LoopId) (f : Loop → Loop) (s : State) : (updLoop l f s).train.ring = s.train.ring := by
  unfold updLoop; split <;> simp
@[simp] theorem lockPass_ring (l : LoopId) (s : State) : (lockPass l s).train.ring = s.train.ring := by
  unfold lockPass; dsimp only; (repeat' split) <;> simp
@[simp] theorem stopBoot_ring (s : State) : (stopBoot s).train.ring = s.train.ring := by
  unfold stopBoot
  rw [enterFaulted_ring, updBoot_train]
@[simp] theorem phyLate_ring (l : LoopId) (s : State) : (phyLate l s).train.ring = s.train.ring := by
  unfold phyLate; dsimp only; (repeat' split) <;> simp
@[simp] theorem lockFail_ring (l : LoopId) (s : State) : (lockFail l s).train.ring = s.train.ring := by
  unfold lockFail; dsimp only; (repeat' split) <;> simp
@[simp] theorem loseT1_ring (s : State) : (loseT1 s).train.ring = s.train.ring := rfl
@[simp] theorem answerWhere_ring (p : WaitingWrite → Bool) (st : Status) (s : State) :
    (answerWhere p st s).train.ring = s.train.ring := by
  unfold answerWhere; dsimp only
  rw [foldl_ring _ _ _ fun _ _ => by simp]; simp
@[simp] theorem answerWaiting_ring (index sub : Nat) (st : Status) (s : State) :
    (answerWaiting index sub st s).train.ring = s.train.ring := by simp [answerWaiting]
@[simp] theorem takeSample_ring (mv ma : Nat) (s : State) : (takeSample mv ma s).train.ring = s.train.ring := rfl
@[simp] theorem skipCycles_ring (s : State) : (skipCycles s).train.ring = s.train.ring := by simp [skipCycles]
@[simp] theorem throttleStep_ring (s : State) : (throttleStep s).train.ring = s.train.ring := by
  unfold throttleStep; dsimp only; (repeat' split) <;> simp
@[simp] theorem bootChoice_ring (s : State) : (bootChoice s).1.train.ring = s.train.ring := by
  unfold bootChoice; (repeat' split) <;> simp
@[simp] theorem tryBanks_ring (bs : List Bool) (s : State) : (tryBanks bs s).1.train.ring = s.train.ring := by
  induction bs generalizing s with
  | nil => rfl
  | cons b bs ih =>
    rw [tryBanks]; dsimp only
    (repeat' split) <;> simp [ih]
@[simp] theorem beginHold_ring (s : State) : (beginHold s).train.ring = s.train.ring := by
  unfold beginHold; simp
@[simp] theorem loadSettings_ring (s : State) : (loadSettings s).train.ring = s.train.ring := by
  have fold {α : Type} (l : List α) (index sub : α → Nat) (v : α → List Byte) (s : State) :
      (l.foldl (fun s x => storeRecord (index x) (sub x) (v x) s) s).train.ring = s.train.ring :=
    foldl_ring _ _ _ fun _ _ => storeRecord_ring ..
  show KeepsRing s _
  unfold loadSettings; dsimp only
  rw [KeepsRing, extendMeas_ring, updDict_train]
  split
  · exact fold _ _ _ _ s
  · exact (fold _ (fun _ => 0x3001) id _ _).trans (fold _ _ _ _ s)
@[simp] theorem measureImage_ring (d : BankData) (s : State) : (measureImage d s).train.ring = s.train.ring := rfl
@[simp] theorem updTap_ring (f : Tap → Tap) (s : State) : (updTap f s).train.ring = s.train.ring := by
  unfold updTap; split <;> simp
@[simp] theorem tapLoad_ring (code : BitVec 8) (boundary : State → BitVec 9) (dr : State → BitVec 32) (s : State) :
    (tapLoad code boundary dr s).train.ring = s.train.ring := by simp [tapLoad]
@[simp] theorem tickCounters_ring (s : State) : (tickCounters s).train.ring = s.train.ring := by
  unfold tickCounters; simp
@[simp] theorem wakeIfWanted_ring (s : State) : (wakeIfWanted s).train.ring = s.train.ring := by
  unfold wakeIfWanted; dsimp only; split <;> simp

end Sys2Proof.Machine
end

section
/-!
SUPPORT. The account of the phase records (R51 to R55) under what does touch the ring: a step that opens, the seal and the close, the
ticks of the phase timers, RING_CLEAR, and every function that hands on to one of these.
-/
namespace Sys2Proof.Machine

/-- Every record of a ring keeps its account. -/
def AccountsOk (v : Vector PhaseRec 1024) : Prop := ∀ i : Fin 1024, AccountOk v[i]

theorem ringOk_iff {s : State} : RingOk s ↔ AccountsOk s.train.ring := Iff.rfl

theorem timerOk_zero (b : Bool) : TimerOk b 0 := .inl ⟨rfl, by decide⟩

theorem TimerOk.mono {b c : Bool} {x : Nat} (h : TimerOk b x) (hbc : b = true → c = true) : TimerOk c x :=
  h.imp id fun ⟨hx, hb⟩ => ⟨hx, hbc hb⟩

/-- A timer that a tick has seen is a multiple of 4, or has saturated and says so (R52). -/
theorem timerOk_tick32 {b : Bool} {x : Nat} (on : Bool) (h : TimerOk b x) : TimerOk (b || (tick32 on x).2) (tick32 on x).1 := by
  cases on with
  | false => simpa [tick32] using h
  | true =>
    rcases h with ⟨hx, hlt⟩ | ⟨rfl, rfl⟩
    · by_cases hs : 2 ^ 32 - 1 < x + 4
      · exact .inr ⟨by simp only [tick32, if_true, addSat32]; omega, by simp [tick32]; omega⟩
      · exact .inl ⟨by simp only [tick32, if_true, addSat32]; omega, by simp only [tick32, if_true, addSat32]; omega⟩
    · exact .inr ⟨by simp [tick32, addSat32], by simp⟩

/-- A tick that saturates no timer adds 4 to one that is on. -/
theorem tick32_unsaturated {on : Bool} {x : Nat} (h : (tick32 on x).2 = false) : (tick32 on x).1 = x + if on then 4 else 0 := by
  cases on with
  | false => rfl
  | true =>
    simp only [tick32, if_true, decide_eq_false_iff_not] at h
    simp only [tick32, if_true, addSat32]; omega

/-- The sum of a vector's elements. -/
theorem vector_sum {n : Nat} (v : Vector Nat n) : v.toList.sum = ∑ i : Fin n, v[i] := by
  have : v.toList = List.ofFn fun i : Fin n => v[i] := by
    apply List.ext_getElem <;> simp
  rw [this, List.sum_ofFn]

/-- Timers of which some advance by 4 and none goes back: their sum advances by 4 at least. -/
theorem sum_ticked {f g : Fin 16 → Nat} {j : Fin 16} (hj : g j = f j + 4) (h : ∀ i, f i ≤ g i) : ∑ i, f i + 4 ≤ ∑ i, g i := by
  rw [← Finset.add_sum_erase _ f (Finset.mem_univ j), ← Finset.add_sum_erase _ g (Finset.mem_univ j), hj]
  have := Finset.sum_le_sum (s := Finset.univ.erase j) fun i _ => h i
  omega

theorem tickRecord_phaseNs (busy : List Nat) (peer : Bool) (r : PhaseRec) (i : Fin 16) :
    (tickRecord busy peer r).phaseNs[i] = (tick32 (timerOn busy peer i.val) r.phaseNs[i]).1 := by simp [tickRecord]

theorem tickRecord_saturated (busy : List Nat) (peer : Bool) (r : PhaseRec) :
    (tickRecord busy peer r).saturated = true ↔ r.saturated = true ∨ (tick32 true r.wallNs).2 = true ∨
      (tick32 (!(List.finRange 16).any fun i => timerOn busy peer i.val) r.idleNs).2 = true ∨
      ∃ i : Fin 16, (tick32 (timerOn busy peer i.val) r.phaseNs[i]).2 = true := by
  simp [tickRecord, or_assoc]

/-- A tick keeps the account of a record (R52, R53): the timers that are on advance with WALL_NS, and IDLE_NS does where none is. -/
theorem accountOk_tickRecord {r : PhaseRec} (busy : List Nat) (peer : Bool) (h : AccountOk r) : AccountOk (tickRecord busy peer r) := by
  obtain ⟨hwall, hidle, hphase, hsum⟩ := h
  have hsat := tickRecord_saturated busy peer r
  refine ⟨(timerOk_tick32 true hwall).mono fun h => ?_, (timerOk_tick32 _ hidle).mono fun h => ?_, fun i => ?_, fun hs => ?_⟩
  · rcases Bool.or_eq_true_iff.mp h with h | h <;> simp [hsat, h]
  · rcases Bool.or_eq_true_iff.mp h with h | h <;> simp only [hsat, h, true_or, or_true]
  · rw [tickRecord_phaseNs]
    refine (timerOk_tick32 (timerOn busy peer i.val) (hphase i)).mono fun h => ?_
    rcases Bool.or_eq_true_iff.mp h with h | h
    · simp [hsat, h]
    · exact hsat.mpr (.inr (.inr (.inr ⟨i, h⟩)))
  · rw [← Bool.not_eq_true, hsat] at hs
    push Not at hs
    obtain ⟨hr, hw, hi, hp⟩ := hs
    simp only [Bool.not_eq_true] at hr hw hi hp
    obtain ⟨hle, hup, hall⟩ := hsum hr
    have ewall : (tickRecord busy peer r).wallNs = r.wallNs + 4 := tick32_unsaturated hw
    have eidle : (tickRecord busy peer r).idleNs = r.idleNs + if !(List.finRange 16).any fun i => timerOn busy peer i.val then 4 else 0 :=
      tick32_unsaturated hi
    have ephase (i : Fin 16) : (tickRecord busy peer r).phaseNs[i] = r.phaseNs[i] + if timerOn busy peer i.val then 4 else 0 := by
      rw [tickRecord_phaseNs, tick32_unsaturated (hp i)]
    rw [vector_sum] at hup ⊢
    by_cases hon : ∃ j : Fin 16, timerOn busy peer j.val = true
    · obtain ⟨j, hj⟩ := hon
      have hany : ((List.finRange 16).any fun i => timerOn busy peer i.val) = true := List.any_eq_true.mpr ⟨j, List.mem_finRange j, hj⟩
      have := sum_ticked (f := fun i => r.phaseNs[i]) (g := fun i => (tickRecord busy peer r).phaseNs[i]) (j := j)
        (by simp [ephase, hj]) (by simp [ephase])
      simp only [hany, Bool.not_true, Bool.false_eq_true, if_false] at eidle
      refine ⟨by omega, by omega, fun i => ?_⟩
      have := hall i
      rw [ephase]; split <;> omega
    · have hoff (i : Fin 16) : timerOn busy peer i.val = false := by simpa using fun h => hon ⟨i, h⟩
      have hany : ((List.finRange 16).any fun i => timerOn busy peer i.val) = false := by simp [hoff]
      simp only [hany, Bool.not_false, if_true] at eidle
      simp only [ephase, hoff, Bool.false_eq_true, if_false, Nat.add_zero]
      exact ⟨by omega, by omega, fun i => by have := hall i; omega⟩

theorem accountOk_zero : AccountOk PhaseRec.zero := by
  refine ⟨timerOk_zero _, timerOk_zero _, fun i => ?_, fun _ => ⟨Nat.le_refl 0, Nat.zero_le _, fun i => ?_⟩⟩ <;>
    simp [PhaseRec.zero, timerOk_zero]

theorem accountsOk_replicate : AccountsOk (.replicate 1024 .zero) := fun i => by simpa using accountOk_zero

theorem accountsOk_updAt {v : Vector PhaseRec 1024} {i : Fin 1024} {f : PhaseRec → PhaseRec} (h : AccountsOk v)
    (hf : ∀ r, AccountOk r → AccountOk (f r)) : AccountsOk (updAt v i f) := by
  intro j
  by_cases e : i = j
  · subst e
    simpa [updAt] using hf _ (h i)
  · have : i.val ≠ j.val := fun e' => e (Fin.ext e')
    simpa [updAt, Vector.getElem_set_ne, this] using h j

theorem foldl_accounts {α : Type} (l : List α) (f : State → α → State) {s : State} (h : AccountsOk s.train.ring)
    (hf : ∀ s x, AccountsOk s.train.ring → AccountsOk (f s x).train.ring) : AccountsOk (l.foldl f s).train.ring := by
  induction l generalizing s with
  | nil => exact h
  | cons x xs ih => exact ih (hf s x h)

section
variable {s : State} (h : AccountsOk s.train.ring)
include h

theorem updRecord_accounts (p : Step) (f : PhaseRec → PhaseRec) (hf : ∀ r, AccountOk r → AccountOk (f r)) :
    AccountsOk (updRecord p f s).train.ring := accountsOk_updAt h hf

@[simp] theorem openStep_accounts (c : Slot) : AccountsOk (openStep c s).train.ring :=
  accountsOk_updAt h fun _ _ => accountOk_zero

@[simp] theorem sealByEnd_accounts (k : Cmd) : AccountsOk (sealByEnd k s).train.ring := by
  unfold sealByEnd; dsimp only
  split
  · exact h
  · rw [sealAll_ring]
    exact accountsOk_updAt (by simpa using h) fun _ hr => hr

theorem runAtOnce_accounts (effect : Cmd → State → State × Option (Status × Nat)) (k : Cmd)
    (he : ∀ k s, AccountsOk s.train.ring → AccountsOk (effect k s).1.train.ring) : AccountsOk (runAtOnce effect k s).train.ring := by
  have := he k (startCmd k.id s) (by simpa using h)
  unfold runAtOnce; dsimp only; (repeat' split) <;> simp [h, this]
end

/-- A rule whose checks leave the ring alone and whose effect keeps the accounts. -/
def RuleOk (r : OpRule) : Prop :=
  (∀ q c s, (r.check q c s).1.train.ring = s.train.ring) ∧ ∀ k s, AccountsOk s.train.ring → AccountsOk (r.effect k s).train.ring

theorem ruleOk_of_ring {r : OpRule} (hc : ∀ q c s, (r.check q c s).1.train.ring = s.train.ring)
    (he : ∀ k s, (r.effect k s).train.ring = s.train.ring) : RuleOk r := ⟨hc, fun k s h => by rw [he]; exact h⟩

theorem instantRule_ok {check : Slot → State → Adm} {effect : Slot → State → State}
    (h : ∀ c s, (effect c s).train.ring = s.train.ring) : RuleOk (instantRule check effect) :=
  ruleOk_of_ring (fun _ _ _ => rfl) fun k s => runAtOnce_ring _ k s fun k s => h k.slot s

theorem nopRule_ok : RuleOk nopRule := instantRule_ok fun _ _ => rfl

theorem stepBeginRule_ok : RuleOk stepBeginRule :=
  ⟨fun _ _ _ => rfl, fun k s h => by simpa [stepBeginRule] using openStep_accounts h k.slot⟩

theorem stepEndRule_ok : RuleOk stepEndRule := ⟨fun _ _ _ => rfl, fun k _ h => sealByEnd_accounts h k⟩

theorem tileRunRule_ok : RuleOk tileRunRule := ruleOk_of_ring tileRunCheck_ring tileRunAdmit_ring

theorem copyRule_ok : RuleOk copyRule := ruleOk_of_ring copyCheck_ring fun _ _ => rfl

theorem inlineRule_ok : RuleOk inlineRule := ruleOk_of_ring inlineCheck_ring fun k s => runAtOnce_ring _ k s inlineEffect_ring

theorem tableSetRule_ok : RuleOk tableSetRule :=
  ruleOk_of_ring (fun _ _ _ => rfl) fun k s => runAtOnce_ring _ k s fun k s => tableSetEffect_ring k.slot s

theorem gatherRule_ok : RuleOk gatherRule := ruleOk_of_ring gatherCheck_ring gatherAdmit_ring

theorem prescanRule_ok : RuleOk prescanRule := ruleOk_of_ring prescanCheck_ring prescanAdmit_ring

theorem emberRefreshRule_ok : RuleOk emberRefreshRule := ruleOk_of_ring refreshCheck_ring refreshAdmit_ring

theorem scatterRule_ok : RuleOk scatterRule := ruleOk_of_ring scatterCheck_ring scatterAdmit_ring

theorem mergeRule_ok : RuleOk mergeRule :=
  ruleOk_of_ring (fun _ _ _ => rfl) fun k s => by
    simp only [mergeRule]
    split
    · rfl
    · split <;> simp

theorem optimSetRule_ok : RuleOk optimSetRule := instantRule_ok fun _ _ => by simp

theorem rowOptimiseRule_ok : RuleOk rowOptimiseRule :=
  ruleOk_of_ring (fun _ _ _ => rfl) fun k s => by simp only [rowOptimiseRule]; split <;> rfl

theorem deltaMapRule_ok : RuleOk deltaMapRule := instantRule_ok fun _ _ => by simp

theorem exportRule_ok : RuleOk exportRule := ruleOk_of_ring (fun _ _ _ => rfl) fun _ _ => rfl

theorem importRule_ok : RuleOk importRule := ruleOk_of_ring importCheck_ring fun k s => runAtOnce_ring _ k s importEffect_ring

theorem slotSetRule_ok : RuleOk slotSetRule := instantRule_ok fun _ _ => rfl

theorem slotExtendRule_ok : RuleOk slotExtendRule := instantRule_ok fun _ _ => by simp

theorem histAppendRule_ok : RuleOk histAppendRule := ruleOk_of_ring histAppendCheck_ring fun _ _ => by simp [histAppendRule]

theorem histWalkRule_ok : RuleOk histWalkRule :=
  ruleOk_of_ring histWalkCheck_ring fun k s => by simp only [histWalkRule]; split <;> rfl

theorem groupSetRule_ok : RuleOk groupSetRule :=
  ruleOk_of_ring groupSetCheck_ring fun k s => runAtOnce_ring _ k s fun _ _ => setGroup_ring ..

theorem collectiveRule_ok : RuleOk collectiveRule := ruleOk_of_ring collectiveCheck_ring collectiveAdmit_ring

theorem fwBlockRule_ok : RuleOk fwBlockRule :=
  ruleOk_of_ring fwBlockCheck_ring fun k s => runAtOnce_ring _ k s fun _ _ => by simp

/-- Every rule of the opcode table. -/
theorem ruleOf_ok {op : Nat} {r : OpRule} (h : ruleOf op = some r) : RuleOk r := by
  unfold ruleOf at h
  split at h <;> cases h
  exacts [nopRule_ok, stepBeginRule_ok, stepEndRule_ok, tileRunRule_ok, copyRule_ok, inlineRule_ok, tableSetRule_ok, gatherRule_ok,
    prescanRule_ok, emberRefreshRule_ok, scatterRule_ok, mergeRule_ok, optimSetRule_ok, rowOptimiseRule_ok, deltaMapRule_ok,
    exportRule_ok, importRule_ok, slotSetRule_ok, slotExtendRule_ok, histAppendRule_ok, histWalkRule_ok, groupSetRule_ok,
    collectiveRule_ok, fwBlockRule_ok]

theorem slotRule_ok (c : Slot) : RuleOk (slotRule c) := by
  unfold slotRule
  cases h : ruleOf (slotOpcode c) with
  | none => exact nopRule_ok
  | some r => exact ruleOf_ok h

section
variable {s : State} (h : AccountsOk s.train.ring)
include h

theorem admitNow_accounts {r : OpRule} (hr : RuleOk r) (info : List Nat) (q : Fin 64) (c : Slot) :
    AccountsOk (admitNow r info q c s).train.ring := by
  have he := hr.2 (enterCmd info q c s).2 (enterCmd info q c s).1 (by simpa using h)
  unfold admitNow; dsimp only
  split
  · simpa using h
  · exact he

theorem admitChecked_accounts {r : OpRule} (hr : RuleOk r) (q : Fin 64) (c : Slot) : AccountsOk (admitChecked r q c s).train.ring := by
  have hc : AccountsOk (r.check q c s).1.train.ring := by rw [hr.1]; exact h
  unfold admitChecked; dsimp only
  split
  · simpa using hc
  · simpa using hc
  · simpa using hc
  · exact admitNow_accounts hc hr _ _ _
  · exact admitNow_accounts hc hr _ _ _

theorem admitSlot_accounts {r : OpRule} (hr : RuleOk r) (q : Fin 64) (c : Slot) : AccountsOk (admitSlot r q c s).train.ring := by
  have checked (host : HostIf) : AccountsOk (admitChecked r q c { s with host := host }).train.ring :=
    admitChecked_accounts (s := { s with host := host }) h hr q c
  unfold admitSlot; dsimp only
  (repeat' split) <;> simp [h, checked]

theorem commandAtHead_accounts {r : OpRule} (hr : RuleOk r) (op : Nat) (q : Fin 64) (c : Slot) :
    AccountsOk (commandAtHead op r q c s).train.ring := by
  unfold commandAtHead
  split
  · simpa using admitSlot_accounts h hr q _
  · exact h

theorem runHeld_accounts : AccountsOk (runHeld s).train.ring := by
  unfold runHeld
  refine foldl_accounts _ _ h fun s k h => ?_
  split
  · exact (slotRule_ok k.slot).2 k s h
  · exact h

theorem redoEarly_accounts (n : BitVec 64) (e : EarlyRun) : AccountsOk (redoEarly n e s).train.ring :=
  (slotRule_ok e.slot).2 _ _ h

theorem redoEarlies_accounts (p : Step) : AccountsOk (redoEarlies p s).train.ring :=
  foldl_accounts _ _ h fun _ e h => redoEarly_accounts h p.num e

theorem deliverDecision_accounts (p : Step) (d : Decision) : AccountsOk (deliverDecision p d s).train.ring := by
  have record (f : Step → Step) : AccountsOk (countDecision d (updRecord p (fun r =>
      { r with skipCause := d.cause, norm := d.norm, clip := d.clip }) (updStep p.num f s))).train.ring :=
    accountsOk_updAt (by simpa using h) fun _ hr => hr
  unfold deliverDecision; dsimp only
  apply runHeld_accounts
  split
  · rw [endSkipped_ring]
    split
    · exact redoEarlies_accounts (record _) p
    · exact record _
  · split
    · exact redoEarlies_accounts (record _) p
    · exact record _

theorem finishExchange_accounts (x : Exchange) (t : Totals) : AccountsOk (finishExchange x t s).train.ring := by
  unfold finishExchange; dsimp only
  split
  · split
    · exact deliverDecision_accounts (by simpa using h) _ _
    · exact h
  · exact h

theorem pumpVerdict_accounts (n : BitVec 64) : AccountsOk (pumpVerdict n s).train.ring := by
  obtain ⟨f, hf⟩ : ∃ f, f = pumpVerdict := ⟨_, rfl⟩
  obtain ⟨one, hone, hone'⟩ : ∃ g, g = sendVerdict ∧ ∀ x d node t (s u : State), g x d node t s = some u → u.train.ring = s.train.ring :=
    ⟨_, rfl, fun _ _ _ _ _ _ => sendVerdict_ring⟩
  obtain ⟨all, hall, hall'⟩ : ∃ g, g = sendVerdicts ∧ ∀ x d t ns (s u : State), g x d t ns s = some u → u.train.ring = s.train.ring :=
    ⟨_, rfl, fun _ _ _ _ _ _ => sendVerdicts_ring⟩
  rw [← hf]
  delta pumpVerdict at hf
  rw [← hone, ← hall] at hf
  subst hf
  dsimp only
  split
  · exact h
  · split
    · split
      · simpa using h
      · split
        · split
          · exact h
          · split
            · simpa using h
            · next hu => exact finishExchange_accounts (by rw [dropMsgs_train, hall' _ _ _ _ _ _ hu]; exact h) _ _
        · split
          · exact h
          · split
            · split
              · simpa using h
              · next hu => exact finishExchange_accounts (by rw [hall' _ _ _ _ _ _ hu, dropMsgs_train]; exact h) _ _
            · split
              · simpa using h
              · next hu => rw [updExchange_train, hone' _ _ _ _ _ _ hu, dropMsgs_train]; exact h
    · exact h

theorem contribute_accounts (n : BitVec 64) : AccountsOk (contribute n s).train.ring := by
  unfold contribute; dsimp only
  split
  · exact h
  · split
    · exact h
    · split
      · simpa using h
      · exact pumpVerdict_accounts (by simpa using h) n

theorem finishCommit_accounts (n : BitVec 64) : AccountsOk (finishCommit n s).train.ring := by
  unfold finishCommit; dsimp only
  exact runHeld_accounts (by simpa using h)

theorem reinitStep_accounts (p : Step) : AccountsOk (reinitStep s p).train.ring := by
  unfold reinitStep; dsimp only
  split
  · exact contribute_accounts (by simpa using h) _
  · simpa using h
  · simpa using h

theorem reinitGo_accounts : AccountsOk (reinitGo s).train.ring := by
  unfold reinitGo; dsimp only
  split
  · split
    · exact h
    · exact foldl_accounts _ _ (by simpa using h) fun _ p h => reinitStep_accounts h p
  · exact h

theorem closeStep_accounts (p : Step) (o : StepOutcome) : AccountsOk (closeStep p o s).train.ring := by
  have count (t : Train) : (countOutcome o t).ring = t.ring := by unfold countOutcome; split <;> rfl
  have recorded (f : PhaseRec → PhaseRec) (hf : ∀ r, AccountOk r → AccountOk (f r)) :
      AccountsOk (updRecord p f { s with train := countOutcome o s.train }).train.ring :=
    updRecord_accounts (s := { s with train := countOutcome o s.train }) (by rw [count]; exact h) p f hf
  unfold closeStep; dsimp only
  apply reinitGo_accounts
  apply runHeld_accounts
  (repeat' split) <;>
    simp only [leaveStep_ring, postWrite_ring, countRecordFail_ring, ioForget_ring, writePhaseRecord_ring, updStep_ring,
      rowsCloseStep_ring,
      applyOutcome_ring]
  all_goals exact recorded _ fun _ hr => hr

theorem holdStep_accounts (p : Step) : AccountsOk (holdStep s p).train.ring := by
  unfold holdStep; dsimp only
  split
  · exact contribute_accounts (by simpa using h) _
  · exact contribute_accounts (by simpa using h) _

/-- What a front-end reset does once it has counted itself and cleared the front end. -/
theorem holdAll_accounts :
    AccountsOk (loseRequests (if s.host.dev = .running then s.train.steps.foldl holdStep s else s)).train.ring := by
  rw [loseRequests_ring]
  split
  · exact foldl_accounts _ _ h fun _ p h => holdStep_accounts h p
  · exact h

theorem frontEndReset_accounts : AccountsOk (frontEndReset s).train.ring := by
  unfold frontEndReset
  split
  · exact h
  · dsimp only
    apply holdAll_accounts
    rw [updHost_train, clearFront_ring, apply_ite (fun u : State => u.train.ring), copyQueues_ring, ite_self]
    exact h


theorem verdictIn_accounts (down : Bool) (k : Packet) : AccountsOk (verdictIn down k s).train.ring := by
  unfold verdictIn; dsimp only
  split
  · simpa using h
  · split
    · simpa using h
    · split
      · exact h
      · split
        · refine pumpVerdict_accounts (s := _) ?_ _; exact h
        · exact h


end

/-! ### Writes to objects -/

/-- A write to the object keeps the accounts. -/
def WriteOk (o : ObjDef) : Prop := ∀ c v s, AccountsOk s.train.ring → AccountsOk (o.write c v s).1.train.ring

theorem writeOk_of_ring {o : ObjDef} (h : ∀ c v s, (o.write c v s).1.train.ring = s.train.ring) : WriteOk o :=
  fun c v s hs => by rw [h]; exact hs

section
variable (index sub ty elem esize size n : Nat)

@[simp] theorem roNum_ok (read : State → Nat) : WriteOk (roNum index sub ty read) := fun _ _ _ h => h
@[simp] theorem roAt_ok (read : State → Except Status (List Byte)) : WriteOk (roAt index sub ty size read) := fun _ _ _ h => h
@[simp] theorem roBlob_ok (read : State → Except Status (List Byte)) : WriteOk (roBlob index sub size read) := fun _ _ _ h => h
@[simp] theorem roArr_ok (fixed : Bool) (read : State → List Nat) : WriteOk (roArr index sub elem esize n fixed read) := fun _ _ _ h => h
@[simp] theorem counter_ok (read : State → Nat) : WriteOk (counter index sub read) := fun _ _ _ h => h
@[simp] theorem counters_ok (read : State → List Nat) : WriteOk (counters index sub n read) := fun _ _ _ h => h
end

theorem identityObjects_ok : ∀ o ∈ identityObjects, WriteOk o := by
  simp [identityObjects, WriteOk, inBoot, persistent, plcaObj, roText, roNum, roAt, rwNum, rwBlob, roBlob, rwArr, roArr]
theorem hostObjects_ok : ∀ o ∈ hostObjects, WriteOk o := by
  simp [hostObjects, WriteOk, inBoot, roNum, roAt, rwNum]
theorem clockObjects_ok : ∀ o ∈ clockObjects, WriteOk o := by
  simp [clockObjects, WriteOk, inBoot, roNum, roAt, rwNum, roArr, cmdObj]
theorem memoryObjects_ok : ∀ o ∈ memoryObjects, WriteOk o := by
  simp [memoryObjects, WriteOk, whileClosed, afterWalks, roNum, roAt, rwNum, rwArr, roArr, cmdObj]
theorem tileObjects_ok : ∀ o ∈ tileObjects, WriteOk o := by
  simp [tileObjects, WriteOk, persistent, roNum, roAt, rwNum, roBlob, rwArr, roArr, cmdObj]
theorem gatherObjects_ok : ∀ o ∈ gatherObjects, WriteOk o := by
  simp [gatherObjects, WriteOk, gatherObj, roNum, roAt, rwNum, roBlob, roArr]
theorem updateObjects_ok : ∀ o ∈ updateObjects, WriteOk o := by
  simp [updateObjects, WriteOk, whileClosed, updateObj, regionObj, roNum, roAt, rwNum, rwArr, roArr]
theorem historyObjects_ok : ∀ o ∈ historyObjects, WriteOk o := by
  simp [historyObjects, WriteOk, roNum, roAt, rwNum, roBlob]
theorem linkObjects_ok : ∀ o ∈ linkObjects, WriteOk o := by
  simp [linkObjects, WriteOk, persistent, whileClosed, routeObj, roNum, roAt, rwNum, roBlob, rwArr, roArr]
theorem clearRing_accounts (s : State) : AccountsOk (clearRing s).train.ring := accountsOk_replicate
theorem trainingObjects_ok : ∀ o ∈ trainingObjects, WriteOk o := by
  simp [trainingObjects, WriteOk, whileClosed, numObj, updTrain, clearRing_accounts, roNum, roAt, rwNum, roBlob, roArr,
    cmdObj]
theorem snapshotObjects_ok : ∀ o ∈ snapshotObjects, WriteOk o := by
  simp [snapshotObjects, WriteOk, roNum, roAt, cmdObj]
theorem firmwareObjects_ok : ∀ o ∈ firmwareObjects, WriteOk o := by
  simp [firmwareObjects, WriteOk, inBoot, roNum, roAt, rwNum, roBlob, rwArr, roArr, cmdObj]
theorem writeInstall_fst (v : List Byte) (s : State) : (writeInstall v s).1 = s := by unfold writeInstall; split <;> rfl
theorem securityObjects_ok : ∀ o ∈ securityObjects, WriteOk o := by
  simp [apply_ite (fun r : State × Applied => r.1.train.ring), securityObjects, WriteOk, inBoot, writeInstall_fst, roNum, roAt, rwNum,
    rwBlob, roBlob, roArr, cmdObj]
theorem stepCounters_ok : ∀ o ∈ stepCounters, WriteOk o := by simp [stepCounters]
theorem arrayCounters_ok : ∀ o ∈ arrayCounters, WriteOk o := by simp [arrayCounters, arrCtr, tileCtr]
theorem tileCounters_ok : ∀ o ∈ tileCounters, WriteOk o := by simp [tileCounters, tileCtr]
theorem engineCounters_ok : ∀ o ∈ engineCounters, WriteOk o := by simp [engineCounters, engCtr]
theorem memoryCounters_ok : ∀ o ∈ memoryCounters, WriteOk o := by simp [memoryCounters, histCtr, memCtr8, memCtr4]
theorem linkCounters_ok : ∀ o ∈ linkCounters, WriteOk o := by simp [linkCounters, portCtr, linkCtr, unitCtr]
theorem hostCounters_ok : ∀ o ∈ hostCounters, WriteOk o := by simp [hostCounters, queueCtr, hostCtr, mgmtCtr, powerCtr, kindleCtr]
theorem counterObjects_ok : ∀ o ∈ counterObjects, WriteOk o := by
  simp only [counterObjects, List.forall_mem_append]
  exact ⟨⟨⟨⟨⟨⟨stepCounters_ok, arrayCounters_ok⟩, tileCounters_ok⟩, engineCounters_ok⟩, memoryCounters_ok⟩, linkCounters_ok⟩,
    hostCounters_ok⟩

theorem objects_ok : ∀ o ∈ objects, WriteOk o := by
  simp only [objects, List.forall_mem_append]
  exact ⟨⟨⟨⟨⟨⟨⟨⟨⟨⟨⟨⟨⟨identityObjects_ok, hostObjects_ok⟩, clockObjects_ok⟩, memoryObjects_ok⟩, tileObjects_ok⟩, gatherObjects_ok⟩,
    updateObjects_ok⟩, historyObjects_ok⟩, linkObjects_ok⟩, trainingObjects_ok⟩, snapshotObjects_ok⟩, counterObjects_ok⟩,
    firmwareObjects_ok⟩, securityObjects_ok⟩

theorem findObject_ok {index sub : Nat} {o : ObjDef} (h : findObject index sub = some o) : WriteOk o := by
  unfold findObject at h
  split at h
  · split at h
    · obtain rfl := Option.some.inj h
      exact fun _ _ _ h => h
    · cases h
  · exact objects_ok o (List.mem_of_find?_eq_some h)

/-! ### The dictionary server -/

@[simp] theorem listObjects_ring (s : State) : (listObjects s).train.ring = s.train.ring := rfl

@[simp] theorem serveGet_ring (c : Chan) (m : Vmp) (s : State) : (serveGet c m s).train.ring = s.train.ring := by
  unfold serveGet; dsimp only
  split
  · split
    · simp
    · split <;> simp
  · split
    · simp
    · split
      · simp
      · split
        · split <;> simp
        · simp

@[simp] theorem serveDescribe_ring (c : Chan) (m : Vmp) (s : State) : (serveDescribe c m s).train.ring = s.train.ring := by
  unfold serveDescribe
  split
  · simp
  · split <;> simp

section
variable {s : State} (h : AccountsOk s.train.ring)
include h

theorem applyWrite_accounts (w : WaitingWrite) (o : ObjDef) (ho : WriteOk o) : AccountsOk (applyWrite w o s).train.ring := by
  have hw := ho w.ch w.value s h
  unfold applyWrite; dsimp only
  split <;> simp only [answerWrite_ring, updDict_train, apply_ite (fun s : State => s.train.ring), startAction_ring, endAction_ring,
    listObjects_ring, ite_self, hw]

theorem writeObject_accounts (w : WaitingWrite) : AccountsOk (writeObject w s).train.ring := by
  unfold writeObject
  split
  · simpa using h
  · next o ho =>
    split
    · simpa using h
    · exact applyWrite_accounts h w o (findObject_ok ho)

theorem writeRow_accounts (c : Chan) (index sub : Nat) (v : List Byte) : AccountsOk (writeRow c index sub v s).train.ring := by
  unfold writeRow
  split
  · exact writeObject_accounts h _
  · exact h

theorem takeSegment_accounts (c : Chan) (m : Vmp) (before : List Byte) : AccountsOk (takeSegment c m before s).train.ring := by
  unfold takeSegment; dsimp only
  split
  · simpa using h
  · split
    · exact writeObject_accounts (by simpa using h) _
    · simpa using h

theorem servePut_accounts (c : Chan) (m : Vmp) : AccountsOk (servePut c m s).train.ring := by
  unfold servePut; dsimp only
  split
  · split
    · simpa using h
    · exact takeSegment_accounts (by simpa using h) _ _ _
  · split
    · simpa using h
    · split
      · exact takeSegment_accounts (by simpa using h) _ _ _
      · simpa using h

theorem serveOp_accounts (c : Chan) (m : Vmp) : AccountsOk (serveOp c m s).train.ring := by
  unfold serveOp
  split
  case h_2 => exact servePut_accounts h c m
  all_goals simpa [fieldOnly, apply_ite (fun s : State => s.train.ring)] using h

theorem serveMessage_accounts (c : Chan) (m : Vmp) : AccountsOk (serveMessage c m s).train.ring := by
  unfold serveMessage serveVmp
  split
  · simpa using h
  · split
    · exact h
    · split
      · simpa using h
      · exact serveOp_accounts h c m

omit h in
theorem serveQueue_accounts (n : Nat) : ∀ s : State, AccountsOk s.train.ring → AccountsOk (serveQueue n s).train.ring := by
  induction n with
  | zero => exact fun _ h => h
  | succ n ih =>
    intro s h
    unfold serveQueue
    split
    · exact h
    · split
      · exact h
      · exact ih _ (serveMessage_accounts (by simpa using h) _ _)

theorem serverGo_accounts : AccountsOk (serverGo s).train.ring :=
  serveQueue_accounts _ _ (by simpa using h)

theorem takeRequest_accounts (c : Chan) (m : Vmp) : AccountsOk (takeRequest c m s).train.ring := by
  have hs := serverGo_accounts h
  unfold takeRequest; dsimp only
  split
  · exact hs
  · split
    · exact serveMessage_accounts hs c m
    · split <;> simpa using hs

theorem takeBoxed_accounts (m : Vmp) : AccountsOk (takeBoxed m s).train.ring := by
  unfold takeBoxed
  split
  · exact h
  · exact takeRequest_accounts (by simpa using h) _ _

theorem receive_accounts (c : Chan) (f : FnFrame) (m : Vmp) : AccountsOk (receive c f m s).train.ring := by
  unfold receive; dsimp only
  split
  · exact h
  · split
    · exact takeBoxed_accounts h m
    · split
      · exact h
      · split
        · simpa using h
        · exact takeRequest_accounts (by simpa using h) _ _

/-! ### Rounds, resets, the loss of the reference, and ticks -/

theorem goOn_accounts : AccountsOk (goOn s).train.ring := by
  have := serverGo_accounts (s := collsWork (settleCopies (runHeld s))) (by simpa using runHeld_accounts h)
  simpa [goOn] using this

theorem idleCycle_accounts : AccountsOk (idleCycle s).train.ring := by
  rw [idleCycle, waitCycle_ring]
  split
  · exact goOn_accounts h
  · exact h

omit h in
theorem freshState_accounts (s : State) : AccountsOk (freshState s).train.ring := accountsOk_replicate
omit h in
theorem resetDevice_accounts (cause : BitVec 8) (s : State) : AccountsOk (resetDevice cause s).train.ring := accountsOk_replicate
omit h in
theorem railsOff_accounts (s : State) : AccountsOk (railsOff s).train.ring := accountsOk_replicate

theorem resetIf_accounts (up : Bool) : AccountsOk (if up then frontEndReset s else s).train.ring := by
  split
  · exact frontEndReset_accounts h
  · exact h

theorem loseReference_accounts : AccountsOk (loseReference s).train.ring := by
  unfold loseReference
  simp only [loseT1_ring, updHost_train]
  apply resetIf_accounts
  simp only [updHost_train, enterFaulted_ring, apply_ite (fun s : State => s.train.ring), updBoot_train, ite_self]
  rw [foldl_ring _ _ _ fun _ _ => portDown_ring _ _]
  simpa using h

theorem tickSteps_accounts : AccountsOk (tickSteps s).train.ring :=
  foldl_accounts _ _ h fun _ p h => updRecord_accounts h p _ fun _ hr => accountOk_tickRecord _ _ hr

theorem verdictRx_accounts (p : Fin 17) (f : Packet → Bool) (down : Bool) : AccountsOk (arrive p f (verdictIn down) s).train.ring := by
  unfold arrive
  split
  · exact h
  · next k u hu =>
    have hu : AccountsOk u.train.ring := by rw [takePacket_ring hu]; exact h
    split
    · exact verdictIn_accounts hu down k
    · simpa using hu

end

end Sys2Proof.Machine
end

section
/-!
SUPPORT. The account of the phase records under every command, and so under every step (O3).
-/
namespace Sys2Proof.Machine

/-- The records of the state that an outcome leaves keep their account. -/
def RingAfter (o : Host.Outcome State Fault Refusal) : Prop := ∀ u, o = .next u → AccountsOk u.train.ring

theorem ringAfter_go {u : State} (h : AccountsOk u.train.ring) : RingAfter (go u) := by rintro _ ⟨⟩; exact h

@[simp] theorem ringAfter_go_iff {u : State} : RingAfter (go u) ↔ AccountsOk u.train.ring := ⟨fun h => h u rfl, ringAfter_go⟩
@[simp] theorem ringAfter_next_iff {u : State} : RingAfter (.next u) ↔ AccountsOk u.train.ring := ringAfter_go_iff
@[simp] theorem ringAfter_fault (f : Fault) : RingAfter (.fault f) := fun _ h => nomatch h
@[simp] theorem ringAfter_refused (r : Refusal) : RingAfter (.refused r) := fun _ h => nomatch h

section
variable {s : State} (h : AccountsOk s.train.ring)
include h

@[simp] theorem execVerdictContribution_accounts (step : BitVec 64) :
    RingAfter (execVerdictContribution step s) := ringAfter_go (contribute_accounts h step)
@[simp] theorem execCommitStart_accounts (step : BitVec 64) : RingAfter (execCommitStart step s) := by
  unfold execCommitStart; (repeat' split) <;> simpa using h
@[simp] theorem execCommitLogWaitEnd_accounts (step : BitVec 64) : RingAfter (execCommitLogWaitEnd step s) := by
  unfold execCommitLogWaitEnd; (repeat' split) <;> simpa using h
@[simp] theorem execLocalCommitComplete_accounts (step : BitVec 64) : RingAfter (execLocalCommitComplete step s) := by
  refine ringAfter_go ?_
  split
  · split
    · exact finishCommit_accounts h step
    · exact h
  · exact h
@[simp] theorem execStepClose_accounts (step : BitVec 64) : RingAfter (execStepClose step s) := by
  have hc := contribute_accounts h step
  refine ringAfter_go ?_
  split
  · exact hc
  · split
    · exact closeStep_accounts hc _ _
    · exact hc
@[simp] theorem execRecordWriteAck_accounts (step : BitVec 64) (ok : Bool) : RingAfter (execRecordWriteAck step ok s) := by
  unfold execRecordWriteAck; dsimp only; (repeat' split) <;> simpa using h
@[simp] theorem execEarlyRedo_accounts (t : Fin 128) : RingAfter (execEarlyRedo t s) := by
  unfold execEarlyRedo; (repeat' split) <;> simpa using h
@[simp] theorem execWeavePacketDelivery_accounts (src : Fin 174) (dst : Fin 128) (vc : Fin 4) :
    RingAfter (execWeavePacketDelivery src dst vc s) := by
  unfold execWeavePacketDelivery; (repeat' split) <;> simpa using h
@[simp] theorem execBlockCounterIncrement_accounts (src : Fin 174) (dst : Fin 128) (vc : Fin 4) :
    RingAfter (execBlockCounterIncrement src dst vc s) := by
  unfold execBlockCounterIncrement; (repeat' split) <;> simpa using h
@[simp] theorem execWeightLoadStart_accounts (t : Fin 128) : RingAfter (execWeightLoadStart t s) := by
  unfold execWeightLoadStart; simpa using h
@[simp] theorem execWaleFrontStart_accounts (t : Fin 128) : RingAfter (execWaleFrontStart t s) := by
  unfold execWaleFrontStart; simpa using h
@[simp] theorem execFeederVectorReady_accounts (t : Fin 128) (weights : Bool) : RingAfter (execFeederVectorReady t weights s) := by
  unfold execFeederVectorReady; simpa using h
@[simp] theorem execDrainBlockRelease_accounts (t : Fin 128) : RingAfter (execDrainBlockRelease t s) := by
  unfold execDrainBlockRelease; dsimp only; (repeat' split) <;> simpa using h
@[simp] theorem execArrayPassComplete_accounts (t : Fin 128) : RingAfter (execArrayPassComplete t s) := by
  unfold execArrayPassComplete; dsimp only; (repeat' split) <;> simpa using h
@[simp] theorem execZbReplay_accounts (t : Fin 128) : RingAfter (execZbReplay t s) := by
  unfold execZbReplay; simpa using h
@[simp] theorem execTileProgramStart_accounts (t : Fin 128) : RingAfter (execTileProgramStart t s) := by
  unfold execTileProgramStart; dsimp only; (repeat' split) <;> simpa using h
@[simp] theorem execTileProgramStop_accounts (t : Fin 128) : RingAfter (execTileProgramStop t s) := by
  unfold execTileProgramStop; (repeat' split) <;> simpa using h
@[simp] theorem execStop_accounts (t : Fin 128) (imm : BitVec 16) : RingAfter (execStop t imm s) := by
  refine ringAfter_go ?_
  rw [seqInstr_ring _ _ _ _ _ fun _ _ _ => by simp]; exact h
@[simp] theorem execSeqNop_accounts (t : Fin 128) : RingAfter (execSeqNop t s) := by
  refine ringAfter_go ?_
  rw [seqInstr_ring _ _ _ _ _ fun _ _ _ => by simp]; exact h
@[simp] theorem execAdd_accounts (t : Fin 128) (gd ga gb : Fin 32) : RingAfter (execAdd t gd ga gb s) := by
  unfold execAdd; simpa using h
@[simp] theorem execAddi_accounts (t : Fin 128) (gd ga : Fin 32) (imm : BitVec 16) : RingAfter (execAddi t gd ga imm s) := by
  unfold execAddi; simpa using h
@[simp] theorem execSub_accounts (t : Fin 128) (gd ga gb : Fin 32) : RingAfter (execSub t gd ga gb s) := by
  unfold execSub; simpa using h
@[simp] theorem execMul_accounts (t : Fin 128) (gd ga gb : Fin 32) : RingAfter (execMul t gd ga gb s) := by
  unfold execMul; simpa using h
@[simp] theorem execAnd_accounts (t : Fin 128) (gd ga gb : Fin 32) : RingAfter (execAnd t gd ga gb s) := by
  unfold execAnd; simpa using h
@[simp] theorem execOr_accounts (t : Fin 128) (gd ga gb : Fin 32) : RingAfter (execOr t gd ga gb s) := by
  unfold execOr; simpa using h
@[simp] theorem execXor_accounts (t : Fin 128) (gd ga gb : Fin 32) : RingAfter (execXor t gd ga gb s) := by
  unfold execXor; simpa using h
@[simp] theorem execShli_accounts (t : Fin 128) (gd ga : Fin 32) (imm : BitVec 16) : RingAfter (execShli t gd ga imm s) := by
  unfold execShli; simpa using h
@[simp] theorem execShri_accounts (t : Fin 128) (gd ga : Fin 32) (imm : BitVec 16) : RingAfter (execShri t gd ga imm s) := by
  unfold execShri; simpa using h
@[simp] theorem execLui_accounts (t : Fin 128) (gd : Fin 32) (imm : BitVec 16) : RingAfter (execLui t gd imm s) := by
  unfold execLui; simpa using h
@[simp] theorem execLd_accounts (t : Fin 128) (gd ga : Fin 32) (imm : BitVec 16) : RingAfter (execLd t gd ga imm s) := by
  refine ringAfter_go ?_
  rw [seqInstr_ring _ _ _ _ _ fun _ _ _ => by dsimp only; (repeat' split) <;> simp]; exact h
@[simp] theorem execSt_accounts (t : Fin 128) (gd ga : Fin 32) (imm : BitVec 16) : RingAfter (execSt t gd ga imm s) := by
  refine ringAfter_go ?_
  rw [seqInstr_ring _ _ _ _ _ fun _ _ _ => by dsimp only; (repeat' split) <;> simp]; exact h
@[simp] theorem execBeq_accounts (t : Fin 128) (gd ga : Fin 32) (imm : BitVec 16) : RingAfter (execBeq t gd ga imm s) := by
  unfold execBeq; simpa using h
@[simp] theorem execBne_accounts (t : Fin 128) (gd ga : Fin 32) (imm : BitVec 16) : RingAfter (execBne t gd ga imm s) := by
  unfold execBne; simpa using h
@[simp] theorem execBltu_accounts (t : Fin 128) (gd ga : Fin 32) (imm : BitVec 16) : RingAfter (execBltu t gd ga imm s) := by
  unfold execBltu; simpa using h
@[simp] theorem execJr_accounts (t : Fin 128) (ga : Fin 32) : RingAfter (execJr t ga s) := by
  refine ringAfter_go ?_
  rw [seqInstr_ring _ _ _ _ _ fun _ _ _ => by dsimp only; (repeat' split) <;> simp]; exact h
@[simp] theorem execSys_accounts (t : Fin 128) (gd : Fin 32) (imm : BitVec 16) : RingAfter (execSys t gd imm s) := by
  refine ringAfter_go ?_
  rw [seqInstr_ring _ _ _ _ _ fun _ _ _ => by (repeat' split) <;> simp]; exact h
@[simp] theorem execSysWindowCheck_accounts (t : Fin 128) (gd ga : Fin 32) : RingAfter (execSysWindowCheck t gd ga s) := by
  unfold execSysWindowCheck; simpa using h
@[simp] theorem execSysWindowClear_accounts (t : Fin 128) (gd : Fin 32) : RingAfter (execSysWindowClear t gd s) := by
  unfold execSysWindowClear; simpa using h
@[simp] theorem execPass_accounts (t : Fin 128) (ga : Fin 32) : RingAfter (execPass t ga s) := by
  refine ringAfter_go ?_
  rw [seqHand_ring]
  · exact h
  · exact fun _ _ _ => rfl
@[simp] theorem execMove_accounts (t : Fin 128) (ga : Fin 32) : RingAfter (execMove t ga s) := by
  refine ringAfter_go ?_
  rw [seqHand_ring]
  · exact h
  · exact fun _ _ _ => rfl
@[simp] theorem execVloop_accounts (t : Fin 128) (ga : Fin 32) : RingAfter (execVloop t ga s) := by
  refine ringAfter_go ?_
  rw [seqHand_ring]
  · exact h
  · exact fun _ _ _ => rfl
@[simp] theorem execBcset_accounts (t : Fin 128) (ga : Fin 32) (imm : BitVec 16) : RingAfter (execBcset t ga imm s) := by
  refine ringAfter_go ?_
  rw [seqInstr_ring _ _ _ _ _ fun _ _ _ => by simp]; exact h
@[simp] theorem execBcwait_accounts (t : Fin 128) (ga : Fin 32) (imm : BitVec 16) : RingAfter (execBcwait t ga imm s) := by
  refine ringAfter_go ?_
  rw [seqInstr_ring _ _ _ _ _ fun _ _ _ => by dsimp only; (repeat' split) <;> simp]; exact h
@[simp] theorem execBcwaitResume_accounts (t : Fin 128) : RingAfter (execBcwaitResume t s) := by
  unfold execBcwaitResume; (repeat' split) <;> simpa using h
@[simp] theorem execBcread_accounts (t : Fin 128) (gd : Fin 32) (imm : BitVec 16) : RingAfter (execBcread t gd imm s) := by
  unfold execBcread; simpa using h
@[simp] theorem execPhase_accounts (t : Fin 128) (imm : BitVec 16) : RingAfter (execPhase t imm s) := by
  refine ringAfter_go ?_
  rw [seqInstr_ring _ _ _ _ _ fun _ _ _ => by (repeat' split) <;> simp]; exact h
@[simp] theorem execFence_accounts (t : Fin 128) (imm : BitVec 16) : RingAfter (execFence t imm s) := by
  refine ringAfter_go ?_
  rw [seqInstr_ring _ _ _ _ _ fun _ _ _ => by dsimp only; (repeat' split) <;> simp]; exact h
@[simp] theorem execFenceResume_accounts (t : Fin 128) : RingAfter (execFenceResume t s) := by
  unfold execFenceResume; (repeat' split) <;> simpa using h
@[simp] theorem execRedrd_accounts (t : Fin 128) (gd : Fin 32) (imm : BitVec 16) : RingAfter (execRedrd t gd imm s) := by
  refine ringAfter_go ?_
  rw [seqInstr_ring _ _ _ _ _ fun _ _ _ => by (repeat' split) <;> simp]; exact h
@[simp] theorem execRedrdResume_accounts (t : Fin 128) : RingAfter (execRedrdResume t s) := by
  unfold execRedrdResume; (repeat' split) <;> simpa using h
@[simp] theorem execVerd_accounts (t : Fin 128) (gd : Fin 32) (imm : BitVec 16) : RingAfter (execVerd t gd imm s) := by
  refine ringAfter_go ?_
  rw [seqInstr_ring _ _ _ _ _ fun _ _ _ => by (repeat' split) <;> simp]; exact h
@[simp] theorem execVerdResume_accounts (t : Fin 128) : RingAfter (execVerdResume t s) := by
  unfold execVerdResume; (repeat' split) <;> simpa using h
@[simp] theorem execSharddef_accounts (t : Fin 128) (ga gb : Fin 32) (imm : BitVec 16) : RingAfter (execSharddef t ga gb imm s) := by
  refine ringAfter_go ?_
  rw [seqInstr_ring _ _ _ _ _ fun _ _ _ => by (repeat' split) <;> simp]; exact h
@[simp] theorem execShardget_accounts (t : Fin 128) (gd : Fin 32) (imm : BitVec 16) : RingAfter (execShardget t gd imm s) := by
  refine ringAfter_go ?_
  rw [seqInstr_ring _ _ _ _ _ fun _ _ _ => by dsimp only; (repeat' split) <;> simp]; exact h
@[simp] theorem execMoverRequestIssue_accounts (t : Fin 128) : RingAfter (execMoverRequestIssue t s) := by
  unfold execMoverRequestIssue; simpa using h
@[simp] theorem execMoverRequestDone_accounts (t : Fin 128) (idx : Nat) : RingAfter (execMoverRequestDone t idx s) := by
  unfold execMoverRequestDone; simpa using h
@[simp] theorem execVectorLoopStart_accounts (t : Fin 128) : RingAfter (execVectorLoopStart t s) := by
  unfold execVectorLoopStart; (repeat' split) <;> simpa using h
@[simp] theorem execVectorBundleIssue_accounts (t : Fin 128) : RingAfter (execVectorBundleIssue t s) := by
  unfold execVectorBundleIssue; (repeat' split) <;> simpa using h
@[simp] theorem execVectorLoopEnd_accounts (t : Fin 128) : RingAfter (execVectorLoopEnd t s) := by
  unfold execVectorLoopEnd; (repeat' split) <;> simpa using h
@[simp] theorem execTmemWriteback_accounts (m : Fin 144) (word : Nat) (twoBits : Bool) :
    RingAfter (execTmemWriteback m word twoBits s) := by
  unfold execTmemWriteback; (repeat' split) <;> simpa using h
@[simp] theorem execVersionRetire_accounts (table : Fin 4096) : RingAfter (execVersionRetire table s) := by
  unfold execVersionRetire; (repeat' split) <;> simpa using h
@[simp] theorem execBagDispatch_accounts (e : Fin 16) : RingAfter (execBagDispatch e s) := by
  unfold execBagDispatch; dsimp only; (repeat' split) <;> simpa using h
@[simp] theorem execProbe_accounts (e : Fin 16) (core : Fin 4) : RingAfter (execProbe e core s) := by
  unfold execProbe; dsimp only; (repeat' split) <;> simpa using h
@[simp] theorem execWaitListRelease_accounts (e : Fin 16) (core : Fin 4) : RingAfter (execWaitListRelease e core s) := by
  unfold execWaitListRelease; (repeat' split) <;> simpa using h
@[simp] theorem execRowPieceArrive_accounts (e : Fin 16) (core : Fin 4) (idx : Nat) : RingAfter (execRowPieceArrive e core idx s) := by
  unfold execRowPieceArrive; dsimp only; (repeat' split) <;> simpa using h
@[simp] theorem execPoolPiece_accounts (e : Fin 16) : RingAfter (execPoolPiece e s) := by
  unfold execPoolPiece; (repeat' split) <;> simpa using h
@[simp] theorem execBagOutputWrite_accounts (e : Fin 16) (core : Fin 4) (thread : Fin 16) :
    RingAfter (execBagOutputWrite e core thread s) := by
  unfold execBagOutputWrite; dsimp only; (repeat' split) <;> simpa using h
@[simp] theorem execPrescanPosition_accounts (e : Fin 16) : RingAfter (execPrescanPosition e s) := by
  unfold execPrescanPosition; dsimp only; (repeat' split) <;> simpa using h
@[simp] theorem execPrescanRowArrive_accounts (e : Fin 16) (idx : Nat) : RingAfter (execPrescanRowArrive e idx s) := by
  refine ringAfter_go ?_
  split
  · exact h
  · split
    · exact h
    · refine iteInduction (motive := fun u : State => AccountsOk u.train.ring) (fun _ => h) fun _ => ?_
      extract_lets taken u v fresh u' w w'
      have hv : v.train.ring = s.train.ring := by
        rw [show v.train.ring = u.train.ring from foldl_ring _ _ _ fun _ _ => by simp]
        exact iteInduction (motive := fun u : State => u.train.ring = s.train.ring) (fun _ => by simp) fun _ => rfl
      have hu' : u'.train.ring = s.train.ring := by
        refine Eq.trans ?_ hv
        exact iteInduction (motive := fun r : State × Option (List RowReq) => r.1.train.ring = v.train.ring)
          (fun _ => by simp) fun _ => rfl
      have hw : w.train.ring = s.train.ring := (updPre_ring ..).trans hu'
      have hw' : w'.train.ring = s.train.ring := by
        dsimp only [w']
        split
        · exact hw
        · split
          · exact hw
          · rw [stageRow_ring, hw]
      clear_value u' w' v
      split
      · simpa [hv] using h
      · split
        · simpa [hu'] using h
        · simpa [hw'] using h
@[simp] theorem execEmberEntryApply_accounts (e : Fin 16) : RingAfter (execEmberEntryApply e s) := by
  unfold execEmberEntryApply; dsimp only; (repeat' split) <;> simpa using h
@[simp] theorem execEmberInstallDone_accounts (e : Fin 16) : RingAfter (execEmberInstallDone e s) := by
  unfold execEmberInstallDone; dsimp only; (repeat' split) <;> simpa using h
@[simp] theorem execScatterKeysWritten_accounts (e : Fin 16) : RingAfter (execScatterKeysWritten e s) := by
  unfold execScatterKeysWritten; dsimp only; (repeat' split) <;> simpa using h
@[simp] theorem execMergeComplete_accounts (e : Fin 16) : RingAfter (execMergeComplete e s) := by
  unfold execMergeComplete; (repeat' split) <;> simpa using h
@[simp] theorem execRowOptimiseStart_accounts (step : BitVec 64) : RingAfter (execRowOptimiseStart step s) := by
  unfold execRowOptimiseStart; dsimp only; (repeat' split) <;> simpa using h
@[simp] theorem execRowApplyEntry_accounts (e : Fin 16) : RingAfter (execRowApplyEntry e s) := by
  unfold execRowApplyEntry; dsimp only; (repeat' split) <;> simpa using h
@[simp] theorem execDeferDrainBatch_accounts (e : Fin 16) : RingAfter (execDeferDrainBatch e s) := by
  refine ringAfter_go ?_
  split
  · exact h
  · dsimp only
    rw [foldl_ring _ _ _ fun _ _ => by split <;> simp]
    split <;> simpa using h
@[simp] theorem execDeferForward_accounts (e : Fin 16) (table : Fin 4096) (row : Nat) : RingAfter (execDeferForward e table row s) := by
  unfold execDeferForward; dsimp only; (repeat' split) <;> simpa using h
@[simp] theorem execReplicaHashCheck_accounts (u : Fin 4) (idx : Nat) (rank : Nat) : RingAfter (execReplicaHashCheck u idx rank s) := by
  unfold execReplicaHashCheck; dsimp only; (repeat' split) <;> simpa using h
omit h in
theorem drainTables_ring (b : Prop) [Decidable b] (cmd t : Nat) :
    (if b then (List.finRange 16).foldl (drainTable cmd t) (s, none) else (s, none)).1.train.ring = s.train.ring := by
  split
  · exact foldl_fst_ring _ _ _ fun _ _ => drainTable_ring ..
  · rfl
@[simp] theorem execExportCapture_accounts (cmd : Nat) : RingAfter (execExportCapture cmd s) := by
  refine ringAfter_go ?_
  split
  · exact h
  · refine iteInduction (motive := fun u : State => AccountsOk u.train.ring) (fun _ => h) fun _ => ?_
    extract_lets u table has r
    have hu : u.train.ring = s.train.ring := startCmd_ring ..
    have hr : r.1.train.ring = s.train.ring := (drainTables_ring ..).trans hu
    clear_value u has r
    split
    · rw [writeExport_ring, hu]; exact h
    · split
      · rw [endExport_ring, hr]; exact h
      · split
        · rw [hr]; exact h
        · split
          · rw [captureExport_ring, hr]; exact h
          · rw [endExport_ring, captureExport_ring, hr]; exact h
          · split
            · rw [endExport_ring, captureExport_ring, hr]; exact h
            · rw [writeExport_ring, updExport_train, captureExport_ring, hr]; exact h
@[simp] theorem execExportCommit_accounts (cmd : Nat) : RingAfter (execExportCommit cmd s) := by
  refine ringAfter_go ?_
  split
  · exact h
  · dsimp only
    split
    · rw [ioMany_ring]; exact h
    · rw [endExport_ring, ioMany_ring]; exact h
    · rw [endExport_ring, ioMany_ring]; exact h
@[simp] theorem execAppendGroupStart_accounts (slot : Fin 256) : RingAfter (execAppendGroupStart slot s) := by
  unfold execAppendGroupStart; dsimp only; (repeat' split) <;> simpa using h
@[simp] theorem execAppendGroupDone_accounts (slot : Fin 256) : RingAfter (execAppendGroupDone slot s) := by
  unfold execAppendGroupDone; (repeat' split) <;> simpa using h
@[simp] theorem execStallExpiry_accounts (slot : Fin 256) : RingAfter (execStallExpiry slot s) := by
  unfold execStallExpiry; (repeat' split) <;> simpa using h
@[simp] theorem execWalkListRead_accounts (cmd : Nat) : RingAfter (execWalkListRead cmd s) := by
  unfold execWalkListRead; dsimp only; (repeat' split) <;> simpa using h
@[simp] theorem execWalkPositionWaitEnd_accounts (cmd : Nat) : RingAfter (execWalkPositionWaitEnd cmd s) := by
  unfold execWalkPositionWaitEnd; (repeat' split) <;> simpa using h
@[simp] theorem execForwardedRequestIssue_accounts : RingAfter (execForwardedRequestIssue s) := by
  unfold execForwardedRequestIssue; dsimp only; (repeat' split) <;> simpa using h
@[simp] theorem execForwardedRequestAck_accounts (idx : Nat) : RingAfter (execForwardedRequestAck idx s) := by
  unfold execForwardedRequestAck; dsimp only; (repeat' split) <;> simpa using h
@[simp] theorem execMemRequest_accounts (stack : Fin 8) (channel : Fin 32) (errs : List EccErr) :
    RingAfter (execMemRequest stack channel errs s) := by
  unfold execMemRequest; (repeat' split) <;> simpa using h
@[simp] theorem execMemCeWriteback_accounts (stack : Fin 8) (word : Nat) : RingAfter (execMemCeWriteback stack word s) := by
  unfold execMemCeWriteback; dsimp only; (repeat' split) <;> simpa using h
@[simp] theorem execScrubRead_accounts (stack : Fin 8) (err : Option EccErr) : RingAfter (execScrubRead stack err s) := by
  unfold execScrubRead; dsimp only; (repeat' split) <;> simpa using h
@[simp] theorem execDieCeCollect_accounts (stack : Fin 8) (counts : List Nat) : RingAfter (execDieCeCollect stack counts s) := by
  unfold execDieCeCollect; simpa using h
@[simp] theorem execPageWalkStart_accounts (quad : Fin 4) (page : Nat) : RingAfter (execPageWalkStart quad page s) := by
  unfold execPageWalkStart; dsimp only; (repeat' split) <;> simpa using h
@[simp] theorem execPageWalkDone_accounts (quad : Fin 4) (page : Nat) : RingAfter (execPageWalkDone quad page s) := by
  unfold execPageWalkDone; dsimp only; (repeat' split) <;> simpa using h
@[simp] theorem execFarRequestIssue_accounts (pair : Fin 8) : RingAfter (execFarRequestIssue pair s) := by
  refine ringAfter_go ?_
  split
  · exact h
  · split
    · next hu => rw [farIssueAt_ring _ _ _ hu]; exact h
    · cases hu : farIssueAt (fin (pair.val + 8)) s with
      | none => exact h
      | some u => rw [Option.getD_some, farIssueAt_ring _ _ _ hu]; exact h
@[simp] theorem execFarRequestDone_accounts (pair : Fin 8) (idx : Nat) (r : HostResult) :
    RingAfter (execFarRequestDone pair idx r s) := by
  unfold execFarRequestDone; dsimp only; (repeat' split) <;> simpa using h
@[simp] theorem execPortRetrainTimer_accounts (p : Fin 16) : RingAfter (execPortRetrainTimer p s) := by
  unfold execPortRetrainTimer; dsimp only; (repeat' split) <;> simpa using h
@[simp] theorem execPortEqualisationDone_accounts (p : Fin 16) (reversed : Bool) : RingAfter (execPortEqualisationDone p reversed s) := by
  unfold execPortEqualisationDone; dsimp only; (repeat' split) <;> simpa using h
@[simp] theorem execCodewordLock_accounts (p : Fin 16) : RingAfter (execCodewordLock p s) := by
  unfold execCodewordLock; dsimp only; (repeat' split) <;> simpa using h
@[simp] theorem execPortUp_accounts (p : Fin 16) : RingAfter (execPortUp p s) := by
  unfold execPortUp; dsimp only; (repeat' split) <;> simpa using h
@[simp] theorem execTrainingStepTimeout_accounts (p : Fin 16) : RingAfter (execTrainingStepTimeout p s) := by
  unfold execTrainingStepTimeout; dsimp only; (repeat' split) <;> simpa using h
@[simp] theorem execIdentRx_accounts (p : Fin 16) : RingAfter (execIdentRx p s) := by
  unfold execIdentRx; dsimp only
  split
  · exact ringAfter_go h
  · next hu =>
    rw [← takeRx_ring hu] at h
    (repeat' split) <;> simpa using h
@[simp] theorem execCodewordRx_accounts (p : Fin 16) (cw : Codeword) : RingAfter (execCodewordRx p cw s) := by
  unfold execCodewordRx; (repeat' split) <;> simpa using h
@[simp] theorem execNakRx_accounts (p : Fin 16) (ack : BitVec 8) : RingAfter (execNakRx p ack s) := by
  unfold execNakRx; simpa using h
@[simp] theorem execReplayTimeout_accounts (p : Fin 16) : RingAfter (execReplayTimeout p s) := by
  unfold execReplayTimeout; dsimp only; (repeat' split) <;> simpa using h
@[simp] theorem execAckStallTimeout_accounts (p : Fin 16) : RingAfter (execAckStallTimeout p s) := by
  unfold execAckStallTimeout; dsimp only; (repeat' split) <;> simpa using h
@[simp] theorem execLockLoss_accounts (p : Fin 16) : RingAfter (execLockLoss p s) := by
  unfold execLockLoss; (repeat' split) <;> simpa using h
@[simp] theorem execCreditRx_accounts (p : Fin 16) : RingAfter (execCreditRx p s) := by
  unfold execCreditRx
  split
  · exact ringAfter_go h
  · next hu =>
    rw [← takeRx_ring hu] at h
    simpa using h
@[simp] theorem execCreditReport_accounts (p : Fin 16) : RingAfter (execCreditReport p s) := by
  unfold execCreditReport; dsimp only; (repeat' split) <;> simpa using h
@[simp] theorem execPacketForward_accounts (p : Fin 16) (vc : Fin 4) : RingAfter (execPacketForward p vc s) := by
  unfold execPacketForward; dsimp only
  split
  · exact ringAfter_go h
  · next hu =>
    rw [← takeRx_ring hu] at h
    (repeat' split) <;> simpa using h
@[simp] theorem execCollDataRx_accounts (p : Fin 17) : RingAfter (execCollDataRx p s) := by
  unfold execCollDataRx; simpa using h
@[simp] theorem execVerdictUpRx_accounts (p : Fin 17) : RingAfter (execVerdictUpRx p s) := ringAfter_go (verdictRx_accounts h p _ false)
@[simp] theorem execVerdictDownRx_accounts (p : Fin 17) :
    RingAfter (execVerdictDownRx p s) := ringAfter_go (verdictRx_accounts h p _ true)
@[simp] theorem execPullRx_accounts (p : Fin 17) : RingAfter (execPullRx p s) := by
  unfold execPullRx; simpa using h
@[simp] theorem execAbortRx_accounts (p : Fin 17) : RingAfter (execAbortRx p s) := by
  unfold execAbortRx; simpa using h
@[simp] theorem execAuditRx_accounts (p : Fin 17) : RingAfter (execAuditRx p s) := by
  unfold execAuditRx; simpa using h
@[simp] theorem execRefetchRx_accounts (p : Fin 17) : RingAfter (execRefetchRx p s) := by
  unfold execRefetchRx; simpa using h
@[simp] theorem execRemoteWriteRx_accounts (p : Fin 17) : RingAfter (execRemoteWriteRx p s) := by
  unfold execRemoteWriteRx; simpa using h
@[simp] theorem execReadReqRx_accounts (p : Fin 17) : RingAfter (execReadReqRx p s) := by
  unfold execReadReqRx; simpa using h
@[simp] theorem execReadRespRx_accounts (p : Fin 17) : RingAfter (execReadRespRx p s) := by
  unfold execReadRespRx; simpa using h
@[simp] theorem execWriteAckRx_accounts (p : Fin 17) : RingAfter (execWriteAckRx p s) := by
  unfold execWriteAckRx; simpa using h
@[simp] theorem execRemoteTimeout_accounts (u : Fin 4) (idx : Nat) : RingAfter (execRemoteTimeout u idx s) := by
  unfold execRemoteTimeout; (repeat' split) <;> simpa using h
@[simp] theorem execCollDescriptorStart_accounts (u : Fin 4) (idx : Nat) : RingAfter (execCollDescriptorStart u idx s) := by
  unfold execCollDescriptorStart; dsimp only; (repeat' split) <;> simpa using h
@[simp] theorem execCollDescriptorComplete_accounts (u : Fin 4) (idx : Nat) : RingAfter (execCollDescriptorComplete u idx s) := by
  unfold execCollDescriptorComplete; dsimp only; (repeat' split) <;> simpa using h
@[simp] theorem execCollTimeout_accounts (u : Fin 4) (idx : Nat) : RingAfter (execCollTimeout u idx s) := by
  unfold execCollTimeout; (repeat' split) <;> simpa using h
@[simp] theorem execVerdictTimeout_accounts (step : BitVec 64) : RingAfter (execVerdictTimeout step s) := by
  unfold execVerdictTimeout; (repeat' split) <;> simpa using h
@[simp] theorem execPermuteReceiveStart_accounts (u : Fin 4) (idx : Nat) : RingAfter (execPermuteReceiveStart u idx s) := by
  unfold execPermuteReceiveStart; dsimp only; (repeat' split) <;> simpa using h
@[simp] theorem execPermuteStageCopy_accounts (u : Fin 4) (idx : Nat) : RingAfter (execPermuteStageCopy u idx s) := by
  unfold execPermuteStageCopy; dsimp only; (repeat' split) <;> simpa using h
@[simp] theorem execPerstNAssert_accounts : RingAfter (execPerstNAssert s) := by
  refine ringAfter_go ?_
  split
  · exact h
  · exact frontEndReset_accounts (by simpa using h)
@[simp] theorem execPerstNDeassert_accounts : RingAfter (execPerstNDeassert s) := by
  unfold execPerstNDeassert; simpa using h
@[simp] theorem execHotReset_accounts : RingAfter (execHotReset s) := ringAfter_go (frontEndReset_accounts (by simpa using h))
@[simp] theorem execPcieLinkDown_accounts : RingAfter (execPcieLinkDown s) := ringAfter_go (frontEndReset_accounts (by simpa using h))
@[simp] theorem execFunctionLevelReset_accounts :
    RingAfter (execFunctionLevelReset s) := ringAfter_go (frontEndReset_accounts (by simpa using h))
@[simp] theorem execEnterHeld_accounts : RingAfter (execEnterHeld s) := by
  unfold execEnterHeld; (repeat' split) <;> simpa using h
@[simp] theorem execHostWatchdogExpiry_accounts : RingAfter (execHostWatchdogExpiry s) := by
  refine ringAfter_go ?_
  split
  · exact frontEndReset_accounts h
  · exact h
@[simp] theorem execHeartbeat_accounts (nonce : BitVec 64) : RingAfter (execHeartbeat nonce s) := by
  unfold execHeartbeat; (repeat' split) <;> simpa using h
@[simp] theorem execSqTailDoorbell_accounts (q : Fin 64) (v : BitVec 64) : RingAfter (execSqTailDoorbell q v s) := by
  unfold execSqTailDoorbell; dsimp only; (repeat' split) <;> simpa using h
@[simp] theorem execCqHeadDoorbell_accounts (q : Fin 64) (v : BitVec 64) : RingAfter (execCqHeadDoorbell q v s) := by
  unfold execCqHeadDoorbell; dsimp only; (repeat' split) <;> simpa using h
@[simp] theorem execSqConfigWrite_accounts (q : Fin 64) (word : Fin 8) (v : BitVec 64) : RingAfter (execSqConfigWrite q word v s) := by
  unfold execSqConfigWrite; (repeat' split) <;> simpa using h
@[simp] theorem execCqConfigWrite_accounts (q : Fin 64) (word : Fin 8) (v : BitVec 64) : RingAfter (execCqConfigWrite q word v s) := by
  unfold execCqConfigWrite; (repeat' split) <;> simpa using h
@[simp] theorem execSlotFetch_accounts (q : Fin 64) (r : FetchResult) : RingAfter (execSlotFetch q r s) := by
  refine ringAfter_go ?_
  split
  · exact h
  · split
    · rw [disableSq_ring]; exact h
    · next c =>
      rw [useTurn_ring]
      exact admitSlot_accounts h (slotRule_ok c) q c
@[simp] theorem execAdmissionRetry_accounts (q : Fin 64) : RingAfter (execAdmissionRetry q s) := by
  refine ringAfter_go ?_
  split
  · exact h
  · next c _ =>
    refine iteInduction (motive := fun u : State => AccountsOk u.train.ring) (fun _ => h) fun _ => ?_
    rw [useTurn_ring]
    refine admitSlot_accounts ?_ (slotRule_ok c) q c
    exact h
@[simp] theorem execCompletionRecordWrite_accounts : RingAfter (execCompletionRecordWrite s) := by
  unfold execCompletionRecordWrite; (repeat' split) <;> simpa using h
@[simp] theorem execCqIrqDelay_accounts (q : Fin 64) : RingAfter (execCqIrqDelay q s) := by
  unfold execCqIrqDelay; dsimp only; (repeat' split) <;> simpa using h
@[simp] theorem execRegionTagAddrWrite_accounts (v : BitVec 64) : RingAfter (execRegionTagAddrWrite v s) := by
  unfold execRegionTagAddrWrite; dsimp only; (repeat' split) <;> simpa using h
@[simp] theorem execRegionHeaderRead_accounts (r : HostResult) : RingAfter (execRegionHeaderRead r s) := by
  unfold execRegionHeaderRead; dsimp only; (repeat' split) <;> simpa using h
@[simp] theorem execBar2Read_accounts (off : BitVec 36) (len : Nat) : RingAfter (execBar2Read off len s) := by
  unfold execBar2Read; (repeat' split) <;> simpa using h
@[simp] theorem execBar2Write_accounts (off : BitVec 36) (bytes : List Byte) (poisoned : Bool) :
    RingAfter (execBar2Write off bytes poisoned s) := by
  unfold execBar2Write; (repeat' split) <;> simpa using h
@[simp] theorem execSessionOpen_accounts : RingAfter (execSessionOpen s) := by
  unfold execSessionOpen; (repeat' split) <;> simpa using h
@[simp] theorem execSessionClose_accounts : RingAfter (execSessionClose s) := by
  unfold execSessionClose; (repeat' split) <;> simpa using h
@[simp] theorem execSessionResume_accounts : RingAfter (execSessionResume s) := by
  refine ringAfter_go ?_
  split
  · exact h
  · split
    · rw [sessionDone_ring]; exact h
    · exact runHeld_accounts (by rw [sessionDone_ring, resume_ring]; exact h)
@[simp] theorem execSessionRelease_accounts : RingAfter (execSessionRelease s) := by
  unfold execSessionRelease; (repeat' split) <;> simpa using h
@[simp] theorem execSessionReinit_accounts : RingAfter (execSessionReinit s) := by
  refine ringAfter_go ?_
  split
  · exact h
  · split
    · rw [sessionDone_ring]; exact h
    · exact reinitGo_accounts (by rw [updSession_ring, hostCount_ring, setDev_ring]; exact h)
@[simp] theorem execReinitTimeout_accounts : RingAfter (execReinitTimeout s) := by
  unfold execReinitTimeout; (repeat' split) <;> simpa using h
@[simp] theorem execDrainEnd_accounts : RingAfter (execDrainEnd s) := by
  have hr := reinitGo_accounts h
  refine ringAfter_go ?_
  (repeat' split) <;> simpa [apply_ite (fun s : State => s.train.ring)] using hr
@[simp] theorem execCopyRequestIssue_accounts (eng : Fin 16) : RingAfter (execCopyRequestIssue eng s) := by
  unfold execCopyRequestIssue; dsimp only; (repeat' split) <;> simpa using h
@[simp] theorem execCopyRequestDone_accounts (eng : Fin 16) (idx : Nat) (r : HostResult) :
    RingAfter (execCopyRequestDone eng idx r s) := by
  unfold execCopyRequestDone; simpa using h
@[simp] theorem execPcieCompletionTimeout_accounts (eng : Fin 16) (idx : Nat) : RingAfter (execPcieCompletionTimeout eng idx s) := by
  unfold execPcieCompletionTimeout; dsimp only; (repeat' split) <;> simpa using h
@[simp] theorem execMailboxGo_accounts : RingAfter (execMailboxGo s) := by
  refine ringAfter_go ?_
  split
  · exact takeBoxed_accounts h _
  · exact h
@[simp] theorem execUnsolicitedOpRx_accounts (ch : Chan) (m : VmpRx) : RingAfter (execUnsolicitedOpRx ch m s) := by
  refine ringAfter_go ?_
  split
  · exact receive_accounts h _ _ _
  · exact h
@[simp] theorem execReadLatchExpiry_accounts (ch : Chan) : RingAfter (execReadLatchExpiry ch s) := by
  unfold execReadLatchExpiry; simpa using h
@[simp] theorem execWriteBufferExpiry_accounts (ch : Chan) : RingAfter (execWriteBufferExpiry ch s) := by
  unfold execWriteBufferExpiry; simpa using h
@[simp] theorem execConfigStoreCommit_accounts : RingAfter (execConfigStoreCommit s) := by
  unfold execConfigStoreCommit; (repeat' split) <;> simpa using h
@[simp] theorem execCmdActionEnd_accounts : RingAfter (execCmdActionEnd s) := by
  unfold execCmdActionEnd; dsimp only; (repeat' split) <;> simpa using h
@[simp] theorem execNotifySend_accounts : RingAfter (execNotifySend s) := by
  unfold execNotifySend; (repeat' split) <;> simpa using h
@[simp] theorem execPlcaBeacon_accounts : RingAfter (execPlcaBeacon s) := by
  unfold execPlcaBeacon; dsimp only; (repeat' split) <;> simpa using h
@[simp] theorem execRegisterWrite_accounts (off : BitVec 24) (bytes : List Byte) : RingAfter (execRegisterWrite off bytes s) := by
  unfold execRegisterWrite; (repeat' split) <;> simpa using h
@[simp] theorem execLockCheck_accounts (l : LoopId) (edges : Nat) : RingAfter (execLockCheck l edges s) := by
  unfold execLockCheck; (repeat' split) <;> simpa using h
@[simp] theorem execRootLockTimeout_accounts : RingAfter (execRootLockTimeout s) := by
  unfold execRootLockTimeout; dsimp only; (repeat' split) <;> simpa using h
@[simp] theorem execRefLossDetect_accounts (edges : Nat) : RingAfter (execRefLossDetect edges s) := by
  refine ringAfter_go ?_
  split
  · exact loseReference_accounts h
  · exact h
@[simp] theorem execRefclkReturn_accounts : RingAfter (execRefclkReturn s) := by
  unfold execRefclkReturn; (repeat' split) <;> simpa using h
@[simp] theorem execMuxSelect_accounts (d : Domain) (sel : Bool) : RingAfter (execMuxSelect d sel s) := by
  unfold execMuxSelect; dsimp only; (repeat' split) <;> simpa using h
@[simp] theorem execMuxSwitchDone_accounts (d : Domain) : RingAfter (execMuxSwitchDone d s) := by
  unfold execMuxSwitchDone; (repeat' split) <;> simpa using h
@[simp] theorem execClockHangDetect_accounts (d : Domain) : RingAfter (execClockHangDetect d s) := by
  unfold execClockHangDetect; (repeat' split) <;> simpa using h
@[simp] theorem execDeviceResetAssert_accounts : RingAfter (execDeviceResetAssert s) := by
  refine ringAfter_go ?_
  split
  · split
    · exact resetDevice_accounts _ _
    · exact h
  · exact h
@[simp] theorem execPwrEnRise_accounts (vinMv : Nat) (refclk : Bool) (lowMs : Nat) : RingAfter (execPwrEnRise vinMv refclk lowMs s) := by
  unfold execPwrEnRise; dsimp only; (repeat' split) <;> simpa using h
@[simp] theorem execPorRelease_accounts (slotId : BitVec 5) : RingAfter (execPorRelease slotId s) := by
  refine ringAfter_go ?_
  split
  · exact h
  · exact accountsOk_replicate
@[simp] theorem execPwrEnFall_accounts : RingAfter (execPwrEnFall s) := by
  refine ringAfter_go ?_
  split
  · exact h
  · exact railsOff_accounts _
@[simp] theorem execVinUndervoltage_accounts : RingAfter (execVinUndervoltage s) := by
  refine ringAfter_go ?_
  split
  · exact h
  · exact railsOff_accounts _
@[simp] theorem execPowerModeChangeDone_accounts : RingAfter (execPowerModeChangeDone s) := by
  unfold execPowerModeChangeDone; (repeat' split) <;> simpa using h
@[simp] theorem execGovernorSample_accounts (mv ma : Nat) : RingAfter (execGovernorSample mv ma s) := by
  unfold execGovernorSample; dsimp only; (repeat' split) <;> simpa using h
@[simp] theorem execWakeComplete_accounts : RingAfter (execWakeComplete s) := by
  refine ringAfter_go ?_
  split
  · exact h
  · dsimp only
    split
    · simpa using h
    · exact runHeld_accounts (by simpa using h)
@[simp] theorem execThermalSample_accounts (quads stackTemps : List Int) : RingAfter (execThermalSample quads stackTemps s) := by
  unfold execThermalSample; (repeat' split) <;> simpa using h
@[simp] theorem execThermtrip_accounts : RingAfter (execThermtrip s) := by
  refine ringAfter_go ?_
  split
  · exact railsOff_accounts _
  · exact h
@[simp] theorem execBootStart_accounts : RingAfter (execBootStart s) := by
  refine ringAfter_go ?_
  split
  · exact h
  · extract_lets c
    have hc : (tryBanks c.2.1 c.1).1.train.ring = s.train.ring := by rw [tryBanks_ring, bootChoice_ring, updBoot_train]
    split
    · next hu => rw [hu] at hc; rw [stopBoot_ring, hc]; exact h
    · next hu =>
      rw [hu] at hc
      dsimp only
      rw [beginHold_ring, loadSettings_ring, measureImage_ring, updBoot_train, hc]; exact h
@[simp] theorem execBootHoldExpiry_accounts : RingAfter (execBootHoldExpiry s) := by
  unfold execBootHoldExpiry; (repeat' split) <;> simpa using h
@[simp] theorem execBootReady_accounts : RingAfter (execBootReady s) := by
  unfold execBootReady; (repeat' split) <;> simpa using h
@[simp] theorem execBootWatchdogExpiry_accounts : RingAfter (execBootWatchdogExpiry s) := by
  unfold execBootWatchdogExpiry; dsimp only; (repeat' split) <;> simpa using h
@[simp] theorem execFwReceiveTimeout_accounts : RingAfter (execFwReceiveTimeout s) := by
  unfold execFwReceiveTimeout; (repeat' split) <;> simpa using h
@[simp] theorem execKindleBlockTake_accounts : RingAfter (execKindleBlockTake s) := by
  unfold execKindleBlockTake; dsimp only; (repeat' split) <;> simpa using h
@[simp] theorem execFlashBlockWritten_accounts : RingAfter (execFlashBlockWritten s) := by
  unfold execFlashBlockWritten; dsimp only; (repeat' split) <;> simpa using h
@[simp] theorem execKindlePush_accounts (child : Nat) : RingAfter (execKindlePush child s) := by
  refine ringAfter_go ?_
  split
  · simpa using h
  · split
    · split
      · simpa using h
      · extract_lets k block pair u v next
        have hu : u.train.ring = s.train.ring := (foldl_ring _ _ _ fun _ _ => kindleWrite_ring ..).trans (refreshAcks_ring s)
        have hv : v.train.ring = s.train.ring := (kindleWrite_ring ..).trans hu
        rw [kindleCount_ring, updRecv_ring, hv]; exact h
    · simpa using h
@[simp] theorem execKindleChildDrop_accounts (child : Nat) : RingAfter (execKindleChildDrop child s) := by
  unfold execKindleChildDrop; dsimp only; (repeat' split) <;> simpa using h
@[simp] theorem execFwImageVerify_accounts : RingAfter (execFwImageVerify s) := by
  unfold execFwImageVerify; dsimp only; (repeat' split) <;> simpa using h
@[simp] theorem execAttestSignDone_accounts : RingAfter (execAttestSignDone s) := by
  unfold execAttestSignDone; (repeat' split) <;> simpa using h
@[simp] theorem execTapReset_accounts : RingAfter (execTapReset s) := by
  unfold execTapReset; simpa using h
@[simp] theorem execTapExtest_accounts : RingAfter (execTapExtest s) := by
  unfold execTapExtest; simpa using h
@[simp] theorem execTapSamplePreload_accounts : RingAfter (execTapSamplePreload s) := by
  unfold execTapSamplePreload; simpa using h
@[simp] theorem execTapIdcode_accounts : RingAfter (execTapIdcode s) := by
  unfold execTapIdcode; simpa using h
@[simp] theorem execTapBypass_accounts : RingAfter (execTapBypass s) := by
  unfold execTapBypass; simpa using h
@[simp] theorem execArrayBeat_accounts (t : Fin 128) : RingAfter (execArrayBeat t s) := by
  unfold execArrayBeat; simpa using h
@[simp] theorem execCodewordTx_accounts (p : Fin 16) : RingAfter (execCodewordTx p s) := by
  refine ringAfter_go ?_
  split
  · exact h
  · split
    · simpa using h
    · dsimp only
      (repeat' split) <;> simpa using h
@[simp] theorem execPhaseTimerTick_accounts : RingAfter (execPhaseTimerTick s) := by
  refine ringAfter_go ?_
  split
  · show AccountsOk (tickCounters (tickSteps s)).train.ring
    rw [tickCounters_ring]
    exact tickSteps_accounts h
  · exact h
@[simp] theorem execModuleParked_accounts : RingAfter (execModuleParked s) := by
  unfold execModuleParked; (repeat' split) <;> simpa using h
@[simp] theorem execDeviceFault_accounts : RingAfter (execDeviceFault s) := by
  unfold execDeviceFault; (repeat' split) <;> simpa using h
@[simp] theorem execSeqReservedOpcode_accounts (t : Fin 128) : RingAfter (execSeqReservedOpcode t s) := by
  refine ringAfter_go ?_
  rw [seqInstr_ring _ _ _ _ _ fun _ _ _ => by simp]; exact h

end

/-- Every command keeps the account of every record: an object that is written, a message that is served and a command at the head
of a queue go through the lemma on what they share, any other through its own. -/
theorem exec_accounts (i : Instr) {s : State} (h : AccountsOk s.train.ring) : RingAfter (exec i s) := by
  cases i with
  | stepBegin sq c => exact ringAfter_go (commandAtHead_accounts h stepBeginRule_ok _ sq c)
  | stepEnd sq c => exact ringAfter_go (commandAtHead_accounts h stepEndRule_ok _ sq c)
  | ringClear | tileFence | tileUnfence | lossScaleWrite | emberSetsWrite | ptInvalidate | ptRootWrite | xlateSpansWrite
  | farMapWrite | memUeLogClear | nodeIdWrite | linkPortsWrite | portDisableWrite | routingTableWrite | counterSnapshot
  | counterLive | deviceReset | powerModeWrite | parkEnter | parkExit | alertClear | bootHoldWrite | bootContinue | ownerKeyWrite
  | protInstall | fwReceivePcie | fwReceiveKindle | fwAbort | fwActivate | fwConfirm | measExtend | attestSign =>
    exact ringAfter_go (writeRow_accounts h _ _ _ _)
  | tileRun sq c => exact ringAfter_go (commandAtHead_accounts h tileRunRule_ok _ sq c)
  | tableSet sq c => exact ringAfter_go (commandAtHead_accounts h tableSetRule_ok _ sq c)
  | gather sq c => exact ringAfter_go (commandAtHead_accounts h gatherRule_ok _ sq c)
  | prescan sq c => exact ringAfter_go (commandAtHead_accounts h prescanRule_ok _ sq c)
  | emberRefresh sq c => exact ringAfter_go (commandAtHead_accounts h emberRefreshRule_ok _ sq c)
  | scatter sq c => exact ringAfter_go (commandAtHead_accounts h scatterRule_ok _ sq c)
  | merge sq c => exact ringAfter_go (commandAtHead_accounts h mergeRule_ok _ sq c)
  | optimSet sq c => exact ringAfter_go (commandAtHead_accounts h optimSetRule_ok _ sq c)
  | rowOptimise sq c => exact ringAfter_go (commandAtHead_accounts h rowOptimiseRule_ok _ sq c)
  | deltaMap sq c => exact ringAfter_go (commandAtHead_accounts h deltaMapRule_ok _ sq c)
  | exportCmd sq c => exact ringAfter_go (commandAtHead_accounts h exportRule_ok _ sq c)
  | importCmd sq c => exact ringAfter_go (commandAtHead_accounts h importRule_ok _ sq c)
  | slotSet sq c => exact ringAfter_go (commandAtHead_accounts h slotSetRule_ok _ sq c)
  | slotExtend sq c => exact ringAfter_go (commandAtHead_accounts h slotExtendRule_ok _ sq c)
  | histAppend sq c => exact ringAfter_go (commandAtHead_accounts h histAppendRule_ok _ sq c)
  | histWalk sq c => exact ringAfter_go (commandAtHead_accounts h histWalkRule_ok _ sq c)
  | groupSet sq c => exact ringAfter_go (commandAtHead_accounts h groupSetRule_ok _ sq c)
  | collective sq c => exact ringAfter_go (commandAtHead_accounts h collectiveRule_ok _ sq c)
  | nop sq c => exact ringAfter_go (commandAtHead_accounts h nopRule_ok _ sq c)
  | copy sq c => exact ringAfter_go (commandAtHead_accounts h copyRule_ok _ sq c)
  | inlineWrite sq c => exact ringAfter_go (commandAtHead_accounts h inlineRule_ok _ sq c)
  | fwBlock sq c => exact ringAfter_go (commandAtHead_accounts h fwBlockRule_ok _ sq c)
  | vmpRead | vmpWrite | vmpDescribe | memRead | memWrite | discover | fnFrameDiscard => exact ringAfter_go (receive_accounts h _ _ _)
  | _ => simp only [exec]; simp [h]

theorem step_accounts {s : State} (h : AccountsOk s.train.ring) : RingAfter (step s) := by
  unfold step
  split
  · exact ringAfter_go (idleCycle_accounts h)
  · exact exec_accounts _ h

/-- Settles O3: every command, and the cycle in which none waits, keeps the account of every record. -/
theorem ringInvariant : Obligations.RingInvariant := fun _ u h hu => step_accounts h u hu

end Sys2Proof.Machine
end

section
/-!
SUPPORT. What device reset leaves (O2).
-/
namespace Sys2Proof.Machine

theorem getTile_reset (t : Fin 128) : getTile .reset t = .reset := by simp [getTile, State.reset, TileSys.reset]
theorem getEng_reset (e : Fin 16) : getEng .reset e = .reset := by simp [getEng, State.reset, Rows.reset]
theorem getSlot_reset (i : Fin 256) : getSlot .reset i = none := by simp [getSlot, State.reset, History.reset]
theorem getPort_reset (p : Fin 16) : getPort .reset p = .reset := by simp [getPort, State.reset, Links.reset]
/-- Settles O2: every field that the statement names stands at its reset value, and a ring of zeroed records keeps its account. -/
theorem resetState : Obligations.ResetState := by
  refine ⟨⟨rfl, rfl, rfl, rfl, rfl⟩, fun q => ?_, ⟨rfl, rfl, rfl, rfl, accountsOk_replicate⟩, ⟨rfl, rfl, rfl, rfl, rfl, rfl, rfl, rfl, rfl⟩,
    fun t => ?_, fun e => ?_, rfl, rfl, getSlot_reset, ⟨rfl, rfl, fun q => ?_, fun k => ?_, rfl, rfl⟩,
    ⟨rfl, rfl, rfl, rfl, rfl, rfl, rfl, fun p => ?_⟩, fun d => ?_, rfl, rfl⟩
  · simp [State.reset, HostIf.reset, SQueue.reset, CQueue.reset]
  · simp [getTile_reset, Tile.reset]
  · simp [getEng_reset, Engine.reset]
  · simp [State.reset, MemSys.reset]
  · simp [State.reset, MemSys.reset]
  · rw [getPort_reset]; rfl
  · cases d <;> rfl
end Sys2Proof.Machine
end

section
/-!
SUPPORT. The tick of the phase timers (R51 to R55): what it writes (O10), and what it does not look at (O11).
-/
namespace Sys2Proof.Machine

/-- A state that a few updates have made of another agrees with it on the parts that none of them names. -/
theorem sameBut_rfl {ps : List Part} {s u : State} (h : u.pending = s.pending := by rfl)
    (k : ∀ p : Part, p ∉ ps → p.same s u := by intro p hp; cases p <;> simp at hp <;> rfl) : SameBut ps s u := ⟨h, k⟩

/-! ### What a tick writes -/

/-- The records after a tick: the record of each step that is not closed has gone on by one (R54). -/
theorem tickSteps_ring (s : State) : (tickSteps s).train.ring = (s.train.steps.filter fun p => p.state ≠ .closed).foldl
    (fun v p => updAt v (ringSlot p.ring) (tickRecord (busyPhases s p) (waitsRemote s p))) s.train.ring := by
  have h (l : List Step) (busy : Step → List Nat) (peer : Step → Bool) : ∀ t : State,
      (l.foldl (fun t p => updRecord p (tickRecord (busy p) (peer p)) t) t).train.ring =
        l.foldl (fun v p => updAt v (ringSlot p.ring) (tickRecord (busy p) (peer p))) t.train.ring := by
    induction l with
    | nil => exact fun _ => rfl
    | cons p l ih => exact fun t => ih _
  exact h _ _ _ s

/-- The ticks of the steps leave all but the ring of records. -/
theorem tickSteps_eq (s : State) : tickSteps s = { s with train := { s.train with ring := (tickSteps s).train.ring } } := by
  have h (l : List Step) (f : Step → PhaseRec → PhaseRec) : ∀ t : State, ∃ v,
      l.foldl (fun t p => updRecord p (f p) t) t = { t with train := { t.train with ring := v } } := by
    induction l with
    | nil => exact fun t => ⟨t.train.ring, rfl⟩
    | cons p l ih => exact fun t => ih (updRecord p (f p) t)
  obtain ⟨v, hv⟩ := h _ _ s
  rw [tickSteps, hv]

/-- A tick where the control clock runs (R52). -/
theorem execPhaseTimerTick_eq {s : State} (h : controlRuns s = true) :
    execPhaseTimerTick s = .next { tickCounters (tickSteps s) with now := s.now + 4 } := by
  have : (tickCounters (tickSteps s)).now = s.now := by rw [tickSteps_eq]; rfl
  simp only [execPhaseTimerTick, if_pos h, this]; rfl

theorem tick32_fst (on : Bool) (x : Nat) : (tick32 on x).1 = if on then min (x + 4) (2 ^ 32 - 1) else x := by
  cases on <;> rfl

/-- A tick moves the time, the records of the steps and the counters of nanoseconds. -/
theorem tick_sameBut (s : State) :
    SameBut [.now, .train, .rows, .hist, .links, .host, .clk] s { tickCounters (tickSteps s) with now := s.now + 4 } := by
  rw [tickSteps_eq]
  exact sameBut_rfl

@[simp] theorem tickCounters_steps (s : State) : (tickCounters s).train.steps = s.train.steps := rfl

@[simp] theorem tickSteps_steps (s : State) : (tickSteps s).train.steps = s.train.steps := by rw [tickSteps_eq]

theorem updAt_same {α : Type} {n : Nat} (v : Vector α n) (i : Fin n) (f : α → α) : (updAt v i f)[i] = f v[i] := by simp [updAt]

theorem updAt_other {α : Type} {n : Nat} (v : Vector α n) {i j : Fin n} (h : j ≠ i) (f : α → α) : (updAt v i f)[j] = v[j] := by
  have : i.val ≠ j.val := fun e => h (Fin.ext e.symm)
  simp [updAt, Vector.getElem_set_ne, this]

/-- The timers that a record looks at are those that the statement names. -/
theorem any_timerOn (busy : List Nat) (peer : Bool) :
    ((List.finRange 16).any fun i => timerOn busy peer i.val) = (List.range 16).any (timerOn busy peer) := by
  rw [← List.map_coe_finRange_eq_range, List.any_map]; rfl

/-- Settles O10: with one open step a tick is `tickRecord` on its record, and of the rest the counters of nanoseconds alone go on. -/
theorem timersAdvance : Obligations.TimersAdvance := by
  intro s hc
  have hsame := tick_sameBut s
  refine ⟨_, execPhaseTimerTick_eq hc, rfl, by simp, hsame.2 .mem (by decide), hsame.2 .tile (by decide), fun p hp hopen => ?_, hsame⟩
  have hring : (tickCounters (tickSteps s)).train.ring =
      updAt s.train.ring (ringSlot p.ring) (tickRecord (busyPhases s p) (waitsRemote s p)) := by
    rw [tickCounters_ring, tickSteps_ring, hp]; simp [hopen]
  simp only [hring, updAt_same]
  refine ⟨tick32_fst true _, fun i => ?_, ?_, rfl, rfl, fun i hi => updAt_other _ hi _⟩
  · rw [tickRecord_phaseNs, tick32_fst]; rfl
  · have hidle : (tickRecord (busyPhases s p) (waitsRemote s p) s.train.ring[ringSlot p.ring]).idleNs =
        if !(List.range 16).any (timerOn (busyPhases s p) (waitsRemote s p)) then min (s.train.ring[ringSlot p.ring].idleNs + 4)
            (2 ^ 32 - 1)
        else s.train.ring[ringSlot p.ring].idleNs := by
      rw [← any_timerOn, ← tick32_fst]; rfl
    rw [hidle]
    show _ = if (List.range 16).any (timerOn (busyPhases s p) (waitsRemote s p)) = true then _ else _
    cases (List.range 16).any (timerOn (busyPhases s p) (waitsRemote s p)) <;> rfl

/-! ### What the timers do not look at -/

/-- Two states whose open steps are executed and wait alike have the same records after a tick. -/
theorem tick_ring_congr {s t : State} (hc : controlRuns t = controlRuns s) (htrain : t.train = s.train)
    (hbusy : ∀ p, busyPhases t p = busyPhases s p) (hpeer : ∀ p, waitsRemote t p = waitsRemote s p) :
    ∃ u v, execPhaseTimerTick s = .next u ∧ execPhaseTimerTick t = .next v ∧ v.train.ring = u.train.ring := by
  cases h : controlRuns s with
  | true =>
    refine ⟨_, _, execPhaseTimerTick_eq h, execPhaseTimerTick_eq (hc.trans h), ?_⟩
    simp only [tickCounters_ring, tickSteps_ring, htrain, hbusy, hpeer]
  | false => exact ⟨s, t, by simp [execPhaseTimerTick, h, go], by simp [execPhaseTimerTick, hc, h, go], by rw [htrain]⟩

/-- An engine's steps do not follow what is written beside them. -/
theorem engStep_updEng {f : Engine → Engine} (hf : ∀ g, (f g).steps = g.steps) (e : Fin 16) (s : State) (e' : Fin 16) (n : BitVec 64) :
    engStep (updEng e f s) e' n = engStep s e' n := by
  by_cases h : e' = e
  · subst h
    simp only [engStep, getEng, updEng, updAt_same, hf]
  · simp only [engStep, getEng, updEng, updAt_other _ h]

/-- PRESCAN commands started or not. -/
def setPrescans (on : Bool) (k : Cmd) : Cmd := if slotOpcode k.slot = 0x22 then { k with started := on } else k

/-- PRESCAN counts under no phase timer (R53, R199): whether such commands are started is in no phase. -/
theorem cmdPhases_setPrescans (on : Bool) (s t : State) (hbusy : ∀ k, unitBusy t k = unitBusy s k)
    (ht : t.host.cmds = s.host.cmds.map (setPrescans on)) (n : BitVec 64) : cmdPhases t n = cmdPhases s n := by
  have hslot (k : Cmd) : (setPrescans on k).slot = k.slot := by unfold setPrescans; split <;> rfl
  have hin (k : Cmd) : (((setPrescans on k).step == some n) && (setPrescans on k).started && !untimed (slotOpcode k.slot)) =
      ((k.step == some n) && k.started && !untimed (slotOpcode k.slot)) := by
    unfold setPrescans
    split
    · next h => simp [h, untimed]
    · rfl
  have hunit (k : Cmd) : unitBusy s (setPrescans on k) = unitBusy s k := by
    unfold setPrescans; split <;> rfl
  rw [cmdPhases, cmdPhases, ht, List.filter_map, List.map_map]
  congr 1
  · funext k; exact congrArg slotPhase (hslot k)
  · congr 1
    funext k
    simp only [Function.comp_apply, hbusy, hunit, hslot, hin]

/-- Settles O11: the phases of a step's commands leave PRESCAN out, and no other phase looks at a pre-scan, a log or a drain. -/
theorem prefetchAndDrainUntimed : Obligations.PrefetchAndDrainUntimed := by
  intro s e ps ds qs on s1 t
  have heng (e' : Fin 16) (n : BitVec 64) : engStep t e' n = engStep s e' n :=
    engStep_updEng (f := fun g => { g with prescans := ps, deferred := ds, drains := qs }) (fun _ => rfl) e s e' n
  have hcmd (n : BitVec 64) : cmdPhases t n = cmdPhases s n := cmdPhases_setPrescans on s t (fun _ => rfl) rfl n
  have hrow (n : BitVec 64) : rowPart t n = rowPart s n := by simp only [rowPart, heng]
  refine tick_ring_congr rfl rfl (fun p => ?_) fun p => rfl
  have hseal : sealMerges t p.num = sealMerges s p.num := by simp only [sealMerges, heng]; rfl
  have hvote : contribution t p = contribution s p := by simp only [contribution, hrow]
  rw [busyPhases, busyPhases, hcmd, hvote, hseal]
  rfl
end Sys2Proof.Machine
end

section
/-!
SUPPORT. The end of a command (R359, R361), and a command that completes as it is admitted.
-/
namespace Sys2Proof.Machine

/-! ### The end of a command -/

/-- The record of a command that was admitted (R359). -/
def recordOf (k : Cmd) (st : Status) (detail : Nat) : Completion :=
  { sq := k.sq, tag := slotTag k.slot, opcode := BitVec.ofNat 8 (slotOpcode k.slot), status := st, detail := BitVec.ofNat 64 detail,
    user := slotUser k.slot, admitted := true }

/-- Command `id` is in flight no longer. -/
def leaveCmds (id : Nat) (s : State) : State := { s with host := { s.host with cmds := s.host.cmds.filter fun x => x.id ≠ id } }

/-- The end of a command is all there is to it where it is a success, or where it neither counts in a step nor stands in a walker. -/
theorem completeCmd_eq_retire {s : State} {id : Nat} {k : Cmd} {st : Status} (detail : Nat) (hk : findCmd s id = some k)
    (h : fine st = true ∨ (k.step = none ∧ ofWalker k.slot = false)) :
    completeCmd id st detail s = retire k st detail (leaveCmds id s) := by
  have hone : endOne { cmd := id, st := st, detail := detail, drop := false } s = (retire k st detail (leaveCmds id s), []) := by
    rcases h with h | ⟨hstep, hw⟩
    · cases hstep : k.step <;> simp [endOne, hk, h, hstep, leaveCmds, markFailure]
    · simp [endOne, hk, hw, hstep, leaveCmds]
  show endAll (s.host.cmds.length + 1) _ s = _
  rw [endAll, hone]
  cases s.host.cmds.length <;> rfl

/-- A record of a success joins those to be written, and no fence is set (R359, R361). -/
theorem retire_fine {st : Status} (h : fine st = true) (k : Cmd) (hredo : k.redo = false) (detail : Nat) (s : State) :
    retire k st detail s = { s with host := { s.host with done := s.host.done ++ [recordOf k st detail] } } := by
  rw [retire, if_neg (by simp [hredo]), pushCompletion, updAt_self _ _ _ (by simp [h])]
  rfl

/-- A command that ends with a success leaves, and its record joins those to be written; nothing else moves. -/
theorem completeCmd_fine {s : State} {id : Nat} {k : Cmd} {st : Status} (hk : findCmd s id = some k) (hredo : k.redo = false)
    (h : fine st = true) (detail : Nat) :
    completeCmd id st detail s = { s with host := { s.host with
      cmds := s.host.cmds.filter fun x => x.id ≠ id, done := s.host.done ++ [recordOf k st detail] } } := by
  rw [completeCmd_eq_retire detail hk (.inl h), retire_fine h k hredo]; rfl

/-! ### A command that completes at once -/

theorem filter_ne_of_findCmd_none {s : State} {id : Nat} (h : findCmd s id = none) :
    (s.host.cmds.filter fun x => x.id ≠ id) = s.host.cmds := by
  rw [List.filter_eq_self]
  intro k hk
  have := List.find?_eq_none.mp h k hk
  simpa using this

/-- The command that has just entered is the one of its number. -/
theorem findCmd_enterCmd {s : State} (h : findCmd s s.host.nextCmd = none) (info : List Nat) (q : Fin 64) (c : Slot) :
    findCmd (enterCmd info q c s).1 s.host.nextCmd = some (enterCmd info q c s).2 := by
  have hw : (wakeFor (slotOpcode c) s).host = s.host := by unfold wakeFor; split <;> rfl
  have h' : s.host.cmds.find? (fun k => k.id == s.host.nextCmd) = none := h
  simp [findCmd, enterCmd, advanceHead, hostCount, hw, List.find?_append, h']

theorem wakeFor_host (op : Nat) (s : State) : (wakeFor op s).host = s.host := by unfold wakeFor; split <;> rfl

theorem enterCmd_cmds (info : List Nat) (q : Fin 64) (c : Slot) (s : State) :
    (enterCmd info q c s).1.host.cmds = s.host.cmds ++ [(enterCmd info q c s).2] := by
  simp [enterCmd, advanceHead, hostCount, wakeFor_host]

theorem enterCmd_done (info : List Nat) (q : Fin 64) (c : Slot) (s : State) : (enterCmd info q c s).1.host.done = s.host.done := by
  simp [enterCmd, advanceHead, hostCount, wakeFor_host]

/-- Entering touches the host interface, and the clocks where it wakes the module (R363, R443). -/
theorem enterCmd_eq (info : List Nat) (q : Fin 64) (c : Slot) (s : State) :
    ∃ h k, (enterCmd info q c s).1 = { s with host := h, clk := k } := by
  obtain ⟨k, hk⟩ : ∃ k, wakeFor (slotOpcode c) s = { s with clk := k } := by unfold wakeFor; split <;> exact ⟨_, rfl⟩
  simp only [enterCmd, hk]
  exact ⟨_, _, rfl⟩

/-- A command that has entered as `k` and ends with OK on a host interface that is else as it entered has completed at once. -/
theorem atOnce_completeCmd {info : List Nat} {q : Fin 64} {c : Slot} {s v : State} {k : Cmd} (hfree : findCmd s s.host.nextCmd = none)
    (hid : k.id = s.host.nextCmd) (hsq : k.sq = q) (hslot : k.slot = c) (hredo : k.redo = false)
    (hv : v.host = { (enterCmd info q c s).1.host with cmds := s.host.cmds ++ [k] }) (hclk : v.clk = (enterCmd info q c s).1.clk)
    (detail : Nat) : ∃ h, useTurn q (completeCmd s.host.nextCmd .ok detail v) = { v with host := h } ∧
      AtOnce q c info detail s { v with host := h } := by
  have hold : s.host.cmds.find? (fun x => x.id == s.host.nextCmd) = none := hfree
  have hk : findCmd v s.host.nextCmd = some k := by simp [findCmd, hv, List.find?_append, hold, hid]
  have hleave : (s.host.cmds ++ [k]).filter (fun x => x.id ≠ s.host.nextCmd) = s.host.cmds := by
    rw [List.filter_append, filter_ne_of_findCmd_none hfree]; simp [hid]
  rw [completeCmd_fine hk hredo rfl]
  refine ⟨_, rfl, ?_, hclk⟩
  simp only [useTurn, hv, hleave, enterCmd_done, recordOf, hsq, hslot]

end Sys2Proof.Machine
end

section
/-!
SUPPORT. What the endings of commands and a refusal leave alone (R29, R31, R361).
-/
namespace Sys2Proof.Machine

/-! ### What the endings of commands leave alone -/

/-- What endings keep: records join those to be written at the end, no command number is given, no record of the ring begins, and no step
comes or goes; the numerics, the exchanges and the tiles' memories stay. -/
structure KeepsOnEnd (s u : State) : Prop where
  done : ∃ more, u.host.done = s.host.done ++ more
  nextCmd : u.host.nextCmd = s.host.nextCmd
  ringHead : u.train.ringHead = s.train.ringHead
  nums : u.train.steps.map (fun p => p.num) = s.train.steps.map (fun p => p.num)
  num : u.num = s.num
  exchanges : u.links.exchanges = s.links.exchanges
  mem : ∀ t, (getTile u t).mem = (getTile s t).mem

theorem KeepsOnEnd.refl (s : State) : KeepsOnEnd s s := ⟨⟨[], by simp⟩, rfl, rfl, rfl, rfl, rfl, fun _ => rfl⟩

theorem KeepsOnEnd.trans {s u v : State} (h : KeepsOnEnd s u) (k : KeepsOnEnd u v) : KeepsOnEnd s v := by
  obtain ⟨a, ha⟩ := h.done
  obtain ⟨b, hb⟩ := k.done
  exact ⟨⟨a ++ b, by rw [hb, ha, List.append_assoc]⟩, k.nextCmd.trans h.nextCmd, k.ringHead.trans h.ringHead, k.nums.trans h.nums,
    k.num.trans h.num, k.exchanges.trans h.exchanges, fun t => (k.mem t).trans (h.mem t)⟩

theorem mapIf_nums {p : Step → Bool} {f : Step → Step} (hf : ∀ x, (f x).num = x.num) (l : List Step) :
    (mapIf p f l).map (fun p => p.num) = l.map fun p => p.num := by
  induction l with
  | nil => rfl
  | cons x l ih => simp only [mapIf, List.map_cons, List.map_map] at ih ⊢; rw [ih]; congr 1; split <;> simp [hf]

theorem updStep_keepsOnEnd (n : BitVec 64) {f : Step → Step} (hf : ∀ x, (f x).num = x.num) (s : State) : KeepsOnEnd s (updStep n f s) :=
  ⟨⟨[], by simp [updStep]⟩, rfl, rfl, mapIf_nums hf _, rfl, rfl, fun _ => rfl⟩

theorem pushCompletion_keepsOnEnd (q : Fin 64) (c : Slot) (admitted : Bool) (st : Status) (detail : BitVec 64) (s : State) :
    KeepsOnEnd s (pushCompletion q c admitted st detail s) := ⟨⟨_, rfl⟩, rfl, rfl, rfl, rfl, rfl, fun _ => rfl⟩

theorem retire_keepsOnEnd (c : Cmd) (st : Status) (detail : Nat) (s : State) : KeepsOnEnd s (retire c st detail s) := by
  unfold retire
  split
  · exact .refl s
  · exact pushCompletion_keepsOnEnd ..

theorem dropCmd_keepsOnEnd (id : Nat) (s : State) : KeepsOnEnd s (dropCmd id s) := by
  refine ⟨⟨[], by simp [dropCmd]⟩, rfl, rfl, ?_, rfl, rfl, fun t => ?_⟩
  · simp [dropCmd, Function.comp_def]
  · simp [dropCmd, getTile]

theorem markAbort_keepsOnEnd (n : BitVec 64) (st : Status) (held : Bool) (s : State) : KeepsOnEnd s (markAbort n st held s).1 := by
  unfold markAbort
  split
  · exact .refl s
  · split
    · exact updStep_keepsOnEnd n (f := _) (by exact fun _ => rfl) s
    · exact .refl s

theorem markFailure_keepsOnEnd (n : BitVec 64) (phase : Nat) (st : Status) (s : State) : KeepsOnEnd s (markFailure n phase st s).1 := by
  unfold markFailure
  split
  · exact .refl s
  · split
    · exact .refl s
    · split
      · split
        · exact markAbort_keepsOnEnd ..
        · exact updStep_keepsOnEnd n (f := _) (by exact fun _ => rfl) s
      · exact markAbort_keepsOnEnd ..
      · split
        · exact updStep_keepsOnEnd n (f := _) (by exact fun _ => rfl) s
        · exact .refl s
      · exact .refl s

/-- A walker's endings move nothing but the history cache. -/
theorem leaveWalker_eq (cmd : Nat) (s : State) : ∃ h, (leaveWalker cmd s).1 = { s with hist := h } := by
  have lose (w : WalkRun) (s : State) : ∃ h, (loseWalk w s).1 = { s with hist := h } := by
    unfold loseWalk; dsimp only; split <;> exact ⟨_, rfl⟩
  have loses (l : List WalkRun) : ∀ acc : State × List Ending,
      ∃ h, (l.foldl (fun acc w => let r := loseWalk w acc.1; (r.1, acc.2 ++ r.2.toList)) acc).1 = { acc.1 with hist := h } := by
    induction l with
    | nil => exact fun acc => ⟨acc.1.hist, rfl⟩
    | cons w l ih =>
      intro acc
      obtain ⟨h, hh⟩ := ih (let r := loseWalk w acc.1; (r.1, acc.2 ++ r.2.toList))
      obtain ⟨h', hh'⟩ := lose w acc.1
      exact ⟨h, by rw [List.foldl_cons, hh]; simp only [hh']⟩
  unfold leaveWalker
  split
  · unfold failAppendOn
    extract_lets behind first gone cut u v lost ends
    obtain ⟨h, hh⟩ := loses lost (v, ends)
    rw [hh]
    dsimp only [v]
    split <;> exact ⟨_, rfl⟩
  · exact ⟨_, rfl⟩

section
variable {R : State → State → Prop} (refl : ∀ s, R s s) (trans : ∀ {s u v}, R s u → R u v → R s v)
  (retires : ∀ id c st detail s, R s (retire c st detail (leaveCmds id s))) (drops : ∀ id s, R s (dropCmd id s))
  (walkers : ∀ s h, R s { s with hist := h }) (fails : ∀ n phase st s, R s (markFailure n phase st s).1)
include refl trans retires drops walkers fails

/-- What holds of each thing that an ending can do holds of the ending (R29, R31). -/
theorem endOne_rel (e : Ending) (s : State) : R s (endOne e s).1 := by
  unfold endOne
  split
  · exact refl s
  · next c _ =>
    extract_lets h u v w
    have hu : R s u := retires e.cmd c e.st e.detail s
    have hv : R s v := by
      dsimp only [v]
      split
      · exact trans hu (drops e.cmd u)
      · exact hu
    have hw : R s w.1 := by
      dsimp only [w]
      split
      · exact hv
      · obtain ⟨h, hh⟩ := leaveWalker_eq e.cmd v
        rw [hh]
        exact trans hv (walkers v h)
    split
    · exact hw
    · exact trans hw (fails ..)

/-- And so of endings one after the other. -/
theorem endCmds_rel (es : List Ending) (s : State) : R s (endCmds es s) := by
  have all (k : Nat) : ∀ (es : List Ending) (s : State), R s (endAll k es s) := by
    induction k with
    | zero => exact fun _ s => refl s
    | succ k ih =>
      intro es s
      cases es with
      | nil => exact refl s
      | cons e es => exact trans (endOne_rel refl trans retires drops walkers fails e s) (ih _ _)
  exact all _ es s

end

theorem leaveCmds_keepsOnEnd (id : Nat) (s : State) : KeepsOnEnd s (leaveCmds id s) :=
  ⟨⟨[], (List.append_nil _).symm⟩, rfl, rfl, rfl, rfl, rfl, fun _ => rfl⟩

theorem endCmds_keepsOnEnd (es : List Ending) (s : State) : KeepsOnEnd s (endCmds es s) :=
  endCmds_rel .refl .trans (fun id c st detail s => (leaveCmds_keepsOnEnd id s).trans (retire_keepsOnEnd c st detail _)) dropCmd_keepsOnEnd
    (fun _ _ => ⟨⟨[], (List.append_nil _).symm⟩, rfl, rfl, rfl, rfl, rfl, fun _ => rfl⟩) markFailure_keepsOnEnd es s

theorem stepFailure_keepsOnEnd (n : BitVec 64) (phase : Nat) (st : Status) (s : State) : KeepsOnEnd s (stepFailure n phase st s) :=
  (markFailure_keepsOnEnd ..).trans (endCmds_keepsOnEnd ..)

theorem abortStep_keepsOnEnd (n : BitVec 64) (st : Status) (held : Bool) (s : State) : KeepsOnEnd s (abortStep n st held s) :=
  (markAbort_keepsOnEnd ..).trans (endCmds_keepsOnEnd ..)

/-! ### A command that is refused -/

/-- A slot that is refused leaves the head and has its record at once; where it counts in a step, the failure's endings follow. -/
theorem refuseSlot_keepsOnEnd (q : Fin 64) (c : Slot) (st : Status) (detail : Nat) (s : State) :
    ∃ h, KeepsOnEnd { s with host := h } (refuseSlot q c st detail s) ∧ h.nextCmd = s.host.nextCmd ∧ h.cmds = s.host.cmds ∧
      h.done = s.host.done ++ [{
        sq := q, tag := slotTag c, opcode := BitVec.ofNat 8 (slotOpcode c), status := st, detail := BitVec.ofNat 64 detail,
        user := slotUser c, admitted := false }] ∧
      (slotStep s c = none → refuseSlot q c st detail s = { s with host := h }) := by
  unfold refuseSlot
  extract_lets n u v w
  refine ⟨w.host, ?_, rfl, rfl, rfl, fun h => ?_⟩
  · clear_value n
    cases n with
    | none => exact .refl _
    | some n => exact stepFailure_keepsOnEnd ..
  · have : n = none := by simp [n, h]
    rw [this]
    rfl
end Sys2Proof.Machine
end

section
/-!
SUPPORT. STEP_BEGIN: its step opens (O4), and the conditions of its admission (O5).
-/
namespace Sys2Proof.Machine

/-! ### STEP_BEGIN -/

/-- STEP_BEGIN and STEP_END are no command of a step that a skip decision could end (R28). -/
theorem skippedByVerdict_of_step_none {k : Cmd} (h : k.step = none) (s : State) :
    skippedByVerdict s k = false := by simp [skippedByVerdict, h]

theorem enterCmd_step_none {c : Slot} (h : slotOpcode c = 1 ∨ slotOpcode c = 2) (info : List Nat) (q : Fin 64) (s : State) :
    (enterCmd info q c s).2.step = none := by simp [enterCmd, h]

theorem reachesHead_opcode {s : State} {q : Fin 64} {op : Nat} {c : Slot} (h : reachesHead s q op c = true) : slotOpcode c = op := by
  simp only [reachesHead, Bool.and_eq_true, beq_iff_eq] at h
  tauto

theorem reachesHead_free {s : State} {q : Fin 64} {op : Nat} {c : Slot} (h : reachesHead s q op c = true) :
    findCmd s s.host.nextCmd = none := by
  simp only [reachesHead, Bool.and_eq_true, Option.isNone_iff_eq_none] at h
  exact h.2

/-- A STEP_BEGIN that reaches the head and passes its checks opens its step and completes (R24). -/
theorem execStepBegin_opens {s : State} {q : Fin 64} {c : Slot} (h : reachesHead s q 0x01 c = true) (htag : stepTagWrong c = false)
    (hform : stepBeginMalformed c = false) (hmay : stepMayOpen s c = true) :
    execStepBegin q c s = .next (useTurn q (completeCmd s.host.nextCmd .ok 0 (openStep c (enterCmd [] q c s).1))) := by
  have hstep : (enterCmd [] q c s).2.step = none := enterCmd_step_none (.inl (reachesHead_opcode h)) _ _ _
  have hpass : Passes stepBeginRule.check 0x01 q c [] s s :=
    ⟨h, .inl ⟨by simp [stepBeginRule, checks, firstFail, htag, hform, hmay], rfl⟩, skippedByVerdict_of_step_none hstep _,
        reachesHead_free h⟩
  rw [execStepBegin, commandAtHead_passes _ hpass (skippedByVerdict_of_step_none hstep _)]
  rfl

/-- A step that opens takes the next place of the ring, whose record starts anew; messages of an old exchange under its tag are dropped. -/
theorem openStep_eq (c : Slot) (s : State) : ∃ l, openStep c s = { s with
    train := { s.train with
      steps := s.train.steps ++ [newStep s c], ringHead := s.train.ringHead + 1,
      ring := s.train.ring.set (ringSlot s.train.ringHead)
        { PhaseRec.zero with step := stepNumOf c, startNs := s.now, profile := BitVec.ofNat 8 (fld c.pay 71 64) } },
    links := l } := ⟨_, rfl⟩

/-- Settles O4: the command that has passed its checks opens the step and completes with OK. -/
theorem stepsOpen : Obligations.StepsOpen := by
  intro s q c h htag hform hmay
  obtain ⟨l, hopen⟩ := openStep_eq c (enterCmd [] q c s).1
  have hcmds := enterCmd_cmds [] q c s
  obtain ⟨host, hu, hat⟩ := atOnce_completeCmd (info := []) (q := q) (c := c) (v := openStep c (enterCmd [] q c s).1)
    (k := (enterCmd [] q c s).2) (reachesHead_free h) rfl rfl rfl rfl (by rw [hopen, ← hcmds]) (by rw [hopen]) 0
  refine ⟨_, (execStepBegin_opens h htag hform hmay).trans (congrArg _ hu), hat, ?_⟩
  obtain ⟨h', k', he⟩ := enterCmd_eq [] q c s
  rw [hopen, he]
  exact ⟨newStep s c, rfl, rfl, rfl, rfl, rfl, rfl, rfl, rfl, sameBut_rfl⟩

/-- The five conditions of R21, read as the step numbers' values. -/
theorem stepMayOpen_iff {s : State} {c : Slot} (h : s.rows.obj.restoreRequired = false) : stepMayOpen s c = true ↔
    s.train.steps.length < 2 ∧ s.train.lastCommitted.toNat < (stepNumOf c).toNat ∧
        (∀ p ∈ s.train.steps, p.num.toNat < (stepNumOf c).toNat) ∧
      (∀ p ∈ s.train.steps, p.num.toNat % 2 ^ 16 ≠ (stepNumOf c).toNat % 2 ^ 16) ∧ fld c.pay 71 64 = s.train.profile.toNat := by
  simp only [stepMayOpen, h, Bool.not_false, Bool.and_true, Bool.and_eq_true, decide_eq_true_eq, List.all_eq_true, beq_iff_eq, bne_iff_ne,
    BitVec.lt_def, forall_and, ne_eq]
  tauto

/-- A STEP_BEGIN that reaches the head and may not open its step is refused (R21). -/
theorem execStepBegin_refuses {s : State} {q : Fin 64} {c : Slot} (h : reachesHead s q 0x01 c = true) (htag : stepTagWrong c = false)
    (hform : stepBeginMalformed c = false) (hmay : stepMayOpen s c = false) :
    execStepBegin q c s = .next (useTurn q (refuseSlot q c .stateConflict 0 s)) := by
  rw [execStepBegin, commandAtHead_reaches _ h, admitChecked]
  simp [stepBeginRule, checks, firstFail, htag, hform, hmay, go]

/-- Settles O5: under the five conditions the command opens its step, and else it is refused, which begins no record and opens no step. -/
theorem stepAdmission : Obligations.StepAdmission := by
  intro s q c h htag hform hdue n may
  have hmay := stepMayOpen_iff (c := c) hdue
  refine ⟨fun hm => ?_, fun hm => ?_⟩
  · obtain ⟨u, hu, hat, p, hnum, -, -, -, -, -, -, htrain, -⟩ := stepsOpen s q c h htag hform (hmay.mpr hm)
    exact ⟨u, hu, hat, by rw [htrain]; simp [hnum, n]⟩
  · have hno : stepMayOpen s c = false := by rw [← Bool.not_eq_true]; exact fun e => hm (hmay.mp e)
    obtain ⟨host, hkeep, hnext, hcmds, hdone, hquiet⟩ := refuseSlot_keepsOnEnd q c .stateConflict 0 s
    obtain ⟨more, hmore⟩ := hkeep.done
    have hop : BitVec.ofNat 8 (slotOpcode c) = 0x01 := by rw [reachesHead_opcode h]; rfl
    refine ⟨_, more, execStepBegin_refuses h htag hform hno, ?_, ?_, refuseSlot_ring .., ?_, ?_, fun hs => ?_⟩
    · show (refuseSlot q c .stateConflict 0 s).host.done = _
      rw [hmore, hdone, hop, List.append_assoc]; rfl
    · exact hkeep.nextCmd.trans hnext
    · exact hkeep.ringHead
    · exact hkeep.nums
    · have hr := hquiet hs
      refine ⟨?_, ?_, ?_⟩
      · rw [hr] at hmore; simpa using hmore
      · rw [hr]; exact hcmds
      · rw [hr]
        exact sameBut_rfl
end Sys2Proof.Machine
end

section
/-!
SUPPORT. STEP_END: the step is sealed on every row engine (R25, R26, R214).
-/
namespace Sys2Proof.Machine

/-! ### STEP_END seals the step on every engine -/

/-- A step as an engine enters it. -/
def freshStep (n : BitVec 64) : EngineStep :=
  { step := n, nextSeq := 0, tables := [], scatters := [], keys := [], sealed := false, formed := none, merged := false, norm := 0,
    nonfinite := false, entries := [], applied := 0 }

/-- An engine in which step `n` is changed by `f`, and entered where it is not there yet. -/
def withStep (n : BitVec 64) (f : EngineStep → EngineStep) (g : Engine) : Engine :=
  { g with steps := if (g.steps.any fun x => x.step == n) then mapIf (fun x => x.step == n) f g.steps else g.steps ++ [f (freshStep n)] }

/-- What an engine holds of step `n`. -/
def stepOf (n : BitVec 64) (g : Engine) : Option EngineStep := g.steps.find? fun x => x.step == n

theorem updEngStep_eq (e : Fin 16) (n : BitVec 64) (f : EngineStep → EngineStep) (s : State) :
    updEngStep e n f s = updEng e (withStep n f) s := rfl

theorem mapIf_find {α : Type} (p : α → Bool) (f : α → α) (hf : ∀ x, p (f x) = p x) (l : List α) :
    (mapIf p f l).find? p = (l.find? p).map f := by
  induction l with
  | nil => rfl
  | cons x l ih =>
    simp only [mapIf, List.map_cons] at ih ⊢
    by_cases hx : p x = true
    · simp [hx, hf]
    · simp [hx, ih]

theorem stepOf_withStep {n : BitVec 64} {f : EngineStep → EngineStep} (hf : ∀ x, (f x).step = x.step) (g : Engine) :
    stepOf n (withStep n f g) = some (f ((stepOf n g).getD (freshStep n))) := by
  cases h : stepOf n g with
  | some y =>
    have hy : g.steps.find? (fun x => x.step == n) = some y := h
    have hany : (g.steps.any fun x => x.step == n) = true :=
      List.any_eq_true.mpr ⟨y, List.mem_of_find?_eq_some hy, by simpa using List.find?_some hy⟩
    simp only [stepOf, withStep, hany, if_true]
    rw [mapIf_find _ _ (by simp [hf]), hy]
    rfl
  | none =>
    have hno : g.steps.find? (fun x => x.step == n) = none := h
    have hany : (g.steps.any fun x => x.step == n) = false := by
      rw [List.any_eq_false]
      exact fun x hx => by simpa using List.find?_eq_none.mp hno x hx
    simp [stepOf, withStep, hany, List.find?_append, hno, hf, freshStep]

/-- A step that an engine has sealed. -/
def markSealed (x : EngineStep) : EngineStep := { x with sealed := true }

/-- A step that an engine has merged. -/
def markMerged (x : EngineStep) : EngineStep := { x with merged := true }

/-- What the seal of a step leaves of an engine (R214): an engine without a key of the step has merged it. -/
def sealed (n : BitVec 64) (g : Engine) : Engine :=
  match stepOf n g with
  | some x =>
    if x.sealed then g
    else if x.keys.isEmpty ∧ x.scatters.isEmpty then withStep n markMerged (withStep n markSealed g) else withStep n markSealed g
  | none => withStep n markMerged (withStep n markSealed g)

theorem stepOf_sealed (n : BitVec 64) (g : Engine) : (stepOf n (sealed n g)).map (fun x => x.sealed) = some true := by
  have hs : stepOf n (withStep n markSealed g) = some (markSealed ((stepOf n g).getD (freshStep n))) :=
      stepOf_withStep (f := markSealed) (fun _ => rfl) g
  have hm : stepOf n (withStep n markMerged (withStep n markSealed g)) =
      some (markMerged (markSealed ((stepOf n g).getD (freshStep n)))) := by
    rw [stepOf_withStep (f := markMerged) fun _ => rfl, hs]; rfl
  unfold sealed
  split
  · next x hx =>
    split
    · next h => rw [hx]; simp [h]
    · split
      · rw [hm]; rfl
      · rw [hs]; rfl
  · rw [hm]; rfl

theorem stepOf_sealed_of_none {n : BitVec 64} {g : Engine} (h : stepOf n g = none) :
    (stepOf n (sealed n g)).map (fun x => (x.merged, x.norm)) = some (true, 0) := by
  simp only [sealed, h]
  rw [stepOf_withStep (f := markMerged) fun _ => rfl, stepOf_withStep (f := markSealed) fun _ => rfl, h]; rfl

/-- An engine has merged a step for no MERGE of the host: nothing but the engine moves (R214). -/
theorem engineMerged_eq (e : Fin 16) (n : BitVec 64) {s : State} (h : s.rows.merges = []) :
    engineMerged e n .ok s = updEng e (withStep n markMerged) s := by
  have hm : (updEngStep e n (fun x => { x with merged := true }) s).rows.merges = [] := h
  have hend (t : State) : stepFailure n 6 .ok t = t := by
    show endAll (t.host.cmds.length + 0) [] t = t
    cases t.host.cmds.length <;> rfl
  unfold engineMerged
  simp only [hm, List.any_nil, mapIf, List.map_nil, List.filter_nil, List.foldl_nil, hend]
  rw [if_neg (by simp), updEngStep_eq]
  simp only [updEng]
  rw [← h]; rfl

theorem updEng_congr {e : Fin 16} {f g : Engine → Engine} {s : State} (h : f (getEng s e) = g (getEng s e)) :
    updEng e f s = updEng e g s := by
  have : updAt s.rows.engines e f = updAt s.rows.engines e g := congrArg (s.rows.engines.set e) h
  rw [updEng, updEng, this]

theorem updEng_updEng (e : Fin 16) (f g : Engine → Engine) (s : State) : updEng e f (updEng e g s) = updEng e (fun x => f (g x)) s := by
  simp [updEng, updAt]

theorem updEng_self {e : Fin 16} {f : Engine → Engine} {s : State} (h : f (getEng s e) = getEng s e) : updEng e f s = s := by
  rw [updEng, updAt_self _ _ _ h]

theorem sealEngine_eq (n : BitVec 64) {s : State} (h : s.rows.merges = []) (e : Fin 16) : sealEngine n s e = updEng e (sealed n) s := by
  have hm : engineMerged e n .ok (updEng e (withStep n markSealed) s) =
      updEng e (fun g => withStep n markMerged (withStep n markSealed g)) s := by rw [engineMerged_eq e n (by exact h), updEng_updEng]
  unfold sealEngine
  split
  · next x hx =>
    have hx : stepOf n (getEng s e) = some x := hx
    split
    · next hs => exact (updEng_self (by simp [sealed, hx, hs])).symm
    · next hs =>
      dsimp only
      split
      · next hk => exact hm.trans (updEng_congr (by simp [sealed, hx, hs, hk]))
      · next hk => exact updEng_congr (by simp only [sealed, hx, if_neg hs, if_neg hk]; rfl)
  · next hx =>
    have hx : stepOf n (getEng s e) = none := hx
    exact hm.trans (updEng_congr (by simp [sealed, hx]))

/-- Each element of a vector changed once by itself is the vector changed throughout. -/
theorem foldl_updAt {α : Type} {n : Nat} (f : α → α) (l : List (Fin n)) (hl : l.Nodup) : ∀ (v : Vector α n) (i : Fin n),
    (l.foldl (fun v e => updAt v e f) v)[i] = if i ∈ l then f v[i] else v[i] := by
  induction l with
  | nil => intro v i; simp
  | cons e l ih =>
    intro v i
    obtain ⟨he, hl⟩ := List.nodup_cons.mp hl
    rw [List.foldl_cons, ih hl]
    by_cases h : i = e
    · subst h
      have : (updAt v i f)[i] = f v[i] := by simp [updAt]
      simp [he, this]
    · have hne : e.val ≠ i.val := fun e' => h (Fin.ext e'.symm)
      have : (updAt v e f)[i] = v[i] := by simp [updAt, Vector.getElem_set_ne, hne]
      simp [h, this]

theorem foldl_updAt_finRange {α : Type} {n : Nat} (f : α → α) (v : Vector α n) :
    (List.finRange n).foldl (fun v e => updAt v e f) v = v.map f := by
  apply Vector.ext
  intro i hi
  rw [show ∀ v : Vector α n, v[i] = v[(⟨i, hi⟩ : Fin n)] from fun _ => rfl, foldl_updAt _ _ (List.nodup_finRange n)]
  simp

/-- The seal of a step on every engine: each is changed by itself. -/
theorem sealAll_eq (n : BitVec 64) (s : State) (h : s.rows.merges = []) :
    sealAll n s = { s with rows := { s.rows with engines := s.rows.engines.map (sealed n) } } := by
  have hl (l : List (Fin 16)) : ∀ s : State, s.rows.merges = [] → l.foldl (sealEngine n) s =
      { s with rows := { s.rows with engines := l.foldl (fun v e => updAt v e (sealed n)) s.rows.engines } } := by
    induction l with
    | nil => exact fun _ _ => rfl
    | cons e l ih => intro s h; rw [List.foldl_cons, sealEngine_eq n h, ih _ (by exact h)]; rfl
  rw [sealAll, hl _ s h, foldl_updAt_finRange]

/-- A command without a step starts by that alone (R29, R36). -/
theorem startCmd_of_step_none {s : State} {id : Nat} {k : Cmd} (hk : findCmd s id = some k) (hstep : k.step = none) :
    startCmd id s = { s with host := { s.host with
      cmds := mapIf (fun c => c.id == id) (fun c => { c with started := true }) s.host.cmds } } := by
  have : startsEarly s k.slot k.step = false := by simp [startsEarly, hstep]
  simp only [startCmd, hk, this, Bool.and_false, Bool.false_eq_true, if_false]

/-- The part of O6 on STEP_END. -/
theorem stepsSealed : Claims.StepsSealed := by
  intro s q c p h htag hform hp hopen hmerges
  have hop : slotOpcode c = 2 := reachesHead_opcode h
  have hstep : (enterCmd [] q c s).2.step = none := enterCmd_step_none (.inr hop) _ _ _
  have hp' : findStep s (stepNumOf c) = some p := hp
  have hpass : Passes stepEndRule.check 0x02 q c [] s s :=
    ⟨h, .inl ⟨by simp [stepEndRule, checks, firstFail, htag, hform, hp', hopen], rfl⟩, skippedByVerdict_of_step_none hstep _,
        reachesHead_free h⟩
  have hexec : execStepEnd q c s = .next (useTurn q (sealByEnd (enterCmd [] q c s).2 (enterCmd [] q c s).1)) := by
    rw [execStepEnd, commandAtHead_passes _ hpass (skippedByVerdict_of_step_none hstep _)]; rfl
  have hstart := startCmd_of_step_none (findCmd_enterCmd (reachesHead_free h) [] q c) hstep
  obtain ⟨host, clk, he⟩ := enterCmd_eq [] q c s
  obtain ⟨t, ht⟩ : ∃ t, t = startCmd s.host.nextCmd (enterCmd [] q c s).1 := ⟨_, rfl⟩
  have ht' : ∃ host clk, t = { s with host := host, clk := clk } := ⟨_, _, by rw [ht, hstart, he]⟩
  have hnum : p.num = stepNumOf c := by simpa using List.find?_some hp'
  have hseal : sealByEnd (enterCmd [] q c s).2 (enterCmd [] q c s).1 =
      sealAll (stepNumOf c) (updRecord p (fun r => { r with forced := bit c.pay 64 })
        (updStep (stepNumOf c)
            (fun p => { p with closedToWork := true, endCmd := some s.host.nextCmd, forceSkip := bit c.pay 64 }) t)) := by
    have hf : findStep (enterCmd [] q c s).1 (stepNumOf c) = some p := by rw [he]; exact hp'
    have hf' : findStep (enterCmd [] q c s).1 (stepNumOf (enterCmd [] q c s).2.slot) = some p := hf
    rw [ht]
    unfold sealByEnd
    simp only [hf']
    rfl
  rw [← ht]
  refine ⟨_, hexec, ?_⟩
  obtain ⟨host', clk', rfl⟩ := ht'
  rw [hseal, sealAll_eq]
  · refine ⟨rfl, rfl, fun e => ?_, fun e hnone => ?_, sameBut_rfl⟩
    · show (stepOf p.num (s.rows.engines.map (sealed (stepNumOf c)))[e]).map _ = _
      rw [Fin.getElem_fin, Vector.getElem_map, hnum]
      exact stepOf_sealed ..
    · show (stepOf p.num (s.rows.engines.map (sealed (stepNumOf c)))[e]).map _ = _
      rw [Fin.getElem_fin, Vector.getElem_map, hnum]
      rw [hnum] at hnone
      exact stepOf_sealed_of_none hnone
  · exact hmerges
end Sys2Proof.Machine
end

section
/-!
SUPPORT. STEP_CLOSE: the outcome takes effect and the step leaves (R41, R42).
-/
namespace Sys2Proof.Machine

/-! ### A step leaves -/

/-- A step leaves and its STEP_END completes: of the train the steps and what is remembered of past ones, of the host interface the
commands, the records and the queue's fence (R41). -/
theorem leaveStep_eq {s : State} {p : Step} {k : Cmd} (failed : Bool) (hend : p.endCmd = some k.id) (hk : findCmd s k.id = some k)
    (hop : slotOpcode k.slot = 0x02) (hstep : k.step = none) (hredo : k.redo = false) :
    ∃ sqs past, leaveStep p failed s = { s with
      train := { s.train with steps := s.train.steps.filter fun q => q.num != p.num, past := past },
      host := { s.host with
        cmds := s.host.cmds.filter fun x => x.id ≠ k.id
        sqs := sqs
        done := s.host.done ++ [recordOf k (closeStatus p p.outcome) (closeDetail p failed)] } } := by
  have hw : ofWalker k.slot = false := by simp [ofWalker, hop]
  unfold leaveStep
  extract_lets past runs t u
  rw [hend]
  show ∃ sqs past, completeCmd k.id _ _ u = _
  rw [completeCmd_eq_retire _ (show findCmd u k.id = some k from hk) (.inr ⟨hstep, hw⟩), retire, if_neg (by simp [hredo])]
  exact ⟨_, _, rfl⟩

theorem runHeld_of_quiet {s : State} (h : Quiet s) : runHeld s = s := by
  have : (s.host.cmds.filter fun k => isInstant (slotOpcode k.slot)) = [] := by
    rw [List.filter_eq_nil_iff]
    exact fun k hk => by simp [h k hk]
  rw [runHeld, this]; rfl

theorem reinitGo_of_running {s : State} (h : s.host.dev = .running) : reinitGo s = s := by simp [reinitGo, h]

theorem quiet_filter {s u : State} {p : Cmd → Bool} (h : Quiet s) (hu : u.host.cmds = s.host.cmds.filter p) : Quiet u := by
  intro k hk
  rw [hu] at hk
  exact h k (List.mem_of_mem_filter hk)

/-! ### What a close leaves of the row engines -/

theorem foldl_updEng (f : Engine → Engine) (s : State) :
    (List.finRange 16).foldl (fun s e => updEng e f s) s = { s with rows := { s.rows with engines := s.rows.engines.map f } } := by
  have hl (l : List (Fin 16)) : ∀ s : State, l.foldl (fun s e => updEng e f s) s =
      { s with rows := { s.rows with engines := l.foldl (fun v e => updAt v e f) s.rows.engines } } := by
    induction l with
    | nil => exact fun _ => rfl
    | cons e l ih => exact fun s => ih _
  rw [hl, foldl_updAt_finRange]

/-- An engine without what it kept for step `n`. -/
def withoutStep (n : BitVec 64) (g : Engine) : Engine := { g with steps := g.steps.filter fun x => x.step != n }

theorem rowsCloseStep_eq (n : BitVec 64) (s : State) : rowsCloseStep n s = { s with rows := { s.rows with
    engines := s.rows.engines.map (withoutStep n), batches := s.rows.batches.filter fun b => b.step != some n } } := by
  exact congrArg (fun s : State => { s with rows := { s.rows with batches := s.rows.batches.filter fun b => b.step != some n } })
    (foldl_updEng (withoutStep n) s)

/-! ### TORN -/

/-- What a TORN step's rows and entries change, where `P` says of which bytes of T1 they are none (R42). -/
structure Tears (P : Nat → Prop) (s u : State) : Prop where
  parts : SameBut [.rows, .tile, .mem, .free] s u
  stopped : u.rows.drainStopped = s.rows.drainStopped
  obj : u.rows.obj = s.rows.obj
  shards : ∀ t, (getTile u t).shards = (getTile s t).shards
  requests : u.mem.requests = s.mem.requests
  xlate : u.mem.xlate = s.mem.xlate
  bytes : memWf s.mem.t1 = true → memWf u.mem.t1 = true ∧ ∀ a, P a → memByte u.mem.t1 a = memByte s.mem.t1 a

theorem Tears.refl (P : Nat → Prop) (s : State) :
    Tears P s s := ⟨sameBut_refl .., rfl, rfl, fun _ => rfl, rfl, rfl, fun h => ⟨h, fun _ _ => rfl⟩⟩

theorem Tears.trans {P : Nat → Prop} {s u v : State} (h : Tears P s u) (k : Tears P u v) : Tears P s v :=
  ⟨sameBut_trans h.parts k.parts, k.stopped.trans h.stopped, k.obj.trans h.obj, fun t => (k.shards t).trans (h.shards t),
    k.requests.trans h.requests, k.xlate.trans h.xlate, fun hw =>
      have ⟨hu, hb⟩ := h.bytes hw
      have ⟨hv, hc⟩ := k.bytes hu
      ⟨hv, fun a ha => (hc a ha).trans (hb a ha)⟩⟩

theorem Tears.foldl {α : Type} {P : Nat → Prop} {f : State → α → State} {l : List α} (h : ∀ s, ∀ x ∈ l, Tears P s (f s x)) (s : State) :
    Tears P s (l.foldl f s) := by
  induction l generalizing s with
  | nil => exact .refl P s
  | cons x l ih => exact (h s x (by simp)).trans (ih (fun s y hy => h s y (by simp [hy])) _)

theorem Tears.of_eq {P : Nat → Prop} {s u : State} (parts : SameBut [.rows, .tile, .mem, .free] s u)
    (hstop : u.rows.drainStopped = s.rows.drainStopped) (hobj : u.rows.obj = s.rows.obj)
    (hshards : ∀ t, (getTile u t).shards = (getTile s t).shards) (hreq : u.mem.requests = s.mem.requests) (hx : u.mem.xlate = s.mem.xlate)
    (ht1 : u.mem.t1 = s.mem.t1) : Tears P s u :=
  ⟨parts, hstop, hobj, hshards, hreq, hx, fun h => by rw [ht1]; exact ⟨h, fun _ _ => rfl⟩⟩

theorem placeWrite_tears {P : Nat → Prop} {a : Nat} {d : Data} (h : ∀ x, P x → x < a ∨ a + d.length ≤ x) (s : State) :
    Tears P s (placeWrite a d s) := by
  have hplace (b : Nat) (hb : place a = .stack b) : b = a := by
    unfold place at hb
    split at hb
    · exact (Place.stack.inj hb).symm
    · dsimp only at hb; (repeat' split at hb) <;> cases hb
  unfold placeWrite
  split
  · next b hb =>
    obtain rfl := hplace b hb
    refine ⟨sameBut_rfl, rfl, rfl, fun _ => rfl, rfl, rfl, fun hw => ?_⟩
    refine ⟨memWf_memWrite _ _ hw, fun x hx => ?_⟩
    show memByte (memWrite s.mem.t1 b d) x = _
    rw [memByte_memWrite _ _ _ hw, if_neg]
    have := h x hx
    omega
  · next t off _ =>
    refine .of_eq (sameBut_weaken (sameBut_updTile ..) (by simp)) rfl rfl (fun t' => ?_) rfl rfl rfl
    rw [getTile_updTile]
    split
    · next h => rw [h]
    · rfl
  · exact .of_eq sameBut_rfl rfl rfl (fun _ => rfl) rfl rfl rfl
  · exact .refl P s

theorem freeData_length (key n : Nat) : (freeData key n).length = n := by simp [freeData, clean]

theorem tearRows_tears (n : BitVec 64) (s : State) :
    Tears (fun a => ∀ x ∈ tornPlaces s n, a < x.1 ∨ x.1 + x.2 ≤ a) s (tearRows n s) := by
  have free {P : Nat → Prop} (t : State) (k : Nat) : Tears P t { t with free := k } :=
    .of_eq sameBut_rfl rfl rfl (fun _ => rfl) rfl rfl rfl
  have rows {P : Nat → Prop} (t : State) (k : Nat) (r : Vector Mem 16) :
      Tears P t { t with free := k, mem := { t.mem with rowStore := r } } :=
    .of_eq sameBut_rfl rfl rfl (fun _ => rfl) rfl rfl rfl
  have eng {P : Nat → Prop} (t : State) (e : Fin 16) (f : Engine → Engine) : Tears P t (updEng e f t) :=
    .of_eq sameBut_rfl rfl rfl (fun _ => rfl) rfl rfl rfl
  unfold tearRows
  extract_lets tearAt tearCopies tearBody u v
  have hplaces := Tears.foldl (P := fun a => ∀ x ∈ tornPlaces s n, a < x.1 ∨ x.1 + x.2 ≤ a) (f := tearAt) (l := tornPlaces s n)
    (fun t x hx => (placeWrite_tears (fun a ha => by rw [freeData_length]; exact ha x hx) t).trans (free _ (t.free + 1))) s
  have hcopies : Tears (fun a => ∀ x ∈ tornPlaces s n, a < x.1 ∨ x.1 + x.2 ≤ a) s u :=
    hplaces.trans (Tears.foldl (f := tearCopies) (fun t x _ => rows t (t.free + 1) _) _)
  have hengines : Tears (fun a => ∀ x ∈ tornPlaces s n, a < x.1 ∨ x.1 + x.2 ≤ a) s v :=
    hcopies.trans (Tears.foldl (fun t e _ => eng t e _) u)
  exact hengines.trans (free v (v.free + 1))

/-! ### STEP_CLOSE -/

/-- A step that has cast its vote contributes no more. -/
theorem contribute_of_voteSent {s : State} {n : BitVec 64} {p : Step} (hp : findStep s n = some p) (h : p.voteSent = true) :
    contribute n s = s := by
  simp [contribute, hp, contribution, h]

theorem endCmds_nil (s : State) : endCmds [] s = s := by
  show endAll (s.host.cmds.length + 0) [] s = s
  cases s.host.cmds.length <;> rfl

theorem unmarkShards_eq (n : BitVec 64) (s : State) : ∃ t, unmarkShards n s = { s with tile := t } := ⟨_, rfl⟩

theorem unmarkShards_sel (n : BitVec 64) (s : State) (t : Fin 128) (k : Fin 64) :
    (getTile (unmarkShards n s) t).shards[k].sel = (getTile s t).shards[k].sel := by
  simp [unmarkShards, getTile]

/-- What a step's rows and entries are does not follow the shards, nor whether the drain stops and an import is due. -/
theorem tornPlaces_congr (s : State) (t : TileSys) (d : Option DrainStop) (o : RowObjects) (n : BitVec 64) :
    tornPlaces { s with tile := t, rows := { s.rows with drainStopped := d, obj := o } } n = tornPlaces s n := rfl

/-- What an outcome does to the rest of the module beside the step's marks (R28, R42). -/
structure OutcomeApplied (p : Step) (o : StepOutcome) (s u : State) : Prop where
  train : u.train = s.train
  host : u.host = s.host
  stopped : u.rows.drainStopped = if o = .torn then (stopDrain .internal (tornTables s p.num) s).rows.drainStopped else s.rows.drainStopped
  restore : u.rows.obj.restoreRequired = (s.rows.obj.restoreRequired || decide (o = .torn))
  sel : ∀ (t : Fin 128) (k : Fin 64), (getTile u t).shards[k].sel = (getTile s t).shards[k].sel
  parts : o ≠ .torn → SameBut [.num, .tile] s u
  torn : o = .torn → SameBut [.rows, .tile, .mem, .free] s u ∧ u.mem.requests = s.mem.requests ∧ u.mem.xlate = s.mem.xlate ∧
    (memWf s.mem.t1 = true → ∀ a, (∀ x ∈ tornPlaces s p.num, a < x.1 ∨ x.1 + x.2 ≤ a) → memByte u.mem.t1 a = memByte s.mem.t1 a)

/-- An outcome but SKIPPED and TORN has unmarked the shards, and no more. -/
theorem outcomeApplied_unmark (p : Step) {o : StepOutcome} (ho : o ≠ .torn) {s : State} (num : Numerics) :
    OutcomeApplied p o s { unmarkShards p.num s with num := num } := by
  refine ⟨rfl, rfl, ?_, ?_, unmarkShards_sel p.num s, fun _ => ?_, fun h => absurd h ho⟩
  · rw [if_neg ho]; rfl
  · simp only [decide_eq_false ho, Bool.or_false]; rfl
  · exact sameBut_rfl

/-- TORN stops the drain for the step's tables, asks for an import, and tears the step's rows and entries (R42, R229). -/
theorem outcomeApplied_torn (p : Step) {s : State} (h : unstartedOf p.num s = []) :
    OutcomeApplied p .torn s (applyOutcome p .torn s) := by
  have hsel := unmarkShards_sel p.num s
  obtain ⟨t, ht⟩ := unmarkShards_eq p.num s
  rw [ht] at hsel
  obtain ⟨halt, hhalt⟩ : ∃ u : State, u = { s with tile := t, rows := { s.rows with
      drainStopped := (stopDrain .internal (tornTables s p.num) s).rows.drainStopped,
      obj := { s.rows.obj with restoreRequired := true } } } := ⟨_, rfl⟩
  have htears := tearRows_tears p.num halt
  have happly : applyOutcome p .torn s = tearRows p.num halt := by
    have hnone : unstartedOf p.num (tearRows p.num halt) = [] := by
      have : (tearRows p.num halt).host = s.host := by rw [htears.parts.2 .host (by decide), hhalt]
      rw [unstartedOf, this]; exact h
    have : applyOutcome p .torn s = endUnstartedOf p.num (tearRows p.num halt) := by
      rw [hhalt]; unfold applyOutcome; rw [ht]; rfl
    rw [this, endUnstartedOf, hnone, endCmds_nil]
  rw [happly]
  have hplaces : tornPlaces halt p.num = tornPlaces s p.num := by rw [hhalt]; exact tornPlaces_congr ..
  have hsame : SameBut [.rows, .tile, .mem, .free] s halt := by
    rw [hhalt]; exact sameBut_rfl
  refine ⟨?_, ?_, ?_, ?_, fun t' k => ?_, fun h => absurd rfl h, fun _ => ⟨sameBut_trans hsame htears.parts, ?_, ?_, fun hw a ha => ?_⟩⟩
  · rw [htears.parts.2 .train (by decide), hhalt]
  · rw [htears.parts.2 .host (by decide), hhalt]
  · rw [htears.stopped, hhalt]; rfl
  · rw [htears.obj, hhalt]; simp
  · rw [htears.shards, hhalt]; exact hsel t' k
  · rw [htears.requests, hhalt]
  · rw [htears.xlate, hhalt]
  · rw [← hplaces] at ha
    have hw' : memWf halt.mem.t1 = true := by rw [hhalt]; exact hw
    rw [(htears.bytes hw').2 a ha, hhalt]

theorem applyOutcome_applied (p : Step) (o : StepOutcome) {s : State} (h : unstartedOf p.num s = []) :
    OutcomeApplied p o s (applyOutcome p o s) := by
  cases o with
  | torn => exact outcomeApplied_torn p h
  | skipped =>
    unfold applyOutcome
    dsimp only
    split
    · exact outcomeApplied_unmark p (by decide) _
    · exact outcomeApplied_unmark p (by decide) _
  | committed | aborted | held | stillOpen => exact outcomeApplied_unmark p (by decide) _

/-- A phase record as the close of a step leaves it (R54). -/
def closedRecord (p : Step) (o : StepOutcome) (r : PhaseRec) : PhaseRec :=
  { r with
    outcome := o, publishFailed := o == .committed && p.publishFail.isSome, earlyUsed := !p.earlies.isEmpty,
    earlyRedos := min (p.earlies.filter fun e => e.counted).length 65535 }

/-- The state in which a closing step's record and the counter of its outcome are written. -/
def outcomeRecorded (p : Step) (o : StepOutcome) (s : State) : State :=
  updRecord p (closedRecord p o) { s with train := countOutcome o s.train }

/-- A close without a record (R41): the outcome is recorded and takes effect, and the step leaves. -/
theorem closeStep_eq (p : Step) (o : StepOutcome) (s : State) (h : p.record = false) :
    closeStep p o s = reinitGo (runHeld (leaveStep { p with outcome := o, state := .closed } false
      (updStep p.num (fun q => { q with state := .closed, outcome := o })
          (rowsCloseStep p.num (applyOutcome p o (outcomeRecorded p o s)))))) := by
  unfold closeStep
  extract_lets n final u v w p' x y
  have hy : y = leaveStep p' false w := if_pos (by simp [p', h])
  rw [hy]
  rfl

/-- The train of a step's close: one outcome is counted, and the steps and LAST_COMMITTED_STEP stand. -/
theorem countOutcome_counts (o : StepOutcome) (t : Train) : ∃ c : Train, countOutcome o t = c ∧ c.steps = t.steps ∧ c.ring = t.ring ∧
    c.lastCommitted = t.lastCommitted ∧ c.stepsCommitted = (if o = .committed then addSat t.stepsCommitted 1 else t.stepsCommitted) ∧
    c.stepsSkipped = (if o = .skipped then addSat t.stepsSkipped 1 else t.stepsSkipped) ∧
    c.stepsAborted = (if o = .aborted ∨ o = .held then addSat t.stepsAborted 1 else t.stepsAborted) ∧
    c.stepsTorn = (if o = .torn then addSat t.stepsTorn 1 else t.stepsTorn) := by
  cases o <;> exact ⟨_, rfl, rfl, rfl, rfl, rfl, rfl, rfl, rfl⟩

/-- A step that has left is found no more. -/
theorem find_filter_num (n : BitVec 64) (l : List Step) : (l.filter fun q => q.num != n).find? (fun p => p.num == n) = none := by
  rw [List.find?_eq_none]
  intro x hx
  simpa using (List.mem_filter.mp hx).2

/-- A step that leaves takes with it what was written to it. -/
theorem filter_mapIf_num (n : BitVec 64) (f : Step → Step) (hf : ∀ x, (f x).num = x.num) (l : List Step) :
    (mapIf (fun p => p.num == n) f l).filter (fun q => q.num != n) = l.filter fun q => q.num != n := by
  induction l with
  | nil => rfl
  | cons x l ih =>
    simp only [mapIf, List.map_cons] at ih ⊢
    by_cases hx : x.num = n
    · simpa [hx, hf] using ih
    · simpa [hx] using ih

/-- The part of O6 on STEP_CLOSE. -/
theorem stepsClose : Claims.StepsClose := by
  intro s n p o k hp hvote hclose hunstarted hrec hend hk hop hstep hredo hdev hquiet
  have hnum : p.num = n := by simpa using List.find?_some hp
  subst hnum
  have hexec : execStepClose p.num s = .next (closeStep p o s) := by
    simp only [execStepClose, contribute_of_voteSent hp hvote, hp, hclose]; rfl
  obtain ⟨c, hc, hcsteps, hcring, hclast, hcc, hcs, hca, hct⟩ := countOutcome_counts o s.train
  obtain ⟨s1, hs1⟩ : ∃ v, v = outcomeRecorded p o s := ⟨_, rfl⟩
  have hs1eq : s1 = { s with train := { c with ring := updAt s.train.ring (ringSlot p.ring) (closedRecord p o) } } := by
    rw [hs1, ← hcring, ← hc]; rfl
  have happ := applyOutcome_applied p o (s := s1) (by
    have : s1.host = s.host := by rw [hs1eq]
    rw [unstartedOf, this, hunstarted]; rfl)
  obtain ⟨s2, hs2⟩ : ∃ v, v = applyOutcome p o s1 := ⟨_, rfl⟩
  rw [← hs2] at happ
  obtain ⟨s3, hs3⟩ : ∃ v, v = updStep p.num (fun q => { q with state := .closed, outcome := o }) (rowsCloseStep p.num s2) := ⟨_, rfl⟩
  have hs3host : s3.host = s.host := by rw [hs3, rowsCloseStep_eq]; exact happ.host.trans (by rw [hs1eq])
  obtain ⟨sqs, past, hleave⟩ := leaveStep_eq (s := s3) (p := { p with outcome := o, state := .closed }) false hend
    (by rw [findCmd, hs3host]; exact hk) hop hstep hredo
  refine ⟨_, hexec, ?_⟩
  rw [closeStep_eq p o s hrec, ← hs1, ← hs2, ← hs3, hleave, runHeld_of_quiet, reinitGo_of_running]
  · have hs3train : s3.train = { c with
        ring := updAt s.train.ring (ringSlot p.ring) (closedRecord p o)
        steps := mapIf (fun q => q.num == p.num) (fun q => { q with state := .closed, outcome := o }) s.train.steps } := by
      have : s2.train = { c with ring := updAt s.train.ring (ringSlot p.ring) (closedRecord p o) } := by rw [happ.train, hs1eq]
      rw [hs3, rowsCloseStep_eq, updStep]
      simp only [this, hcsteps]
    have hs3tile : s3.tile = s2.tile := by rw [hs3, rowsCloseStep_eq]; rfl
    have hs3stop : s3.rows.drainStopped = s2.rows.drainStopped := by rw [hs3, rowsCloseStep_eq]; rfl
    have hs3obj : s3.rows.obj = s2.rows.obj := by rw [hs3, rowsCloseStep_eq]; rfl
    have hs3mem : s3.mem = s2.mem := by rw [hs3, rowsCloseStep_eq]; rfl
    have hs3same : SameBut [.train, .rows] s2 s3 := by
      rw [hs3, rowsCloseStep_eq]; exact sameBut_rfl
    have hs3eng (e : Fin 16) : getEng s3 e = withoutStep p.num (getEng s2 e) := by
      rw [hs3, rowsCloseStep_eq]; exact Vector.getElem_map ..
    have hs1same : SameBut [.train] s s1 := by rw [hs1eq]; exact sameBut_rfl
    refine ⟨?_, ?_, ⟨?_, ?_⟩, ?_, fun i hi => ?_, ?_, ?_, ?_, ?_, ?_, ?_, ?_, fun e x hx => ?_, fun t k => ?_, fun ho => ?_,
        fun ho hw => ?_⟩
    · exact find_filter_num ..
    · show s3.train.steps.filter _ = _
      rw [hs3train]; exact filter_mapIf_num p.num (fun q => { q with state := .closed, outcome := o }) (fun _ => rfl) _
    · show s3.host.cmds.filter _ = _
      rw [hs3host]
    · show s3.host.done ++ _ = _
      rw [hs3host, hredo]; rfl
    · show s3.train.ring[ringSlot p.ring].outcome = o
      rw [hs3train, updAt_same]; rfl
    · show s3.train.ring[i] = _
      rw [hs3train, updAt_other _ hi]
    · show s3.train.lastCommitted = _
      rw [hs3train]; exact hclast
    · show s3.train.stepsCommitted = _
      rw [hs3train]; exact hcc
    · show s3.train.stepsSkipped = _
      rw [hs3train]; exact hcs
    · show s3.train.stepsAborted = _
      rw [hs3train]; exact hca
    · show s3.train.stepsTorn = _
      rw [hs3train]; exact hct
    · show s3.rows.drainStopped = _
      rw [hs3stop, happ.stopped, hs1eq]; rfl
    · show s3.rows.obj.restoreRequired = _
      rw [hs3obj, happ.restore, hs1eq]
    · have hx : x ∈ (getEng s3 e).steps := hx
      rw [hs3eng] at hx
      simpa using (List.mem_filter.mp hx).2
    · show (getTile s3 t).shards[k].sel = _
      rw [getTile, hs3tile]
      exact (happ.sel t k).trans (by rw [hs1eq]; rfl)
    · refine sameBut_trans (u := s3) ?_ sameBut_rfl
      exact sameBut_trans (sameBut_weaken hs1same (by simp))
          (sameBut_trans (sameBut_weaken (happ.parts ho) (by simp)) (sameBut_weaken hs3same (by simp)))
    · obtain ⟨hparts, hreq, hxlate, hbytes⟩ := happ.torn ho
      have hs1mem : s1.mem = s.mem := by rw [hs1eq]
      have hplaces : tornPlaces s1 p.num = tornPlaces s p.num := by rw [hs1eq]; rfl
      refine ⟨sameBut_trans (u := s3) ?_ sameBut_rfl, fun a ha => ?_, ?_, ?_⟩
      · exact sameBut_trans (sameBut_weaken hs1same (by simp))
          (sameBut_trans (sameBut_weaken hparts (by simp)) (sameBut_weaken hs3same (by simp)))
      · show memByte s3.mem.t1 a = _
        rw [hs3mem, hbytes (by rw [hs1mem]; exact hw) a (by rw [hplaces]; exact ha), hs1mem]
      · show s3.mem.requests = _
        rw [hs3mem, hreq, hs1mem]
      · show s3.mem.xlate = _
        rw [hs3mem, hxlate, hs1mem]
  · exact hs3host ▸ hdev
  · exact quiet_filter hquiet (by rw [← hs3host])
end Sys2Proof.Machine
end

section
/-!
SUPPORT. RECORD_WRITE_ACK (R54), and with it the seal and the close of a step (O6).
-/
namespace Sys2Proof.Machine

/-! ### RECORD_WRITE_ACK -/

/-- The accesses of a holder are forgotten in the memory system alone. -/
theorem ioForget_eq (who key : Nat) (s : State) : ∃ m, ioForget who key s = { s with mem := m } := by
  have hl (l : List IoPiece) : ∀ s : State, ∃ m, l.foldl (fun s p => orphanReq .nobody p.req s) s = { s with mem := m } := by
    induction l with
    | nil => exact fun s => ⟨s.mem, rfl⟩
    | cons p l ih =>
      intro s
      obtain ⟨m, hm⟩ := ih (orphanReq .nobody p.req s)
      refine ⟨m, hm.trans ?_⟩
      have : ∃ m, orphanReq .nobody p.req s = { s with mem := m } := by
        unfold orphanReq
        split
        · exact ⟨s.mem, rfl⟩
        · split
          · exact ⟨_, rfl⟩
          · exact ⟨_, rfl⟩
      obtain ⟨m', hm'⟩ := this
      rw [hm']
  obtain ⟨m, hm⟩ := hl (s.mem.io.filter fun p => p.who == who && p.key == key) s
  unfold ioForget
  simp only [hm]
  exact ⟨_, rfl⟩

/-- A closed step whose record write has ended leaves with what STEP_END answers, from the state after its last access. -/
theorem leaveStep_acknowledged {s v : State} {n : BitVec 64} {p : Step} {k : Cmd} {failed : Bool} (hp : findStep s n = some p)
    (hend : p.endCmd = some k.id) (hop : slotOpcode k.slot = 0x02) (hstep : k.step = none) (hredo : k.redo = false)
        (hk : findCmd v k.id = some k) :
    ∃ u, leaveStep p failed v = u ∧ findStep u n = none ∧ Completes k (closeStatus p p.outcome) (closeDetail p failed) v u ∧
      u.train.recordWriteFail = v.train.recordWriteFail ∧ u.train.ring = v.train.ring ∧ SameBut [.train, .host] v u := by
  have hnum : p.num = n := by simpa using List.find?_some hp
  obtain ⟨sqs, past, h⟩ := leaveStep_eq failed hend hk hop hstep hredo
  refine ⟨_, h, hnum ▸ find_filter_num .., ⟨rfl, by rw [hredo]; rfl⟩, rfl, rfl, sameBut_rfl⟩

theorem recordsAcknowledged : Claims.RecordsAcknowledged := by
  intro s s1 n p key k r hp hwait hwrite hend hk hop hstep hredo
  obtain ⟨m, hm⟩ := ioForget_eq whoFront key s1
  have hwrite' : writePhaseRecord p s = (s1, r) := hwrite
  have hfound : ∀ v : State, v.host = s1.host → findCmd v k.id = some k := fun v hv => by rw [findCmd, hv]; exact hk
  refine ⟨fun ds hr => ?_, fun st hr => ?_⟩
  · obtain ⟨u, hu, hgone, hdone, hfail, hring, hsame⟩ :=
      leaveStep_acknowledged (v := { s1 with mem := m }) (failed := false) hp hend hop hstep hredo (hfound _ rfl)
    have hexec : execRecordWriteAck n true s = .next u := by
      simp only [execRecordWriteAck, hp, hwait, hwrite', hr, hm, hu]; rfl
    exact ⟨u, hexec, hgone, hdone, hfail, hring,
      sameBut_trans (u := { s1 with mem := m }) sameBut_rfl
        (sameBut_weaken hsame (by simp))⟩
  · obtain ⟨u, hu, hgone, hdone, hfail, hring, hsame⟩ :=
      leaveStep_acknowledged (v := countRecordFail { s1 with mem := m }) (failed := true) hp hend hop hstep hredo (hfound _ rfl)
    have hexec : execRecordWriteAck n false s = .next u := by
      simp only [execRecordWriteAck, hp, hwait, hwrite', hr, hm, hu]; rfl
    exact ⟨u, hexec, hgone, hdone, hfail, hring,
      sameBut_trans (u := countRecordFail { s1 with mem := m }) sameBut_rfl
        (sameBut_weaken hsame (by simp))⟩

/-- Settles O6: STEP_END seals, STEP_CLOSE closes, and the end of a record's write completes STEP_END. -/
theorem stepsSealAndClose : Obligations.StepsSealAndClose := ⟨stepsSealed, stepsClose, recordsAcknowledged⟩
end Sys2Proof.Machine
end

section
/-!
SUPPORT. The local commit sequence: COMMIT_START, COMMIT_LOG_WAIT_END and LOCAL_COMMIT_COMPLETE (R39, R230; O7).
-/
namespace Sys2Proof.Machine

/-! ### Steps of the train, one by one -/

theorem findStep_updStep {n : BitVec 64} {f : Step → Step} (hf : ∀ x, (f x).num = x.num) (s : State) :
    findStep (updStep n f s) n = (findStep s n).map f := mapIf_find _ f (by simp [hf]) s.train.steps

/-! ### COMMIT_START and COMMIT_LOG_WAIT_END -/

/-- Item 1 with nothing to defer and no bound to wait for is done at once (R230). -/
theorem commitItem1_done {s : State} {n : BitVec 64} {p : Step} (hp : findStep s n = some p) (hexport : exportWaits s n = false)
    (hdefer : ∀ e, nextToDefer s e n = none) (hbound : boundWaits s n = false) :
    commitItem1 n s = updStep n (fun p => { p with item := .item2 }) s := by
  have hall (l : List (Fin 16)) : l.foldl (fun s e => deferAll (entryCount s n + 1) e n (stepClip p) s) s = s := by
    induction l with
    | nil => rfl
    | cons e l ih => rw [List.foldl_cons, show deferAll (entryCount s n + 1) e n (stepClip p) s = s by simp [deferAll, hdefer]]; exact ih
  unfold commitItem1
  simp [hp, hexport, hall, hdefer, hbound]

/-- The step after item 1 has ended: it is in item 2, and only the train has moved. -/
theorem commitItem1_item2 {s v : State} {n : BitVec 64} {p : Step} (hp : findStep v n = some p) (hstate : p.state = .committing)
    (hexport : exportWaits v n = false) (hdefer : ∀ e, nextToDefer v e n = none) (hbound : boundWaits v n = false)
    (hlast : v.train.lastCommitted = s.train.lastCommitted) (hsame : SameBut [.train] s v) :
    (findStep (commitItem1 n v) n).map (fun p => (p.state, p.item)) = some (.committing, .item2) ∧
      (∀ t, getTile (commitItem1 n v) t = getTile s t) ∧ (commitItem1 n v).train.lastCommitted = s.train.lastCommitted ∧
      SameBut [.train] s (commitItem1 n v) := by
  rw [commitItem1_done hp hexport hdefer hbound]
  refine ⟨?_, fun t => ?_, hlast, sameBut_trans hsame sameBut_rfl⟩
  · rw [findStep_updStep (by exact fun _ => rfl), hp]; simp [hstate]
  · exact congrArg (fun x : TileSys => x.tiles[t]) (hsame.2 .tile (by decide))

/-! ### LOCAL_COMMIT_COMPLETE -/

/-- A shard as the end of item 2 leaves it: one that the step has marked turns over (R39). -/
def flipped (n : BitVec 64) (x : Shard) : Shard :=
  if x.marks.contains n then { x with sel := !x.sel, marks := x.marks.filter fun m => m != n } else x

theorem getTile_flipShards (n : BitVec 64) (s : State) (t : Fin 128) :
    getTile (flipShards n s) t = { getTile s t with shards := (getTile s t).shards.map (flipped n) } := Vector.getElem_map ..

/-- Settles O7: where nothing holds item 1 back it ends at once, and item 2 ends with the shards, the number and the loss scale. -/
theorem stepsCommit : Obligations.StepsCommit := by
  intro s n p hp item2
  refine ⟨fun hmay hexport hdefer hbound => ?_, fun hstate hitem htorn hexport hdefer hbound => ?_,
      fun hstate hitem htorn happlied hquiet => ?_⟩
  · have hp' : findStep (updStep n (fun p => { p with state := .committing }) s) n = some { p with state := .committing } := by
      rw [findStep_updStep (by exact fun _ => rfl), hp]; rfl
    obtain ⟨h1, h2, h3, h4⟩ := commitItem1_item2 (s := s) hp' rfl hexport hdefer hbound rfl sameBut_rfl
    refine ⟨commitItem1 n (updStep n (fun p => { p with state := .committing }) s), ?_, ⟨h1, h2, h3⟩, h4⟩
    show execCommitStart n s = _
    simp only [execCommitStart, hp, if_pos hmay]; rfl
  · obtain ⟨h1, h2, h3, h4⟩ := commitItem1_item2 (s := s) hp hstate hexport hdefer hbound rfl (sameBut_refl ..)
    refine ⟨commitItem1 n s, ?_, ⟨h1, h2, h3⟩, h4⟩
    show execCommitLogWaitEnd n s = _
    simp [execCommitLogWaitEnd, hp, hstate, hitem, htorn, go]
  · obtain ⟨u, hu⟩ : ∃ u, u = updStep n (fun p => { p with state := .publishing, item := .done })
      { flipShards n s with num := growScale s.num, train := { s.train with lastCommitted := n } } := ⟨_, rfl⟩
    have hexec : execLocalCommitComplete n s = .next u := by
      have : finishCommit n s = u := by rw [hu]; exact runHeld_of_quiet hquiet
      simp [execLocalCommitComplete, hp, hstate, hitem, htorn, happlied, go, this]
    have htile (t : Fin 128) : getTile u t = { getTile s t with shards := (getTile s t).shards.map (flipped n) } := by
      rw [hu]; exact getTile_flipShards n s t
    refine ⟨u, hexec, ?_, ?_, ?_, fun t k => ?_, fun t => ?_, ?_⟩
    · rw [hu, findStep_updStep (by exact fun _ => rfl)]
      show Option.map _ (Option.map _ (findStep s n)) = _
      rw [hp]; rfl
    · rw [hu]; rfl
    · rw [hu]; rfl
    · rw [htile]; exact Vector.getElem_map ..
    · rw [htile]; exact ⟨rfl, rfl, rfl⟩
    · rw [hu]; exact sameBut_rfl
end Sys2Proof.Machine
end

section
/-!
SUPPORT. VERDICT_CONTRIBUTION (R31, R45, R333 to R335; O8).
-/
namespace Sys2Proof.Machine

/-! ### A contribution that is due -/

/-- The exchange that a contribution of step `p` begins (R333). -/
def newExchange (s : State) (p : Step) (n : BitVec 64) (own : NormTerm) (vote : Bool) : Exchange :=
  { step := n, group := p.group, own := some own, vote := vote, dueAt := s.now, upSent := false, done := false }

/-- The state in which step `n` has cast its vote and its exchange has begun. -/
def withVote (s : State) (n : BitVec 64) (x : Exchange) : State :=
  { updStep n (fun p => { p with voteSent := true }) s with
    links := { s.links with exchanges := s.links.exchanges.filter (fun y => y.step != n) ++ [x] } }

theorem contribute_eq {s : State} {n : BitVec 64} {p : Step} {own : NormTerm} {vote : Bool} (hp : findStep s n = some p)
    (hc : contribution s p = some (own, vote)) :
    contribute n s = if (findGroup s p.group.toNat).isNone then failExchange n .peerUnreachable (withVote s n (newExchange s p n own vote))
      else pumpVerdict n (withVote s n (newExchange s p n own vote)) := by
  unfold contribute
  simp only [hp, hc]
  rfl

/-- The exchange that has begun is the one that goes on. -/
theorem find_newExchange (s : State) (p : Step) (n : BitVec 64) (own : NormTerm) (vote : Bool) :
    (withVote s n (newExchange s p n own vote)).links.exchanges.find? (fun x => x.step == n && !x.done) =
        some (newExchange s p n own vote) := by
  have hold : (s.links.exchanges.filter fun y => y.step != n).find? (fun x => x.step == n && !x.done) = none := by
    rw [List.find?_eq_none]
    intro x hx
    have := (List.mem_filter.mp hx).2
    simp_all
  show (s.links.exchanges.filter (fun y => y.step != n) ++ [newExchange s p n own vote]).find? _ = _
  rw [List.find?_append, hold]
  simp [newExchange]

/-- The totals wait for a child that has not reported (R334). -/
theorem childTotals_none {s : State} {x : Exchange} {nodes : List Nat}
    (h : ∃ d ∈ nodes, (s.links.msgs.find? fun m => forExchange x false m && m.node.toNat == d) = none) : childTotals s x nodes = none := by
  induction nodes with
  | nil => simp at h
  | cons d ds ih =>
    obtain ⟨d', hd', hnone⟩ := h
    have hcons : childTotals s x (d :: ds) =
        match childTotals s x ds, s.links.msgs.find? fun m => forExchange x false m && m.node.toNat == d with
        | some ms, some m => some (m :: ms)
        | _, _ => none := rfl
    rw [hcons]
    rcases List.mem_cons.mp hd' with rfl | hd'
    · rw [hnone]; cases childTotals s x ds <;> rfl
    · rw [ih ⟨d', hd', hnone⟩]

section
variable {s : State} {n : BitVec 64} {x : Exchange} {g : Group} {own : NormTerm}
  (hx : (s.links.exchanges.find? fun x => x.step == n && !x.done) = some x)
      (hg : findGroup s x.group.toNat = some g) (hown : x.own = some own)
  (hroute : treeRoutable s g = true) (hup : x.upSent = false)
include hx hg hown hroute hup

/-- A member whose children have not all reported keeps its contribution (R334). -/
theorem pumpVerdict_waits (hkids : ∃ r ∈ treeChildren g.members.length g.rank,
    (s.links.msgs.find? fun m => forExchange x false m && m.node.toNat == g.members.getD r 0) = none) : pumpVerdict n s = s := by
  obtain ⟨r, hr, hnone⟩ := hkids
  have hkids : childTotals s x ((treeChildren g.members.length g.rank).map fun r => g.members.getD r 0) = none :=
    childTotals_none ⟨_, List.mem_map_of_mem hr, hnone⟩
  unfold pumpVerdict
  simp only [hx, hg, hown, hroute, hup, hkids]
  rfl

/-- A group of one decides at once (R334). -/
theorem pumpVerdict_alone (hone : g.members.length = 1) (hrank : g.rank = 0) :
    pumpVerdict n s = finishExchange x (formTotals own x.vote []) (dropMsgs x false s) := by
  have hkids : treeChildren g.members.length g.rank = [] := by rw [hone, hrank]; rfl
  have hparent : treeParent g.rank = none := by rw [hrank]; rfl
  unfold pumpVerdict
  simp only [hx, hg, hown, hroute, hup, hkids, hparent]
  rfl

end

/-! ### An exchange that fails -/

/-- What an aborting step is known by. -/
def abortKey (p : Step) : StepState × Option Status × Bool × Bool := (p.state, p.abort, p.exchDead, p.voteSent)

/-- An aborting step stays as it is through every ending. -/
def StaysAborting (n : BitVec 64) (s u : State) : Prop :=
  (findStep s n).map (fun p => p.state) = some .aborting → (findStep u n).map abortKey = (findStep s n).map abortKey

theorem StaysAborting.refl (n : BitVec 64) (s : State) : StaysAborting n s s := fun _ => rfl

theorem StaysAborting.trans {n : BitVec 64} {s u v : State} (h : StaysAborting n s u) (k : StaysAborting n u v) : StaysAborting n s v := by
  intro hs
  have hu := h hs
  refine (k ?_).trans hu
  have hfst (o : Option Step) : o.map (fun p => p.state) = (o.map abortKey).map Prod.fst := by rw [Option.map_map]; rfl
  rw [hfst, hu, ← hfst, hs]

theorem StaysAborting.of_steps {n : BitVec 64} {s u : State} (h : u.train.steps = s.train.steps) : StaysAborting n s u := by
  intro _; rw [findStep, findStep, h]

/-- A change to another step leaves step `n` alone. -/
theorem findStep_updStep_other {n m : BitVec 64} (h : m ≠ n) {f : Step → Step} (hf : ∀ x, (f x).num = x.num) (s : State) :
    findStep (updStep m f s) n = findStep s n := by
  show (mapIf (fun p => p.num == m) f s.train.steps).find? _ = s.train.steps.find? _
  induction s.train.steps with
  | nil => rfl
  | cons x l ih =>
    simp only [mapIf, List.map_cons, List.find?_cons] at ih ⊢
    rw [ih]
    by_cases hx : x.num = m
    · have hb : (m == n) = false := by simpa using h
      simp [hx, hf, hb]
    · simp [hx]

theorem markFailure_staysAborting (n m : BitVec 64) (phase : Nat) (st : Status) (s : State) :
    StaysAborting n s (markFailure m phase st s).1 := by
  intro hs
  by_cases h : m = n
  · subst h
    obtain ⟨p, hp, hstate⟩ := Option.map_eq_some_iff.mp hs
    have : (markFailure m phase st s).1 = s := by
      unfold markFailure; split
      · rfl
      · simp [hp, hstate]
    rw [this]
  · have hupd (f : Step → Step) (hf : ∀ x, (f x).num = x.num) :
      (findStep (updStep m f s) n).map abortKey = (findStep s n).map abortKey := by
      rw [findStep_updStep_other h hf]
    have habort (st : Status) (held : Bool) : (findStep (markAbort m st held s).1 n).map abortKey = (findStep s n).map abortKey := by
      unfold markAbort
      split
      · rfl
      · split
        · exact hupd _ (by exact fun _ => rfl)
        · rfl
    unfold markFailure
    split
    · rfl
    · split
      · rfl
      · split
        · split
          · exact habort ..
          · exact hupd _ (by exact fun _ => rfl)
        · exact habort ..
        · split
          · exact hupd _ (by exact fun _ => rfl)
          · rfl
        · rfl

theorem dropCmd_staysAborting (n : BitVec 64) (id : Nat) (s : State) : StaysAborting n s (dropCmd id s) := by
  intro _
  show ((s.train.steps.map fun p => { p with norms := p.norms.filter fun x => x.order != id }).find? fun p => p.num == n).map abortKey = _
  rw [List.find?_map, Option.map_map]
  rfl

theorem endCmds_staysAborting (n : BitVec 64) (es : List Ending) (s : State) : StaysAborting n s (endCmds es s) :=
  endCmds_rel (.refl n) .trans (fun _ _ _ _ _ => .of_steps (by unfold retire; split <;> rfl)) (dropCmd_staysAborting n)
    (fun _ _ => .of_steps rfl) (markFailure_staysAborting n) es s

/-- A step in OPEN aborts (R45). -/
theorem abortStep_aborts {s : State} {n : BitVec 64} {p : Step} (hp : findStep s n = some p)
    (h : p.state = .stOpen) (st : Status) (held : Bool) :
    (findStep (abortStep n st held s) n).map abortKey = some (.aborting, some st, p.exchDead, p.voteSent) := by
  have hmark : markAbort n st held s =
      (updStep n (fun p => { p with state := .aborting, abort := some st, abortHeld := held }) s, unstartedOf n s) := by
    simp [markAbort, hp, h]
  have hfind : findStep (markAbort n st held s).1 n = some { p with state := .aborting, abort := some st, abortHeld := held } := by
    rw [hmark, findStep_updStep (by exact fun _ => rfl), hp]; rfl
  have := endCmds_staysAborting n (markAbort n st held s).2 (markAbort n st held s).1 (by rw [hfind]; rfl)
  exact this.trans (by rw [hfind]; rfl)

/-- The exchange of a step in OPEN fails: the step aborts, and no exchange of the step goes on (R45, R335). -/
theorem failExchange_aborts {s : State} {n : BitVec 64} {p : Step} (hp : findStep s n = some p) (h : p.state = .stOpen) (st : Status) :
    (findStep (failExchange n st s) n).map abortKey = some (.aborting, some st, true, p.voteSent) ∧
      (∀ y ∈ (failExchange n st s).links.exchanges, y.step = n → y.done = true) ∧
      (∀ t, (getTile (failExchange n st s) t).mem = (getTile s t).mem) ∧ (failExchange n st s).num = s.num := by
  unfold failExchange
  extract_lets ofIt l u v
  have hv : findStep (updStep n (fun p => { p with exchDead := true }) v) n = some { p with exchDead := true } := by
    rw [findStep_updStep (by exact fun _ => rfl), show findStep v n = some p from hp]; rfl
  have hkeep := abortStep_keepsOnEnd n st false (updStep n (fun p => { p with exchDead := true }) v)
  refine ⟨abortStep_aborts hv h st false, fun y hy hn => ?_, fun t => hkeep.mem t, hkeep.num⟩
  rw [hkeep.exchanges] at hy
  obtain ⟨x, -, rfl⟩ := List.mem_map.mp (show y ∈ s.links.exchanges.map _ from hy)
  split at hn
  · next hx => simp [hx]
  · next hx => simp [hn] at hx

/-! ### A group of one decides -/

/-- A step as a decision leaves it: at a clip its early programs are to run again (R32, R36). -/
def decidedStep (d : Decision) (q : Step) : Step :=
  { q with
    decision := some d, state := if d.skip then .decidedSkip else .decidedCommit,
    earlies := q.earlies.map fun e => if !d.skip && flt d.clip one32 then { e with redo := e.ran } else e }

/-- A phase record as a decision leaves it (R55). -/
def decidedRecord (d : Decision) (r : PhaseRec) : PhaseRec := { r with skipCause := d.cause, norm := d.norm, clip := d.clip }

section
variable {s : State} (hunstarted : (s.host.cmds.filter fun k => !k.started) = [])
include hunstarted

/-- Where every command has started, no skip decision ends one (R28). -/
theorem endSkipped_of_started (n : BitVec 64) : endSkipped n s = s := by
  have : (s.host.cmds.filter fun c => c.step == some n && !c.started && (slotPhase c.slot == 9 || slotPhase c.slot == 10)) = [] := by
    rw [List.filter_eq_nil_iff] at hunstarted ⊢
    intro c hc h
    simp only [Bool.and_eq_true] at h
    exact hunstarted c hc h.1.2
  rw [endSkipped, this]
  exact endCmds_nil s

/-- The decision reaches a step of which nothing runs early but programs, while nothing waits to start (R28, R32, R36). -/
theorem deliverDecision_eq {p : Step} (d : Decision) (hquiet : Quiet s) (hearly : ∀ e ∈ p.earlies, slotOpcode e.slot = 0x10) :
    deliverDecision p d s = countDecision d (updRecord p (decidedRecord d) (updStep p.num (decidedStep d) s)) := by
  have hredo (v : State) : redoEarlies p v = v := by
    have : (p.earlies.filter fun e => slotOpcode e.slot != 0x10) = [] := by
      rw [List.filter_eq_nil_iff]
      exact fun e he => by simp [hearly e he]
    rw [redoEarlies, this]; rfl
  unfold deliverDecision
  extract_lets clipped redo u v w x
  have hx : x = w := by dsimp only [x]; rw [hredo, ite_self]
  have hskip : endSkipped p.num x = x := endSkipped_of_started (by rw [hx]; exact hunstarted) p.num
  rw [hskip, ite_self, runHeld_of_quiet (by rw [hx]; exact hquiet), hx]
  rfl

end

/-- Settles O8: the contribution waits in its exchange, fails with it where the group is not set, and decides at once in a group of one. -/
theorem votesCast : Obligations.VotesCast := by
  intro s n p own vote hp hc x exchanges
  refine ⟨fun g hg hroute hkids => ?_, fun hg hstate => ?_, fun g hg hone hrank hstate hunstarted hquiet hearly => ?_⟩
  · have hexec : contribute n s = withVote s n (newExchange s p n own vote) := by
      rw [contribute_eq hp hc, hg, Option.isNone_some, if_neg (by simp)]
      exact pumpVerdict_waits (find_newExchange s p n own vote) (show findGroup _ _ = some g from hg) rfl
        (show treeRoutable _ g = true from hroute) rfl hkids
    exact congrArg Host.Outcome.next hexec
  · have hv : findStep (withVote s n x) n = some { p with voteSent := true } := by
      show findStep (updStep n _ s) n = _
      rw [findStep_updStep (by exact fun _ => rfl), hp]; rfl
    have hexec : execVerdictContribution n s = .next (failExchange n .peerUnreachable (withVote s n x)) := by
      rw [execVerdictContribution, contribute_eq hp hc, hg]; rfl
    obtain ⟨h1, h2, h3, h4⟩ := failExchange_aborts hv hstate .peerUnreachable
    exact ⟨_, hexec, h1, h2, h3, h4⟩
  · intro d
    have hroute : treeRoutable s g = true := by simp [treeRoutable, hone, hrank, treeParent, treeChildren]
    have hnum : p.num = n := by simpa using List.find?_some hp
    obtain ⟨v, hv⟩ : ∃ v : State, v =
        linkCount (fun c => { c with exchanges := addSat c.exchanges 1 }) { dropMsgs x false (withVote s n x) with
        links := { (dropMsgs x false (withVote s n x)).links with
          exchanges := (dropMsgs x false (withVote s n x)).links.exchanges.filter fun y => y.step != n } } := ⟨_, rfl⟩
    have hvp : findStep v n = some { p with voteSent := true } := by
      rw [hv]
      show findStep (updStep n _ s) n = _
      rw [findStep_updStep (by exact fun _ => rfl), hp]; rfl
    have hcontribute : contribute n s = deliverDecision { p with voteSent := true } d v := by
      have hfinish : finishExchange x { sumsq := own.sumsq, nonfinite := own.nonfinite, vote := vote } (dropMsgs x false (withVote s n x)) =
          deliverDecision { p with voteSent := true } d v := by
        unfold finishExchange
        extract_lets l u w
        have hw : w = v := hv.symm
        rw [hw, show findStep v x.step = _ from hvp]
        simp only [hstate]
        rw [if_pos ⟨trivial, trivial⟩]
        rw [hv]; rfl
      rw [← hfinish, contribute_eq hp hc, hg, Option.isNone_some, if_neg (by simp)]
      exact pumpVerdict_alone (find_newExchange s p n own vote) (show findGroup _ _ = some g from hg) rfl
        (show treeRoutable _ g = true from hroute) rfl hone hrank
    have hvhost : v.host = s.host := by rw [hv]; rfl
    have hdeliver := deliverDecision_eq (s := v) (p := { p with voteSent := true }) (hvhost ▸ hunstarted) d
      (fun k hk => hquiet k (hvhost ▸ hk)) hearly
    refine ⟨_, congrArg Host.Outcome.next (hcontribute.trans hdeliver), ?_, ?_, ?_⟩
    · show (findStep (updStep p.num (decidedStep d) v) n).map _ = _
      rw [hnum, findStep_updStep (f := decidedStep d) (fun _ => rfl), hvp]; rfl
    · show (let r := (updAt v.train.ring (ringSlot p.ring) (decidedRecord d))[ringSlot p.ring]; (r.skipCause, r.norm, r.clip)) = _
      rw [updAt_same]; rfl
    · exact sameBut_trans (u := v) (by rw [hv]; exact sameBut_rfl) sameBut_rfl
end Sys2Proof.Machine
end

section
/-!
SUPPORT. A write of an object that passes its checks (R392, R396, R398), and what the objects of O51 do.
-/
namespace Sys2Proof.Machine
open Host

/-! ### A value that passes its checks -/

/-- The answer to a value that has come whole, not in segments. -/
def answered (c : Chan) (index sub : Nat) (st : Status) (s : State) : State := emit (.answer c index sub st) s

/-- A value that has come whole waits. -/
def waits (c : Chan) (index sub : Nat) (v : List Byte) (store : Bool) (s : State) : State :=
  updDict (fun d => { d with waiting := d.waiting ++ [{ ch := c, req := none, index := index, sub := sub, value := v, store := store }] }) s

/-- Object `sub` of `index` has the access `acc`, and a value that comes on `c` has the range `ok` and the effect `r`. -/
def Writes (s : State) (c : Chan) (index sub : Nat) (v : List Byte) (acc : Nat) (ok : Bool) (r : State × Applied) : Prop :=
  ∃ o, findObject index sub = some o ∧ (o.index, o.sub) = (index, sub) ∧ o.acc = acc ∧ o.range v s = ok ∧ o.write c v s = r

section
variable {s : State} {c : Chan} {index sub acc : Nat} {v : List Byte} {ok : Bool} {r : State × Applied}

theorem range_of_mayWrite (hm : MayWrite s c index sub v) (hw : Writes s c index sub v acc ok r) : ok = true := by
  obtain ⟨-, o, ho, hf⟩ := hm
  obtain ⟨o', ho', -, -, hr, -⟩ := hw
  obtain rfl := Option.some.inj (ho.symm.trans ho')
  by_contra h
  simp [writeFails, firstFail, hr, h] at hf

theorem noConflict_of_mayWrite {o : ObjDef} (hm : MayWrite s c index sub v) (ho : findObject index sub = some o) :
    o.conflict v s = false := by
  obtain ⟨-, o', ho', hf⟩ := hm
  obtain rfl := Option.some.inj (ho.symm.trans ho')
  by_contra h
  simp [writeFails, writeConflict, firstFail, h] at hf

theorem writeRow_of_mayWrite (hm : MayWrite s c index sub v) (hw : Writes s c index sub v acc ok r) (hn : index ≠ 0x0200) :
    writeRow c index sub v s = match r.2 with
      | .answered st => answered c index sub st (if acc = 5 then endAction index sub st r.1 else r.1)
      | .started => answered c index sub .ok r.1
      | .action => waits c index sub v false (if acc = 5 then startAction index sub r.1 else r.1)
      | .store => waits c index sub v true (if acc = 5 then startAction index sub r.1 else r.1) := by
  obtain ⟨hs, o, ho, hf⟩ := hm
  obtain ⟨o', ho', hi, rfl, -, rfl⟩ := hw
  obtain rfl := Option.some.inj (ho.symm.trans ho')
  obtain ⟨rfl, rfl⟩ := Prod.mk.inj hi
  simp only [writeRow, hs, if_true, writeObject, ho, hf, applyWrite, hn, false_and, if_false]
  rfl

variable {t : State} {st : Status}

/-- An object that is no command and whose effect has ended with the write is answered at once. -/
theorem writeValue_answered (hm : MayWrite s c index sub v) (hw : Writes s c index sub v 2 ok (t, .answered st)) (hn : index ≠ 0x0200) :
    writeRow c index sub v s = answered c index sub st t :=
  writeRow_of_mayWrite hm hw hn

/-- An object that is no command waits for the end of what it has begun. -/
theorem writeValue_action (hm : MayWrite s c index sub v) (hw : Writes s c index sub v 2 ok (t, .action)) (hn : index ≠ 0x0200) :
    writeRow c index sub v s = waits c index sub v false t :=
  writeRow_of_mayWrite hm hw hn

/-- A persistent object waits for the config store. -/
theorem writeValue_store (hm : MayWrite s c index sub v) (hw : Writes s c index sub v 2 ok (t, .store)) (hn : index ≠ 0x0200) :
    writeRow c index sub v s = waits c index sub v true t :=
  writeRow_of_mayWrite hm hw hn

/-- A command whose action has ended with the write is answered at once. -/
theorem writeCmd_answered (hm : MayWrite s c index sub v) (hw : Writes s c index sub v 5 ok (t, .answered st)) (hn : index ≠ 0x0200) :
    writeRow c index sub v s = answered c index sub st (endAction index sub st t) :=
  writeRow_of_mayWrite hm hw hn

/-- A command whose action runs on is answered at once. -/
theorem writeCmd_started (hm : MayWrite s c index sub v) (hw : Writes s c index sub v 5 ok (t, .started)) (hn : index ≠ 0x0200) :
    writeRow c index sub v s = answered c index sub .ok t :=
  writeRow_of_mayWrite hm hw hn

/-- A command waits for the end of its action. -/
theorem writeCmd_action (hm : MayWrite s c index sub v) (hw : Writes s c index sub v 5 ok (t, .action)) (hn : index ≠ 0x0200) :
    writeRow c index sub v s = waits c index sub v false (startAction index sub t) :=
  writeRow_of_mayWrite hm hw hn

/-- A command waits for the config store. -/
theorem writeCmd_store (hm : MayWrite s c index sub v) (hw : Writes s c index sub v 5 ok (t, .store)) (hn : index ≠ 0x0200) :
    writeRow c index sub v s = waits c index sub v true (startAction index sub t) :=
  writeRow_of_mayWrite hm hw hn

end

/-! ### What the objects do -/

section
variable (s : State) (c : Chan) (v : List Byte)

theorem writes_ringClear : Writes s c 0x6101 4 v 5 true (clearRing s, .answered .ok) := ⟨_, rfl, rfl, rfl, rfl, rfl⟩
theorem writes_tileFence : Writes s c 0x3001 2 v 5 (decide (leNat v ≤ 127)) (writeFence v s) := ⟨_, rfl, rfl, rfl, rfl, rfl⟩
theorem writes_tileUnfence : Writes s c 0x3001 3 v 5 (decide (leNat v ≤ 127)) (writeUnfence v s) := ⟨_, rfl, rfl, rfl, rfl, rfl⟩
theorem writes_lossScale : Writes s c 0x5020 3 v 2 (powerCode 0 24 (leNat v))
    ({ s with num := { s.num with lossScale := BitVec.ofNat 32 (leNat v), lossClean := 0 } }, .answered .ok) := ⟨_, rfl, rfl, rfl, rfl, rfl⟩
theorem writes_emberSets : ∃ ok, Writes s c 0x3100 1 v 2 ok (setEmberSets (leNat v) s, .answered .ok) := ⟨_, _, rfl, rfl, rfl, rfl, rfl⟩
theorem writes_ptInvalidate :
    Writes s c 0x2001 2 v 5 true (afterWalks (invalidate (invalidated (leNat v)) s)) := ⟨_, rfl, rfl, rfl, rfl, rfl⟩
theorem writes_ptRoot : Writes s c 0x2001 1 v 2 (leNat v % 32768 == 0 && decide (leNat v < 0x8000000000))
    (afterWalks (setPtRoot (BitVec.ofNat 64 (leNat v)) s)) := ⟨_, rfl, rfl, rfl, rfl, rfl⟩
theorem writes_xlateSpans : ∃ ok, Writes s c 0x2001 3 v 2 ok
    (updXlate (fun x => { x with spans := (arrVals 32 v).map (BitVec.ofNat 256) }) s, .answered .ok) := ⟨_, _, rfl, rfl, rfl, rfl, rfl⟩
theorem writes_farMap : ∃ ok, Writes s c 0x2002 1 v 2 ok
    ({ s with mem := { s.mem with farMap := .ofFn fun i => BitVec.ofNat 128 ((arrVals 16 v).getD i.val 0) } }, .answered .ok) :=
  ⟨_, _, rfl, rfl, rfl, rfl, rfl⟩
theorem writes_memUeLogClear : Writes s c 0x2003 3 v 5 true (updStacks (fun x => { x with ueLog := [] }) s, .answered .ok) :=
  ⟨_, rfl, rfl, rfl, rfl, rfl⟩
theorem writes_nodeId : Writes s c 0x4000 1 v 2 (decide (leNat v ≤ 32767)) (setNodeId (leNat v) s, .store) := ⟨_, rfl, rfl, rfl, rfl, rfl⟩
theorem writes_linkPorts : Writes s c 0x4000 2 v 2 (leNat v == 12 || leNat v == 16)
    (settlePorts (updLinks (fun l => { l with linkPorts := BitVec.ofNat 8 (leNat v) }) s), .answered .ok) := ⟨_, rfl, rfl, rfl, rfl, rfl⟩
theorem writes_portDisable : Writes s c 0x4000 3 v 2 true
    (settlePorts (updLinks (fun l => { l with portDisable := BitVec.ofNat 16 (leNat v) }) s), .answered .ok) := ⟨_, rfl, rfl, rfl, rfl, rfl⟩
theorem writes_counterSnapshot : Writes s c 0x6000 1 v 5 true (takeSnapshot c s, .answered .ok) := ⟨_, rfl, rfl, rfl, rfl, rfl⟩
theorem writes_counterLive : Writes s c 0x6000 2 v 5 true (updChan c (fun x => { x with snap := none, snapNs := 0 }) s, .answered .ok) :=
  ⟨_, rfl, rfl, rfl, rfl, rfl⟩
theorem writes_deviceReset : Writes s c 0x1000 1 v 5 (leNat v == 0xA5) (scheduleReset c s, .started) := ⟨_, rfl, rfl, rfl, rfl, rfl⟩
theorem writes_powerMode : Writes s c 0x1002 1 v 2 (decide (leNat v ≤ 2)) (writeMode (leNat v) s) := ⟨_, rfl, rfl, rfl, rfl, rfl⟩
theorem writes_park : Writes s c 0x1002 4 v 2 (decide (leNat v ≤ 1)) (writePark (leNat v) s) := ⟨_, rfl, rfl, rfl, rfl, rfl⟩
theorem writes_alertClear : Writes s c 0x1004 3 v 5 (decide (leNat v ≤ 0xFF)) (clearAlerts (BitVec.ofNat 16 (leNat v)) s, .answered .ok) :=
  ⟨_, rfl, rfl, rfl, rfl, rfl⟩
/-- A write of a routing table begins with none of its entries in place (R312). -/
def routeBegun (w : RouteTable) (v : List Byte) (s : State) : State :=
  updLinks (fun l => { l with routeWrites := l.routeWrites ++ [{
    index := (routeIndex w).1, sub := (routeIndex w).2, values := (arrVals 4 v).map (BitVec.ofNat 32), next := 0 }] })
    (finishRoutes (routeIndex w).1 (routeIndex w).2 s)

theorem writes_routingTable (w : RouteTable) :
    ∃ ok, Writes s c (routeIndex w).1 (routeIndex w).2 v 2 ok (routeBegun w v s, .action) := by
  cases w <;> exact ⟨_, _, rfl, rfl, rfl, rfl, rfl⟩

end
end Sys2Proof.Machine
end

section
/-!
SUPPORT. Writes of the tiles, the row stores and the translation (R131 to R133, R204, R298; O51).
-/
namespace Sys2Proof.Machine
open Host

/-! ### Tiles -/

theorem fenced_fenceTile {n : Nat} (h : n ≤ 127) (s : State) : fenced (fenceTile (fin n) s) n = true := by
  have hf : (fin n : Fin 128).val = n := by simp only [fin, Fin.ofNat]; omega
  have hm : 2 ^ n % 2 ^ 128 = 2 ^ n := Nat.mod_eq_of_lt (Nat.pow_lt_pow_right (by decide) (by omega))
  simp only [fenced, fenceTile, updTile, updDict, hf, BitVec.toNat_or, BitVec.toNat_shiftLeft, BitVec.toNat_ofNat, Nat.shiftLeft_eq]
  rw [show (1 % 2 ^ 128 * 2 ^ n) % 2 ^ 128 = 2 ^ n by rw [← hm]; norm_num]
  simp

theorem getTile_fenceTile (t i : Fin 128) (s : State) :
    getTile (fenceTile t s) i = if i = t then fencedTile (getTile s i) else getTile s i := by
  unfold fenceTile
  rw [getTile_updTile]
  by_cases h : i = t
  · subst h; rfl
  · rw [if_neg h, if_neg h]; rfl

/-! ### The row stores -/

theorem cellsGet_filter (p : Nat → Bool) (cs : List Host.Cell) (a : Nat) :
    cellsGet (cs.filter fun c => p c.1) a = if p a then cellsGet cs a else 0 := by
  induction cs with
  | nil => simp [cellsGet]
  | cons c cs ih =>
    rw [List.filter_cons]
    by_cases hc : c.1 = a <;> by_cases hp : p c.1 <;> simp_all [cellsGet]

/-- A range of whole 64-byte words reads as zero without poison, and every other byte stays. -/
theorem memRead_zeroRange {m : Mem} (hl : m.lost = none) (x n a : Nat) :
    memRead (zeroRange (64 * x) (64 * n) m) a 1 = if 64 * x ≤ a ∧ a < 64 * x + 64 * n then [(0, false)] else memRead m a 1 := by
  have hp : memPoisoned (zeroRange (64 * x) (64 * n) m) a = (!decide (64 * x ≤ a ∧ a < 64 * x + 64 * n) && memPoisoned m a) := by
    have hw : (64 * x ≤ a ∧ a < 64 * x + 64 * n) ↔ ¬ (64 * (a / 64) < 64 * x ∨ 64 * x + 64 * n ≤ 64 * (a / 64)) := by omega
    rw [Bool.eq_iff_iff]
    simp only [memPoisoned, zeroRange, List.contains_iff_mem, List.mem_filter, Bool.or_eq_true, Bool.and_eq_true, decide_eq_true_eq,
      Bool.not_eq_true', decide_eq_false_iff_not, hw, not_not]
    exact and_comm
  have hb : memByte (zeroRange (64 * x) (64 * n) m) a = if 64 * x ≤ a ∧ a < 64 * x + 64 * n then 0 else memByte m a := by
    have hbase : memBase (zeroRange (64 * x) (64 * n) m) a = 0 := by simp [memBase, zeroRange, hl]
    rw [memByte, hbase]
    dsimp only [zeroRange]
    rw [cellsGet_filter fun y => decide (y < 64 * x) || decide (64 * x + 64 * n ≤ y)]
    by_cases h : 64 * x ≤ a ∧ a < 64 * x + 64 * n
    · have h' : ¬ (a < 64 * x ∨ 64 * x + 64 * n ≤ a) := by omega
      simp [h, h']
    · have h' : a < 64 * x ∨ 64 * x + 64 * n ≤ a := by omega
      simp [h, h', memByte, memBase, hl]
  simp only [memRead, List.range_one, List.map_cons, List.map_nil, Nat.add_zero, hp, hb]
  by_cases h : 64 * x ≤ a ∧ a < 64 * x + 64 * n
  · rw [if_pos h, if_pos h, decide_eq_true h]; rfl
  · rw [if_neg h, if_neg h, decide_eq_false h]; rfl

/-- Every tag of every engine is cleared (R194, R204). -/
theorem memRead_setEmberSets {s : State} {e : Fin 16} (hl : (s.mem.rowStore[e]).lost = none) (n a : Nat) :
    memRead (setEmberSets n s).mem.rowStore[e] a 1 =
      if a < 64 * max n s.rows.obj.emberSets ∨ 0x3000000 ≤ a ∧ a < 0x3100000 then [(0, false)] else memRead s.mem.rowStore[e] a 1 := by
  have h : (setEmberSets n s).mem.rowStore[e] =
      zeroRange (64 * 0xC0000) (64 * 0x4000) (zeroRange (64 * 0) (64 * max n s.rows.obj.emberSets) s.mem.rowStore[e]) := by
    simp [setEmberSets, updRowObj]
  have htags : (64 * 0 ≤ a ∧ a < 64 * 0 + 64 * max n s.rows.obj.emberSets) ↔ a < 64 * max n s.rows.obj.emberSets := by omega
  rw [h, memRead_zeroRange (by exact hl), memRead_zeroRange hl]
  by_cases hs : 0x3000000 ≤ a ∧ a < 0x3100000
  · rw [if_pos (by exact hs), if_pos (.inr hs)]
  · rw [if_neg (by exact hs)]
    exact if_congr (htags.trans (or_iff_left hs).symm) rfl rfl

/-! ### Translation -/

theorem staleWalks_invalidate (p : Nat → Bool) (s : State) : staleWalks (invalidate p s) = !s.mem.xlate.walks.isEmpty := by
  cases h : s.mem.xlate.walks <;> simp [staleWalks, invalidate, updXlate, h]

/-- A write that has removed cached entries is answered at once when no walk is under way, and waits for the walks otherwise (R298). -/
theorem afterWalks_invalidate (p : Nat → Bool) (s : State) : afterWalks (invalidate p s) =
    (invalidate p s, if s.mem.xlate.walks = [] then .answered .ok else .action) := by
  rw [afterWalks, staleWalks_invalidate]
  cases s.mem.xlate.walks <;> rfl

theorem unitWrites : Claims.UnitWrites := by
  intro s c v n t
  refine ⟨fun hm => ?_, fun hm => ⟨fun hf => ?_, fun hf => ?_⟩, fun hm => ⟨fun hf => ?_, fun hf => ?_⟩, fun hm => ?_, fun hm => ?_,
    fun hm => ?_, fun hm => ?_, fun hm => ?_, fun hm => ?_, fun hm => ?_⟩
  · exact ⟨_, congrArg Outcome.next (writeCmd_answered hm (writes_ringClear s c v) (by decide)), rfl, rfl, sameBut_rfl⟩
  · have hw := writes_tileFence s c v
    rw [writeFence, if_pos hf] at hw
    exact ⟨_, congrArg Outcome.next (writeCmd_answered hm hw (by decide)), rfl, sameBut_rfl⟩
  · have hw := writes_tileFence s c v
    have hn : n ≤ 127 := by simpa using range_of_mayWrite hm hw
    rw [writeFence, if_neg (ne_true_of_eq_false hf)] at hw
    exact ⟨_, congrArg Outcome.next (writeCmd_store hm hw (by decide)), ⟨rfl, rfl⟩, fenced_fenceTile hn s, rfl,
      fun i => getTile_fenceTile _ i s, sameBut_rfl⟩
  · have hw := writes_tileUnfence s c v
    rw [writeUnfence, if_neg (ne_true_of_eq_false hf)] at hw
    exact ⟨_, congrArg Outcome.next (writeCmd_answered hm hw (by decide)), rfl, sameBut_rfl⟩
  · have hw := writes_tileUnfence s c v
    have hn : n ≤ 127 := by simpa using range_of_mayWrite hm hw
    have ht : (fin n : Fin 128).val = n := by simp only [fin, Fin.ofNat]; omega
    rw [writeUnfence, if_pos hf] at hw
    refine ⟨_, congrArg Outcome.next (writeCmd_store hm hw (by decide)), ⟨rfl, rfl⟩, hf, ?_, sameBut_rfl⟩
    show _ ||| (1#128 <<< (fin n : Fin 128).val) = _
    rw [ht]
  · exact ⟨_, congrArg Outcome.next (writeValue_answered hm (writes_lossScale s c v) (by decide)), rfl, rfl, sameBut_rfl⟩
  · obtain ⟨ok, hw⟩ := writes_emberSets s c v
    exact ⟨_, congrArg Outcome.next (writeValue_answered hm hw (by decide)), rfl, rfl,
      fun e a hl => memRead_setEmberSets hl n a, rfl, sameBut_rfl⟩
  · have hw := writes_ptInvalidate s c v
    rw [afterWalks_invalidate] at hw
    by_cases h : s.mem.xlate.walks = []
    · rw [if_pos h] at hw
      refine ⟨_, congrArg Outcome.next (writeCmd_answered hm hw (by decide)), rfl, rfl, ?_, sameBut_rfl⟩
      rw [if_pos h]; rfl
    · rw [if_neg h] at hw
      refine ⟨_, congrArg Outcome.next (writeCmd_action hm hw (by decide)), rfl, rfl, ?_, sameBut_rfl⟩
      rw [if_neg h]; exact ⟨rfl, rfl⟩
  · have hw := writes_ptRoot s c v
    rw [setPtRoot, afterWalks_invalidate] at hw
    have hc (q : Fin 4) :
        (invalidate (fun _ => true) (updXlate (fun x => { x with ptRoot := BitVec.ofNat 64 n }) s)).mem.xlate.caches[q] = [] := by
      simp [invalidate, updXlate]
    by_cases h : s.mem.xlate.walks = []
    · rw [if_pos (by exact h)] at hw
      refine ⟨_, congrArg Outcome.next (writeValue_answered hm hw (by decide)), rfl, hc, rfl, ?_, sameBut_rfl⟩
      rw [if_pos h]; rfl
    · rw [if_neg (by exact h)] at hw
      refine ⟨_, congrArg Outcome.next (writeValue_action hm hw (by decide)), rfl, hc, rfl, ?_, sameBut_rfl⟩
      rw [if_neg h]; exact ⟨rfl, rfl⟩
  · obtain ⟨ok, hw⟩ := writes_xlateSpans s c v
    exact ⟨_, congrArg Outcome.next (writeValue_answered hm hw (by decide)), rfl, rfl, sameBut_rfl⟩
  · obtain ⟨ok, hw⟩ := writes_farMap s c v
    generalize { s.mem with farMap := .ofFn fun i => BitVec.ofNat 128 ((arrVals 16 v).getD i.val 0) } = m at hw
    exact ⟨_, congrArg Outcome.next (writeValue_answered hm hw (by decide)), rfl, rfl, sameBut_rfl⟩
  · exact ⟨_, congrArg Outcome.next (writeCmd_answered hm (writes_memUeLogClear s c v) (by decide)), rfl, rfl, sameBut_rfl⟩

end Sys2Proof.Machine
end

section
/-!
SUPPORT. Channels, alerts and the population of the ports (R311, R315, R317, R413, R448).
-/
namespace Sys2Proof.Machine
open Host

/-! ### The channels of the dictionary -/

theorem chanState_ch (s : State) (c : Chan) : (chanState s c).ch = c := by
  rw [chanState]
  cases h : s.dict.channels.find? fun x => x.ch == c with
  | none => rfl
  | some x => simpa using List.find?_some h

/-- A channel that is used is the newest, and is kept. -/
theorem find_touchChan (x : ChanState) (xs : List ChanState) : (touchChan x xs).find? (fun y => y.ch == x.ch) = some x := by
  have hx : (x.ch == .mailbox ||
      ((((x :: xs.filter fun y => y.ch != x.ch).filter fun y => y.ch != .mailbox).take 16).contains x)) = true := by
    by_cases h : x.ch = .mailbox
    · simp [h]
    · have hn : (x.ch != .mailbox) = true := by simpa using h
      rw [List.filter_cons, if_pos hn, List.take_succ_cons]
      simp
  rw [touchChan, List.filter_cons, if_pos hx, List.find?_cons]
  simp

theorem chanState_updChan {s : State} {c : Chan} {f : ChanState → ChanState} (hf : (f (chanState s c)).ch = c) :
    chanState (updChan c f s) c = f (chanState s c) := by
  have h := find_touchChan (f (chanState s c)) s.dict.channels
  rw [hf] at h
  rw [chanState, updChan, updDict, h]
  rfl

/-! ### The alerts -/

theorem sum_bits (p : Nat → Bool) (n : Nat) :
    ((((List.range n).filter p).map fun k => 2 ^ k).sum < 2 ^ n) ∧
    ∀ k, ((((List.range n).filter p).map fun k => 2 ^ k).sum).testBit k = (decide (k < n) && p k) := by
  induction n with
  | zero => simp
  | succ n ih =>
    obtain ⟨hlt, hbit⟩ := ih
    rw [List.range_succ, List.filter_append, List.map_append, List.sum_append]
    cases hp : p n with
    | false =>
      simp only [List.filter_cons, hp, Bool.false_eq_true, if_false, List.filter_nil, List.map_nil, List.sum_nil, Nat.add_zero]
      refine ⟨by omega, fun k => ?_⟩
      rw [hbit]
      by_cases hk : k = n
      · subst hk; simp [hp]
      · simp [show k < n + 1 ↔ k < n by omega]
    | true =>
      simp only [List.filter_cons, hp, if_true, List.filter_nil, List.map_cons, List.map_nil, List.sum_cons, List.sum_nil, Nat.add_zero]
      refine ⟨by omega, fun k => ?_⟩
      rcases Nat.lt_trichotomy k n with hk | rfl | hk
      · rw [Nat.add_comm, Nat.testBit_two_pow_add_gt hk, hbit]
        simp [hk, Nat.lt_succ_of_lt hk]
      · rw [Nat.add_comm, Nat.testBit_two_pow_add_eq, hbit]
        simp [hp]
      · rw [Nat.testBit_lt_two_pow (by calc _ < 2 ^ (n + 1) := by omega
                                          _ ≤ 2 ^ k := Nat.pow_le_pow_right (by decide) hk)]
        simp [show ¬ k < n + 1 by omega]

/-- The alerts that ALERT_CLEAR leaves (R448). -/
def alertsLeft (mask : BitVec 16) (s : State) : BitVec 16 :=
  BitVec.ofNat 16 ((((List.range 16).filter fun k => bit s.clk.alerts k && (!bit mask k || alertHolds s k)).map fun k => 2 ^ k).sum)

theorem bit_alertsLeft (mask : BitVec 16) (s : State) {k : Nat} (hk : k < 16) :
    bit (alertsLeft mask s) k = (bit s.clk.alerts k && (!bit mask k || alertHolds s k)) := by
  obtain ⟨hlt, hbit⟩ := sum_bits (fun k => bit s.clk.alerts k && (!bit mask k || alertHolds s k)) 16
  rw [bit, alertsLeft, BitVec.toNat_ofNat, Nat.mod_eq_of_lt hlt, hbit]
  simp [hk]

/-- ALERT_CLEAR makes no line rise, so that it raises no event. -/
theorem clearAlerts_eq (mask : BitVec 16) (s : State) :
    clearAlerts mask s = { s with clk := { s.clk with alerts := alertsLeft mask s } } := by
  have hline : alertLine { s with clk := { s.clk with alerts := alertsLeft mask s } } = true → alertLine s = true := by
    simp only [alertLine, bne_iff_ne, ne_eq]
    refine mt fun h => BitVec.eq_of_getLsbD_eq fun i hi => ?_
    have hz := congrArg (fun x : BitVec 16 => x.getLsbD i) h
    have hb := bit_alertsLeft mask s hi
    simp only [bit, BitVec.testBit_toNat] at hb
    simp only [BitVec.getLsbD_and] at hz ⊢
    rw [hb]
    revert hz
    cases s.clk.alerts.getLsbD i <;> simp_all
  have hno : (!alertLine s && alertLine { s with clk := { s.clk with alerts := alertsLeft mask s } }) = false := by
    cases h : alertLine s <;> cases h' : alertLine { s with clk := { s.clk with alerts := alertsLeft mask s } } <;> simp_all
  show (if (!alertLine s && alertLine { s with clk := { s.clk with alerts := alertsLeft mask s } }) = true then _ else _) = _
  rw [hno]
  rfl

/-! ### The ports -/

/-- Packets have moved between ports, and no port has changed its state or left the population. -/
def PortsStay (s u : State) : Prop :=
  SameBut [.links] s u ∧ u.links.linkPorts = s.links.linkPorts ∧ u.links.portDisable = s.links.portDisable ∧
    ∀ p, (getPort u p).state = (getPort s p).state

theorem PortsStay.refl (s : State) : PortsStay s s := ⟨sameBut_refl .., rfl, rfl, fun _ => rfl⟩

theorem PortsStay.trans {s u v : State} (h : PortsStay s u) (h' : PortsStay u v) : PortsStay s v := by
  obtain ⟨hs, hl, hd, hp⟩ := h
  obtain ⟨hs', hl', hd', hp'⟩ := h'
  exact ⟨sameBut_trans hs hs', hl'.trans hl, hd'.trans hd, fun p => (hp' p).trans (hp p)⟩

theorem getPort_updPort (p q : Fin 16) (f : Port → Port) (s : State) :
    getPort (updPort p f s) q = if q = p then f (getPort s q) else getPort s q := by
  by_cases h : q = p
  · subst h; rw [if_pos rfl]; exact updAt_same ..
  · rw [if_neg h]; exact updAt_other _ h f

theorem sendPacket_portsStay {set : PortSet} {p : Packet} {s u : State} (h : sendPacket set p s = some u) : PortsStay s u := by
  unfold sendPacket at h
  split at h
  · obtain rfl := Option.some.inj h
    exact ⟨sameBut_rfl, rfl, rfl, fun _ => rfl⟩
  · obtain ⟨q, -, rfl⟩ := Option.map_eq_some_iff.mp h
    refine ⟨sameBut_rfl, rfl, rfl, fun r => ?_⟩
    rw [getPort_updPort]
    split <;> rfl

theorem rerouteAll_portsStay (xs : List (PortSet × Packet)) : ∀ s : State, PortsStay s (rerouteAll xs s) := by
  induction xs with
  | nil => exact PortsStay.refl
  | cons x xs ih =>
    intro s
    refine PortsStay.trans ?_ (ih _)
    dsimp only
    cases h : sendPacket x.1 x.2 s with
    | some u => exact sendPacket_portsStay h
    | none => exact ⟨sameBut_rfl, rfl, rfl, fun _ => rfl⟩

/-- What the population does to one port (R315, R317). -/
def settlePort (s : State) (p : Fin 16) : State :=
  let st := (getPort s p).state
  if !portEnabled s p then (if st = .disabled then s else dropPort .disabled p s)
  else if st = .disabled then updPort p (fun x => clearPort .down s.now x) s
  else s

/-- A port is DISABLED where it is outside the population, and only there. -/
def Settled (s : State) (p : Fin 16) : Prop := (getPort s p).state = .disabled ↔ portEnabled s p = false

theorem dropPort_disabled (p : Fin 16) (s : State) :
    SameBut [.links] s (dropPort .disabled p s) ∧ (dropPort .disabled p s).links.linkPorts = s.links.linkPorts ∧
    (dropPort .disabled p s).links.portDisable = s.links.portDisable ∧
    ∀ q, (getPort (dropPort .disabled p s) q).state = if q = p then .disabled else (getPort s q).state := by
  obtain ⟨hs, hl, hd, hp⟩ := rerouteAll_portsStay (getPort s p).txq (updPort p (clearPort .disabled s.now) s)
  refine ⟨sameBut_trans (u := updPort p (clearPort .disabled s.now) s) sameBut_rfl hs, hl, hd, fun q => (hp q).trans ?_⟩
  rw [getPort_updPort]
  split <;> rfl

theorem settlePort_spec (s : State) (p : Fin 16) :
    SameBut [.links] s (settlePort s p) ∧ (settlePort s p).links.linkPorts = s.links.linkPorts ∧
    (settlePort s p).links.portDisable = s.links.portDisable ∧ Settled (settlePort s p) p ∧
    ∀ q, q ≠ p → (getPort (settlePort s p) q).state = (getPort s q).state := by
  unfold settlePort
  dsimp only
  cases he : portEnabled s p with
  | false =>
    rw [if_pos (by rfl)]
    by_cases hst : (getPort s p).state = .disabled
    · rw [if_pos hst]
      exact ⟨sameBut_refl .., rfl, rfl, iff_of_true hst he, fun _ _ => rfl⟩
    · rw [if_neg hst]
      obtain ⟨hs, hl, hd, hp⟩ := dropPort_disabled p s
      refine ⟨hs, hl, hd, iff_of_true ((hp p).trans (if_pos rfl)) ?_, fun q hq => (hp q).trans (if_neg hq)⟩
      rw [portEnabled, hl, hd]; exact he
  | true =>
    rw [if_neg (by simp)]
    by_cases hst : (getPort s p).state = .disabled
    · rw [if_pos hst]
      have hp (q : Fin 16) := getPort_updPort p q (fun x => clearPort .down s.now x) s
      refine ⟨sameBut_rfl, rfl, rfl, iff_of_false ?_ (ne_false_of_eq_true he), fun q hq => ?_⟩
      · rw [hp, if_pos rfl]; exact PortState.noConfusion
      · rw [hp, if_neg hq]
    · rw [if_neg hst]
      exact ⟨sameBut_refl .., rfl, rfl, iff_of_false hst (by simp [he]), fun _ _ => rfl⟩

theorem settlePorts_spec (s : State) :
    SameBut [.links] s (settlePorts s) ∧ (settlePorts s).links.linkPorts = s.links.linkPorts ∧
    (settlePorts s).links.portDisable = s.links.portDisable ∧ ∀ p, Settled (settlePorts s) p := by
  have hl (l : List (Fin 16)) : ∀ s : State, SameBut [.links] s (l.foldl settlePort s) ∧
      (l.foldl settlePort s).links.linkPorts = s.links.linkPorts ∧ (l.foldl settlePort s).links.portDisable = s.links.portDisable ∧
      ∀ p, p ∈ l ∨ Settled s p → Settled (l.foldl settlePort s) p := by
    induction l with
    | nil => exact fun s => ⟨sameBut_refl .., rfl, rfl, fun p h => h.resolve_left List.not_mem_nil⟩
    | cons q l ih =>
      intro s
      obtain ⟨hs, hl, hd, hq, ho⟩ := settlePort_spec s q
      obtain ⟨hs', hl', hd', hp'⟩ := ih (settlePort s q)
      refine ⟨sameBut_trans hs hs', hl'.trans hl, hd'.trans hd, fun p h => hp' p ?_⟩
      by_cases hpq : p = q
      · exact .inr (hpq ▸ hq)
      · refine h.imp (fun h => (List.mem_cons.mp h).resolve_left hpq) fun h => ?_
        rw [Settled, ho p hpq, portEnabled, hl, hd]
        exact h
  obtain ⟨hs, hlp, hd, hp⟩ := hl (List.finRange 16) s
  exact ⟨hs, hlp, hd, fun p => hp p (.inl (List.mem_finRange p))⟩

/-- A port that repeats the exchange of identities (R311). -/
def identSent (k : BitVec 512) (now : Nat) (x : Port) : Port := { x with state := .up, step := 4, since := now, linkq := x.linkq ++ [k] }

theorem foldl_sendIdent (l : List (Fin 16)) (hl : l.Nodup) : ∀ s : State, ∃ ports,
    l.foldl (fun s p => sendIdent p s) s = { s with links := { s.links with ports := ports } } ∧
    ∀ p : Fin 16, ports[p] = if p ∈ l then identSent (identFlit s p) s.now s.links.ports[p] else s.links.ports[p] := by
  induction l with
  | nil => exact fun s => ⟨_, rfl, fun p => (if_neg List.not_mem_nil).symm⟩
  | cons q l ih =>
    intro s
    obtain ⟨hq, hl⟩ := List.nodup_cons.mp hl
    obtain ⟨ports, he, hp⟩ := ih hl (sendIdent q s)
    refine ⟨ports, he, fun p => (hp p).trans ?_⟩
    have hs : (sendIdent q s).links.ports[p] = if p = q then identSent (identFlit s p) s.now s.links.ports[p] else s.links.ports[p] := by
      by_cases h : p = q
      · subst h; rw [if_pos rfl]; exact updAt_same ..
      · rw [if_neg h]; exact updAt_other _ h _
    rw [hs]
    by_cases h : p = q
    · subst h; rw [if_neg hq, if_pos rfl, if_pos List.mem_cons_self]
    · rw [if_neg h]
      exact if_congr (by simp [h]) rfl rfl

end Sys2Proof.Machine
end

section
/-!
SUPPORT. Writes of the node, the ports, the counters and the clocks (R311, R317, R413, R434, R441 to R448; O51).
-/
namespace Sys2Proof.Machine
open Host

theorem leNat_lt (v : List Byte) : leNat v < 256 ^ v.length := by
  induction v with
  | nil => simp [leNat]
  | cons b bs ih =>
    have := b.isLt
    simp only [leNat, List.length_cons, Nat.pow_succ]
    omega

/-- A value of a fixed size has that size. -/
theorem length_of_mayWrite {s : State} {c : Chan} {index sub : Nat} {v : List Byte} {o : ObjDef} (hm : MayWrite s c index sub v)
    (ho : findObject index sub = some o) (hfix : o.fixed = true) : v.length = o.max := by
  obtain ⟨-, o', ho', hf⟩ := hm
  obtain rfl := Option.some.inj (ho.symm.trans ho')
  by_contra h
  simp [writeFails, firstFail, encodingOk, hfix, h] at hf

theorem setNodeId_spec {n : Nat} (hn : n ≤ 32767) (s : State) :
    nodeId (setNodeId n s) = n ∧ (setNodeId n s).links.groups = [] ∧ SameBut [.dict, .links] s (setNodeId n s) ∧
    (setNodeId n s).dict.waiting = s.dict.waiting ∧
    ∀ p, if (getPort s p).state = .active then (getPort (setNodeId n s) p).state = .up ∧
        (getPort (setNodeId n s) p).linkq = (getPort s p).linkq ++ [identFlit (setNodeId n s) p]
      else getPort (setNodeId n s) p = getPort s p := by
  obtain ⟨t, ht⟩ : ∃ t : State, t = { updDict (fun d => { d with keep := { d.keep with nodeId := BitVec.ofNat 16 n } }) s with
    links := { s.links with groups := [] } } := ⟨_, rfl⟩
  have hs : setNodeId n s = ((List.finRange 16).filter fun p => (getPort t p).state == .active).foldl (fun s p => sendIdent p s) t := by
    subst ht; rfl
  obtain ⟨ports, he, hp⟩ := foldl_sendIdent _ ((List.nodup_finRange 16).filter fun p => (getPort t p).state == .active) t
  rw [hs, he]
  have hnode : nodeId t = n := by subst ht; exact Nat.mod_eq_of_lt (by omega)
  refine ⟨hnode, by subst ht; rfl, by subst ht; exact sameBut_rfl, by subst ht; rfl, fun p => ?_⟩
  have hpt : getPort t p = getPort s p := by subst ht; rfl
  have hf : identFlit { t with links := { t.links with ports := ports } } p = identFlit t p := rfl
  have hq := hp p
  simp only [List.mem_filter, List.mem_finRange, true_and, beq_iff_eq, hpt] at hq
  rw [hf]
  show if _ then ports[p].state = _ ∧ ports[p].linkq = _ else ports[p] = _
  rw [hq]
  split
  · exact ⟨rfl, congrArg (fun x => x.linkq ++ _) hpt⟩
  · exact hpt

theorem linkAndClockWrites : Claims.LinkAndClockWrites := by
  intro s c v n settled
  refine ⟨fun hm => ?_, fun hm => ?_, fun hm => ?_, fun hm => ?_, fun hm => ?_, fun hm => ?_, fun hm => ⟨fun hn => ?_, fun hn => ?_⟩,
    fun hm => ⟨fun hn hp => ?_, fun hn hp => ?_, fun hn hp => ?_⟩, fun hm => ?_⟩
  · have hw := writes_nodeId s c v
    have hn : n ≤ 32767 := by simpa using range_of_mayWrite hm hw
    obtain ⟨hnode, hgroups, hsame, hwait, hports⟩ := setNodeId_spec hn s
    refine ⟨_, congrArg Outcome.next (writeValue_store hm hw (by decide)), ⟨hsame.2 .out (by decide), ?_⟩, hnode, hgroups, hports,
      sameBut_trans hsame sameBut_rfl⟩
    show (setNodeId n s).dict.waiting ++ _ = _
    rw [hwait]
  · have hw := writes_linkPorts s c v
    have hn : n = 12 ∨ n = 16 := by simpa using range_of_mayWrite hm hw
    obtain ⟨hsame, hlp, hpd, hset⟩ := settlePorts_spec (updLinks (fun l => { l with linkPorts := BitVec.ofNat 8 n }) s)
    refine ⟨_, congrArg Outcome.next (writeValue_answered hm hw (by decide)), ?_, ?_, hpd, hset, ?_⟩
    · exact congrArg (· ++ _) (hsame.2 .out (by decide))
    · refine (congrArg BitVec.toNat hlp).trans (Nat.mod_eq_of_lt ?_)
      omega
    · exact sameBut_trans (sameBut_trans (u := updLinks (fun l => { l with linkPorts := BitVec.ofNat 8 n }) s) sameBut_rfl
        (sameBut_weaken hsame (by simp))) sameBut_rfl
  · have hw := writes_portDisable s c v
    have hn : n < 65536 := by
      have := leNat_lt v
      rw [length_of_mayWrite (o := _) hm rfl rfl] at this
      exact this
    obtain ⟨hsame, hlp, hpd, hset⟩ := settlePorts_spec (updLinks (fun l => { l with portDisable := BitVec.ofNat 16 n }) s)
    refine ⟨_, congrArg Outcome.next (writeValue_answered hm hw (by decide)), ?_, ?_, hlp, hset, ?_⟩
    · exact congrArg (· ++ _) (hsame.2 .out (by decide))
    · exact (congrArg BitVec.toNat hpd).trans (Nat.mod_eq_of_lt hn)
    · exact sameBut_trans (sameBut_trans (u := updLinks (fun l => { l with portDisable := BitVec.ofNat 16 n }) s) sameBut_rfl
        (sameBut_weaken hsame (by simp))) sameBut_rfl
  · have hc := chanState_updChan (s := s) (c := c)
      (f := fun x => { x with snap := some (snapCounters s), snapNs := s.now }) (chanState_ch s c)
    exact ⟨_, congrArg Outcome.next (writeCmd_answered hm (writes_counterSnapshot s c v) (by decide)), rfl,
      congrArg (fun x => x.snap) hc, congrArg (fun x => x.snapNs) hc, sameBut_rfl⟩
  · have hc := chanState_updChan (s := s) (c := c) (f := fun x => { x with snap := none, snapNs := 0 }) (chanState_ch s c)
    exact ⟨_, congrArg Outcome.next (writeCmd_answered hm (writes_counterLive s c v) (by decide)), rfl,
      congrArg (fun x => x.snap) hc, sameBut_rfl⟩
  · refine ⟨_, congrArg Outcome.next (writeCmd_started hm (writes_deviceReset s c v) (by decide)), rfl, ?_, sameBut_rfl⟩
    cases c <;> rfl
  · have hw := writes_powerMode s c v
    have hm' : s.clk.mode = BitVec.ofNat 8 n := BitVec.eq_of_toNat_eq (hn.trans (by simp; omega))
    rw [writeMode, if_pos hm'] at hw
    exact congrArg Outcome.next (writeValue_answered hm hw (by decide))
  · have hw := writes_powerMode s c v
    have hr : n ≤ 2 := by simpa using range_of_mayWrite hm hw
    have ht : (BitVec.ofNat 8 n).toNat = n := Nat.mod_eq_of_lt (by omega)
    have hm' : s.clk.mode ≠ BitVec.ofNat 8 n := fun h => hn ((congrArg BitVec.toNat h).trans ht)
    have hless : s.clk.mode < BitVec.ofNat 8 n ↔ s.clk.mode.toNat < n := by rw [BitVec.lt_def, ht]
    rw [writeMode, if_neg hm', startMode] at hw
    by_cases hlt : s.clk.mode.toNat < n
    · rw [if_pos (hless.mpr hlt)] at hw
      refine ⟨_, congrArg Outcome.next (writeValue_action hm hw (by decide)), ⟨rfl, rfl⟩, ?_, sameBut_rfl⟩
      rw [if_pos hlt]; rfl
    · rw [if_neg (mt hless.mp hlt)] at hw
      refine ⟨_, congrArg Outcome.next (writeValue_action hm hw (by decide)), ⟨rfl, rfl⟩, ?_, sameBut_rfl⟩
      rw [if_neg hlt]; rfl
  · have hw := writes_park s c v
    rw [show leNat v = 1 from hn, show writePark 1 s =
        (updClk (fun c => { c with park := .parking }) s, .action) by simp [writePark, hp]] at hw
    exact ⟨_, congrArg Outcome.next (writeValue_action hm hw (by decide)), ⟨rfl, rfl⟩, rfl, sameBut_rfl⟩
  · have hw := writes_park s c v
    rw [show leNat v = 0 from hn, show writePark 0 s =
        (updClk (fun c => { c with park := .waking }) s, .action) by simp [writePark, hp]] at hw
    exact ⟨_, congrArg Outcome.next (writeValue_action hm hw (by decide)), ⟨rfl, rfl⟩, rfl, sameBut_rfl⟩
  · have hw := writes_park s c v
    rw [show leNat v = 0 from hn, show writePark 0 s = (s, .answered .ok) by simp [writePark, hp]] at hw
    exact congrArg Outcome.next (writeValue_answered hm hw (by decide))
  · have hw := writes_alertClear s c v
    rw [clearAlerts_eq] at hw
    exact ⟨_, congrArg Outcome.next (writeCmd_answered hm hw (by decide)), rfl, fun k hk => bit_alertsLeft _ s hk, sameBut_rfl⟩

end Sys2Proof.Machine
end

section
/-!
SUPPORT. Writes of the routing tables (R312; O51).
-/
namespace Sys2Proof.Machine
open Host

/-! ### Routing tables -/

/-- Table `sub` of `index` has `m` entries, which `get` reads and `put` replaces. -/
structure TableOf (index sub m : Nat) (get : Routes → Vector (BitVec 32) m) (put : Vector (BitVec 32) m → Routes → Routes) : Prop where
  set_eq : ∀ i v r, setRoute index sub i v r = put ((get r).setIfInBounds i v) r
  get_put : ∀ x r, get (put x r) = x
  put_put : ∀ x y r, put x (put y r) = put x r
  put_get : ∀ r, put (get r) r = r

/-- A table whose entries from `k` on are those of `xs`. -/
def filledFrom {m : Nat} (k : Nat) (xs : List (BitVec 32)) (old : Vector (BitVec 32) m) : Vector (BitVec 32) m :=
  .ofFn fun i => if i.val < k then old[i] else xs.getD i.val 0

theorem filledFrom_all {m k : Nat} (h : m ≤ k) (xs : List (BitVec 32)) (old : Vector (BitVec 32) m) : filledFrom k xs old = old := by
  apply Vector.ext
  intro i hi
  simp [filledFrom, show i < k by omega]

theorem filledFrom_succ {m k : Nat} {xs : List (BitVec 32)} {x : BitVec 32} (hx : xs[k]? = some x) (old : Vector (BitVec 32) m) :
    filledFrom (k + 1) xs (old.setIfInBounds k x) = filledFrom k xs old := by
  apply Vector.ext
  intro i hi
  simp only [filledFrom, Vector.getElem_ofFn]
  show (if i < k + 1 then (old.setIfInBounds k x)[i] else xs.getD i 0) = if i < k then old[i] else xs.getD i 0
  rw [Vector.getElem_setIfInBounds]
  rcases Nat.lt_trichotomy i k with h | rfl | h
  · rw [if_pos (by omega), if_pos h, if_neg (by omega)]
  · rw [if_pos (Nat.lt_succ_self i), if_pos rfl, if_neg (Nat.lt_irrefl i), List.getD_eq_getElem?_getD, hx]; rfl
  · rw [if_neg (by omega), if_neg (by omega)]

section
variable {index sub m : Nat} {get : Routes → Vector (BitVec 32) m} {put : Vector (BitVec 32) m → Routes → Routes}
  (ht : TableOf index sub m get put)
include ht

/-- A write of a table that goes on far enough puts all its entries in place. -/
theorem advanceRoute_ends {xs : List (BitVec 32)} (hlen : xs.length = m) (n : Nat) : ∀ (k : Nat) (r : Routes), k ≤ m → m ≤ k + n →
    advanceRoute n { index := index, sub := sub, values := xs, next := k } r =
      ({ index := index, sub := sub, values := xs, next := m }, put (filledFrom k xs (get r)) r) := by
  induction n with
  | zero =>
    intro k r hk hn
    obtain rfl : k = m := by omega
    rw [filledFrom_all le_rfl, ht.put_get]; rfl
  | succ n ih =>
    intro k r hk hn
    rw [advanceRoute]
    dsimp only
    cases hx : xs[k]? with
    | none =>
      obtain rfl : k = m := by have := List.getElem?_eq_none_iff.mp hx; omega
      rw [filledFrom_all le_rfl, ht.put_get]
    | some x =>
      obtain ⟨hlt, -⟩ := List.getElem?_eq_some_iff.mp hx
      dsimp only
      rw [ih (k + 1) _ (by omega) (by omega), ht.set_eq, ht.get_put, ht.put_put, filledFrom_succ hx]

/-- The one write under way is of this table, and is finished. -/
theorem finishRoutes_ends {xs : List (BitVec 32)} (hlen : xs.length = m) (hm : m ≤ 256) {k : Nat} (hk : k ≤ m) {s : State}
    (hw : s.links.routeWrites = [{ index := index, sub := sub, values := xs, next := k }]) :
    finishRoutes index sub s =
      { s with links := { s.links with routeWrites := [], routes := put (filledFrom k xs (get s.links.routes)) s.links.routes } } := by
  have hr := advanceRoute_ends ht hlen 256 k s.links.routes hk (by omega)
  simp only [finishRoutes, advanceRoutes, updLinks, hw, List.foldl_cons, List.foldl_nil, beq_self_eq_true, Bool.and_self, if_true, hr,
    hlen, Nat.lt_irrefl, if_false]

/-- CMD_ACTION_END finishes the table's write, and answers it. -/
theorem cmdActionEnd_route {xs : List (BitVec 32)} (hlen : xs.length = m) (hm : m ≤ 256)
    {k : Nat} (hk : k ≤ m) {s : State} {y : WaitingWrite}
    (hy : s.dict.waiting.find? (actionOver s) = some y) (hreq : y.req = none) (hrun : controlRuns s = true)
    (hw : s.links.routeWrites = [{ index := index, sub := sub, values := xs, next := k }])
    (hfin : ∀ s, finishAction y s = finishRoutes index sub s) :
    ∃ u, exec .cmdActionEnd s = .next u ∧ Answered y.ch y.index y.sub .ok s u ∧
      u.links = { s.links with routeWrites := [], routes := put (filledFrom k xs (get s.links.routes)) s.links.routes } ∧
      SameBut [.links, .dict, .out] s u := by
  have he : exec .cmdActionEnd s = .next (let t := finishRoutes index sub (dropWaiting y s)
      answered y.ch y.index y.sub .ok (if actionRuns t y.index y.sub then endAction y.index y.sub .ok t else t)) := by
    show go (match s.dict.waiting.find? (actionOver s) with | none => s | some w => _) = _
    rw [hy]
    simp only [hrun, hfin, answerWrite, hreq]
    rfl
  rw [finishRoutes_ends ht hlen hm hk (s := dropWaiting y s) hw] at he
  refine ⟨_, he, ?_⟩
  dsimp only
  split
  · exact ⟨rfl, rfl, sameBut_rfl⟩
  · exact ⟨rfl, rfl, sameBut_rfl⟩

end

theorem tableOf_groupInject : TableOf 0x4010 1 128 (fun r => r.groupInject) (fun x r => { r with groupInject := x }) :=
  ⟨fun _ _ _ => rfl, fun _ _ => rfl, fun _ _ _ => rfl, fun _ => rfl⟩
theorem tableOf_groupB : TableOf 0x4010 2 128 (fun r => r.groupB) (fun x r => { r with groupB := x }) :=
  ⟨fun _ _ _ => rfl, fun _ _ => rfl, fun _ _ _ => rfl, fun _ => rfl⟩
theorem tableOf_groupC : TableOf 0x4010 3 128 (fun r => r.groupC) (fun x r => { r with groupC := x }) :=
  ⟨fun _ _ _ => rfl, fun _ _ => rfl, fun _ _ _ => rfl, fun _ => rfl⟩
theorem tableOf_memberInject : TableOf 0x4011 1 256 (fun r => r.memberInject) (fun x r => { r with memberInject := x }) :=
  ⟨fun _ _ _ => rfl, fun _ _ => rfl, fun _ _ _ => rfl, fun _ => rfl⟩
theorem tableOf_memberB : TableOf 0x4011 2 256 (fun r => r.memberB) (fun x r => { r with memberB := x }) :=
  ⟨fun _ _ _ => rfl, fun _ _ => rfl, fun _ _ _ => rfl, fun _ => rfl⟩
theorem tableOf_memberC : TableOf 0x4011 3 256 (fun r => r.memberC) (fun x r => { r with memberC := x }) :=
  ⟨fun _ _ _ => rfl, fun _ _ => rfl, fun _ _ _ => rfl, fun _ => rfl⟩

theorem finishRoutes_of_none {index sub : Nat} {s : State} (h : ∀ x ∈ s.links.routeWrites, (x.index, x.sub) ≠ (index, sub)) :
    finishRoutes index sub s = s := by
  have hl (one : List RouteWrite × Routes → RouteWrite → List RouteWrite × Routes) (l : List RouteWrite)
      (hone : ∀ acc, ∀ x ∈ l, one acc x = (acc.1 ++ [x], acc.2)) : ∀ acc, l.foldl one acc = (acc.1 ++ l, acc.2) := by
    induction l with
    | nil => intro acc; simp
    | cons x l ih =>
      intro acc
      rw [List.foldl_cons, hone acc x List.mem_cons_self, ih fun acc y hy => hone acc y (List.mem_cons_of_mem _ hy)]
      simp
  rw [finishRoutes, advanceRoutes]
  rw [hl _ s.links.routeWrites fun acc x hx => ?_]
  · rfl
  · have hne : ¬ (x.index == index && x.sub == sub) = true := by simpa using h x hx
    exact if_neg hne

theorem routesChange : Claims.RoutesChange := by
  intro s c v w xs write
  refine ⟨fun hm hnone => ?_, fun k y hy hreq hrun hi hw hk hg hmem => ?_⟩
  · obtain ⟨ok, hw⟩ := writes_routingTable s c v w
    rw [routeBegun, finishRoutes_of_none (index := (routeIndex w).1) (sub := (routeIndex w).2) hnone] at hw
    exact ⟨_, congrArg Outcome.next (writeValue_action hm hw (by cases w <;> decide)), ⟨rfl, rfl⟩, rfl, sameBut_rfl⟩
  · obtain ⟨hi, hs⟩ := Prod.mk.inj hi
    have hfin (s : State) : finishAction y s = finishRoutes (routeIndex w).1 (routeIndex w).2 s := by
      rw [finishAction, hi, hs]; cases w <;> rfl
    have hend {m : Nat} {get put} (ht : TableOf (routeIndex w).1 (routeIndex w).2 m get put) (hlen : xs.length = m) (hm : m ≤ 256) :=
      cmdActionEnd_route ht hlen hm (hlen ▸ hk) hy hreq hrun hw hfin
    cases w with
    | groupInject => exact hend tableOf_groupInject (hg (.inl rfl)) (by decide)
    | groupB => exact hend tableOf_groupB (hg (.inr (.inl rfl))) (by decide)
    | groupC => exact hend tableOf_groupC (hg (.inr (.inr rfl))) (by decide)
    | memberInject => exact hend tableOf_memberInject (hmem (.inl rfl)) (by decide)
    | memberB => exact hend tableOf_memberB (hmem (.inr (.inl rfl))) (by decide)
    | memberC => exact hend tableOf_memberC (hmem (.inr (.inr rfl))) (by decide)

/-- Settles O51: a value that passes its checks is written by its object, which the table of objects finds, and is answered or waits as the
object says; a routing table's entries are put in place one after the other. -/
theorem unitAndLinkWrites : Obligations.UnitAndLinkWrites := ⟨unitWrites, linkAndClockWrites, routesChange⟩

end Sys2Proof.Machine
end

section
/-!
SUPPORT. A command that enters, and GATHER (R178, R188, R357, R363).
-/
namespace Sys2Proof.Machine
open Host

/-! ### A command that enters -/

/-- The command that a slot becomes (R357, R363). -/
def newCmd (info : List Nat) (q : Fin 64) (c : Slot) (s : State) : Cmd :=
  { info := info, id := s.host.nextCmd, sq := q, slot := c, step := slotStep s c, started := false, xorder := s.mem.xlate.order,
    redo := false }

theorem enterCmd_snd {c : Slot} (h1 : slotOpcode c ≠ 1) (h2 : slotOpcode c ≠ 2) (info : List Nat) (q : Fin 64) (s : State) :
    (enterCmd info q c s).2 = newCmd info q c s := by simp [enterCmd, newCmd, h1, h2]

theorem skippedByVerdict_enterCmd (info : List Nat) (q : Fin 64) (c : Slot) (s : State) (k : Cmd) :
    skippedByVerdict (enterCmd info q c s).1 k = skippedByVerdict s k := by
  obtain ⟨h, c', he⟩ := enterCmd_eq info q c s
  rw [he]; rfl

/-- A command that passes its checks enters, and the effect of its opcode follows. -/
theorem commandAtHead_enters {s s' : State} {q : Fin 64} {op : Nat} {c : Slot} {info : List Nat} (r : OpRule)
    (h : Passes r.check op q c info s s') (h1 : op ≠ 1) (h2 : op ≠ 2) :
    commandAtHead op r q c s = useTurn q (r.effect (newCmd info q c s') (enterCmd info q c s').1) := by
  obtain ⟨hr, -, hs, -⟩ := id h
  have ho := reachesHead_opcode hr
  rw [commandAtHead_passes r h (by rw [skippedByVerdict_enterCmd]; exact hs), enterCmd_snd (ho ▸ h1) (ho ▸ h2)]

theorem useTurn_host {s u : State} (h : u.host = s.host) (q : Fin 64) : (useTurn q u).host = (useTurn q s).host := by simp only [useTurn, h]

/-- A command whose effect leaves the host interface and the clocks alone has entered. -/
theorem entered_of_effect {info : List Nat} {q : Fin 64} {c : Slot} {s v : State} (hh : v.host = (enterCmd info q c s).1.host)
    (hc : v.clk = (enterCmd info q c s).1.clk) : Entered q c info s (useTurn q v) := ⟨useTurn_host hh q, hc⟩

/-! ### Admissions of the row engines -/

theorem joinBatch_eq (table : Nat) (step : Option (BitVec 64)) (cmd version : Nat) (s : State) :
    ∃ b, joinBatch table step cmd version s = { s with rows := { s.rows with batches := b } } := by
  unfold joinBatch
  split <;> exact ⟨_, rfl⟩

/-- A command joins the batch of its delta table too, where it has one (R178). -/
theorem joinBatch_both (dt : Option Table) (dv : Option TabVer) (step : Option (BitVec 64)) (cmd : Nat) (s : State) :
    ∃ b, (match dt, dv with | some t, some v => joinBatch t.id step cmd v.version s | _, _ => s) =
      { s with rows := { s.rows with batches := b } } := by
  split
  · exact joinBatch_eq ..
  · exact ⟨_, rfl⟩

theorem findTable_id {s : State} {id : Nat} {t : Table} (h : findTable s id = some t) : t.id = id := by
  have := List.find?_some h
  simpa using this

theorem gatherAdmit_eq {k : Cmd} {s : State} {t : Table} (ht : findTable s (gTable k.slot.pay) = some t) :
    ∃ b g, gatherAdmit k s = updEng (gEngine k.slot.pay) (fun x => { x with queue := x.queue ++ [.gather g] })
        { s with rows := { s.rows with batches := b } } ∧
      g.cmd = k.id ∧ g.slot = k.slot ∧ g.step = k.step ∧ g.p0 = k.info.getD 0 0 ∧ g.p1 = k.info.getD 1 0 ∧ g.next = 0 ∧ g.stop = none ∧
      g.desc = checkedVersion s t k.step (fld k.slot.pay 95 64) := by
  unfold gatherAdmit
  extract_lets p
  split
  case h_1 hn => cases hn.symm.trans ht
  case h_2 t' ht' =>
  obtain rfl := Option.some.inj (ht'.symm.trans ht)
  rename_i dt dv _ _
  extract_lets v s1 s2 g
  have h1 : ∃ b, s1 = { s with rows := { s.rows with batches := b } } := joinBatch_eq ..
  have h2 : ∃ b, s2 = { s with rows := { s.rows with batches := b } } := by
    obtain ⟨b, hb⟩ := h1
    obtain ⟨b', hb'⟩ := joinBatch_both dt dv k.step k.id s1
    refine ⟨b', hb'.trans ?_⟩
    rw [hb]
  obtain ⟨b, hb⟩ := h2
  exact ⟨b, g, by rw [hb], rfl, rfl, rfl, rfl, rfl, rfl, rfl, rfl⟩

theorem getEng_updEng (e f : Fin 16) (g : Engine → Engine) (s : State) :
    getEng (updEng e g s) f = if f = e then g (getEng s f) else getEng s f := by
  by_cases h : f = e
  · subst h; rw [if_pos rfl]; exact updAt_same ..
  · rw [if_neg h]; exact updAt_other _ h g

theorem getEng_updEng_same (e : Fin 16) (g : Engine → Engine) (s : State) : getEng (updEng e g s) e = g (getEng s e) := updAt_same ..

theorem getEng_updEng_other {e f : Fin 16} (h : f ≠ e) (g : Engine → Engine) (s : State) : getEng (updEng e g s) f = getEng s f :=
  updAt_other _ h g

end Sys2Proof.Machine
end

section
/-!
SUPPORT. The commands of the row engines stand in their queues (R178, R188, R196, R201, R212, R222, R240; O26).
-/
namespace Sys2Proof.Machine
open Host

/-- What a command that enters finds: the state it was checked in, but for the host interface and the clocks. -/
def AsEntered (info : List Nat) (q : Fin 64) (c : Slot) (s t : State) : Prop :=
  t = (enterCmd info q c s).1 ∧ ∃ h k, t = { s with host := h, clk := k }

section
variable {s s' : State} {q : Fin 64} {c : Slot} {info : List Nat} {r : OpRule} {op : Nat}

/-- A command that passes its checks enters, and its effect takes place on what it finds. -/
theorem enters (h : Passes r.check op q c info s s') (h1 : op ≠ 1) (h2 : op ≠ 2) :
    ∃ t, AsEntered info q c s' t ∧ go (commandAtHead op r q c s) = .next (useTurn q (r.effect (newCmd info q c s') t)) :=
  ⟨_, ⟨rfl, enterCmd_eq info q c s'⟩, congrArg Outcome.next (commandAtHead_enters r h h1 h2)⟩

theorem AsEntered.entered {t v : State} (ht : AsEntered info q c s' t) (hh : v.host = t.host) (hc : v.clk = t.clk) :
    Entered q c info s' (useTurn q v) := by
  obtain ⟨rfl, -⟩ := ht
  exact entered_of_effect hh hc

theorem AsEntered.sameBut {t v : State} (ht : AsEntered info q c s' t) {ps : List Part} (h : SameBut ps t v)
    (hps : .host ∈ ps ∧ .clk ∈ ps) : SameBut ps s' (useTurn q v) := by
  obtain ⟨-, h', k', rfl⟩ := ht
  obtain ⟨hh, hk⟩ := hps
  have hin : SameBut [.host, .clk] s' { s' with host := h', clk := k' } := sameBut_rfl
  have hout : SameBut [.host] v (useTurn q v) := sameBut_rfl
  exact sameBut_trans (sameBut_weaken hin (by simp [hh, hk])) (sameBut_trans h (sameBut_weaken hout (by simp [hh])))

end

theorem prescanAdmit_eq {k : Cmd} {s : State} {t : Table} (ht : findTable s (gTable k.slot.pay) = some t) :
    ∃ (f : PreRun → PreRun) (r : PreRun), r.cmd = k.id ∧ r.table = t.cur ∧ r.gen = !(getEng s (gEngine k.slot.pay)).lastGen ∧
      prescanAdmit k s = updEng (gEngine k.slot.pay) (fun g => { g with
          lastGen := r.gen, allocs := g.allocs.filter fun a => a.gen != r.gen, prescans := g.prescans.map f ++ [r] })
        (updStore (gEngine k.slot.pay) (clearTags 0x3000000 0x3100000 fun t => bit t 46 == r.gen) s) := by
  unfold prescanAdmit
  extract_lets e
  split
  case h_1 hn => cases hn.symm.trans ht
  case h_2 t' ht' =>
  obtain rfl := Option.some.inj (ht'.symm.trans ht)
  exact ⟨_, _, rfl, rfl, rfl, rfl⟩

/-- A step with a new scatter of a table on an engine (R212). -/
def withScatter (id : Nat) (r : ScatterRun) (x : EngineStep) : EngineStep :=
  { x with nextSeq := r.seq + 1, tables := x.tables ++ [id], scatters := x.scatters ++ [r] }

theorem scatterAdmit_eq {k : Cmd} {s : State} {t : Table} {n : BitVec 64} (ht : findTable s (gTable k.slot.pay) = some t)
    (hn : k.step = some n) :
    ∃ (b : List Batch) (r : ScatterRun), r.cmd = k.id ∧ r.seq = ((engStep s (gEngine k.slot.pay) n).map fun x => x.nextSeq).getD 0 ∧
      r.p0 = k.info.getD 0 0 ∧ r.p1 = k.info.getD 1 0 ∧ r.next = 0 ∧
      scatterAdmit k s = updEng (gEngine k.slot.pay) (withStep n (withScatter t.id r)) { s with rows := { s.rows with batches := b } } := by
  unfold scatterAdmit
  extract_lets p e
  split
  case h_1 t' n' ht' hn' =>
    obtain rfl := Option.some.inj (ht'.symm.trans ht)
    obtain rfl := Option.some.inj (hn'.symm.trans hn)
    extract_lets v seq r s1
    obtain ⟨b, hb⟩ : ∃ b, s1 = { s with rows := { s.rows with batches := b } } := joinBatch_eq ..
    exact ⟨b, r, rfl, rfl, rfl, rfl, rfl, by rw [hb]; rfl⟩
  case h_2 hno => exact (hno t n ht hn).elim

theorem rowCommandsQueue : Claims.RowCommandsQueue := by
  intro s s' q c info e n alone
  refine ⟨fun hp t ht => ?_, fun hp t ht => ?_, fun hp => ?_, fun hp t m ht hm => ?_, fun hp m hm => ?_, fun hp => ?_⟩
  · obtain ⟨v, hv, he⟩ := enters (r := gatherRule) hp (by decide) (by decide)
    obtain ⟨h, k, hvs⟩ := id hv.2
    obtain ⟨b, g, hg, hcmd, hslot, hstep, h0, h1, hnext, hstop, hdesc⟩ :=
      gatherAdmit_eq (k := newCmd info q c s') (s := v) (t := t) (by rw [hvs]; exact ht)
    have he : exec (.gather q c) s = .next (useTurn q (gatherAdmit (newCmd info q c s') v)) := he
    rw [hg] at he
    refine ⟨_, g, he, ⟨hv.entered rfl rfl, by rw [hvs]; rfl, fun f hf => ?_⟩, ?_, hcmd, hslot, hstep, h0, h1, hnext, hstop, ?_,
      hv.sameBut sameBut_rfl (by simp)⟩
    · exact (getEng_updEng_other hf ..).trans (by rw [hvs]; rfl)
    · refine (congrArg (fun g => g.queue) (getEng_updEng_same ..)).trans ?_
      rw [hvs]; rfl
    · rw [hdesc, hvs]; rfl
  · obtain ⟨v, hv, he⟩ := enters (r := prescanRule) hp (by decide) (by decide)
    obtain ⟨h, k, hvs⟩ := id hv.2
    obtain ⟨f, r, hcmd, htab, hgen, hr⟩ := prescanAdmit_eq (k := newCmd info q c s') (s := v) (t := t) (by rw [hvs]; exact ht)
    have he : exec (.prescan q c) s = .next (useTurn q (prescanAdmit (newCmd info q c s') v)) := he
    have hgen : r.gen = !(getEng s' e).lastGen := by rw [hgen, hvs]; rfl
    rw [hr] at he
    have heng : getEng (updEng e _ _) e = _ := getEng_updEng_same e (fun g => { g with
      lastGen := r.gen, allocs := g.allocs.filter fun a => a.gen != r.gen, prescans := g.prescans.map f ++ [r] })
      (updStore e (clearTags 0x3000000 0x3100000 fun t => bit t 46 == r.gen) v)
    refine ⟨_, r, he, ⟨hv.entered rfl rfl, by rw [hvs]; rfl, fun f hf => ?_⟩, ?_, ?_, hcmd, htab, hgen, ?_, fun a ha => ?_, ?_,
      hv.sameBut sameBut_rfl (by simp)⟩
    · exact (getEng_updEng_other hf ..).trans (by rw [hvs]; rfl)
    · refine (congrArg (fun g => g.prescans.getLast?) heng).trans ?_
      simp
    · refine (congrArg (fun g => g.prescans.length) heng).trans ?_
      rw [hvs]; simp [getEng, updStore]
    · exact (congrArg (fun g => g.lastGen) heng).trans hgen
    · have ha := (congrArg (fun g => a ∈ g.allocs) heng).mp ha
      have hne : a.gen ≠ r.gen := by simpa using (List.mem_filter.mp ha).2
      rw [hgen] at hne
      revert hne
      cases a.gen <;> cases (getEng s' e).lastGen <;> simp
    · rw [hvs, ← hgen]; rfl
  · obtain ⟨v, hv, he⟩ := enters (r := emberRefreshRule) hp (by decide) (by decide)
    obtain ⟨h, k, hvs⟩ := id hv.2
    refine ⟨_, { cmd := n, slot := c, step := slotStep s' c, next := 0, installs := [], failed := none }, he,
      ⟨hv.entered rfl rfl, by rw [hvs]; rfl, fun f hf => ?_⟩, ?_, rfl, rfl, rfl, rfl, rfl, hv.sameBut sameBut_rfl (by simp)⟩
    · exact (getEng_updEng_other hf ..).trans (by rw [hvs]; rfl)
    · refine (congrArg (fun g => g.queue) (getEng_updEng_same ..)).trans ?_
      rw [hvs]; rfl
  · obtain ⟨v, hv, he⟩ := enters (r := scatterRule) hp (by decide) (by decide)
    obtain ⟨h, k, hvs⟩ := id hv.2
    obtain ⟨b, r, hcmd, hseq, h0, h1, hnext, hr⟩ :=
      scatterAdmit_eq (k := newCmd info q c s') (s := v) (t := t) (n := m) (by rw [hvs]; exact ht) hm
    have he : exec (.scatter q c) s = .next (useTurn q (scatterAdmit (newCmd info q c s') v)) := he
    rw [hr] at he
    have hst : stepOf m (withStep m (withScatter t.id r) (getEng v e)) =
        some (withScatter t.id r ((stepOf m (getEng v e)).getD (freshStep m))) :=
      stepOf_withStep (f := withScatter t.id r) (fun _ => rfl) _
    refine ⟨_, r, _, he, ⟨hv.entered rfl rfl, by rw [hvs]; rfl, fun f hf => ?_⟩, 
      (congrArg (stepOf m) (getEng_updEng_same ..)).trans hst, ?_, hcmd, ?_, rfl, h0, h1, hnext, ?_, hv.sameBut sameBut_rfl (by simp)⟩
    · exact (getEng_updEng_other hf ..).trans (by rw [hvs]; rfl)
    · simp [withScatter]
    · rw [hseq, hvs]; rfl
    · simp [withScatter, findTable_id ht]
  · obtain ⟨v, hv, he⟩ := enters (r := rowOptimiseRule) hp (by decide) (by decide)
    obtain ⟨h, k, hvs⟩ := id hv.2
    have heff : rowOptimiseRule.effect (newCmd info q c s') v = { v with rows := { v.rows with
        optimises := v.rows.optimises ++ [{ cmd := n, step := m, mask := BitVec.ofNat 16 (fld c.pay 15 0), found := false }] } } := by
      simp only [rowOptimiseRule, newCmd, hm]; rfl
    rw [heff] at he
    exact ⟨_, he, hv.entered rfl rfl, by rw [hvs]; rfl, hv.sameBut sameBut_rfl (by simp)⟩
  · obtain ⟨v, hv, he⟩ := enters (r := exportRule) hp (by decide) (by decide)
    obtain ⟨h, k, hvs⟩ := id hv.2
    refine ⟨_, _, he, hv.entered rfl rfl, by rw [hvs]; rfl, rfl, rfl, rfl, ?_, hv.sameBut sameBut_rfl (by simp)⟩
    simp [newCmd, xDense, findTable, xTable]

end Sys2Proof.Machine
end

section
/-!
SUPPORT. A command that starts as it enters (R29, R36), and completes with what it sets.
-/
namespace Sys2Proof.Machine
open Host

/-! ### A command that starts as it enters -/

theorem mayBegin_enterCmd (info : List Nat) (q : Fin 64) (c : Slot) (s : State) (step : Option (BitVec 64)) :
    mayBegin (enterCmd info q c s).1 c step = mayBegin s c step := by
  have hpark : ((enterCmd info q c s).1.clk.park == .awake || runsParked (slotOpcode c)) =
      (s.clk.park == .awake || runsParked (slotOpcode c)) := by
    show ((wakeFor (slotOpcode c) s).clk.park == _ || _) = _
    unfold wakeFor
    split
    · next h => rw [h.1]; rfl
    · rfl
  obtain ⟨h, k, he⟩ := enterCmd_eq info q c s
  unfold mayBegin
  rw [hpark, he]
  rfl

theorem AsEntered.mayBegin {info : List Nat} {q : Fin 64} {c : Slot} {s t : State} (ht : AsEntered info q c s t)
    (step : Option (BitVec 64)) : mayBegin t c step = mayBegin s c step := by
  rw [ht.1, mayBegin_enterCmd]

/-- A command that starts as it enters is marked, and its step may remember it (R29, R36). -/
theorem startCmd_entered {info : List Nat} {q : Fin 64} {c : Slot} {s t : State} (h1 : slotOpcode c ≠ 1) (h2 : slotOpcode c ≠ 2)
    (ht : AsEntered info q c s t) (hfree : findCmd s s.host.nextCmd = none) :
    ∃ tr, startCmd s.host.nextCmd t =
      { t with host := { t.host with cmds := s.host.cmds ++ [{ newCmd info q c s with started := true }] }, train := tr } := by
  obtain ⟨rfl, -⟩ := ht
  have hcmds : mapIf (fun k : Cmd => k.id == s.host.nextCmd) (fun k => { k with started := true }) (enterCmd info q c s).1.host.cmds =
      s.host.cmds ++ [{ newCmd info q c s with started := true }] := by
    rw [enterCmd_cmds, enterCmd_snd h1 h2, mapIf, List.map_append]
    congr 1
    · refine (List.map_congr_left fun k hk => if_neg ?_).trans (List.map_id _)
      exact List.find?_eq_none.mp hfree k hk
    · simp [newCmd]
  have hnote (k : Cmd) (v : State) : ∃ tr, noteEarly k [] v = { v with train := tr } := by
    unfold noteEarly
    split
    · exact ⟨_, rfl⟩
    · exact ⟨_, rfl⟩
  unfold startCmd
  rw [hcmds]
  dsimp only
  split
  · split
    · exact hnote ..
    · exact ⟨_, rfl⟩
  · exact ⟨_, rfl⟩

/-- A command that starts as it enters, changes the row engines and ends with OK has completed at once. -/
theorem atOnce_started {info : List Nat} {q : Fin 64} {c : Slot} {s t : State} (h1 : slotOpcode c ≠ 1) (h2 : slotOpcode c ≠ 2)
    (ht : AsEntered info q c s t) (hfree : findCmd s s.host.nextCmd = none) (R : Rows) (d : Nat) :
    ∃ u, useTurn q (completeCmd s.host.nextCmd .ok d { startCmd s.host.nextCmd t with rows := R }) = u ∧ AtOnce q c info d s u ∧
      u.rows = R ∧ StartedNow q c info s u ∧ SameBut [.host, .clk, .rows, .train] s u := by
  obtain ⟨tr, hstart⟩ := startCmd_entered h1 h2 ht hfree
  have hs : StartedNow q c info s { startCmd s.host.nextCmd t with rows := R } := by rw [StartedNow, ← ht.1]
  obtain ⟨h, he, hat⟩ := atOnce_completeCmd (v := { startCmd s.host.nextCmd t with rows := R }) (info := info) (q := q) (c := c)
    (k := { newCmd info q c s with started := true }) hfree rfl rfl rfl rfl (by rw [hstart, ← ht.1]) (by rw [hstart, ← ht.1]) d
  refine ⟨_, he, hat, rfl, hs, ?_⟩
  obtain ⟨h', k', rfl⟩ := ht.2
  rw [hstart]
  exact sameBut_rfl

/-! ### Tables -/

/-- A command that sets something of the row engines at once (R178, R219, R235). -/
theorem runsAtOnce {s : State} {q : Fin 64} {c : Slot} {op : Nat} {r : OpRule} {effect : Cmd → State → State × Option (Status × Nat)}
    (h : Passes r.check op q c [] s s) (h1 : op ≠ 1) (h2 : op ≠ 2) (hr : r.effect = runAtOnce effect)
    (hb : mayBegin s c (slotStep s c) = true) {R : Rows} {d : Nat}
    (heff : ∀ t, t.rows = s.rows → effect (newCmd [] q c s) t = ({ t with rows := R }, some (.ok, d))) :
    ∃ u, go (commandAtHead op r q c s) = .next u ∧ AtOnce q c [] d s u ∧ u.rows = R ∧ StartedNow q c [] s u ∧
      SameBut [.host, .clk, .rows, .train] s u := by
  obtain ⟨hreach, -, -, hfree⟩ := id h
  have ho := reachesHead_opcode hreach
  obtain ⟨t, ht, he⟩ := enters h h1 h2
  obtain ⟨tr, hstart⟩ := startCmd_entered (ho ▸ h1) (ho ▸ h2) ht hfree
  have hrows : (startCmd s.host.nextCmd t).rows = s.rows := by
    obtain ⟨h', k', hts⟩ := ht.2
    rw [hstart, hts]
  have hbegin : mayBegin t (newCmd [] q c s).slot (newCmd [] q c s).step = true := (ht.mayBegin _).trans hb
  obtain ⟨u, hu, hat, hR, hs, hsame⟩ := atOnce_started (ho ▸ h1) (ho ▸ h2) ht hfree R d
  refine ⟨u, ?_, hat, hR, hs, hsame⟩
  rw [he, hr, runAtOnce, if_neg (by simp [hbegin])]
  show Outcome.next (useTurn q (match (effect (newCmd [] q c s) (startCmd s.host.nextCmd t)).2 with
    | some x => completeCmd s.host.nextCmd x.1 x.2 (effect (newCmd [] q c s) (startCmd s.host.nextCmd t)).1
    | none => (effect (newCmd [] q c s) (startCmd s.host.nextCmd t)).1)) = _
  rw [heff _ hrows]
  exact congrArg Outcome.next hu

end Sys2Proof.Machine
end

section
/-!
SUPPORT. TABLE_SET, OPTIM_SET and DELTA_MAP (R177, R178, R219, R235; O26).
-/
namespace Sys2Proof.Machine
open Host

theorem reachesHead_notSkipped {s : State} {q : Fin 64} {op : Nat} {c : Slot} (h : reachesHead s q op c = true) :
    skippedByVerdict s (enterCmd [] q c s).2 = false := by
  simp only [reachesHead, Bool.and_eq_true, Bool.not_eq_true'] at h
  exact h.1.2

theorem findTable_mapIf {id : Nat} {f : Table → Table} (hf : ∀ t, (f t).id = t.id) (ts : List Table) (i : Nat) :
    (mapIf (fun t => t.id == id) f ts).find? (fun t => t.id == i) =
        (ts.find? fun t => t.id == i).map fun t => if i = id then f t else t := by
  induction ts with
  | nil => rfl
  | cons t ts ih =>
    rw [mapIf, List.map_cons] at *
    rw [List.find?_cons, List.find?_cons]
    have hid : (if (t.id == id) = true then f t else t).id = t.id := by split <;> simp [hf]
    rw [hid]
    cases hi : t.id == i with
    | false => exact ih
    | true =>
      obtain rfl : t.id = i := by simpa using hi
      simp

/-- A table that had no version before (R177). -/
def firstTable (d : BitVec 512) (v : Nat) : Table :=
  { id := tdId d, cur := { desc := setFld d 399 368 v, version := v }, prev := none, stale := false, bcasts := [], optim := none,
    keyDva := none }

/-- TABLE_SET of a table that is not there yet makes its first version; of another it makes the next (R177). -/
theorem tableSetEffect_eq (c : Slot) (s : State) :
    let d := setDesc c
    let v := match findTable s (tdId d) with | some t => t.cur.version + 1 | none => 1
    ∃ ts, (∀ t, t.rows = s.rows → tableSetEffect c t = ({ t with rows := { s.rows with tables := ts } }, some (.ok, v))) ∧
      (∃ t, (ts.find? fun t => t.id == tdId d) = some t ∧ t.cur = { desc := setFld d 399 368 v, version := v } ∧
        t.prev = (findTable s (tdId d)).map (fun t => t.cur) ∧ t.stale = false ∧ t.keyDva = none ∧
        t.optim = ((findTable s (tdId d)).bind fun t => t.optim)) ∧
      ∀ i, i ≠ tdId d → (ts.find? fun t => t.id == i) = findTable s i := by
  intro d v
  have hfind {t : State} (h : t.rows = s.rows) : findTable t (tdId (setDesc c)) = findTable s (tdId d) := by rw [findTable, h]; rfl
  cases hs : findTable s (tdId d) with
  | none =>
    have hv : v = 1 := by simp only [v, hs]
    have hnone : (s.rows.tables.find? fun t => t.id == tdId d) = none := hs
    refine ⟨s.rows.tables ++ [firstTable d v], fun t h => ?_, ⟨firstTable d v, ?_, rfl, rfl, rfl, rfl, rfl⟩, fun i hi => ?_⟩
    · unfold tableSetEffect
      dsimp only
      rw [hfind h, hs]
      simp only [hv, h]; rfl
    · rw [List.find?_append, hnone]
      simp [firstTable]
    · rw [List.find?_append, findTable]
      have : (tdId d == i) = false := by simpa using fun e => hi e.symm
      simp [firstTable, this]
  | some x =>
    have hv : v = x.cur.version + 1 := by simp only [v, hs]
    have hx := findTable_id hs
    have hfound (f : Table → Table) (hf : ∀ t, (f t).id = t.id) (i : Nat) := findTable_mapIf (id := tdId d) hf s.rows.tables i
    refine ⟨mapIf (fun t => t.id == tdId d) (fun t => { t with
      cur := { desc := setFld d 399 368 v, version := v }, prev := some t.cur, stale := false, keyDva := none }) s.rows.tables,
      fun t h => ?_,
      ⟨{ x with cur := { desc := setFld d 399 368 v, version := v }, prev := some x.cur, stale := false, keyDva := none }, ?_,
        rfl, rfl, rfl, rfl, rfl⟩, fun i hi => ?_⟩
    · unfold tableSetEffect
      dsimp only
      rw [hfind h, hs]
      simp only [updTable, h, hv, hx, d]
    · rw [hfound _ (by exact fun _ => rfl), show (s.rows.tables.find? fun t => t.id == tdId d) = some x from hs]
      simp
    · rw [hfound _ (by exact fun _ => rfl), findTable]
      simp [hi]

theorem tablesSet : Claims.TablesSet := by
  intro s q c hb
  refine ⟨fun h hcheck => ?_, fun h => ?_, fun h => ?_⟩
  · intro d v
    have hp : Passes tableSetRule.check 0x20 q c [] s s :=
      ⟨h, .inl ⟨congrArg (Prod.mk s) hcheck, rfl⟩, reachesHead_notSkipped h, reachesHead_free h⟩
    obtain ⟨ts, heff, hnew, hold⟩ := tableSetEffect_eq c s
    obtain ⟨u, he, hat, hR, hs, hsame⟩ := runsAtOnce hp (by decide) (by decide) rfl hb heff
    refine ⟨u, he, hat, ?_, fun i hi => ?_, by rw [hR], by rw [hR], hs, hsame⟩
    · rw [findTable, hR]; exact hnew
    · rw [findTable, hR]; exact hold i hi
  · obtain ⟨u, he, hat, hR, hs, hsame⟩ := runsAtOnce h (by decide) (by decide) rfl hb
      (effect := fun k s => (updTable (tdId (setDesc k.slot)) (fun t => { t with optim := some (setDesc k.slot) }) s, some (.ok, 0)))
      fun t ht => by rw [updTable, ht]
    exact ⟨u, he, hat, hR, hs, hsame⟩
  · obtain ⟨u, he, hat, hR, hs, hsame⟩ := runsAtOnce h (by decide) (by decide) rfl hb
      (effect := fun k s => (updTable (fld k.slot.pay 11 0) (fun t => { t with keyDva := some (fld k.slot.pay 111 64) }) s, some (.ok, 0)))
      fun t ht => by rw [updTable, ht]
    exact ⟨u, he, hat, hR, hs, hsame⟩

end Sys2Proof.Machine
end

section
/-!
SUPPORT. MERGE and VERSION_RETIRE (R179, R214), and with them O26.
-/
namespace Sys2Proof.Machine
open Host

/-! ### MERGE -/

/-- A MERGE whose step does not let it begin stays in flight, and nothing is sealed (R30, R214). -/
theorem merge_waits {k : Cmd} {n : BitVec 64} {s : State} (hn : k.step = some n) (hb : mayBegin s k.slot (some n) = false) :
    mergeRule.effect k s = s := by simp [mergeRule, hn, hb]

/-- A MERGE that may begin starts (R214). -/
theorem merge_begins {k : Cmd} {n : BitVec 64} {s : State} (hn : k.step = some n) (hs : k.started = false)
    (hb : mayBegin s k.slot (some n) = true) : mergeRule.effect k s = startMerge k n s := by simp [mergeRule, hn, hb, hs]

/-- The MERGE that one engine has yet to merge for (R214). -/
def mergeOf (id : Nat) (n : BitVec 64) (e : Fin 16) : MergeCmd := { cmd := id, step := n, left := [e], failed := none }

/-- A state whose only MERGE waits for one engine. -/
def withMerge (id : Nat) (n : BitVec 64) (e : Fin 16) (s : State) : State := { s with rows := { s.rows with merges := [mergeOf id n e] } }

/-- A MERGE of one engine that has not merged seals it. -/
theorem startMerge_one {k : Cmd} {n : BitVec 64} {e : Fin 16} {s : State} (he : maskEngines k.slot.pay = [e])
    (hm : ∀ x, engStep s e n = some x → x.merged = false) (hnone : (startCmd k.id s).rows.merges = []) :
    startMerge k n s = sealEngine n (withMerge k.id n e (startCmd k.id s)) e := by
  have hleft : (((engStep s e n).map fun x => x.merged) == some true) = false := by
    cases h : engStep s e n with
    | none => rfl
    | some x => simp [hm x h]
  simp only [startMerge, he, List.filter_cons, hleft, List.filter_nil, hnone]
  rfl

/-- An engine that has keys of a step is sealed and has yet to merge them (R214). -/
theorem sealEngine_of_keys {s : State} {e : Fin 16} {n : BitVec 64} {x : EngineStep} (hx : engStep s e n = some x) (hkeys : x.keys ≠ []) :
    ∃ g, sealEngine n s e = updEng e g s ∧ stepOf n (g (getEng s e)) = some (markSealed x) := by
  have hk : x.keys.isEmpty = false := by simpa using hkeys
  cases h : x.sealed with
  | true => exact ⟨id, by simp [sealEngine, hx, h, updEng_self], by rw [markSealed, ← h]; exact hx⟩
  | false =>
    refine ⟨withStep n markSealed, ?_, ?_⟩
    · simp only [sealEngine, hx, h, hk]; rfl
    · rw [stepOf_withStep (f := markSealed) fun _ => rfl, show stepOf n (getEng s e) = some x from hx]; rfl

/-- The last engine of a MERGE has merged, and the command completes (R214). -/
theorem engineMerged_last (id : Nat) (n : BitVec 64) (e : Fin 16) (s : State) : engineMerged e n .ok (withMerge id n e s) =
    completeCmd id .ok 0 { updEng e (withStep n markMerged) s with
      rows := { (updEng e (withStep n markMerged) s).rows with merges := [] } } := by
  unfold engineMerged
  simp only [withMerge, mergeOf, updEngStep, updEng, mapIf, List.any_cons, List.any_nil, List.map_cons, List.map_nil, beq_self_eq_true,
    List.contains_cons, List.contains_nil, Bool.or_false, Bool.and_self, if_true, List.filter_cons, List.filter_nil, bne_self_eq_false,
    Bool.false_eq_true, if_false, List.isEmpty_nil, Bool.not_true, List.foldl_cons, List.foldl_nil, fine]
  rfl

/-- An engine without the step has merged at once, and so has the MERGE of it alone (R214). -/
theorem sealEngine_last {s : State} {e : Fin 16} {n : BitVec 64} (hx : engStep s e n = none) (id : Nat) :
    sealEngine n (withMerge id n e s) e = completeCmd id .ok 0 { s with
      rows := { s.rows with
        merges := [], engines := updAt s.rows.engines e fun g => withStep n markMerged (withStep n markSealed g) } } := by
  have hx' : engStep (withMerge id n e s) e n = none := hx
  have h : sealEngine n (withMerge id n e s) e = engineMerged e n .ok (withMerge id n e (updEng e (withStep n markSealed) s)) := by
    rw [sealEngine, hx']; rfl
  rw [h, engineMerged_last, updEng_updEng]
  rfl

theorem mergesSeal : Claims.MergesSeal := by
  intro s q c e n hp he hn hnone
  obtain ⟨hreach, -, -, hfree⟩ := id hp
  have ho := reachesHead_opcode hreach
  obtain ⟨t, ht, hexec⟩ := enters (r := mergeRule) hp (by decide) (by decide)
  obtain ⟨h', k', hts⟩ := id ht.2
  have hexec : exec (.merge q c) s = .next (useTurn q (mergeRule.effect (newCmd [] q c s) t)) := hexec
  have hbegin : mayBegin t c (some n) = mayBegin s c (some n) := ht.mayBegin _
  obtain ⟨tr, hstart⟩ := startCmd_entered (by rw [ho]; decide) (by rw [ho]; decide) ht hfree
  have hrows : (startCmd s.host.nextCmd t).rows = s.rows := by rw [hstart, hts]
  refine ⟨fun hb => ?_, fun x hb hx hkeys hmerged => ?_, fun hb hx => ?_⟩
  · rw [merge_waits hn (by exact hbegin.trans hb)] at hexec
    exact ⟨_, hexec, ht.entered rfl rfl, ht.sameBut (sameBut_refl ..) (by simp)⟩
  · have hx' : engStep t e n = some x := by rw [hts]; exact hx
    rw [merge_begins hn rfl (by exact hbegin.trans hb), startMerge_one he (fun y hy => by
      obtain rfl := Option.some.inj (hy.symm.trans hx'); exact hmerged)
      (by exact (congrArg (fun r => r.merges) hrows).trans hnone)] at hexec
    obtain ⟨g, hg, hgx⟩ := sealEngine_of_keys (s := withMerge s.host.nextCmd n e (startCmd s.host.nextCmd t)) (e := e) (n := n) (x := x)
      (by rw [engStep, getEng, withMerge, hrows]; exact hx) hkeys
    have hexec : exec (.merge q c) s =
      .next (useTurn q (sealEngine n (withMerge s.host.nextCmd n e (startCmd s.host.nextCmd t)) e)) := hexec
    rw [hg] at hexec
    have hst : StartedNow q c [] s (startCmd s.host.nextCmd t) := by rw [StartedNow, ← ht.1]
    refine ⟨_, hexec, ?_, rfl, (congrArg (stepOf n) (getEng_updEng_same ..)).trans hgx, fun f hf => ?_, hst, ?_⟩
    · rw [← ht.1]; exact useTurn_host rfl q
    · refine (getEng_updEng_other hf ..).trans ?_
      rw [getEng, withMerge, hrows]; rfl
    · rw [hstart, hts]; exact sameBut_rfl
  · have hx' : engStep t e n = none := by rw [hts]; exact hx
    rw [merge_begins hn rfl (by exact hbegin.trans hb), startMerge_one he (fun y hy => by cases hy.symm.trans hx')
      (by exact (congrArg (fun r => r.merges) hrows).trans hnone)] at hexec
    have hlast := sealEngine_last (s := startCmd s.host.nextCmd t) (e := e) (n := n)
        (by rw [engStep, getEng, hrows]; exact hx) s.host.nextCmd
    have hexec : exec (.merge q c) s =
      .next (useTurn q (sealEngine n (withMerge s.host.nextCmd n e (startCmd s.host.nextCmd t)) e)) := hexec
    rw [hlast, hrows] at hexec
    obtain ⟨u, hu, hat, hR, hs, hsame⟩ := atOnce_started (by rw [ho]; decide) (by rw [ho]; decide) ht hfree
      { s.rows with merges := [], engines := updAt s.rows.engines e fun g => withStep n markMerged (withStep n markSealed g) } 0
    have hsame' : getEng u e = withStep n markMerged (withStep n markSealed (getEng s e)) := by rw [getEng, hR]; exact updAt_same ..
    refine ⟨u, hexec.trans (congrArg Outcome.next hu), hat, by rw [hR], ?_, fun f hf => ?_, hs, hsame⟩
    · rw [show engStep u e n = stepOf n (getEng u e) from rfl, hsame', stepOf_withStep (f := markMerged) fun _ => rfl,
        stepOf_withStep (f := markSealed) fun _ => rfl, show stepOf n (getEng s e) = none from hx]
      rfl
    · rw [getEng, hR]; exact updAt_other _ hf _

theorem versionsRetire : Claims.VersionsRetire := by
  intro s id t p ht hprev hidle mine
  show go (match (findTable s id.val).bind fun t => t.prev with | none => s | some p => _) = _
  rw [show ((findTable s id.val).bind fun t => t.prev) = some p by rw [ht]; exact hprev]
  dsimp only
  rw [if_neg (by simp [hidle])]
  rfl

/-- Settles O26: a command that passes its checks enters, and its rule puts it in its unit's queue, or, where it starts as it enters,
changes the row engines alone and completes. -/
theorem tablesAndRowCommands : Obligations.TablesAndRowCommands := ⟨tablesSet, rowCommandsQueue, mergesSeal, versionsRetire⟩

end Sys2Proof.Machine
end

section
/-!
SUPPORT. What a read leaves of the row engines (R273 to R277, R289 to R299).
-/
namespace Sys2Proof.Machine
open Host

/-! ### What a read leaves of the row engines -/

/-- What the row engines hold, in their registers and in their row stores. -/
def rowSide (s : State) : Rows × Vector Mem 16 := (s.rows, s.mem.rowStore)

theorem rows_of_rowSide {s u : State} (h : rowSide u = rowSide s) : u.rows = s.rows := congrArg Prod.fst h
theorem rowStore_of_rowSide {s u : State} (h : rowSide u = rowSide s) : u.mem.rowStore = s.mem.rowStore := congrArg Prod.snd h
theorem getEng_of_rowSide {s u : State} (h : rowSide u = rowSide s) (e : Fin 16) : getEng u e = getEng s e :=
  congrArg (fun r : Rows => r.engines[e]) (rows_of_rowSide h)

theorem foldl_rowSide {α : Type} (l : List α) (f : State → α → State) (h : ∀ s x, rowSide (f s x) = rowSide s) :
    ∀ s, rowSide (l.foldl f s) = rowSide s := by
  induction l with
  | nil => exact fun _ => rfl
  | cons x l ih => exact fun s => (ih _).trans (h s x)

theorem foldl_fst_rowSide {α β : Type} (l : List α) (f : State × β → α → State × β) (h : ∀ a x, rowSide (f a x).1 = rowSide a.1) :
    ∀ a, rowSide (l.foldl f a).1 = rowSide a.1 := by
  induction l with
  | nil => exact fun _ => rfl
  | cons x l ih => exact fun a => (ih _).trans (h a x)

/-! The end of a request. -/

@[simp] theorem updReq_rowSide (id : Nat) (f : MReq → MReq) (s : State) : rowSide (updReq id f s) = rowSide s := rfl
@[simp] theorem forgetReq_rowSide (id : Nat) (s : State) : rowSide (forgetReq id s) = rowSide s := rfl
@[simp] theorem countDrop_rowSide (who : Nat) (s : State) : rowSide (countDrop who s) = rowSide s := rfl
@[simp] theorem countRecordFail_rowSide (s : State) : rowSide (countRecordFail s) = rowSide s := rfl
@[simp] theorem updUnit_rowSide (u : Fin 4) (f : CollUnit → CollUnit) (s : State) : rowSide (updUnit u f s) = rowSide s := rfl
@[simp] theorem updStacks_rowSide (f : Stacks → Stacks) (s : State) : rowSide (updStacks f s) = rowSide s := rfl
@[simp] theorem cancelScrub_rowSide (a n : Nat) (s : State) : rowSide (cancelScrub a n s) = rowSide s := rfl
@[simp] theorem memCount_rowSide (f : MemCounters → MemCounters) (s : State) : rowSide (memCount f s) = rowSide s := rfl
@[simp] theorem updFwd_rowSide (key : Nat) (f : FwdReq → FwdReq) (s : State) : rowSide (updFwd key f s) = rowSide s := rfl
@[simp] theorem sendTile_rowSide (src : Nat) (dst : Fin 128) (a : Nat) (drain : Bool) (body : WBody) (s : State) :
    rowSide (sendTile src dst a drain body s) = rowSide s := rfl

@[simp] theorem crossWeave_rowSide (who tier a n : Nat) (write : Bool) (s : State) :
    rowSide (crossWeave who tier a n write s) = rowSide s := by
  have hmesh (src dst : MeshPort) : rowSide (countMesh src dst n s) = rowSide s :=
    foldl_rowSide _ _ (fun s r => by split <;> rfl) s
  unfold crossWeave
  split
  · rfl
  · split
    · split <;> exact hmesh ..
    · rfl

theorem sendPacket_rowSide {set : PortSet} {p : Packet} {s u : State} (h : sendPacket set p s = some u) : rowSide u = rowSide s := by
  obtain ⟨hsame, -⟩ := sendPacket_portsStay h
  exact congrArg₂ Prod.mk (hsame.2 .rows (by decide)) (congrArg (fun m : MemSys => m.rowStore) (hsame.2 .mem (by decide)))

@[simp] theorem sendOrDrop_rowSide (p : Packet) (s : State) : rowSide (sendOrDrop p s) = rowSide s := by
  unfold sendOrDrop
  split
  · exact sendPacket_rowSide ‹_›
  · rfl

@[simp] theorem answerBar2_rowSide (group parts : Nat) (s : State) : rowSide (answerBar2 group parts s) = rowSide s := by
  unfold answerBar2
  extract_lets ps
  split
  · split <;> rfl
  · rfl

@[simp] theorem forwardOn_rowSide (key hub : Nat) (s : State) : rowSide (forwardOn key hub s) = rowSide s := by
  unfold forwardOn
  extract_lets ps
  split
  · extract_lets s1 st
    split
    · split <;> rfl
    · rfl
  · rfl

@[simp] theorem runAct_rowSide (r : MReq) (act : ReqAct) (st : Status) (d : Data) (s : State) :
    rowSide (runAct r act st d s) = rowSide s := by
  cases act with
  | nobody => rfl
  | remote node flow tag => exact sendOrDrop_rowSide ..
  | bar2 group parts => exact answerBar2_rowSide ..
  | forward key => exact forwardOn_rowSide ..
  | ahead => unfold runAct; dsimp only; split <;> rfl
  | record => unfold runAct; dsimp only; split <;> rfl

@[simp] theorem endReq_rowSide (id : Nat) (st : Status) (d : Data) (s : State) : rowSide (endReq id st d s) = rowSide s := by
  unfold endReq
  split
  · rfl
  · split <;> split <;> simp

@[simp] theorem orphanReq_rowSide (act : ReqAct) (id : Nat) (s : State) : rowSide (orphanReq act id s) = rowSide s := by
  unfold orphanReq
  split
  · rfl
  · split <;> simp

/-! A request that is posted. -/

@[simp] theorem takeEntry_rowSide (e : ChanEntry) (s : State) : rowSide (takeEntry e s) = rowSide s := by
  have hread : rowSide (readStack e.pa e.len s).1 = rowSide s := by unfold readStack; dsimp only; split <;> rfl
  unfold takeEntry
  extract_lets mark
  split
  · exact endReq_rowSide ..
  · exact hread

@[simp] theorem postStack_rowSide (id a n : Nat) (write : Bool) (d : Data) (s : State) :
    rowSide (postStack id a n write d s) = rowSide s := by
  unfold postStack takeNext
  extract_lets part e
  split <;> simp

@[simp] theorem sendRemote_rowSide (u : Fin 4) (r : MReq) (s : State) : rowSide (sendRemote u r s) = rowSide s := by
  -- `mkPacket` stays folded: the kernel would evaluate the packet's header.
  obtain ⟨f, hf⟩ : ∃ f, f = sendRemote := ⟨_, rfl⟩
  obtain ⟨mk, hmk⟩ : ∃ mk, mk = mkPacket := ⟨_, rfl⟩
  rw [← hf]
  delta sendRemote at hf
  rw [← hmk] at hf
  subst hf
  dsimp only
  split
  · exact endReq_rowSide ..
  · next t h =>
    have ht : rowSide t = rowSide s := sendPacket_rowSide h
    exact ht

@[simp] theorem pumpRemote_rowSide (u : Fin 4) (s : State) : rowSide (pumpRemote u s) = rowSide s :=
  foldl_rowSide _ _ (fun s id => by split <;> simp) _

/-- A read leaves the row engines as they are, whatever it reads and whoever waits for what it ends. -/
theorem postReq_read_rowSide (c : AccClass) (who : Nat) (e : XEntry) (n : Nat) (d : Data) (s : State) :
    rowSide (postReq c who false e n d s).1 = rowSide s := by
  unfold postReq postFor
  extract_lets f id r _ _ s1 fails s2
  clear_value fails
  cases fails with
  | some st => exact (endReq_rowSide ..).trans rfl
  | none =>
    have h2 : rowSide s2 = rowSide s := rfl
    clear_value s2
    dsimp only
    split
    · exact (endReq_rowSide ..).trans h2
    · exact (postStack_rowSide ..).trans h2
    · exact h2
    · exact (pumpRemote_rowSide ..).trans h2

@[simp] theorem xlateTry_rowSide (who key dva : Nat) (s : State) : rowSide (xlateTry who key dva s).1 = rowSide s := by
  unfold xlateTry
  extract_lets q page w
  split
  · rfl
  · split
    · rfl
    · split
      · rfl
      · split <;> rfl

theorem ioPiece_read_rowSide (c : AccClass) (who key : Nat) {op : IoOp} (hop : op.write = false) (a n : Nat) (d : Data) (s : State) :
    rowSide (ioPiece c who key op a n d s).1 = rowSide s := by
  have hx := xlateTry_rowSide who key a s
  have hhold (p : State × Nat) : rowSide (ioHold who key op.write a n p).1 = rowSide p.1 := rfl
  have hfailed (st : Status) : rowSide (postFailed who st (xlateTry who key a s).1).1 = rowSide s := hx
  unfold ioPiece
  split
  · rfl
  · extract_lets x hold
    split
    · exact hx
    · exact (hhold _).trans (hfailed _)
    · split
      · exact (hhold _).trans (hfailed _)
      · split
        · exact (hhold _).trans (hfailed _)
        · rw [hop]
          exact (postReq_read_rowSide ..).trans hx

/-- A read of the row engines' memory leaves them as they are. -/
theorem ioAccess_read_rowSide (c : AccClass) (who key : Nat) {op : IoOp} (hop : op.write = false) (s : State) :
    rowSide (ioAccess c who key op s).1 = rowSide s := by
  unfold ioAccess
  extract_lets ps r
  refine foldl_fst_rowSide _ _ (fun a p => ?_) _
  exact ioPiece_read_rowSide c who key hop ..

theorem installRead_rowSide (e : Fin 16) (i : Install) (s : State) : rowSide (installRead e i s).1 = rowSide s :=
  ioAccess_read_rowSide _ _ _ rfl s

@[simp] theorem ioForget_rowSide (who key : Nat) (s : State) : rowSide (ioForget who key s) = rowSide s := by
  unfold ioForget
  extract_lets mine s1 other
  exact foldl_rowSide _ _ (fun s p => orphanReq_rowSide ..) s

end Sys2Proof.Machine
end

section
/-!
SUPPORT. The pre-scanner's fetches (R200 to R202).
-/
namespace Sys2Proof.Machine
open Host

/-! ### The pre-scanner -/

theorem startCmd_rowSide (id : Nat) (s : State) : rowSide (startCmd id s) = rowSide s := by
  have hnote (k : Cmd) (v : State) : rowSide (noteEarly k [] v) = rowSide v := by unfold noteEarly; split <;> rfl
  unfold startCmd
  extract_lets t
  split
  · split
    · exact hnote ..
    · rfl
  · rfl

section
variable {s : State} {e : Fin 16} {r : PreRun} {rest : List PreRun} (h : (getEng s e).prescans = r :: rest)
include h

/-- The first pre-scan of an engine changes; beside it, nothing does. -/
theorem updPre_eq (f : PreRun → PreRun) : updPre e f s = updEng e (fun g => { g with prescans := f r :: rest }) s :=
  updEng_congr (by rw [h])

theorem prescans_updPre (f : PreRun → PreRun) : (getEng (updPre e f s) e).prescans = f r :: rest := by
  rw [updPre_eq h, getEng_updEng_same]

theorem updPre_self {f : PreRun → PreRun} (hf : f r = r) : updPre e f s = s := by
  rw [updPre_eq h, hf, ← h]
  exact updEng_self rfl

end

theorem allocs_updPre (e : Fin 16) (f : PreRun → PreRun) (s : State) : (getEng (updPre e f s) e).allocs = (getEng s e).allocs := by
  rw [updPre, getEng_updEng_same]

/-- What the pumping of pre-scan fetches leaves: which rows the first pre-scan fetches into which units, the pre-scans behind it, and what
is allocated. -/
def preView (e : Fin 16) (s : State) : Option (Option (Nat × Nat) × List (Nat × Nat)) × List PreRun × List StageAlloc :=
  ((getEng s e).prescans.head?.map fun r => (r.range, r.fetches.map fun f => (f.row, f.unit)), (getEng s e).prescans.tail,
      (getEng s e).allocs)

theorem map_updIdx {α β : Type} (g : α → β) {f : α → α} (hf : ∀ x, g (f x) = g x) (l : List α) (i : Nat) :
    (updIdx l i f).map g = l.map g := by
  unfold updIdx
  split
  · next x hx =>
    obtain ⟨hi, rfl⟩ := List.getElem?_eq_some_iff.mp hx
    rw [List.map_set, hf, ← List.getElem_map g (h := by simpa using hi), List.set_getElem_self]
  · rfl

theorem pumpFetch_preView (e : Fin 16) (fi qi : Nat) (s : State) : preView e (pumpFetch e fi s qi) = preView e s := by
  unfold pumpFetch
  split
  · rfl
  · next r rest h =>
    split
    · rfl
    · next q hq =>
      extract_lets sent x
      split
      · rfl
      · have hx : getEng x.1 e = getEng s e := getEng_of_rowSide (postReq_read_rowSide ..) e
        have hp : (getEng x.1 e).prescans = r :: rest := by rw [hx]; exact h
        rw [preView, prescans_updPre hp, allocs_updPre, hx, preView, h]
        refine Prod.ext (congrArg some (Prod.ext rfl ?_)) rfl
        exact map_updIdx (fun f : PreFetch => (f.row, f.unit)) (by exact fun _ => rfl) r.fetches fi

theorem pumpPre_preView (e : Fin 16) (s : State) : preView e (pumpPre e s) = preView e s := by
  have hl {α : Type} (l : List α) (f : State → α → State) (hf : ∀ s x, preView e (f s x) = preView e s) :
      ∀ s, preView e (l.foldl f s) = preView e s := by
    induction l with
    | nil => exact fun _ => rfl
    | cons x l ih => exact fun s => (ih _).trans (hf s x)
  unfold pumpPre
  split
  · rfl
  · exact hl _ _ (fun s fi => hl _ _ (fun s qi => pumpFetch_preView e fi qi s) s) s

/-- A pre-scan with nothing left to fetch has nothing to pump. -/
theorem pumpPre_of_none {s : State} {e : Fin 16} {r : PreRun} {rest : List PreRun} (h : (getEng s e).prescans = r :: rest)
    (hf : r.fetches = []) : pumpPre e s = s := by
  unfold pumpPre
  rw [h]
  simp [hf]

/-- A pre-scan that still fetches, or that has bags left, goes on. -/
theorem finishPre_goesOn {s : State} {e : Fin 16} {r : PreRun} {rest : List PreRun} (h : (getEng s e).prescans = r :: rest)
    (hgo : r.fetches ≠ [] ∨ (r.stop = false ∧ r.bag < (prescanLists r.slot.pay).count)) : finishPre e s = s := by
  unfold finishPre
  rw [h]
  exact if_pos (by simpa using hgo)

end Sys2Proof.Machine
end

section
/-!
SUPPORT. PRESCAN_POSITION and PRESCAN_ROW_ARRIVE (R197, R200 to R202; O29).
-/
namespace Sys2Proof.Machine
open Host

theorem preNext_of_range {r : PreRun} {a b : Nat} (hr : r.range = some (a, b)) (hab : a + 1 < b) :
    preNext false r = { r with range := some (a + 1, b) } := by
  simp [preNext, hr, show ¬ b ≤ a + 1 by omega]

/-- The next position does not depend on what is fetched. -/
theorem preNext_fetches (ends : Bool) (r : PreRun) (fs : List PreFetch) :
    preNext ends { r with fetches := fs } = { preNext ends r with fetches := fs } := by
  cases hr : r.range with
  | none => simp [preNext, hr]
  | some p =>
    simp only [preNext, hr]
    split <;> rfl

/-- PRESCAN_POSITION within a range reads the row there, and goes on with it (R200). -/
theorem prescanPosition_reads {s s' : State} {e : Fin 16} {r : PreRun} {rest : List PreRun} {a b : Nat} {d : Data}
    (h : (getEng s e).prescans = r :: rest) (hstop : r.stop = false) (hroom : (r.fetches.map fun f => f.reqs.length).sum < 64)
    (hbegin : mayBegin s r.slot r.step = true) (hr : r.range = some (a, b)) (hafter : afterRefresh (getEng s e) r.cmd = false)
    (hread : aheadReads (whoEngine e) r.cmd r.xorder [(((prescanLists r.slot.pay).index + 4 * a) % 2 ^ 48, 4)] (startCmd r.cmd s) =
      (s', .done [d]))
    (hrow : leNat (dataBytes d) < tdRows r.table.desc) :
    exec (.prescanPosition e) s = .next (finishPre e (preRow e r (leNat (dataBytes d)) s')) := by
  have hs : (getEng (startCmd r.cmd s) e).prescans = r :: rest := by rw [getEng_of_rowSide (startCmd_rowSide ..)]; exact h
  have hsame : updPre e (fun x => { x with bag := r.bag, range := some (a, b) }) (startCmd r.cmd s) = startCmd r.cmd s :=
    updPre_self hs (by rw [← hr])
  show execPrescanPosition e s = _
  unfold execPrescanPosition
  rw [h]
  have hno : (r.stop || decide ((r.fetches.map fun f => f.reqs.length).sum ≥ 64) || !mayBegin s r.slot r.step ||
      afterRefresh (getEng s e) r.cmd) = false := by simp [hstop, hbegin, hafter, hroom]
  simp only [hno, hr, hsame, hread, Bool.false_eq_true, if_false, IoRes.data, not_le.mpr hrow, ge_iff_le]
  rfl

theorem preReqs_rowSide (e : Fin 16) (row dva size since : Nat) (s : State) : rowSide (preReqs e row dva size since s).1 = rowSide s := by
  have hahead (who a : Nat) (s : State) : rowSide (xlateAhead who a since s).1 = rowSide s := by
    unfold xlateAhead
    extract_lets q allowed
    split
    · rfl
    · split <;> rfl
  unfold preReqs
  refine foldl_fst_rowSide _ _ (fun a p => ?_) _
  split
  · rfl
  · exact hahead ..

/-- A row that the ember set or the staging area holds is passed over (R200, R201). -/
theorem preRow_held {s : State} {e : Fin 16} {r : PreRun} {row : Nat}
    (hheld : ((findWay s.mem.rowStore[e] (emberSet s (tdId r.table.desc) row) (tdId r.table.desc) row r.table.version).isSome ||
      (findWay s.mem.rowStore[e] (stagingSet (tdId r.table.desc) row) (tdId r.table.desc) row r.table.version).isSome) = true) :
    preRow e r row s = updPre e (preNext false) s := by
  simp only [preRow, hheld, if_true]

/-- Another row is fetched into a free run of units (R200, R202). -/
theorem preRow_fetches {s s1 : State} {e : Fin 16} {r : PreRun} {rest : List PreRun} {row : Nat} {qs : List RowReq} {n : Nat}
    (h : (getEng s e).prescans = r :: rest)
    (hheld : ((findWay s.mem.rowStore[e] (emberSet s (tdId r.table.desc) row) (tdId r.table.desc) row r.table.version).isSome ||
      (findWay s.mem.rowStore[e] (stagingSet (tdId r.table.desc) row) (tdId r.table.desc) row r.table.version).isSome) = false)
    (hgood : preBad e (recAddr r.table.desc row) (recSize r.table.desc) s = false)
    (hreqs : preReqs e row (recAddr r.table.desc row) (recSize r.table.desc) r.xorder s = (s1, some qs))
    (hn : allocUnits (getEng s1 e) (ceilDiv (recSize r.table.desc) 64) = some n) :
    preView e (preRow e r row s) = (some ((preNext false r).range, r.fetches.map (fun f => (f.row, f.unit)) ++ [(row, n)]), rest,
      (getEng s1 e).allocs ++ [{ unit := n, n := ceilDiv (recSize r.table.desc) 64, gen := r.gen }]) := by
  have hs1 : (getEng s1 e).prescans = r :: rest := by
    have hside := preReqs_rowSide e row (recAddr r.table.desc row) (recSize r.table.desc) r.xorder s
    rw [hreqs] at hside
    rw [getEng_of_rowSide hside]; exact h
  simp only [preRow, hheld, hgood, hreqs, hn, Bool.false_eq_true, if_false]
  obtain ⟨v, hv⟩ : ∃ v, v = updEng e (fun g => { g with nextUnit := n + ceilDiv (recSize r.table.desc) 64, allocs := g.allocs ++ [
    { unit := n, n := ceilDiv (recSize r.table.desc) 64, gen := r.gen }] }) s1 := ⟨_, rfl⟩
  have hvp : (getEng v e).prescans = r :: rest := by rw [hv, getEng_updEng_same]; exact hs1
  have hva : (getEng v e).allocs = (getEng s1 e).allocs ++ [{ unit := n, n := ceilDiv (recSize r.table.desc) 64, gen := r.gen }] := by
    rw [hv, getEng_updEng_same]
  rw [← hv, pumpPre_preView, preView, prescans_updPre (prescans_updPre hvp _), allocs_updPre, allocs_updPre, hva]
  rw [preNext_fetches]
  exact Prod.ext (congrArg some (Prod.ext rfl List.map_append)) rfl

/-- A row that has come without poison, and into a way that is free, is installed in staging (R197, R202). -/
theorem prescanRowArrive_installs {s : State} {e : Fin 16} {r : PreRun} {rest : List PreRun}
    {f : PreFetch} {x : RowReq} {q : Nat} {d : Data}
    {w : Nat} (h : (getEng s e).prescans = r :: rest) (hf : r.fetches = [f]) (hx : f.reqs = [x]) (hq : x.req = some q)
    (hend : reqEnded s q = some (.ok, d)) (hd : poisoned d = false) (hagain : f.again = false) (hdropped : f.dropped = false)
    (hstop : r.stop = false) (hbag : r.bag < (prescanLists r.slot.pay).count)
    (hw : ((List.range 4).find? fun w => !tagValid (tagAt s.mem.rowStore[e] (stagingSet (tdId r.table.desc) f.row) w)) = some w) :
    exec (.prescanRowArrive e 0) s = .next (engCount e (fun k => { k with prescanRows := addSat k.prescanRows 1 })
      (updStore e (fun m => setTag (stagingSet (tdId r.table.desc) f.row) w
          (BitVec.ofNat 128 (f.row + tdId r.table.desc * 2 ^ 32 + r.table.version % 2 * 2 ^ 44 + 2 ^ 45 +
              b2n r.gen * 2 ^ 46 + f.unit * 2 ^ 64))
          (memWrite m (stagingData f.unit) (putData f.record x.off d)))
        (updPre e (fun r => { r with fetches := dropIdx r.fetches 0 }) (forgetReq q s)))) := by
  have hready : f.reqs.filter (fun q => (q.req.bind (reqEnded s)).isSome) = [x] := by simp [hx, hq, hend]
  have htake : takePieces s f = { f with reqs := [], record := putData f.record x.off d, again := false, dropped := false } := by
    simp [takePieces, hx, hq, hend, hd, fine, hagain, hdropped]
  have hmet : metPoison s x = false := by simp [metPoison, hq, hend, hd]
  have hfirst : r.fetches[0]? = some f := by rw [hf]; rfl
  obtain ⟨v, hv⟩ : ∃ v, v = updPre e (fun r => { r with fetches := dropIdx r.fetches 0 }) (forgetReq q s) := ⟨_, rfl⟩
  have hvp : (getEng v e).prescans = { r with fetches := dropIdx r.fetches 0 } :: rest := by rw [hv]; exact prescans_updPre (by exact h) _
  have hstage : stageRow e r { f with reqs := [], record := putData f.record x.off d, again := false, dropped := false } v =
      engCount e (fun k => { k with prescanRows := addSat k.prescanRows 1 })
        (updStore e (fun m => setTag (stagingSet (tdId r.table.desc) f.row) w
          (BitVec.ofNat 128 (f.row + tdId r.table.desc * 2 ^ 32 + r.table.version % 2 * 2 ^ 44 + 2 ^ 45 +
              b2n r.gen * 2 ^ 46 + f.unit * 2 ^ 64))
          (memWrite m (stagingData f.unit) (putData f.record x.off d))) v) := by
    have hvw : ((List.range 4).find? fun w => !tagValid (tagAt v.mem.rowStore[e] (stagingSet (tdId r.table.desc) f.row) w)) = some w := by
      rw [hv]; exact hw
    unfold stageRow
    simp only [hvw]
  have hsp (f : EngineCounters → EngineCounters) (g : Mem → Mem) :
      (getEng (engCount e f (updStore e g v)) e).prescans = { r with fetches := dropIdx r.fetches 0 } :: rest := by
    rw [engCount, getEng_updEng_same]; exact hvp
  have hnone : dropIdx r.fetches 0 = [] := by rw [hf]; rfl
  show execPrescanRowArrive e 0 s = _
  unfold execPrescanRowArrive
  rw [h]
  simp only [hfirst, hready, htake, hmet, hdropped, hq, List.isEmpty_cons, Bool.false_eq_true, if_false,
    List.any_cons, List.any_nil, Bool.or_false, Bool.and_false, List.foldl_cons, List.foldl_nil, Option.getD_some, ne_eq,
    not_true_eq_false, Bool.false_and, ← hv, hstage]
  rw [pumpPre_of_none (hsp _ _) hnone, finishPre_goesOn (hsp _ _) (.inr ⟨hstop, hbag⟩)]
  rfl

theorem rowStore_updStore (e : Fin 16) (f : Mem → Mem) (s : State) : (updStore e f s).mem.rowStore[e] = f s.mem.rowStore[e] := by
  simp [updStore, updAt]

theorem rowStore_engCount (e f : Fin 16) (g : EngineCounters → EngineCounters) (s : State) :
    (engCount e g s).mem.rowStore[f] = s.mem.rowStore[f] := rfl

theorem prescansFetch : Claims.PrescansFetch := by
  intro s s' e r rest h l m id
  refine ⟨fun a b d hstop hroom hbegin hr hab hbag hafter hread hs' => ?_,
    fun f x q d w hf hx hq hend hd hagain hdropped hstop hbag => ?_⟩
  · intro row held hrow
    have hexec := prescanPosition_reads h hstop hroom hbegin hr hafter hread hrow
    refine ⟨fun hheld => ?_, fun hheld hgood s'' qs hreqs n hn => ?_⟩
    · rw [preRow_held hheld] at hexec
      have hp := prescans_updPre hs' (preNext false)
      rw [preNext_of_range hr hab] at hp
      rw [finishPre_goesOn hp (.inr ⟨hstop, hbag⟩)] at hexec
      exact ⟨_, hexec, hp, allocs_updPre .., sameBut_rfl⟩
    · have hview := preRow_fetches hs' hheld hgood hreqs hn
      rw [preNext_of_range hr hab] at hview
      obtain ⟨hhead, htail⟩ := Prod.mk.inj hview
      obtain ⟨htail, hallocs⟩ := Prod.mk.inj htail
      obtain ⟨r', hr', hrr⟩ := Option.map_eq_some_iff.mp hhead
      obtain ⟨hrange, hfetches⟩ := Prod.mk.inj hrr
      have hp : (getEng (preRow e r row s') e).prescans = r' :: rest := by rw [← htail]; exact (List.cons_head?_tail hr').symm
      rw [finishPre_goesOn hp (.inl (by rintro hnil; rw [hnil] at hfetches; simp at hfetches))] at hexec
      exact ⟨_, r', hexec, hp, hrange, hfetches, hallocs⟩
  · intro set hw
    have hfs : getEng (forgetReq q s) e = getEng s e := rfl
    obtain ⟨v, hv⟩ : ∃ v, v = updPre e (fun r => { r with fetches := dropIdx r.fetches 0 }) (forgetReq q s) := ⟨_, rfl⟩
    have hvp : (getEng v e).prescans = { r with fetches := dropIdx r.fetches 0 } :: rest := by rw [hv]; exact prescans_updPre (by exact h) _
    have hexec := prescanRowArrive_installs h hf hx hq hend hd hagain hdropped hstop hbag hw
    rw [← hv] at hexec
    refine ⟨_, hexec, ?_, ?_, ?_, ?_, fun f hf => ?_, ?_⟩
    · rw [engCount, getEng_updEng_same]
      refine hvp.trans ?_
      rw [hf]; rfl
    · rw [hv]; simp [findReq, engCount, updEng, updStore, updPre, forgetReq]
    · have hstore : v.mem.rowStore = s.mem.rowStore := by rw [hv]; rfl
      rw [rowStore_engCount, rowStore_updStore, hstore]
    · rw [engCount, getEng_updEng_same, hv]
      show addSat (getEng (updPre e _ (forgetReq q s)) e).counters.prescanRows 1 = _
      rw [updPre, getEng_updEng_same, hfs]
    · rw [engCount, getEng_updEng_other hf, hv]
      exact getEng_updEng_other hf ..
    · rw [hv]; exact sameBut_rfl

end Sys2Proof.Machine
end

section
/-!
SUPPORT. EMBER_ENTRY_APPLY and EMBER_INSTALL_DONE (R48, R196, R197), and with them O29.
-/
namespace Sys2Proof.Machine
open Host

/-! ### The ember set -/

section
variable {s : State} {e : Fin 16} {r : RefreshRun} {rest : List EngineCmd} (h : (getEng s e).queue = .refresh r :: rest)
include h

theorem updRefresh_eq (f : RefreshRun → RefreshRun) : updRefresh e f s = updEng e (fun g => { g with queue := .refresh (f r) :: rest }) s :=
  updEng_congr (by rw [h])

theorem queue_updRefresh (f : RefreshRun → RefreshRun) : (getEng (updRefresh e f s) e).queue = .refresh (f r) :: rest := by
  rw [updRefresh_eq h, getEng_updEng_same]

/-- A refresh that has an entry or an install left goes on (R196). -/
theorem finishRefresh_goesOn (hgo : r.next < fld r.slot.pay 63 32 ∨ r.installs ≠ []) : finishRefresh e s = s := by
  unfold finishRefresh
  rw [h]
  exact if_pos hgo

end

theorem counters_updRefresh (e : Fin 16) (f : RefreshRun → RefreshRun) (s : State) :
    (getEng (updRefresh e f s) e).counters = (getEng s e).counters := by rw [updRefresh, getEng_updEng_same]

/-- While rows are being applied no refresh runs (R48). -/
theorem runningRefresh_of_rowsApply {s : State} (h : rowsApply s = true) (e : Fin 16) : runningRefresh s e = none := by
  unfold runningRefresh
  extract_lets g
  split
  · simp [h]
  · rfl

/-- The install that entry `n` asks for (R196). -/
def installOf (n : Nat) (x : BitVec 128) (t : Table) : Install :=
  { entry := n, table := t.id, row := fld x 47 16, way := fld x 3 2, unit := fld x 67 48, version := t.cur.version,
    dva := recAddr t.cur.desc (fld x 47 16), len := recSize t.cur.desc, again := false }

/-- The old tag of an install's way is invalid from its start on (R197). -/
def untagged (e : Fin 16) (x : BitVec 128) (t : Table) (s : State) : State :=
  let set := emberSet s t.id (fld x 47 16)
  let tag := tagAt s.mem.rowStore[e] set (fld x 3 2)
  if tagValid tag then updStore e (setTag set (fld x 3 2) (setFld tag 45 45 0)) s else s

theorem applyEntry_install {s : State} {x : BitVec 128} {t : Table} (ht : findTable s (fld x 15 4) = some t) (hop : fld x 1 0 = 1)
    (e : Fin 16) (n : Nat) : applyEntry e n x s =
      (installRead e (installOf n x t)
          (updRefresh e (fun r => { r with installs := r.installs ++ [installOf n x t] }) (untagged e x t s))).1 := by
  simp only [applyEntry, ht, hop]
  rfl

theorem applyEntry_remove {s : State} {x : BitVec 128} {t : Table} (ht : findTable s (fld x 15 4) = some t) (hop : fld x 1 0 = 0)
    (e : Fin 16) (n : Nat) : applyEntry e n x s =
      (let set := emberSet s t.id (fld x 47 16)
       let tag := tagAt s.mem.rowStore[e] set (fld x 3 2)
       if tagHits tag t.id (fld x 47 16) t.cur.version then updStore e (setTag set (fld x 3 2) (setFld tag 45 45 0)) s else s) := by
  simp only [applyEntry, ht, hop]

theorem ioReadOne_rowSide (c : AccClass) (who key dva n : Nat) (s : State) : rowSide (ioReadOne c who key dva n s).1 = rowSide s := by
  unfold ioReadOne ioMany
  extract_lets r
  have hr : rowSide r.1 = rowSide s := ioAccess_read_rowSide c who key (op := ioRead dva n) rfl s
  split
  · exact hr
  · exact (ioForget_rowSide ..).trans hr

theorem entryFails_of_rows {s u : State} (h : u.rows = s.rows) (x : BitVec 128) : entryFails u x = entryFails s x := by
  rw [entryFails, entryFails, findTable, findTable, h]

theorem emberSet_of_rows {s u : State} (h : u.rows = s.rows) (table row : Nat) : emberSet u table row = emberSet s table row := by
  simp only [emberSet, h]

/-- EMBER_ENTRY_APPLY of an entry that has come and passes its checks applies it (R196). -/
theorem emberEntryApply_applies {s s' : State} {e : Fin 16} {r : RefreshRun} {d : Data} (hrun : runningRefresh s e = some r)
    (hnext : r.next < fld r.slot.pay 63 32) (hroom : r.installs.length < 64) (hd : poisoned d = false)
    (hread : ioReadOne .cmd (whoEngine e) (opKey kEntry r.cmd) ((fld r.slot.pay 111 64 + 16 * r.next) % 2 ^ 48) 16 (startCmd r.cmd s) =
      (s', .done [d])) (hok : entryFails s' (BitVec.ofNat 128 (leNat (dataBytes d))) = none)
    (hset : (r.installs.any fun i => emberSet s' i.table i.row ==
      emberSet s' (fld (BitVec.ofNat 128 (leNat (dataBytes d))) 15 4) (fld (BitVec.ofNat 128 (leNat (dataBytes d))) 47 16)) = false) :
    exec (.emberEntryApply e) s = .next (finishRefresh e (updRefresh e (fun r => { r with next := r.next + 1 })
      (applyEntry e r.next (BitVec.ofNat 128 (leNat (dataBytes d))) s'))) := by
  have hrows : s'.rows = (startCmd r.cmd s).rows := by
    have hside := ioReadOne_rowSide .cmd (whoEngine e) (opKey kEntry r.cmd)
        ((fld r.slot.pay 111 64 + 16 * r.next) % 2 ^ 48) 16 (startCmd r.cmd s)
    rw [hread] at hside
    exact rows_of_rowSide hside
  rw [entryFails_of_rows hrows] at hok
  simp only [emberSet_of_rows hrows] at hset
  have hno : ¬ (r.next ≥ fld r.slot.pay 63 32 ∨ r.installs.length ≥ 64) := by omega
  show execEmberEntryApply e s = _
  unfold execEmberEntryApply
  simp only [hrun, if_neg hno, hread, IoRes.data, hd, hok, hset, Bool.false_eq_true, if_false]
  rfl

section
variable {s s' : State} {e : Fin 16} {r : RefreshRun} {i : Install} {js : List Install} {d : Data} (hrun : runningRefresh s e = some r)
  (hi : r.installs = i :: js) (hbatch : inBatch s i.table i.row = false) (hread : installRead e i s = (s', .done [d]))
include hrun hi hbatch hread

/-- The row of an install was updated while it was read, and is read again (R197). -/
theorem emberInstallDone_again (hagain : i.again = true) : exec (.emberInstallDone e) s =
    .next (installRead e i (updRefresh e (fun r => { r with installs := { i with again := false } :: js })
      (ioForget (whoEngine e) (opKey kInstall i.entry) s'))).1 := by
  show execEmberInstallDone e s = _
  unfold execEmberInstallDone
  simp only [hrun, hi, hbatch, hread, hagain, Bool.false_eq_true, if_false, if_true]
  rfl

/-- A row that has come stands under its tag in the ember region (R197). -/
theorem emberInstallDone_installs (hagain : i.again = false) (hd : poisoned d = false) : exec (.emberInstallDone e) s =
    .next (finishRefresh e (updRefresh e (fun r => { r with installs := js }) (ioForget (whoEngine e) (opKey kInstall i.entry)
      (engCount e (fun k => { k with emberInstalls := addSat k.emberInstalls 1 })
        (updStore e (fun m => setTag (emberSet s' i.table i.row) i.way
          (BitVec.ofNat 128 (i.row + i.table * 2 ^ 32 + i.version % 2 * 2 ^ 44 + 2 ^ 45 + i.unit * 2 ^ 64))
          (memWrite m (emberData i.unit) d)) s'))))) := by
  have hside := installRead_rowSide e i s
  rw [hread] at hside
  show execEmberInstallDone e s = _
  unfold execEmberInstallDone
  simp only [hrun, hi, hbatch, hread, IoRes.data, hagain, hd, Bool.false_eq_true, if_false, ← emberSet_of_rows (rows_of_rowSide hside)]
  rfl

end

theorem emberRefreshes : Claims.EmberRefreshes := by
  intro s s' e r rest d hq hd
  refine ⟨fun hrun hnext hroom hread => ?_, fun hrows => ?_, fun i js hrun hi hbatch hagain hread => ?_,
    fun i js hrun hi hbatch hagain hread hmore => ?_⟩
  · intro x row hok t ht set hset tag i s1
    have hexec := emberEntryApply_applies hrun hnext hroom hd hread hok hset
    refine ⟨fun hop => ?_, fun hop hmore => ?_⟩
    · rw [applyEntry_install ht hop] at hexec
      have hq1 : (getEng s1 e).queue = .refresh r :: rest := by
        have : getEng s1 e = getEng s' e := by simp only [s1]; split <;> rfl
        rw [this]; exact hq
      have hq2 := queue_updRefresh hq1 fun r => { r with installs := r.installs ++ [i] }
      obtain ⟨v, hv⟩ : ∃ v, v = (installRead e i (updRefresh e (fun r => { r with installs := r.installs ++ [i] }) s1)).1 := ⟨_, rfl⟩
      have hvq : (getEng v e).queue = .refresh { r with installs := r.installs ++ [i] } :: rest := by
        rw [hv, getEng_of_rowSide (installRead_rowSide ..)]; exact hq2
      have hqn := queue_updRefresh hvq fun r => { r with next := r.next + 1 }
      have hexec : exec (.emberEntryApply e) s = .next (finishRefresh e (updRefresh e (fun r => { r with next := r.next + 1 }) v)) := by
        rw [hv]; exact hexec
      rw [finishRefresh_goesOn hqn (.inr (by simp))] at hexec
      exact ⟨_, hexec, hqn, by rw [← hv]; exact sameBut_rfl⟩
    · rw [applyEntry_remove ht hop] at hexec
      obtain ⟨v, hv⟩ : ∃ v, v =
          if tagHits tag t.id row t.cur.version then updStore e (setTag set (fld x 3 2) (setFld tag 45 45 0)) s' else s' :=
        ⟨_, rfl⟩
      have hexec : exec (.emberEntryApply e) s = .next (finishRefresh e (updRefresh e (fun r => { r with next := r.next + 1 }) v)) := by
        rw [hv]; exact hexec
      have hvq : (getEng v e).queue = .refresh r :: rest := by
        have : getEng v e = getEng s' e := by rw [hv]; split <;> rfl
        rw [this]; exact hq
      have hvs : SameBut [.rows, .mem] s' v := by rw [hv]; split <;> exact sameBut_rfl
      have hqn := queue_updRefresh hvq fun r => { r with next := r.next + 1 }
      rw [finishRefresh_goesOn hqn (.inl hmore)] at hexec
      refine ⟨_, hexec, hqn, ?_, sameBut_trans hvs sameBut_rfl⟩
      show v.mem.rowStore[e] = _
      rw [hv]
      split
      · exact rowStore_updStore ..
      · rfl
  · have hnone := runningRefresh_of_rowsApply hrows e
    refine ⟨?_, ?_⟩
    · show execEmberEntryApply e s = _
      rw [execEmberEntryApply, hnone]; rfl
    · show execEmberInstallDone e s = _
      rw [execEmberInstallDone, hnone]; rfl
  · obtain ⟨v, hv⟩ : ∃ v, v = updRefresh e (fun r => { r with installs := { i with again := false } :: js })
      (ioForget (whoEngine e) (opKey kInstall i.entry) s') := ⟨_, rfl⟩
    have hforget := ioForget_rowSide (whoEngine e) (opKey kInstall i.entry) s'
    have hfq : (getEng (ioForget (whoEngine e) (opKey kInstall i.entry) s') e).queue = .refresh r :: rest := by
      rw [getEng_of_rowSide hforget]; exact hq
    have hside := installRead_rowSide e i v
    refine ⟨(installRead e i v).1, by rw [hv]; exact emberInstallDone_again hrun hi hbatch hread hagain, ?_, ?_, ?_⟩
    · rw [getEng_of_rowSide hside, hv]; exact queue_updRefresh hfq _
    · rw [getEng_of_rowSide hside, hv, counters_updRefresh, getEng_of_rowSide hforget]
    · rw [rowStore_of_rowSide hside, hv]
      show (ioForget (whoEngine e) (opKey kInstall i.entry) s').mem.rowStore = _
      exact rowStore_of_rowSide hforget
  · have hexec := emberInstallDone_installs hrun hi hbatch hread hagain hd
    obtain ⟨v, hv⟩ : ∃ v, v = engCount e (fun k => { k with emberInstalls := addSat k.emberInstalls 1 })
      (updStore e (fun m => setTag (emberSet s' i.table i.row) i.way
        (BitVec.ofNat 128 (i.row + i.table * 2 ^ 32 + i.version % 2 * 2 ^ 44 + 2 ^ 45 + i.unit * 2 ^ 64))
        (memWrite m (emberData i.unit) d)) s') := ⟨_, rfl⟩
    obtain ⟨w, hw⟩ : ∃ w, w = ioForget (whoEngine e) (opKey kInstall i.entry) v := ⟨_, rfl⟩
    have hside : rowSide w = rowSide v := by rw [hw]; exact ioForget_rowSide ..
    have hwe : getEng w e = getEng v e := getEng_of_rowSide hside e
    have hwq : (getEng w e).queue = .refresh r :: rest := by
      rw [hwe, hv, engCount, getEng_updEng_same]; exact hq
    have hqn := queue_updRefresh hwq fun r => { r with installs := js }
    rw [← hv, ← hw, finishRefresh_goesOn hqn hmore] at hexec
    refine ⟨_, hexec, hqn, ?_, ?_, fun f hf => ?_, ?_⟩
    · show w.mem.rowStore[e] = _
      rw [rowStore_of_rowSide hside, hv, rowStore_engCount, rowStore_updStore]
    · rw [counters_updRefresh, hwe, hv, engCount, getEng_updEng_same]; rfl
    · rw [updRefresh, getEng_updEng_other hf, getEng_of_rowSide hside, hv, engCount, getEng_updEng_other hf]; rfl
    · obtain ⟨m, hm⟩ := ioForget_eq (whoEngine e) (opKey kInstall i.entry) v
      have hvs : SameBut [.rows, .mem] s' v := by rw [hv]; exact sameBut_rfl
      have hws : SameBut [.rows, .mem] v w := by rw [hw, hm]; exact sameBut_rfl
      exact sameBut_trans (sameBut_trans hvs hws) sameBut_rfl

/-- Settles O29: the pre-scanner's and the ember set's own steps change the first pre-scan or refresh of an engine, and the reads that they
make leave the row engines as they are. -/
theorem prescanAndEmber : Obligations.PrescanAndEmber := ⟨prescansFetch, emberRefreshes⟩

end Sys2Proof.Machine
end

section
/-!
SUPPORT. The Weave delivers a packet (O18): the counts of its flits move the Weave's counters alone (R99), and what it brings changes its
destination's memory or block counters alone (R65, R85, R89, R132, R248).
-/
namespace Sys2Proof.Machine

/-! ### An update of one tile -/

theorem getTile_updTile_same (t : Fin 128) (f : Tile → Tile) (s : State) : getTile (updTile t f s) t = f (getTile s t) := by
  rw [getTile_updTile, if_pos rfl]

theorem getTile_updTile_other {t v : Fin 128} (h : v ≠ t) (f : Tile → Tile) (s : State) : getTile (updTile t f s) v = getTile s v := by
  rw [getTile_updTile, if_neg h]

theorem updTile_congr {t : Fin 128} {f g : Tile → Tile} {s : State} (h : f (getTile s t) = g (getTile s t)) : updTile t f s = updTile t g s :=
  congrArg (fun x => { s with tile := { s.tile with tiles := s.tile.tiles.set t x } }) h

/-! ### The counts of a packet's flits -/

/-- Of the tiles only the Weave's counters have moved, and beside the tiles only free values are taken. -/
structure FlitsCounted (s u : State) : Prop where
  weave : u.tile.weave = s.tile.weave
  rest : SameBut [.tile, .free] s u
  tiles : ∀ v : Fin 128, ∃ flits stall,
    getTile u v = { getTile s v with counters := { (getTile s v).counters with weaveFlits := flits, weaveStall := stall } }

theorem FlitsCounted.refl (s : State) : FlitsCounted s s := ⟨rfl, sameBut_refl .., fun _ => ⟨_, _, rfl⟩⟩

theorem FlitsCounted.trans {s t u : State} (h : FlitsCounted s t) (k : FlitsCounted t u) : FlitsCounted s u where
  weave := k.weave.trans h.weave
  rest := sameBut_trans h.rest k.rest
  tiles v := by
    obtain ⟨_, _, hv⟩ := h.tiles v
    obtain ⟨flits, stall, kv⟩ := k.tiles v
    exact ⟨flits, stall, by rw [kv, hv]⟩

theorem FlitsCounted.foldl {α : Type} {f : State → α → State} (h : ∀ s x, FlitsCounted s (f s x)) (l : List α) (s : State) :
    FlitsCounted s (l.foldl f s) := by
  induction l generalizing s with
  | nil => exact .refl s
  | cons x l ih => exact (h s x).trans (ih _)

/-- A count that sets the Weave's counters of one tile. -/
theorem flitsCounted_tileCount {t : Fin 128} {f : TileCounters → TileCounters} {s : State}
    (h : ∀ c, ∃ flits stall, f c = { c with weaveFlits := flits, weaveStall := stall }) : FlitsCounted s (tileCount t f s) where
  weave := rfl
  rest := sameBut_weaken (sameBut_updTile ..) (by simp)
  tiles v := by
    by_cases hv : v = t
    · subst hv
      obtain ⟨flits, stall, hc⟩ := h (getTile s v).counters
      exact ⟨flits, stall, by rw [tileCount, getTile_updTile_same, hc]⟩
    · exact ⟨_, _, getTile_updTile_other hv ..⟩

theorem countFlits_counted (p : WPacket) (s : State) : FlitsCounted s (countFlits p s) := by
  refine FlitsCounted.foldl (fun s r => ?_) ..
  split
  · exact .refl s
  · exact flitsCounted_tileCount fun _ => ⟨_, _, rfl⟩

theorem stallFlits_counted (p : WPacket) (s : State) : FlitsCounted s (stallFlits p s) := by
  refine FlitsCounted.foldl (fun s r => ?_) ..
  have hfree : FlitsCounted s (takeFree s).1 := ⟨rfl, sameBut_rfl, fun _ => ⟨_, _, rfl⟩⟩
  dsimp only
  split
  · exact .refl s
  · exact hfree.trans (flitsCounted_tileCount fun _ => ⟨_, _, rfl⟩)

/-! ### What a packet brings -/

/-- A tile after a packet's body has come to it. -/
def withBody : WBody → Tile → Tile
  | .data a d, x => { x with mem := memWrite x.mem a d }
  | .rows a stride rs, x => { x with mem := memWrite x.mem a (rs.flatMap (padRow stride)) }
  | .bit a k v, x => { x with mem := writeBit a k v x.mem }
  | .signal i, x => { x with bc := updAt x.bc i fun c => c + 1 }

theorem applyBody_eq (dst : Fin 128) (b : WBody) (s : State) : applyBody dst b s = updTile dst (withBody b) s := by
  cases b <;> rfl

/-- What a body brings does not hang on the tile's counters and leaves them alone. -/
theorem withBody_counters (b : WBody) (x : Tile) (c : TileCounters) :
    withBody b { x with counters := c } = { withBody b x with counters := c } := by
  cases b <;> rfl

/-- The Weave without packet `p`. -/
def withoutPacket (p : WPacket) (s : State) : State :=
  { s with tile := { s.tile with weave := { s.tile.weave with packets := s.tile.weave.packets.filter fun q => q.id ≠ p.id } } }

@[simp] theorem getTile_withoutPacket (p : WPacket) (s : State) (v : Fin 128) : getTile (withoutPacket p s) v = getTile s v := rfl

theorem flowHead_dst {s : State} {src : Fin 174} {dst : Fin 128} {vc : Fin 4} {p : WPacket} (h : flowHead s src dst vc = some p) : p.dst = dst := by
  have hflow := List.find?_some h
  simp only [Bool.and_eq_true, beq_iff_eq] at hflow
  obtain ⟨⟨-, hdst⟩, -⟩ := hflow
  exact hdst

/-- A packet that brings the memory `mem` and the block counters `bc` to its tile leaves the Weave and does so, unless the tile is fenced. -/
theorem deliverPacket_hits {s : State} {p : WPacket} {mem : Mem} {bc : Vector (BitVec 32) 32}
    (hb : withBody p.body (getTile s p.dst) = { getTile s p.dst with mem := mem, bc := bc }) :
    (deliverPacket p s).tile.weave.packets = (s.tile.weave.packets.filter fun q => q.id ≠ p.id) ∧ SameBut [.tile, .free] s (deliverPacket p s) ∧
      ∀ v : Fin 128, ∃ flits stall, getTile (deliverPacket p s) v = { getTile s v with
        mem := if v = p.dst ∧ !fenced s p.dst.val then mem else (getTile s v).mem
        bc := if v = p.dst ∧ !fenced s p.dst.val then bc else (getTile s v).bc
        counters := { (getTile s v).counters with weaveFlits := flits, weaveStall := stall } } := by
  obtain ⟨u, hu⟩ : ∃ u, u = stallFlits p (countFlits p (withoutPacket p s)) := ⟨_, rfl⟩
  obtain ⟨hweave, hrest, htiles⟩ : FlitsCounted (withoutPacket p s) u := hu ▸ (countFlits_counted p _).trans (stallFlits_counted p _)
  have hleft : SameBut [.tile, .free] s u := sameBut_trans (u := withoutPacket p s) sameBut_rfl hrest
  have hpackets : u.tile.weave.packets = s.tile.weave.packets.filter fun q => q.id ≠ p.id := by rw [hweave]; rfl
  have hfenced : fenced u p.dst.val = fenced s p.dst.val := by
    have hdict : u.dict = s.dict := hleft.2 .dict (by simp)
    rw [fenced, hdict]; rfl
  have hdel : deliverPacket p s = if fenced s p.dst.val then u else updTile p.dst (withBody p.body) u := by
    rw [← hfenced, ← applyBody_eq, hu]; rfl
  rw [hdel]
  cases hf : fenced s p.dst.val with
  | true =>
    refine ⟨hpackets, hleft, fun v => ?_⟩
    obtain ⟨flits, stall, hv⟩ := htiles v
    exact ⟨flits, stall, by simp [hv]⟩
  | false =>
    refine ⟨hpackets, sameBut_trans hleft (sameBut_weaken (sameBut_updTile ..) (by simp)), fun v => ?_⟩
    obtain ⟨flits, stall, hv⟩ := htiles v
    refine ⟨flits, stall, ?_⟩
    by_cases hd : v = p.dst
    · subst hd
      simp [getTile_updTile_same, hv, withBody_counters, hb]
    · simp [getTile_updTile_other hd, hv, hd]

/-- Settles O18: the oldest packet of a flow is delivered by the row for its body. -/
theorem weaveDelivers : Obligations.WeaveDelivers := by
  intro s src dst vc p hp hit x
  obtain rfl := flowHead_dst hp
  have hdata : (∀ i, p.body ≠ .signal i) → exec (.weavePacketDelivery src p.dst vc) s = .next (deliverPacket p s) := by
    intro hno
    show go _ = _
    rw [hp]
    dsimp only
    split
    · exact absurd ‹_› (hno _)
    · rfl
  refine ⟨fun a d hb => ⟨_, hdata (by simp [hb]), deliverPacket_hits (by rw [hb]; rfl)⟩,
    fun a stride rs hb => ⟨_, hdata (by simp [hb]), deliverPacket_hits (by rw [hb]; rfl)⟩,
    fun a k v hb => ⟨_, hdata (by simp [hb]), deliverPacket_hits (by rw [hb]; rfl)⟩, fun i hb => ?_⟩
  · refine ⟨deliverPacket p s, ?_, deliverPacket_hits (by rw [hb]; rfl)⟩
    show go _ = _
    rw [hp]
    dsimp only
    rw [hb]
    rfl

end Sys2Proof.Machine
end

section
/-!
SUPPORT. The weight loader, the wale front and the feeder of an array (R79, R80, R83, R92; O19).
-/
namespace Sys2Proof.Machine

/-! ### The loader and the chain -/

theorem feedRow_reads {x : Tile} {p : ArrPass} {k : Nat} (h : loadingPass x.arr = some (p, k)) (hroom : x.arr.rowq.length < 16) :
    feedRow x = { x with arr := { x.arr with rowq := x.arr.rowq ++
      [{ pass := p.id, codes := (weightRow x.mem p.desc (127 - k)).1, poison := (weightRow x.mem p.desc (127 - k)).2 }] } } := by
  simp only [feedRow, h, ge_iff_le, if_neg (Nat.not_le.mpr hroom)]

theorem loadStart_begins {a : ArrayUnit} {r : WRow} {rs : List WRow} {p : ArrPass} (hchain : a.chain.pass = none) (hrow : a.rowq = r :: rs)
    (hp : (a.queue.find? fun q => q.id == r.pass) = some p) :
    loadStart a = { a with
      chain := { pass := some p.id, rows := 0, block := { a.chain.block with load := p.desc, nonfinite := false, poison := false } } } := by
  simp only [loadStart, hchain, hrow, hp]

/-! ### A pass starts -/

theorem mapIf_mapIf {α : Type} (p : α → Bool) {f : α → α} (hf : ∀ x, p (f x) = p x) (g : α → α) (l : List α) :
    mapIf p g (mapIf p f l) = mapIf p (fun x => g (f x)) l := by
  simp only [mapIf, List.map_map]
  refine List.map_congr_left fun x _ => ?_
  by_cases h : p x = true <;> simp [h, hf]

section
variable {zb : BitVec 512 → Bool} {x : Tile} {p : ArrPass} {b : Block}

/-- The start of a pass leaves the chain, the accumulators and the vectors in the array alone. -/
theorem startPass_frame : (startPass zb x p b).chain = x.arr.chain ∧ (startPass zb x p b).acc = x.arr.acc ∧
    (startPass zb x p b).flights = x.arr.flights := by
  unfold startPass
  dsimp only
  split <;> exact ⟨rfl, rfl, rfl⟩

/-- What was read ahead under the setting that now holds, or not at all, stays (R98). -/
theorem startPass_keeps (h : p.predict ≠ some (!predictionOn zb x p b)) : (startPass zb x p b).feed = x.arr.feed ∧
    (startPass zb x p b).queue =
      mapIf (fun q => q.id == p.id) (fun q => { q with started := true, predict := some (predictionOn zb x p b) }) x.arr.queue := by
  unfold startPass
  dsimp only
  rw [if_neg (by simpa using h)]
  exact ⟨rfl, rfl⟩

/-- What was read ahead under the other setting is discarded, and the feeder begins anew (R98). -/
theorem startPass_refeeds (h : p.predict = some (!predictionOn zb x p b)) :
    (startPass zb x p b).feed = (x.arr.feed.filter fun f => f.pass != p.id) ∧
    (startPass zb x p b).queue = mapIf (fun q => q.id == p.id)
      (fun q => { q with started := true, predict := some (predictionOn zb x p b), nextVec := 0, fed := false }) x.arr.queue := by
  unfold startPass
  dsimp only
  rw [if_pos (by simpa using h)]
  exact ⟨rfl, mapIf_mapIf _ (by exact fun _ => rfl) _ _⟩

end

theorem frontStart_starts {zb : BitVec 512 → Bool} {x : Tile} {p : ArrPass} (hrows : x.arr.chain.rows = 128)
    (hp : (x.arr.queue.find? fun q => some q.id == x.arr.chain.pass) = some p) (hmay : mayStart x p = true) :
    frontStart zb x = { x with arr := freeChain (startPass zb x p x.arr.chain.block) } := by
  simp only [frontStart, hp, hrows, hmay, and_self, if_true]

theorem weightsLoad : Claims.WeightsLoad := by
  intro s t p x a on
  refine ⟨fun k hload hroom => ?_, fun r rs hchain hrow hp => ?_, fun hrows hp hmay => ?_⟩
  · exact congrArg Host.Outcome.next (updTile_congr (feedRow_reads hload hroom))
  · exact congrArg Host.Outcome.next (updTile_congr (congrArg (fun b => { x with arr := b }) (loadStart_begins hchain hrow hp)))
  · have htile : getTile (updTile t (frontStart (zbAllows s)) s) t =
        { x with arr := freeChain (startPass (zbAllows s) x p a.chain.block) } := by
      rw [getTile_updTile_same]; exact frontStart_starts hrows hp hmay
    obtain ⟨hchain, hacc, hflights⟩ := startPass_frame (zb := zbAllows s) (x := x) (p := p) (b := a.chain.block)
    refine ⟨updTile t (frontStart (zbAllows s)) s, rfl, congrArg (fun y => y.arr.active) htile, ?_, fun hkeep => ?_, fun hrefeed => ?_,
      (congrArg (fun y => y.arr.acc) htile).trans hacc, (congrArg (fun y => y.arr.flights) htile).trans hflights,
      congrArg (fun y => y.mem) htile, fun v hv => getTile_updTile_other hv .., sameBut_updTile ..⟩
    · rw [htile, freeChain, hchain]
    · rw [htile]; exact startPass_keeps hkeep
    · rw [htile]; exact startPass_refeeds hrefeed

/-! ### The feeder -/

/-- The next vector of a pass, as the feeder reads it. -/
def nextItem (x : Tile) (p : ArrPass) : FeedItem :=
  let e := readVector x.mem p.desc p.nextVec
  { pass := p.id, vec := p.nextVec, elems := e.1, count := 0, late := false, poison := e.2 }

/-- A pass keeps its place in the queue when it is changed. -/
theorem updPass_find {id : Nat} {f : ArrPass → ArrPass} (hf : ∀ q, (f q).id = q.id) (a : ArrayUnit) :
    (updPass id f a).queue.find? (fun q => q.id == id) = (a.queue.find? fun q => q.id == id).map f :=
  mapIf_find _ _ (by simp [hf]) _

/-- A vector whose block is to be fed joins the feeder's queue, and the pass goes on with the next one (R83). -/
theorem feedFrom_feeds {x : Tile} {p : ArrPass} {on : Bool} {k : Nat} (hlen : p.nextVec < pdLen p.desc)
    (hfeed : feedChoice x p.desc on p.nextVec = .feed) : feedFrom (k + 1) x p on = { x with
      arr := updPass p.id (fun q => { q with nextVec := p.nextVec + 1, fed := decide (p.nextVec + 1 ≥ pdLen p.desc) })
        { x.arr with feed := x.arr.feed ++ [nextItem x p] } } := by
  simp only [feedFrom, ge_iff_le, if_neg (Nat.not_le.mpr hlen), hfeed]
  rfl

theorem feedVector_feeds {zb : BitVec 512 → Bool} {x : Tile} {p : ArrPass} {on : Bool} (hp : (x.arr.queue.find? fun q => !q.fed) = some p)
    (hon : p.predict = some on) (hroom : (x.arr.feed.filter fun f => f.count == 0).length < 16) :
    feedVector zb x =
      feedFrom (pdLen p.desc / 16 + 2) { x with arr := updPass p.id (fun q => { q with predict := some on }) x.arr } p on := by
  simp only [feedVector, hp, ge_iff_le, if_neg (Nat.not_le.mpr hroom), hon, Option.getD_some]

theorem feederTakesVector : Claims.FeederTakesVector := by
  intro s t p on x hp hon hlen hroom hfeed
  obtain ⟨q, hq⟩ : ∃ q, (x.arr.queue.find? fun q => q.id == p.id) = some q :=
    Option.isSome_iff_exists.mp (List.find?_isSome.mpr ⟨p, List.mem_of_find?_eq_some hp, by simp⟩)
  have htile := (getTile_updTile_same t (feedVector (zbAllows s)) s).trans ((feedVector_feeds hp hon hroom).trans (feedFrom_feeds hlen hfeed))
  refine ⟨updTile t (feedVector (zbAllows s)) s, rfl, congrArg (fun y => y.arr.feed) htile, ?_, congrArg (fun y => y.arr.acc) htile,
    congrArg (fun y => y.arr.flights) htile, congrArg (fun y => y.mem) htile, fun v hv => getTile_updTile_other hv .., sameBut_updTile ..⟩
  rw [htile, updPass_find (by exact fun _ => rfl)]
  simp only [updPass_find (f := fun q => { q with predict := some on }) (fun _ => rfl), hq, Option.map_some]

/-- Settles O19: the loader, the wale front and the feeder each change their own tile's array. -/
theorem arrayLoads : Obligations.ArrayLoads := ⟨weightsLoad, feederTakesVector⟩

end Sys2Proof.Machine
end

section
/-!
SUPPORT. A beat of an array (R68, R72, R83, R84, R87; O20).
-/
namespace Sys2Proof.Machine

/-! ### What enters -/

/-- Only marks of skipped blocks enter without a beat (R91). -/
theorem enterMarks_of_vector {a : ArrayUnit} {f : FeedItem} {fs : List FeedItem} (hfeed : a.feed = f :: fs) (hf : f.count = 0) (n : Nat) :
    enterMarks n a = a := by
  cases n with
  | zero => rfl
  | succ n => cases h : enteringPass a <;> simp [enterMarks, hfeed, hf, h]

theorem enterMarks_of_none {a : ArrayUnit} (h : enteringPass a = none) (n : Nat) : enterMarks n a = a := by
  cases n with
  | zero => rfl
  | succ n => cases hfeed : a.feed <;> simp [enterMarks, hfeed, h]

theorem enterVector_enters {a : ArrayUnit} {f : FeedItem} {fs : List FeedItem} {p : ArrPass} (hfeed : a.feed = f :: fs) (hf : f.count = 0)
    (hp : enteringPass a = some p) (hpass : f.pass = p.id) (hfp : f.poison = false) (hap : a.active.poison = false) (free : Nat) :
    enterVector free a = ({ a with
      feed := fs
      flights := a.flights ++
        [{ pass := p.id, vec := f.vec, age := 0, result := arrayProduct p.desc a.active f.elems, count := 0, poison := false }]
      queue := mapIf (fun q => q.id == p.id) (fun q => { q with entered := q.entered + 1 }) a.queue
      counters := { a.counters with vectors := addSat a.counters.vectors 1 } }, 0) := by
  simp [enterVector, hfeed, hp, hpass, hf, hfp, hap, arrCount, updPass]

theorem enterVector_none {a : ArrayUnit} (h : enteringPass a = none) (free : Nat) : enterVector free a = (a, 0) := by
  cases hfeed : a.feed <;> simp [enterVector, hfeed, h]

/-- Without a block in the chain no row is injected (R79). -/
theorem injectRow_of_free {a : ArrayUnit} (h : a.chain.pass = none) : injectRow a = a := by
  cases hrow : a.rowq <;> simp [injectRow, hrow, h]

/-! ### What advances -/

theorem advanceFlights_young {a : ArrayUnit} (h : ∀ g ∈ a.flights, g.age < 254) :
    advanceFlights a = { a with flights := a.flights.map fun g => { g with age := g.age + 1 } } := by
  have hold : ((a.flights.map fun g : Flight => { g with age := g.age + 1 }).filter fun f => decide (f.age ≥ 255)) = [] := by
    rw [List.filter_eq_nil_iff]
    intro f hf
    obtain ⟨g, hg, rfl⟩ := List.mem_map.mp hf
    have := h g hg
    simp; omega
  have hyoung : ((a.flights.map fun g : Flight => { g with age := g.age + 1 }).filter fun f => decide (f.age < 255)) =
      a.flights.map fun g => { g with age := g.age + 1 } := by
    rw [List.filter_eq_self]
    intro f hf
    obtain ⟨g, hg, rfl⟩ := List.mem_map.mp hf
    have := h g hg
    simp; omega
  simp only [advanceFlights, hold, hyoung, List.foldl_nil]

theorem advanceFlights_last {a : ArrayUnit} {g : Flight} (h : a.flights = [g]) (hage : g.age = 254) :
    advanceFlights a = completeFlight { g with age := 255 } { a with flights := [] } := by
  simp [advanceFlights, h, hage]

/-- A vector that completes is accumulated in its entry; beside that only the groups' and the array's counts move (R84). -/
theorem completeFlight_accumulates {a : ArrayUnit} {f : Flight} {p : ArrPass} (hp : (a.queue.find? fun q => q.id == f.pass) = some p)
    (hf : f.count = 0) : ∃ groups counters, completeFlight f a = { a with
      acc := a.acc.set (accIndex p.desc f.vec) (accumulate p.desc (pdAdd p.desc) a.acc[accIndex p.desc f.vec] f.result).1
      groups := groups, counters := counters } := by
  simp only [completeFlight, hp, hf, if_true]
  split
  · exact ⟨_, _, rfl⟩
  · exact ⟨_, _, rfl⟩

/-! ### The beat -/

/-- The array after the counts and the drain of a beat in which it is in progress (R85, R99). -/
def beatCounted (d : BitVec 512) (a : ArrayUnit) : ArrayUnit :=
  { a with outq := drainQueueFor (pdBeat d) a.outq, counters := { a.counters with active := addSat a.counters.active (pdBeat d) } }

/-- A beat that nothing stalls, in which no pass waits for its block: the vectors advance, one enters, and a row is injected. -/
theorem arrayBeat_advances {zb : BitVec 512 → Bool} {free : Nat} {x : Tile} {d : BitVec 512} (hkept : startKept zb x = x)
    (hmarks : enterMarks 4096 x.arr = x.arr) (hd : beatPass x.arr = some d) (hbusy : inProgress x.arr = true)
    (hvec : lacksVector x.arr = false) (hrow : lacksRow x.arr = false) (hdrain : drainStops x = false)
    (hbubble : (enteringPass x.arr).isNone = true → x.arr.queue.all (fun q => q.started) = true) :
    arrayBeat zb free x =
      ({ x with arr := injectRow (enterVector free (advanceFlights (beatCounted d x.arr))).1 },
        (enterVector free (advanceFlights (beatCounted d x.arr))).2) := by
  have hwait : (((x.arr.queue.find? fun p => !p.started).any fun p => !pdKeep p.desc) && (enteringPass (beatCounted d x.arr)).isNone) = false := by
    cases hn : (enteringPass (beatCounted d x.arr)).isNone with
    | false => exact Bool.and_false _
    | true =>
      have hall : (x.arr.queue.find? fun p => !p.started) = none := by simpa using hbubble hn
      rw [hall]; rfl
  simp only [beatCounted] at hwait ⊢
  simp only [arrayBeat, hkept, hmarks, hd, hbusy, hvec, hrow, hdrain, arrCount, hwait, Bool.or_self, Bool.and_false, Bool.false_eq_true,
    if_true, if_false, Bool.true_and]

/-- A vector enters, and none comes to the end of its way (R68, R83). -/
theorem arrayBeat_enters {zb : BitVec 512 → Bool} {free : Nat} {x : Tile} {p : ArrPass} {f : FeedItem} {fs : List FeedItem}
    (hkept : startKept zb x = x) (hfeed : x.arr.feed = f :: fs) (hf : f.count = 0) (hfp : f.poison = false)
    (hp : enteringPass x.arr = some p) (hpass : f.pass = p.id) (hap : x.arr.active.poison = false) (hchain : x.arr.chain.pass = none)
    (hdrain : drainStops x = false) (hage : ∀ g ∈ x.arr.flights, g.age < 254) :
    arrayBeat zb free x = ({ x with arr := { x.arr with
      feed := fs
      outq := drainQueueFor (pdBeat p.desc) x.arr.outq
      flights := (x.arr.flights.map fun g => { g with age := g.age + 1 }) ++
        [{ pass := p.id, vec := f.vec, age := 0, result := arrayProduct p.desc x.arr.active f.elems, count := 0, poison := false }]
      queue := mapIf (fun q => q.id == p.id) (fun q => { q with entered := q.entered + 1 }) x.arr.queue
      counters := { x.arr.counters with
        active := addSat x.arr.counters.active (pdBeat p.desc), vectors := addSat x.arr.counters.vectors 1 } } }, 0) := by
  have hbeat := arrayBeat_advances (free := free) (d := p.desc) hkept (enterMarks_of_vector hfeed hf 4096) (by simp [beatPass, hp])
    (by simp [inProgress, hp]) (by simp [lacksVector, hp, hfeed, hpass]) (by simp [lacksRow, hchain]) hdrain (by simp [hp])
  have hyoung : advanceFlights (beatCounted p.desc x.arr) =
      { beatCounted p.desc x.arr with flights := x.arr.flights.map fun g => { g with age := g.age + 1 } } := advanceFlights_young hage
  rw [hyoung, enterVector_enters (by exact hfeed) hf (by exact hp) hpass hfp (by exact hap), injectRow_of_free (by exact hchain)] at hbeat
  exact hbeat

/-- The one vector in the array comes to the end of its way, and none enters (R84). -/
theorem arrayBeat_completes {zb : BitVec 512 → Bool} {free : Nat} {x : Tile} {p : ArrPass} {g : Flight}
    (hp : (x.arr.queue.find? fun q => q.id == g.pass) = some p) (hall : x.arr.queue.all (fun q => q.started) = true)
    (hflights : x.arr.flights = [g]) (hage : g.age = 254) (hg : g.count = 0) (hnone : enteringPass x.arr = none)
    (hchain : x.arr.chain.pass = none) (hdrain : drainStops x = false) :
    ∃ groups counters, arrayBeat zb free x = ({ x with arr := { x.arr with
      acc := x.arr.acc.set (accIndex p.desc g.vec) (accumulate p.desc (pdAdd p.desc) x.arr.acc[accIndex p.desc g.vec] g.result).1
      flights := [], outq := drainQueueFor (pdBeat p.desc) x.arr.outq, groups := groups, counters := counters } }, 0) := by
  have hkept : startKept zb x = x := by
    have hfind : (x.arr.queue.find? fun q => !q.started) = none := by simpa using hall
    rw [startKept, hfind]
  have hbeat := arrayBeat_advances (free := free) (d := p.desc) hkept (enterMarks_of_none hnone 4096)
    (by simp [beatPass, hnone, hflights, hp]) (by simp [inProgress, hflights]) (by simp [lacksVector, hnone]) (by simp [lacksRow, hchain])
    hdrain fun _ => hall
  obtain ⟨groups, counters, hlast⟩ :=
    completeFlight_accumulates (a := { beatCounted p.desc x.arr with flights := [] }) (f := { g with age := 255 }) hp hg
  rw [advanceFlights_last (by exact hflights) hage, hlast, enterVector_none (by exact hnone), injectRow_of_free (by exact hchain)] at hbeat
  exact ⟨groups, counters, hbeat⟩

/-- A beat that takes no free value changes its own tile alone. -/
theorem exec_arrayBeat {s : State} {t : Fin 128} {y : Tile} (h : arrayBeat (zbAllows s) s.free (getTile s t) = (y, 0)) :
    exec (.arrayBeat t) s = .next (updTile t (fun _ => y) s) := by
  show go _ = _
  rw [h]; rfl

/-- Settles O20: the two beats of the statement are one in which a vector enters and one in which a vector comes to its end. -/
theorem arrayBeatAdvances : Obligations.ArrayBeatAdvances := by
  intro s t p x a older
  refine ⟨fun f fs hkept hfeed hf hfp hp hpass hap hchain hdrain hage => ?_, fun g hp hall hflights hage hg hnone hchain hdrain => ?_⟩
  · rw [exec_arrayBeat (arrayBeat_enters hkept hfeed hf hfp hp hpass hap hchain hdrain hage)]
    exact congrArg Host.Outcome.next (updTile_congr rfl)
  · obtain ⟨groups, counters, hbeat⟩ := arrayBeat_completes hp hall hflights hage hg hnone hchain hdrain
    have htile (y : Tile) := getTile_updTile_same t (fun _ => y) s
    exact ⟨_, exec_arrayBeat hbeat, congrArg (fun y => y.arr.flights) (htile _), congrArg (fun y => y.arr.acc) (htile _),
      congrArg (fun y => y.arr.queue) (htile _), congrArg (fun y => y.mem) (htile _), fun v hv => getTile_updTile_other hv .., sameBut_updTile ..⟩

end Sys2Proof.Machine
end

section
/-!
SUPPORT. The release of a block, the completion of a pass and the replay of an array (R78, R84, R85, R93, R94; O21).
-/
namespace Sys2Proof.Machine

theorem drainBlockRelease_releases {s : State} {t : Fin 128} {g : AccGroup} {d : BitVec 512}
    (hg : ((getTile s t).arr.groups.find? fun g => g.closed && !g.released) = some g) (hd : releaseDesc (getTile s t).arr g = some d)
    (hready : blockReady (getTile s t) g d = true) (hroom : (getTile s t).arr.outq.length + blockLen (pdLen d) g.nextBlock ≤ 16) :
    exec (.drainBlockRelease t) s = .next (updArr t (fun a => { a with
      groups := mapIf (fun h => h.id == g.id) (fun h =>
        { h with nextBlock := h.nextBlock + 1, released := decide (pdLen d ≤ 16 * (h.nextBlock + 1)) }) a.groups })
      (releaseBlock t d (releaseStep (getTile s t).arr g) g.nextBlock g.corr s)) := by
  show execDrainBlockRelease t s = _
  simp only [execDrainBlockRelease, hg, hd, hready, hroom, decide_true, Bool.and_self, if_true]
  rfl

/-- A pass without poisoned words leaves the queue and stops nothing (R78, R110). -/
theorem arrayPassComplete_completes {s : State} {t : Fin 128} {p : ArrPass} {ps : List ArrPass} (hq : (getTile s t).arr.queue = p :: ps)
    (hstarted : p.started = true) (hentered : allEntered (getTile s t).arr p = true)
    (hdone : ((getTile s t).arr.flights.any fun f => f.pass == p.id) = false) (hpoison : (getTile s t).arr.poison = false) :
    exec (.arrayPassComplete t) s =
      .next (updTile t (fun x => { x with arr := pruneGroups { x.arr with queue := ps, poison := false } }) s) := by
  show execArrayPassComplete t s = _
  simp only [execArrayPassComplete, hq, hstarted, hentered, hdone, hpoison, Bool.not_false, Bool.and_self, Bool.false_eq_true, if_true, if_false]
  exact congrArg Host.Outcome.next (updTile_congr rfl)

/-! ### The replay -/

/-- An error of the program discards passes and work of the other units, but no accumulator and no group's skipped blocks (R110). -/
theorem stopRun_keeps (st : Status) (x : Tile) : (stopRun st x).mem = x.mem ∧ (stopRun st x).arr.acc = x.arr.acc ∧
    ∀ h ∈ (stopRun st x).arr.groups, h ∈ x.arr.groups := by
  unfold stopRun
  split
  · exact ⟨rfl, rfl, fun _ h => h⟩
  · dsimp only
    split
    · exact ⟨rfl, rfl, fun _ h => h⟩
    · exact ⟨rfl, rfl, fun _ h => List.mem_of_mem_filter h⟩

theorem skips_of_mem_mapIf {id : Nat} {l : List AccGroup} {h : AccGroup}
    (hm : h ∈ mapIf (fun g => g.id == id) (fun g => { g with skips := [] }) l) (hid : h.id = id) : h.skips = [] := by
  obtain ⟨g, -, rfl⟩ := List.mem_map.mp hm
  by_cases hg : g.id = id
  · simp [hg]
  · exact absurd hid (by simp [hg])

/-- The replay of group `g`: every pass in order, on the accumulators as they are (R94). -/
def groupReplay (x : Tile) (g : AccGroup) (free : Nat) : ArrayUnit × Nat :=
  g.passes.foldl (fun r p => replayPass x (openBlocks x g) (p.pass == (g.passes.head?.map fun p => p.pass).getD 0) p r) (x.arr, free)

/-- A replay that runs leaves the groupReplay accumulators and no skipped block of its group, also when it stops the program (R94, R110). -/
theorem zbReplay_replays {x : Tile} {g : AccGroup} (hg : (x.arr.groups.find? fun g => g.closed && !g.released && !(openBlocks x g).isEmpty) = some g)
    (hdone : (x.arr.queue.any fun p => p.group == g.id && !(allEntered x.arr p && !(x.arr.flights.any fun f => f.pass == p.id))) = false)
    (hknown : skipsKnown x g = true) (free : Nat) :
    (zbReplay free x).1.mem = x.mem ∧ (zbReplay free x).1.arr.acc = (groupReplay x g free).1.acc ∧
      ∀ h ∈ (zbReplay free x).1.arr.groups, h.id = g.id → h.skips = [] := by
  unfold zbReplay
  rw [hg]
  dsimp only
  rw [hdone, hknown, if_neg (by simp)]
  dsimp only
  split
  · exact ⟨rfl, rfl, fun _ => skips_of_mem_mapIf⟩
  · obtain ⟨hmem, hacc, hgroups⟩ := stopRun_keeps .dataPoison _
    exact ⟨hmem, hacc, fun h hh => skips_of_mem_mapIf (hgroups h hh)⟩

/-- Settles O21: each of the three commands is followed through the one case in which it acts. -/
theorem arrayBlocksAndPasses : Obligations.ArrayBlocksAndPasses := by
  intro s t x a
  refine ⟨fun g d => drainBlockRelease_releases, fun p ps hq hstarted hentered hdone hpoison => ?_, fun g hg hdone hknown => ?_⟩
  · have htile := getTile_updTile_same t (fun x => { x with arr := pruneGroups { x.arr with queue := ps, poison := false } }) s
    exact ⟨_, arrayPassComplete_completes hq hstarted hentered hdone hpoison, congrArg (fun y => y.arr.queue) htile,
      congrArg (fun y => y.arr.acc) htile, congrArg (fun y => y.run) htile, congrArg (fun y => y.mem) htile,
      fun v hv => getTile_updTile_other hv .., sameBut_updTile ..⟩
  · obtain ⟨hmem, hacc, hskips⟩ := zbReplay_replays hg hdone hknown s.free
    have htile : getTile (updTile t (fun _ => (zbReplay s.free x).1) s) t = (zbReplay s.free x).1 := getTile_updTile_same ..
    refine ⟨_, rfl, (congrArg (fun y => y.arr.acc) htile).trans hacc, fun h hh => hskips h ?_, (congrArg (fun y => y.mem) htile).trans hmem,
      fun v hv => getTile_updTile_other (t := t) (s := s) hv _, sameBut_rfl⟩
    exact (congrArg (fun y => y.arr.groups) htile) ▸ hh

end Sys2Proof.Machine
end

section
/-!
SUPPORT. An instruction of the sequencer is issued and acts on its tile (R108 to R110): what it finds, and one lemma each for the
instructions that change their tile, for those that leave a result in gd and for those that stop the program.
-/
namespace Sys2Proof.Machine

/-! ### What an instruction finds -/

/-- A running program whose instruction has been issued: its cycles have moved and it waits no longer. -/
def issuedRun (cycles : Nat) (r : Run) : Run := { r with cycles := cycles, wait := .none }

/-- A tile whose instruction has been issued: its line is buffered and it is counted (R108). -/
def issuedTile (ibuf : List ILine) (cycles : Nat) (r : Run) (x : Tile) : Tile :=
  { x with ibuf := ibuf, run := some (issuedRun cycles r), counters := { x.counters with seqInstr := addSat x.counters.seqInstr 1 } }

/-- The state that the action of an issued instruction finds. -/
def issued (t : Fin 128) (ibuf : List ILine) (cycles : Nat) (r : Run) (s : State) : State :=
  updTile t (issuedTile ibuf cycles r) { s with free := s.free + 1 }

/-- The tile that `SeqEffect` describes. -/
def effectTile (f : Tile → Tile) (g : Run → Run) (r : Run) (ibuf : List ILine) (cycles : Nat) (ready : Vector Nat 32) (x : Tile) : Tile :=
  { f x with
    ibuf := ibuf, run := some { g r with cycles := cycles, ready := ready, wait := .none },
    counters := { (f x).counters with seqInstr := addSat x.counters.seqInstr 1 } }

/-- The program of a tile goes on behind its instruction. -/
def withNext (x : Tile) : Tile := { x with run := x.run.map fun r => { r with pc := r.pc + 4 } }

/-- The program of a tile goes on behind its instruction, with a result in gd. -/
def withResult (gd : Fin 32) (v : BitVec 64) (x : Tile) : Tile := withNext { x with g := writeG x.g gd v }

theorem updTile_self {t : Fin 128} {f : Tile → Tile} {s : State} (h : f (getTile s t) = getTile s t) : updTile t f s = s :=
  congrArg (fun v => { s with tile := { s.tile with tiles := v } }) (updAt_self s.tile.tiles t f h)

theorem seqNext_updTile (t : Fin 128) (k : Tile → Tile) (s : State) : seqNext t (updTile t k s) = updTile t (fun x => withNext (k x)) s :=
  updTile_updTile ..

theorem setG_eq (t : Fin 128) (g : Fin 32) (v : BitVec 64) (s : State) : setG t g v s = updTile t (fun x => { x with g := writeG x.g g v }) s := by
  unfold setG writeG
  split
  · exact (updTile_self rfl).symm
  · rfl

theorem seqSet_eq (t : Fin 128) (gd : Fin 32) (v : BitVec 64) (s : State) : seqSet t gd v s = updTile t (withResult gd v) s := by
  rw [seqSet, setG_eq]
  exact seqNext_updTile ..

theorem seqSet_updTile (t : Fin 128) (gd : Fin 32) (v : BitVec 64) (k : Tile → Tile) (s : State) :
    seqSet t gd v (updTile t k s) = updTile t (fun x => withResult gd v (k x)) s := by rw [seqSet_eq, updTile_updTile]

section
variable {t : Fin 128} {s : State} {r : Run} {w : BitVec 32} {is : BitVec 32 → Bool} {gs : List (Fin 32)} {act : Tile → Run → State → State}

/-- An instruction that the sequencer meets is issued, and its action follows. -/
theorem seqInstr_issues (h : seqAt s t = some (r, w)) (hw : is w = true) :
    ∃ ib c, seqInstr t is gs act s = act (issuedTile ib c r (getTile s t)) (issuedRun c r) (issued t ib c r s) := by
  obtain ⟨ib, c, hf⟩ := fillLine_eq (getTile s t) r
  refine ⟨ib, issueCycles { r with cycles := c } gs, (seqInstr_run h hw).trans ?_⟩
  simp only [hf]
  rfl

theorem getTile_issued (ib : List ILine) (c : Nat) : getTile (issued t ib c r s) t = issuedTile ib c r (getTile s t) := getTile_updTile_same ..

/-! ### What an instruction does -/

/-- An instruction whose action changes the issued tile as `f` and `g` say has that effect. -/
theorem seqInstr_effect (h : seqAt s t = some (r, w)) (hw : is w = true) {f : Tile → Tile} {g : Run → Run}
    (hact : ∀ ib c, ∃ k cycles ready, act (issuedTile ib c r (getTile s t)) (issuedRun c r) (issued t ib c r s) = updTile t k (issued t ib c r s) ∧
      k (issuedTile ib c r (getTile s t)) = effectTile f g r ib cycles ready (getTile s t)) :
    ∃ u, go (seqInstr t is gs act s) = .next u ∧ SeqEffect t s u r f g := by
  obtain ⟨ib, c, hi⟩ := seqInstr_issues (gs := gs) (act := act) h hw
  obtain ⟨k, cycles, ready, ha, hk⟩ := hact ib c
  refine ⟨_, rfl, ib, cycles, ready, ?_⟩
  rw [hi, ha, issued, updTile_updTile]
  exact updTile_congr hk

/-- An instruction whose action is to leave a value in gd has that result. -/
theorem seqInstr_result (h : seqAt s t = some (r, w)) (hw : is w = true) {gd : Fin 32} {v : BitVec 64}
    (hact : ∀ ib c, act (issuedTile ib c r (getTile s t)) (issuedRun c r) (issued t ib c r s) = seqSet t gd v (issued t ib c r s)) :
    ∃ u, go (seqInstr t is gs act s) = .next u ∧ SeqResult t s u r gd v :=
  seqInstr_effect h hw fun ib c => ⟨_, c, r.ready, (hact ib c).trans (seqSet_eq ..), rfl⟩

/-- The program of tile `t` has stopped with an error under a status; its registers and its tile's memory stay (R110). -/
def StoppedWith (t : Fin 128) (r : Run) (st : Status) (s u : State) : Prop :=
  ∃ r', (getTile u t).run = some r' ∧ r'.prog = r.prog ∧ r'.pc = r.pc ∧ (r.failed = false → r'.stopping = some st ∧ r'.failed = true) ∧
    (getTile u t).g = (getTile s t).g ∧ (getTile u t).mem = (getTile s t).mem ∧ (∀ v : Fin 128, v ≠ t → getTile u v = getTile s v) ∧
    SameBut [.free, .tile] s u

/-- The first error of a program ends it, and a further one changes nothing; registers and memory stay (R110). -/
theorem stopRun_run {x : Tile} (hr : x.run = some r) (st : Status) :
    (∃ r', (stopRun st x).run = some r' ∧ r'.prog = r.prog ∧ r'.pc = r.pc ∧ (r.failed = false → r'.stopping = some st ∧ r'.failed = true)) ∧
      (stopRun st x).g = x.g ∧ (stopRun st x).mem = x.mem := by
  unfold stopRun
  split
  · next hn => cases hn.symm.trans hr
  · next r' hr' =>
    obtain rfl := Option.some.inj (hr'.symm.trans hr)
    split
    · next hf => exact ⟨⟨r', hr', rfl, rfl, fun h => by simp [h] at hf⟩, rfl, rfl⟩
    · exact ⟨⟨_, rfl, rfl, rfl, fun _ => ⟨rfl, rfl⟩⟩, rfl, rfl⟩

/-- An instruction whose action is to fail stops the program. -/
theorem seqInstr_stops (h : seqAt s t = some (r, w)) (hw : is w = true) {st : Status}
    (hact : ∀ ib c, act (issuedTile ib c r (getTile s t)) (issuedRun c r) (issued t ib c r s) = seqFail t st (issued t ib c r s)) :
    ∃ u, go (seqInstr t is gs act s) = .next u ∧ StoppedWith t r st s u := by
  obtain ⟨ib, c, hi⟩ := seqInstr_issues (gs := gs) (act := act) h hw
  obtain ⟨⟨r', hr', hprog, hpc, hst⟩, hg, hmem⟩ := stopRun_run (x := issuedTile ib c r (getTile s t)) (r := issuedRun c r) rfl st
  refine ⟨_, rfl, r', ?_, hprog, hpc, hst, ?_, ?_, fun v hv => ?_, ?_⟩ <;> rw [hi, hact, seqFail, issued, updTile_updTile]
  · exact (congrArg Tile.run (getTile_updTile_same ..)).trans hr'
  · exact (congrArg Tile.g (getTile_updTile_same ..)).trans hg
  · exact (congrArg Tile.mem (getTile_updTile_same ..)).trans hmem
  · exact getTile_updTile_other hv ..
  · exact sameBut_rfl

end
end Sys2Proof.Machine
end

section
/-!
SUPPORT. The instructions of the sequencer that compute (R108, R109; O13).
-/
namespace Sys2Proof.Machine

section
variable {t : Fin 128} {s : State} {r : Run} {w : BitVec 32} {op : Nat}

theorem seqAlu_result (h : seqAt s t = some (r, w)) (f : BitVec 64 → BitVec 64 → BitVec 64) (hop : iOp w = op) :
    ∃ u, go (seqAlu op f t (iGd w) (iGa w) (iGb w) s) = .next u ∧
      SeqResult t s u r (iGd w) (f (gReg (getTile s t) (iGa w)) (gReg (getTile s t) (iGb w))) :=
  seqInstr_result h (by simp [isReg, hop]) fun _ _ => rfl

theorem seqAluImm_result (h : seqAt s t = some (r, w)) (f : BitVec 64 → BitVec 16 → BitVec 64) (hop : iOp w = op) :
    ∃ u, go (seqAluImm op f t (iGd w) (iGa w) (iImm w) s) = .next u ∧ SeqResult t s u r (iGd w) (f (gReg (getTile s t) (iGa w)) (iImm w)) :=
  seqInstr_result h (by simp [isImm, hop]) fun _ _ => rfl

end

/-- Settles O13: every instruction that computes leaves its result as its format says, and LUI its shifted immediate. -/
theorem sequencerAlu : Obligations.SequencerAlu := by
  intro s t r w h x a b i n
  exact ⟨if_pos rfl, seqAlu_result h _, seqAluImm_result h _, seqAlu_result h _, seqAlu_result h _, seqAlu_result h _, seqAlu_result h _,
    seqAlu_result h _, seqAluImm_result h _, seqAluImm_result h _, fun hop => seqInstr_result h (by simp [hop]) fun _ _ => rfl⟩

end Sys2Proof.Machine
end

section
/-!
SUPPORT. LD and ST, and the instructions that move the program counter (R18, R107, R109; O14).
-/
namespace Sys2Proof.Machine

section
variable {t : Fin 128} {s : State} {r : Run} {w : BitVec 32} {is : BitVec 32 → Bool} {gs : List (Fin 32)} {act : Tile → Run → State → State}

theorem seqAddrError_none {a : Nat} (ha : a % 8 = 0) (hm : a < tmemSize) : seqAddrError a = none := by
  simp [seqAddrError, firstFail, ha, hm]

/-- The program of a tile goes on behind an LD, whose result is delivered `at_`. -/
def withLoaded (gd : Fin 32) (v : BitVec 64) (at_ : Nat) (x : Tile) : Tile :=
  { withResult gd v x with run := (withResult gd v x).run.map fun q => { q with ready := q.ready.set gd at_ } }

/-- The program of a tile goes on behind an ST. -/
def withStored (a : Nat) (d : Data) (x : Tile) : Tile :=
  withNext { x with mem := memWrite x.mem a d, run := x.run.map (ownStores [(a, 8)]) }

theorem updRun_updRun (t : Fin 128) (f g : Run → Run) (s : State) : updRun t f (updRun t g s) = updRun t (fun r => f (g r)) s := by
  simp only [updRun, updTile_updTile, Option.map_map, Function.comp_def]

/-- An instruction whose action is to change the program by `g` has that effect on it. -/
theorem seqInstr_run_effect (h : seqAt s t = some (r, w)) (hw : is w = true) {g k : Run → Run}
    (hact : ∀ ib c, act (issuedTile ib c r (getTile s t)) (issuedRun c r) (issued t ib c r s) = updRun t k (issued t ib c r s))
    (hk : ∀ c, ∃ cycles ready, k (issuedRun c r) = { g r with cycles := cycles, ready := ready, wait := .none }) :
    ∃ u, go (seqInstr t is gs act s) = .next u ∧ SeqEffect t s u r id g := by
  refine seqInstr_effect h hw fun ib c => ?_
  obtain ⟨cycles, ready, hk⟩ := hk c
  exact ⟨_, cycles, ready, hact ib c, congrArg (fun q => { issuedTile ib c r (getTile s t) with run := some q }) hk⟩

/-- An instruction whose action is to go on does nothing else. -/
theorem seqInstr_goes_on (h : seqAt s t = some (r, w)) (hw : is w = true)
    (hact : ∀ ib c, act (issuedTile ib c r (getTile s t)) (issuedRun c r) (issued t ib c r s) = seqNext t (issued t ib c r s)) :
    ∃ u, go (seqInstr t is gs act s) = .next u ∧ SeqEffect t s u r id (fun r => { r with pc := r.pc + 4 }) :=
  seqInstr_run_effect h hw hact fun c => ⟨c, r.ready, rfl⟩

end

theorem sequencerMemory : Claims.SequencerMemory := by
  intro s t r w h x a ha hm
  have haddr : seqAddrError a = none := seqAddrError_none ha hm
  have hissued (ib : List ILine) (c : Nat) : seqAddrError (seqAddr (issuedTile ib c r (getTile s t)) (iGa w) (iImm w)) = none := haddr
  refine ⟨fun hop hp => ?_, fun hop => ?_⟩
  · have hclean (ib : List ILine) (c : Nat) :
        poisoned (memRead (issuedTile ib c r (getTile s t)).mem (seqAddr (issuedTile ib c r (getTile s t)) (iGa w) (iImm w)) 8) = false := hp
    refine seqInstr_effect h (by simp [isImm, hop]) fun ib c => ⟨withLoaded (iGd w) _ (c + 7), c, r.ready.set (iGd w) (c + 7), ?_, rfl⟩
    simp only [hissued, hclean, Bool.false_eq_true, if_false, seqSet_eq]
    exact updTile_updTile ..
  · have hstored : ∃ u, exec (.st t (iGd w) (iGa w) (iImm w)) s = .next u ∧
        SeqEffect t s u r (fun x => { x with mem := memWrite x.mem a (clean (bytesOf 8 (gReg x (iGd w)))) })
          (fun q => { q with pc := q.pc + 4, stored := r.stored ++ [(a, 8)] }) := by
      refine seqInstr_effect h (by simp [isImm, hop]) fun ib c => ⟨withStored a (clean (bytesOf 8 (gReg x (iGd w)))), c, r.ready, ?_, rfl⟩
      simp only [hissued, ownWrite, updTile_updTile, seqNext_updTile]
      rfl
    obtain ⟨u, hu, hs⟩ := hstored
    exact ⟨u, hu, _, hs⟩

section
variable {t : Fin 128} {s : State} {r : Run} {w : BitVec 32} {op : Nat}

/-- A branch goes to PC + 4 IMM where its condition holds, and else to the next instruction (R109). -/
theorem seqBranch_effect (h : seqAt s t = some (r, w)) (cond : BitVec 64 → BitVec 64 → Bool) (hop : iOp w = op) :
    ∃ u, go (seqBranch op cond t (iGd w) (iGa w) (iImm w) s) = .next u ∧ SeqEffect t s u r id (fun r => { r with
      pc := if cond (gReg (getTile s t) (iGd w)) (gReg (getTile s t) (iGa w)) then
        (BitVec.ofNat 64 r.pc + 4 * (iImm w).signExtend 64).toNat else r.pc + 4 }) := by
  have his : isImm op (iGd w) (iGa w) (iImm w) w = true := by simp [isImm, hop]
  unfold seqBranch
  cases hc : cond (gReg (getTile s t) (iGd w)) (gReg (getTile s t) (iGa w)) with
  | true =>
    exact seqInstr_run_effect h his
      (k := fun q => { q with pc := (BitVec.ofNat 64 r.pc + 4 * (iImm w).signExtend 64).toNat, cycles := q.cycles + 2 })
      (fun _ _ => if_pos hc) fun c => ⟨c + 2, r.ready, rfl⟩
  | false => exact seqInstr_run_effect h his (fun _ _ => if_neg (ne_true_of_eq_false hc)) fun c => ⟨c, r.ready, rfl⟩

end

theorem sequencerControl : Claims.SequencerControl := by
  intro s t r w h x a b there branch
  refine ⟨seqBranch_effect h _, seqBranch_effect h _, seqBranch_effect h _, fun hop hb => ?_, fun hop => ?_, fun hop => ?_, fun hop hp => ?_⟩
  · exact seqInstr_run_effect h (by simp [hop]) (k := fun q => { q with pc := b.toNat, cycles := q.cycles + 2 })
      (fun _ _ => if_neg (c := b.toNat % 4 ≠ 0) (not_not_intro hb)) fun c => ⟨c + 2, r.ready, rfl⟩
  · exact seqInstr_goes_on h (by simp [hop]) fun _ _ => rfl
  · exact seqInstr_run_effect h (by simp [hop]) (fun _ _ => rfl) fun c => ⟨c, r.ready, rfl⟩
  · exact seqInstr_run_effect h (by simp [hop]) (fun _ _ => (if_neg hp).trans (updRun_updRun ..)) fun c => ⟨c, r.ready, rfl⟩

/-- Settles O14: loads and stores on the tile's own memory, and the control flow. -/
theorem sequencerMemoryAndControl : Obligations.SequencerMemoryAndControl := ⟨sequencerMemory, sequencerControl⟩

end Sys2Proof.Machine
end

section
/-!
SUPPORT. SYS, the block counters, and the descriptors that PASS, MOVE and VLOOP hand to the units (R77, R78, R109, R114, R120, R155; O15).
-/
namespace Sys2Proof.Machine

section
variable {t : Fin 128} {s : State} {r : Run} {w : BitVec 32}

/-- SYS with a selector that has a value leaves it in gd (R109). -/
theorem sys_result (h : seqAt s t = some (r, w)) (hop : iOp w = 0x12) {k : Nat} {v : BitVec 64} (hk : fld (iImm w) 3 0 = k)
    (hlt : k < 13) (hv : ∀ ib c, sysValue t (issuedTile ib c r (getTile s t)) (issuedRun c r) k = some v) :
    ∃ u, exec (.sys t (iGd w) (iImm w)) s = .next u ∧ SeqResult t s u r (iGd w) v := by
  refine seqInstr_result h ?_ fun ib c => ?_
  · have h13 : fld (iImm w) 3 0 ≠ 13 := by omega
    have h14 : fld (iImm w) 3 0 ≠ 14 := by omega
    simp [hop, h13, h14]
  · rw [hk, hv]

/-- A tile goes on behind SYS 13: the window is compared and cleared (R155). -/
def windowChecked (gd : Fin 32) (hit : Bool) (x : Tile) : Tile :=
  withResult gd (BitVec.ofNat 64 (b2n hit))
    { x with window := 0, counters := { x.counters with wideReplay := addSat x.counters.wideReplay (b2n hit) } }

/-- A tile goes on behind SYS 14: the window is returned and cleared (R155). -/
def windowCleared (gd : Fin 32) (v : BitVec 64) (x : Tile) : Tile := withResult gd v { x with window := 0 }

/-- A tile goes on behind BCSET. -/
def bcWritten (i : Fin 32) (v : BitVec 32) (x : Tile) : Tile :=
  withNext { x with bc := x.bc.set i v }

end

theorem sequencerSystem : Claims.SequencerSystem := by
  intro s t r w h x k
  refine ⟨fun hop hk => ?_, fun hop hk => ?_, fun hop hk => ?_, fun hop hk => ?_, fun hop hk => ?_, fun hop hk => ?_, fun hop hk => ?_,
    fun hop => ?_, fun hop => ?_⟩
  · exact sys_result h hop rfl (by omega) fun _ _ => if_pos (Nat.le_of_lt_succ hk)
  · exact sys_result h hop hk (by decide) fun _ _ => rfl
  · exact sys_result h hop hk (by decide) fun _ _ => rfl
  · exact sys_result h hop hk (by decide) fun _ _ => rfl
  · exact sys_result h hop hk (by decide) fun _ _ => rfl
  · exact seqInstr_effect h (by simp [hop, hk]) fun ib c => ⟨windowChecked (iGd w) _, c, r.ready, seqSet_updTile .., rfl⟩
  · exact seqInstr_effect h (by simp [hop, hk]) fun ib c => ⟨windowCleared (iGd w) _, c, r.ready, seqSet_updTile .., rfl⟩
  · exact seqInstr_effect h (by simp [isGaImm, hop]) fun ib c => ⟨bcWritten _ _, c, r.ready, seqNext_updTile .., rfl⟩
  · exact seqInstr_result h (by simp [isGdImm, hop]) fun _ _ => rfl

/-! ### Descriptors handed over -/

section
variable {t : Fin 128} {s : State} {r : Run} {w : BitVec 32} {op n d : Nat} {full : Tile → Bool} {check : State → Tile → Nat → Option Status}
  {give : Run → Nat → State → State}

/-- An instruction that meets room in a unit's queue is issued like any other. -/
theorem seqHand_of_room {ga : Fin 32} (hroom : full (getTile s t) = false) :
    seqHand op n full check give t ga s = seqInstr t (fun w => iOp w == op && iGa w == ga) [ga] (fun x r s =>
      match descriptorAt x (gReg x ga).toNat n with
      | .error st => seqFail t st s
      | .ok d => match check s x d with
        | some st => seqFail t st s
        | none => seqNext t (give r d s)) s := if_neg (by simp [hroom])

/-- A descriptor that passes its checks while the unit has room changes the tile as `f` says, and the program goes on (R109). -/
theorem seqHand_effect (h : seqAt s t = some (r, w)) (hop : iOp w = op) (hroom : full (getTile s t) = false)
    (hd : descriptorAt (getTile s t) (gReg (getTile s t) (iGa w)).toNat n = .ok d)
    (hcheck : ∀ ib c, check (issued t ib c r s) (issuedTile ib c r (getTile s t)) d = none) {f : Tile → Tile}
    (hgive : ∀ ib c, ∃ k, give (issuedRun c r) d (issued t ib c r s) = updTile t k (issued t ib c r s) ∧
      k (issuedTile ib c r (getTile s t)) = { f (getTile s t) with
      ibuf := ib, run := some (issuedRun c r),
      counters := { (f (getTile s t)).counters with seqInstr := addSat (getTile s t).counters.seqInstr 1 } }) :
    ∃ u, go (seqHand op n full check give t (iGa w) s) = .next u ∧ SeqEffect t s u r f (fun r => { r with pc := r.pc + 4 }) := by
  rw [seqHand_of_room hroom]
  refine seqInstr_effect h (by simp [hop]) fun ib c => ?_
  obtain ⟨k, hg, hk⟩ := hgive ib c
  refine ⟨fun x => withNext (k x), c, r.ready, ?_, ?_⟩
  · have hissued : descriptorAt (issuedTile ib c r (getTile s t)) (gReg (issuedTile ib c r (getTile s t)) (iGa w)).toNat n = .ok d := hd
    simp only [hissued, hcheck, hg, seqNext_updTile]
  · simp only [hk]
    rfl

end

theorem sequencerHandsOver : Claims.SequencerHandsOver := by
  intro s t r w d h x a next
  refine ⟨fun hop hd hroom hcheck => ?_, fun hop hd hroom hcheck => ?_, fun hop hd hroom hcheck => ?_⟩
  · exact seqHand_effect h hop (by simpa using hroom) hd (fun _ _ => hcheck) fun _ _ => ⟨_, rfl, rfl⟩
  · exact seqHand_effect h hop (by simpa using hroom) hd (fun _ _ => hcheck) fun _ _ => ⟨_, rfl, rfl⟩
  · exact seqHand_effect h hop (by simpa using hroom) hd (fun _ _ => hcheck) fun _ _ => ⟨_, rfl, rfl⟩

/-- Settles O15: what SYS, BCSET and BCREAD do, and the hand-over of checked descriptors. -/
theorem sequencerSystemAndUnits : Obligations.SequencerSystemAndUnits := ⟨sequencerSystem, sequencerHandsOver⟩

end Sys2Proof.Machine
end

section
/-!
SUPPORT. BCWAIT, FENCE, REDRD and VERD where what they wait for holds, and the end of their waits (R109, R111, R128; O16).
-/
namespace Sys2Proof.Machine

theorem sequencerWaits : Claims.SequencerWaits := by
  intro s t r w h x
  refine ⟨fun hop hbc => ?_, fun hop hdone => ?_, fun hop hpend => ?_, fun hop v hv => ?_⟩
  · have hle : BitVec.ofNat 32 (gReg x (iGa w)).toNat ≤ x.bc[bcIndex (iImm w)] := by rwa [BitVec.le_def, BitVec.toNat_ofNat]
    exact seqInstr_goes_on h (by simp [isGaImm, hop]) fun _ _ => if_pos hle
  · have hissued (ib : List ILine) (c : Nat) : unitsDone (issued t ib c r s) t (BitVec.ofNat 3 (fld (iImm w) 2 0)) = true := by
      rw [← hdone]
      simp only [unitsDone, arrayIdle, getTile_issued]
      rfl
    exact seqInstr_goes_on h (by simp [hop]) fun _ _ => if_pos (hissued ..)
  · exact seqInstr_result h (by simp [isGdImm, hop]) fun _ _ => if_neg (ne_true_of_eq_false hpend)
  · have hissued (ib : List ILine) (c : Nat) : verdValue (issued t ib c r s) (issuedRun c r).prog (fld (iImm w) 1 0) = some (.ok v) := hv
    exact seqInstr_result h (by simp [isGdImm, hop]) fun _ _ => by rw [hissued]

section
variable {t : Fin 128} {s : State} {r : Run}

theorem waitOf_eq (hr : (getTile s t).run = some r) (hs : r.stopping = none) : waitOf s t = r.wait := by simp [waitOf, hr, hs]

/-- The program of a tile goes on behind the instruction that waited, with these registers. -/
def resumed (r : Run) (g : Vector (BitVec 64) 32) (x : Tile) : Tile := { x with g := g, run := some { r with wait := .none, pc := r.pc + 4 } }

theorem seqResume_eq (hr : (getTile s t).run = some r) : seqResume t s = updTile t (resumed r (getTile s t).g) s :=
  updTile_congr (by simp only [hr, resumed, Option.map_some])

theorem seqResume_setG (hr : (getTile s t).run = some r) (gd : Fin 32) (v : BitVec 64) :
    seqResume t (setG t gd v s) = updTile t (resumed r (writeG (getTile s t).g gd v)) s := by
  rw [setG_eq, seqResume, updRun, updTile_updTile]
  exact updTile_congr (by simp only [hr, resumed, Option.map_some])

end

theorem sequencerResumes : Claims.SequencerResumes := by
  intro s t r hr hs x on
  have hwait := waitOf_eq hr hs
  refine ⟨fun i least hw hle => ?_, fun units hw hdone => ?_, fun gd imm hw hpend => ?_, fun gd imm v hw hv => ?_⟩ <;> rw [hw] at hwait
  · show execBcwaitResume t s = _
    rw [execBcwaitResume, hwait]
    exact congrArg Host.Outcome.next ((if_pos hle).trans (seqResume_eq hr))
  · show execFenceResume t s = _
    rw [execFenceResume, hwait]
    exact congrArg Host.Outcome.next ((if_pos hdone).trans (seqResume_eq hr))
  · show execRedrdResume t s = _
    rw [execRedrdResume, hwait]
    exact congrArg Host.Outcome.next ((if_neg (ne_true_of_eq_false hpend)).trans (seqResume_setG hr ..))
  · show execVerdResume t s = _
    simp only [execVerdResume, hr, hwait, hv]
    exact congrArg Host.Outcome.next (seqResume_setG hr ..)

/-- Settles O16: an instruction that waits goes on at once when it may, and otherwise when its wait ends. -/
theorem sequencerWaitsAndResumes : Obligations.SequencerWaitsAndResumes := ⟨sequencerWaits, sequencerResumes⟩

end Sys2Proof.Machine
end

section
/-!
SUPPORT. The shard table, and the errors of the sequencer's own instructions (R33, R34, R110, R112; O17).
-/
namespace Sys2Proof.Machine

/-- A field below bit 16 of an instruction word is that of its IMM. -/
theorem fld_iImm (w : BitVec 32) {hi lo : Nat} (h : hi < 16) : fld (iImm w) hi lo = fld w hi lo := by
  refine Nat.eq_of_testBit_eq fun i => ?_
  simp only [fld, iImm, BitVec.toNat_ofNat, Nat.testBit_mod_two_pow, Nat.testBit_shiftRight]
  by_cases hi' : i < hi + 1 - lo
  · have hb : lo + i < 16 := by omega
    simp [hi', hb]
  · simp [hi']

/-- A tile with entry `k` of its shard table changed. -/
def withShard (k : Fin 64) (e : Shard) (x : Tile) : Tile := { x with shards := x.shards.set k e }

theorem sequencerShards : Claims.SequencerShards := by
  intro s t r w h x k e
  have hundef (hdef : e.defined = true) : ¬(!e.defined) = true := by simp [hdef]
  refine ⟨fun hop hsteps => ?_, fun hop hdef himm => ?_, fun hop hdef himm n hn hopen hnew => ?_⟩
  · refine seqInstr_effect h (by simp [hop, fld_iImm])
      fun ib c => ⟨fun x => withNext (withShard k _ x), c, r.ready, (if_neg ?_).trans (seqNext_updTile ..), rfl⟩
    simp [stepOpen, issued, hsteps]
  · exact seqInstr_result h (by simp [isGdImm, hop]) fun _ _ => (if_neg (hundef hdef)).trans (if_pos (by simp [himm]))
  · have hmark : (match r.prog.step with
      | some n => if (findStep s n).isSome && !e.marks.contains n then { e with marks := e.marks ++ [n] } else e
      | none => e) = { e with marks := e.marks ++ [n] } := by
      simp only [hn, hopen, hnew, Bool.not_false, Bool.and_self, if_true]
    refine seqInstr_effect h (by simp [isGdImm, hop]) fun ib c => ⟨fun x => withResult (iGd w) (if e.sel then e.a else e.b)
      (withShard k { e with marks := e.marks ++ [n] } x), c, r.ready, ?_, rfl⟩
    refine (if_neg (hundef hdef)).trans ((if_neg (by simp [himm])).trans ?_)
    rw [seqSet_updTile]
    refine updTile_congr ?_
    rw [getTile_issued]
    exact congrArg (fun e => withResult _ _ (withShard k e _)) hmark

theorem sequencerStops : Claims.SequencerStops := by
  intro s t r w h x a stops
  have hissued {st : Status} (herr : seqAddrError a = some st) (ib : List ILine) (c : Nat) :
      seqAddrError (seqAddr (issuedTile ib c r (getTile s t)) (iGa w) (iImm w)) = some st := herr
  refine ⟨fun hop => ?_, fun hop ha => ?_, fun hop ha hm => ?_, fun hop ha => ?_, fun hop hp => ?_, fun hop hs => ?_⟩
  · exact seqInstr_stops h (by simpa using hop) fun _ _ => rfl
  · have herr : seqAddrError a = some .malformed := by simp [seqAddrError, firstFail, ha]
    exact seqInstr_stops h (by simp [isImm, hop]) fun _ _ => by simp only [hissued herr]
  · have herr : seqAddrError a = some .addressRange := by simp [seqAddrError, firstFail, ha, hm]
    exact seqInstr_stops h (by simp [isImm, hop]) fun _ _ => by simp only [hissued herr]
  · exact seqInstr_stops h (by simp [hop]) fun _ _ => if_pos ha
  · exact seqInstr_stops h (by simp [hop]) fun _ _ => if_pos hp
  · refine seqInstr_stops h (by simp [hop, fld_iImm]) fun _ _ => if_pos ?_
    simp [stepOpen, issued, hs]

/-- Settles O17: the shard table, and the errors that stop a program. -/
theorem sequencerShardsAndStops : Obligations.SequencerShardsAndStops := ⟨sequencerShards, sequencerStops⟩

end Sys2Proof.Machine
end

section
/-!
SUPPORT. TILE_RUN queues its program, and programs and re-executions start (R18, R36, R105, R106, R108; O22).
-/
namespace Sys2Proof.Machine
open Host

/-! ### A program in the queues of its tiles -/

theorem foldl_updTile (f : Tile → Tile) (l : List (Fin 128)) : ∀ s : State, l.foldl (fun s t => updTile t f s) s =
    { s with tile := { s.tile with tiles := l.foldl (fun v t => updAt v t f) s.tile.tiles } } := by
  induction l with
  | nil => exact fun _ => rfl
  | cons t l ih => exact fun s => ih _

/-- An update of each tile of a list, each named once, is the update of those tiles. -/
theorem getTile_foldl_updTile (f : Tile → Tile) {l : List (Fin 128)} (hl : l.Nodup) (s : State) (t : Fin 128) :
    getTile (l.foldl (fun s t => updTile t f s) s) t = if t ∈ l then f (getTile s t) else getTile s t := by
  rw [foldl_updTile]
  exact foldl_updAt f l hl s.tile.tiles t

theorem tilesOf_nodup (mask : Nat) : (tilesOf mask).Nodup := (List.nodup_finRange 128).filter _

theorem mem_tilesOf {mask : Nat} {t : Fin 128} : t ∈ tilesOf mask ↔ mask.testBit t.val = true := by simp [tilesOf]

/-- A TILE_RUN that is admitted stands last in the queue of each tile of its mask, and is on none of the others (R105, R106). -/
theorem getTile_tileRunAdmit (k : Cmd) (s : State) (t : Fin 128) : getTile (tileRunAdmit k s) t = { getTile s t with
    progs := (getTile s t).progs ++ if (runMask k.slot.pay).testBit t.val then
      [{ cmd := k.id, slot := k.slot, step := k.step, redo := false }] else [] } := by
  refine (getTile_foldl_updTile _ (tilesOf_nodup _) s t).trans ?_
  cases ht : (runMask k.slot.pay).testBit t.val with
  | true => exact if_pos (mem_tilesOf.mpr ht)
  | false => exact (if_neg (fun h => by simp [mem_tilesOf.mp h] at ht)).trans (by simp)

theorem tileRunAdmit_eq (k : Cmd) (s : State) : ∃ v, tileRunAdmit k s = { s with tile := { s.tile with
    tiles := v, cmds := s.tile.cmds ++ [{ cmd := k.id, left := tilesOf (runMask k.slot.pay), failed := none }] } } :=
  ⟨_, congrArg (fun u : State => { u with tile := { u.tile with
    cmds := u.tile.cmds ++ [({ cmd := k.id, left := tilesOf (runMask k.slot.pay), failed := none } : TileCmd)] } }) (foldl_updTile _ _ s)⟩

theorem tileRunQueues : Claims.TileRunQueues := by
  intro s q c h hcheck
  have hpass : Passes tileRunRule.check 0x10 q c [] s s := ⟨h, .inl ⟨hcheck, rfl⟩, reachesHead_notSkipped h, reachesHead_free h⟩
  obtain ⟨t0, ht, he⟩ := enters hpass (by decide) (by decide)
  obtain ⟨v, hv⟩ := tileRunAdmit_eq (newCmd [] q c s) t0
  have hsame : SameBut [.host, .clk, .tile] t0 (tileRunAdmit (newCmd [] q c s) t0) := by rw [hv]; exact sameBut_rfl
  refine ⟨_, he, ht.entered (by simp only [tileRunRule, hv]) (by simp only [tileRunRule, hv]), fun t => ?_, ?_, ht.sameBut hsame (by simp)⟩
  all_goals obtain ⟨-, h', k', rfl⟩ := ht
  · exact getTile_tileRunAdmit ..
  · simp only [tileRunRule, hv]; rfl

/-! ### A program that starts -/

theorem noteEarly_eq (c : Cmd) (ts : List (Fin 128)) (s : State) : ∃ tr, noteEarly c ts s = { s with train := tr } := by
  unfold noteEarly
  split
  · exact ⟨_, rfl⟩
  · exact ⟨_, rfl⟩

/-- A command that starts is marked, and its step may remember it (R29, R36). -/
theorem startCmd_eq (id : Nat) (s : State) : ∃ tr, startCmd id s = { s with
    host := { s.host with cmds := mapIf (fun c => c.id == id) (fun c => { c with started := true }) s.host.cmds }, train := tr } := by
  unfold startCmd
  dsimp only
  split
  · split
    · exact noteEarly_eq ..
    · exact ⟨_, rfl⟩
  · exact ⟨_, rfl⟩

/-- The program that TILE_PROGRAM_START starts marks its command, and nothing else but the steps' early commands moves. -/
theorem execTileProgramStart_starts {s : State} {t : Fin 128} {p : Prog} {ps : List Prog} {k : Cmd} (hrun : (getTile s t).run = none)
    (hq : (getTile s t).progs = p :: ps) (hk : findCmd s p.cmd = some k) (hbegin : (k.started || mayBegin s p.slot p.step) = true)
    (hredo : redoFor s t = none) : ∃ tr, execTileProgramStart t s = .next { updTile t (beginRun p) s with
      host := { s.host with cmds := mapIf (fun c => c.id == p.cmd) (fun c => { c with started := true }) s.host.cmds }, train := tr } := by
  obtain ⟨tr, hstart⟩ := startCmd_eq p.cmd (updTile t (beginRun p) s)
  simp only [execTileProgramStart, hq, hrun, hk, hredo, hbegin, Option.isSome_none, Bool.not_true, Bool.or_self, Bool.false_eq_true, if_false]
  rw [hstart]
  split
  · obtain ⟨tr', h'⟩ := noteEarly_eq k [t] { updTile t (beginRun p) s with
      host := { s.host with cmds := mapIf (fun c => c.id == p.cmd) (fun c => { c with started := true }) s.host.cmds }, train := tr }
    exact ⟨tr', congrArg Outcome.next h'⟩
  · exact ⟨tr, rfl⟩

theorem started_of_mem_mapIf {id : Nat} {l : List Cmd} {d : Cmd} (hd : d ∈ mapIf (fun c => c.id == id) (fun c => { c with started := true }) l)
    (hid : d.id = id) : d.started = true := by
  obtain ⟨c, -, rfl⟩ := List.mem_map.mp hd
  by_cases hc : c.id = id
  · simp [hc]
  · exact absurd hid (by simp [hc])

/-- What a state has of a tile that begins a program, whatever else of the state moves (R108). -/
theorem tile_begins {s u : State} {t : Fin 128} {p : Prog} (hu : u.tile = (updTile t (beginRun p) s).tile) :
    (∃ r, (getTile u t).run = some r ∧ r.prog = p ∧ r.pc = runEntry p.slot.pay ∧ r.phase = slotPhase p.slot ∧ r.stopping = none ∧
      r.wait = .none ∧ getTile u t = { getTile s t with run := some r, g := .replicate 32 0, ibuf := [] }) ∧
    ∀ v, v ≠ t → getTile u v = getTile s v := by
  have htile (v : Fin 128) : getTile u v = getTile (updTile t (beginRun p) s) v := congrArg (fun x => x.tiles[v]) hu
  have hself : getTile u t = beginRun p (getTile s t) := (htile t).trans (getTile_updTile_same ..)
  exact ⟨⟨_, congrArg Tile.run hself, rfl, rfl, rfl, rfl, rfl, hself⟩, fun v hv => (htile v).trans (getTile_updTile_other hv ..)⟩

theorem execEarlyRedo_starts {s : State} {t : Fin 128} {p : Step} {e : EarlyRun} (hrun : (getTile s t).run = none)
    (hredo : redoFor s t = some (p, e)) : ∃ tr,
      execEarlyRedo t s = .next { updTile t (beginRun { cmd := e.cmd, slot := e.slot, step := some p.num, redo := true }) s with train := tr } ∧
      tr.earlyRedo = if e.counted then s.train.earlyRedo else addSat s.train.earlyRedo 1 := by
  simp only [execEarlyRedo, hrun, hredo]
  cases e.counted with
  | true => exact ⟨_, rfl, rfl⟩
  | false => exact ⟨_, rfl, rfl⟩

theorem tileProgramsStart : Claims.TileProgramsStart := by
  intro s t hrun x begun
  refine ⟨fun p ps k hq hk hbegin hredo => ?_, fun p e hredo => ?_⟩
  · obtain ⟨tr, hu⟩ := execTileProgramStart_starts hrun hq hk hbegin hredo
    exact ⟨_, hu, tile_begins rfl, fun d hd hid => started_of_mem_mapIf hd hid, sameBut_rfl⟩
  · obtain ⟨tr, hu, hcount⟩ := execEarlyRedo_starts hrun hredo
    exact ⟨_, hu, tile_begins rfl, hcount, sameBut_rfl⟩

/-- Settles O22: an admitted TILE_RUN is queued on its tiles, and programs and re-executions start. -/
theorem tileProgramsRun : Obligations.TileProgramsRun := ⟨tileRunQueues, tileProgramsStart⟩

end Sys2Proof.Machine
end

section
/-!
SUPPORT. A program that has ended leaves its idle tile, and with the last tile its command completes (R107, R110, R359; O23).
-/
namespace Sys2Proof.Machine
open Host

/-- A tile that its program has left (R107, R110, R118). -/
def freedTile (st : Status) (x : Tile) : Tile :=
  { x with
    run := none, progs := x.progs.tail, mover := { x.mover with ahead := [], fetches := x.mover.fetches.map fun f => { f with keep := false } },
    counters := { x.counters with tileFault := addSat x.counters.tileFault (b2n (st == .internal)) } }

/-- A TILE_RUN that tile `t` has left. -/
def withoutTile (t : Fin 128) (c : TileCmd) : TileCmd := { c with left := c.left.filter fun v => v ≠ t }

theorem execTileProgramStop_frees {s : State} {t : Fin 128} {r : Run} {st : Status} (hr : (getTile s t).run = some r)
    (hst : r.stopping = some st) (hidle : unitsIdle s t = true) (hredo : r.prog.redo = false) :
    execTileProgramStop t s = .next (tileDone t r.prog.cmd st (updTile t (freedTile st) s)) := by
  simp only [execTileProgramStop, hr, hst, hidle, hredo, Bool.not_true, Bool.false_eq_true, if_false]
  rfl

section
variable {s : State} {t : Fin 128} {cmd : Nat} {st : Status}

/-- A tile that leaves with a success is no longer among those of its command. -/
theorem mapIf_note (hf : fine st = true) (n : TileCmd → Option (Nat × Status)) (l : List TileCmd) :
    mapIf (fun c => c.cmd == cmd) (fun c => { c with left := c.left.filter fun u => u ≠ t, failed := if fine st then c.failed else n c }) l =
      mapIf (fun c => c.cmd == cmd) (withoutTile t) l := by simp only [hf, if_true]; rfl

/-- A command with tiles left stays in flight (R107). -/
theorem tileDone_left (hf : fine st = true) (hleft : ∀ c ∈ s.tile.cmds, c.cmd = cmd → (c.left.filter fun v => v ≠ t) ≠ []) :
    tileDone t cmd st s = { s with tile := { s.tile with cmds := mapIf (fun c => c.cmd == cmd) (withoutTile t) s.tile.cmds } } := by
  have hgoes (c : TileCmd) (hc : c ∈ mapIf (fun c => c.cmd == cmd) (withoutTile t) s.tile.cmds) : (c.cmd == cmd && c.left.isEmpty) = false := by
    obtain ⟨d, hd, rfl⟩ := List.mem_map.mp hc
    by_cases h : d.cmd = cmd
    · simpa [h, withoutTile] using hleft d hd h
    · simp [h]
  unfold tileDone
  simp only [mapIf_note hf]
  rw [List.find?_eq_none.mpr fun c hc => by simp [hgoes c hc], List.filter_eq_self.mpr fun c hc => by simp [hgoes c hc]]

/-- With the last tile the command completes (R107). -/
theorem tileDone_last (hf : fine st = true) (hcmds : s.tile.cmds = [{ cmd := cmd, left := [t], failed := none }]) :
    tileDone t cmd st s = completeCmd cmd .ok 0 { s with tile := { s.tile with cmds := [] } } := by
  unfold tileDone
  simp only [mapIf_note hf, hcmds]
  simp [mapIf, withoutTile]

/-- A command that ends with OK completes, and nothing beside the host interface moves. -/
theorem completeCmd_completes {id : Nat} {k : Cmd} (hk : findCmd s id = some k) (detail : Nat) :
    ∃ h, completeCmd id .ok detail s = { s with host := h } ∧ Completes k .ok detail s { s with host := h } := by
  have hid : k.id = id := by simpa using List.find?_some hk
  cases hredo : k.redo with
  | false =>
    refine ⟨_, completeCmd_fine hk hredo rfl detail, ?_, ?_⟩
    · rw [hid]
    · rw [hredo]; rfl
  | true =>
    refine ⟨_, (completeCmd_eq_retire detail hk (.inl rfl)).trans (if_pos hredo), ?_, ?_⟩
    · rw [hid]
    · rw [hredo]; exact (List.append_nil _).symm

end

/-- What a state has of the tiles once tile `t` is free. -/
theorem tile_freed {s u : State} {t : Fin 128} {st : Status} (hu : u.tile.tiles = (updTile t (freedTile st) s).tile.tiles) :
    (getTile u t).run = none ∧ (getTile u t).progs = (getTile s t).progs.tail ∧ (getTile u t).mem = (getTile s t).mem ∧
      (getTile u t).bc = (getTile s t).bc ∧ (getTile u t).shards = (getTile s t).shards ∧ (getTile u t).vec = (getTile s t).vec ∧
      ∀ v, v ≠ t → getTile u v = getTile s v := by
  have htile (v : Fin 128) : getTile u v = getTile (updTile t (freedTile st) s) v := congrArg (fun x => x[v]) hu
  have hself : getTile u t = freedTile st (getTile s t) := (htile t).trans (getTile_updTile_same ..)
  rw [hself]
  exact ⟨rfl, rfl, rfl, rfl, rfl, rfl, fun v hv => (htile v).trans (getTile_updTile_other hv ..)⟩

/-- Settles O23: the tile is freed, and its command goes on with the tiles left or completes. -/
theorem tileProgramsStop : Obligations.TileProgramsStop := by
  intro s t r st hr hst hidle hredo hf left
  have hexec := execTileProgramStop_frees hr hst hidle hredo
  refine ⟨fun hleft => ?_, fun k hcmds hk => ?_⟩
  · have hdone := tileDone_left (s := updTile t (freedTile st) s) hf hleft
    exact ⟨_, hexec.trans (congrArg Outcome.next hdone), tile_freed rfl, rfl, sameBut_rfl⟩
  · obtain ⟨h, hend, hcomp⟩ := completeCmd_completes
      (s := { updTile t (freedTile st) s with tile := { (updTile t (freedTile st) s).tile with cmds := [] } }) hk 0
    have hdone := tileDone_last (s := updTile t (freedTile st) s) hf hcmds
    exact ⟨_, hexec.trans (congrArg Outcome.next (hdone.trans hend)), tile_freed rfl, rfl, hcomp, sameBut_rfl⟩

end Sys2Proof.Machine
end

section
/-!
SUPPORT. The vector engine starts a loop, issues a bundle of an arithmetic slot alone, and ends a loop (R120, R122, R126, R129; O24).
-/
namespace Sys2Proof.Machine
open Host

/-! ### Results that reach their registers -/

theorem applyPend_eq (p : VPend) (v : VecUnit) : ∃ regs masks, applyPend p v = { v with v := regs, m := masks } := by
  cases p with
  | vec c r h x => exact ⟨_, _, rfl⟩
  | mask c r x =>
    unfold applyPend
    dsimp only
    split
    · exact ⟨_, _, rfl⟩
    · exact ⟨_, _, rfl⟩

theorem foldl_applyPend_eq (ps : List VPend) (v : VecUnit) :
    ∃ regs masks, ps.foldl (fun v p => applyPend p v) v = { v with v := regs, m := masks } := by
  induction ps generalizing v with
  | nil => exact ⟨_, _, rfl⟩
  | cons p ps ih =>
    obtain ⟨regs, masks, hp⟩ := applyPend_eq p v
    obtain ⟨regs', masks', h⟩ := ih { v with v := regs, m := masks }
    exact ⟨regs', masks', by rw [List.foldl_cons, hp, h]⟩

/-- Results that become visible reach vector and mask registers alone (R126). -/
theorem settle_eq (c : Nat) (v : VecUnit) :
    ∃ regs masks, settle c v = { v with v := regs, m := masks, pend := v.pend.filter fun p => decide (pendAt p > c) } :=
  foldl_applyPend_eq ..

theorem settle_q (c : Nat) (v : VecUnit) : (settle c v).q = v.q := by
  obtain ⟨regs, masks, h⟩ := settle_eq c v
  rw [h]

/-! ### What the engine leaves alone -/

/-- Of the module the vector engine of tile `t` has moved itself, the tile's counters and its window alone. -/
def EngineAlone (t : Fin 128) (s u : State) : Prop :=
  (getTile u t).mem = (getTile s t).mem ∧ (getTile u t).g = (getTile s t).g ∧ (getTile u t).bc = (getTile s t).bc ∧
    (getTile u t).run = (getTile s t).run ∧ (getTile u t).arr = (getTile s t).arr ∧ (∀ v, v ≠ t → getTile u v = getTile s v) ∧
    SameBut [.tile, .free] s u

theorem updTile_engineAlone {t : Fin 128} {s : State} {k : Tile → Tile} (n : Nat) {v : VecUnit} {window : BitVec 32} {c : TileCounters}
    (hk : k (getTile s t) = { getTile s t with vec := v, window := window, counters := c }) :
    EngineAlone t s (updTile t k { s with free := n }) ∧ (getTile (updTile t k { s with free := n }) t).vec = v ∧
      (getTile (updTile t k { s with free := n }) t).counters = c := by
  have hself : getTile (updTile t k { s with free := n }) t = { getTile s t with vec := v, window := window, counters := c } :=
    (getTile_updTile_same ..).trans hk
  rw [EngineAlone, hself]
  exact ⟨⟨rfl, rfl, rfl, rfl, rfl, fun v hv => getTile_updTile_other hv .., sameBut_rfl⟩, rfl, rfl⟩

/-! ### A bundle of an arithmetic slot alone -/

/-- What an arithmetic slot alone makes of the engine: its result is on its way, and its cycles have passed (R126). -/
def arithIssued (seed : BitVec 64) (free : Nat) (l : VLoopRun) (b : BitVec 128) (queue : List VLoopRun) (v : VecUnit) : VecUnit :=
  let w := fmtWidth (vbFmt b)
  let sr (e : Nat) : Round := tensorRound seed 0 (fld l.desc 111 96) ((fld l.desc 159 128 + l.convs * (2048 / w) + e) % 2 ^ 32) l.step
  let y := packElems w (arith v b free sr).elems
  { v with
    pend := v.pend ++
      [.vec (v.cycle + if isTrans (vbOp b) then opCycles (vbOp b) (vbFmt b) - 1 + 8 else 4) (fin (fld b 12 8)) y.2 y.1]
    cycle := v.cycle + opCycles (vbOp b) (vbFmt b), queue := queue }

/-- A store slot that writes nothing leaves the program's own writes as they are. -/
theorem map_ownStores_nil (o : Option Run) : o.map (ownStores (storeRanges [])) = o := by
  cases o with
  | none => rfl
  | some r => exact congrArg (fun l => some { r with stored := l }) (List.append_nil _)

theorem issueBundle_arith {s : State} {t : Fin 128} {l : VLoopRun} {b : BitVec 128} (seed : BitVec 64) (free : Nat) (hload : bit b 72 = false)
    (hstore : bit b 100 = false) (hred : feedsRed l b = false) (hop : vbOp b ≠ 0) (hcmp : isCompare (vbOp b) = false) :
    ∃ k, issueBundle t seed free l b s = updTile t k s ∧ ∃ queue window c, k (getTile s t) = { getTile s t with
        vec := arithIssued seed free l b queue (settle (getTile s t).vec.cycle (getTile s t).vec), window := window, counters := c } ∧
      c.vecBundles = addSat (getTile s t).counters.vecBundles 1 := by
  simp only [issueBundle, hload, hstore, hred, hcmp, if_neg hop, Bool.false_eq_true, if_false, Bool.not_false, if_true, slotError, List.find?_nil,
    List.any_nil, countConv, updTile_updTile]
  refine ⟨_, rfl, ?_⟩
  rw [map_ownStores_nil]
  exact ⟨_, _, _, rfl, rfl⟩

/-! ### The three commands -/

section
variable {s : State} {t : Fin 128} {l : VLoopRun} {ls : List VLoopRun}

theorem execVectorLoopStart_starts (hq : (getTile s t).vec.queue = l :: ls) (hs : l.started = false) :
    execVectorLoopStart t s = .next (updVec t (startLoop (Config.freeNat s.free) l) { s with free := s.free + 1 }) := by
  simp only [execVectorLoopStart, hq, hs, Bool.false_eq_true, if_false]
  rfl

theorem execVectorBundleIssue_issues {b : BitVec 128} (hq : (getTile s t).vec.queue = l :: ls) (hs : l.started = true)
    (hb : l.body[l.bundle]? = some b) (hiter : l.iter < vdIter l.desc) :
    execVectorBundleIssue t s = .next (issueBundle t s.num.srSeed (Config.freeNat s.free) l b { s with free := s.free + 1 }) := by
  simp only [execVectorBundleIssue, hq, hb, hs, decide_eq_true hiter, Bool.and_self, if_true]
  rfl

theorem execVectorLoopEnd_ends (hq : (getTile s t).vec.queue = l :: ls) (hs : l.started = true) (hiter : vdIter l.desc ≤ l.iter) :
    execVectorLoopEnd t s = .next (updVec t endLoop s) := by
  simp only [execVectorLoopEnd, hq, hs, decide_eq_true hiter, Bool.and_self, if_true]
  rfl

end

/-- Settles O24: the start of a loop, the bundle and the end of a loop each move the engine alone. -/
theorem vectorLoopsRun : Obligations.VectorLoopsRun := by
  intro s t l ls hq x alone
  refine ⟨fun hs => ?_, fun b hs hb hiter hload hstore hred hop hcmp => ?_, fun hs hiter => ?_⟩
  · obtain ⟨halone, hvec, -⟩ := updTile_engineAlone (s := s) (t := t) (k := fun x => { x with vec := startLoop (Config.freeNat s.free) l x.vec })
      (s.free + 1) rfl
    refine ⟨_, execVectorLoopStart_starts hq hs, halone, ?_, fun k => ?_, ?_, ?_⟩ <;> rw [updVec, hvec]
    · exact congrArg (fun q => q.set 0 { l with started := true }) hq
    · exact Vector.getElem_ofFn ..
    · rfl
    · rfl
  · obtain ⟨k, hissue, queue, window, c, hk, hc⟩ :=
      issueBundle_arith (s := { s with free := s.free + 1 }) (t := t) s.num.srSeed (Config.freeNat s.free) hload hstore hred hop hcmp
    obtain ⟨halone, hvec, hcount⟩ := updTile_engineAlone (s := s) (s.free + 1) hk
    refine ⟨_, (execVectorBundleIssue_issues hq hs hb hiter).trans (congrArg Outcome.next hissue), halone, ?_⟩
    rw [hvec, hcount]
    exact ⟨rfl, rfl, rfl, rfl, hc⟩
  · obtain ⟨halone, hvec, hcount⟩ := updTile_engineAlone (s := s) (t := t) (k := fun x => { x with vec := endLoop x.vec }) s.free rfl
    refine ⟨_, execVectorLoopEnd_ends hq hs hiter, halone, ?_, ?_, hcount⟩ <;> rw [updVec, hvec]
    · exact congrArg List.tail hq
    · exact settle_q ..

end Sys2Proof.Machine
end

section
/-!
SUPPORT. The tile mover issues a request and ends one (R114, R115, R116), and errors of tile memory and of row stores (R103, R173, R206; O25).
-/
namespace Sys2Proof.Machine
open Host

/-! ### The next request -/

section
variable {s : State} {t : Fin 128}

/-- Run-ahead fetches that have not ended stay as they are (R118). -/
theorem takeFetches_pending (h : ∀ f ∈ (getTile s t).mover.fetches, reqEnded s f.req = none) : takeFetches t s = s := by
  have hl (l : List AheadFetch) : (∀ f ∈ l, reqEnded s f.req = none) → l.foldl (takeFetch t) s = s := by
    induction l with
    | nil => exact fun _ => rfl
    | cons f l ih =>
      intro h
      have hf : takeFetch t s f = s := by rw [takeFetch, h f (by simp)]
      rw [List.foldl_cons, hf, ih fun g hg => h g (by simp [hg])]
  exact hl _ h

/-- A request that issues is outstanding; without run-ahead nothing else but its descriptor moves (R115). -/
theorem issueReq_outstanding {r : MoveRun} (hahead : r.ahead = false) (n : Nat) (ph : MovePhase) :
    ∃ next, issueReq t r n ph s = updMover t (fun m => { m with
      queue := mapIf (fun q => q.id == r.id) next m.queue,
      reqs := m.reqs ++ [{ move := r.id, row := r.row, off := r.off, len := n, phase := ph }] }) s := by
  simp only [issueReq, hahead, Bool.and_false, Bool.false_eq_true, if_false]
  exact ⟨_, rfl⟩

theorem moverIssue_ownMemory {r : MoveRun} (hr : issuing (getTile s t).mover = some r) (hroom : (getTile s t).mover.reqs.length < 32)
    (hfetch : ∀ f ∈ (getTile s t).mover.fetches, reqEnded s f.req = none) (hsrc : mdSrcSpace r.desc = 0) :
    moverIssue t s = issueReq t r (moveLen r.desc r.row r.off)
      (.have_ (memRead (getTile s t).mem (moveSrc r.desc r.row r.off) (moveLen r.desc r.row r.off))) s := by
  simp only [moverIssue, takeFetches_pending hfetch, hr, if_neg (Nat.not_le_of_lt hroom), hsrc]

/-! ### What settling the moves leaves alone -/

/-- Of the tiles only the queue of tile `t`'s mover and its block counters have moved, and beside them only the Weave. -/
structure MovesSettled (t : Fin 128) (s u : State) : Prop where
  own : ∃ queue bc, getTile u t = { getTile s t with mover := { (getTile s t).mover with queue := queue }, bc := bc }
  others : ∀ v, v ≠ t → getTile u v = getTile s v
  rest : SameBut [.tile] s u

theorem MovesSettled.refl (t : Fin 128) (s : State) : MovesSettled t s s := ⟨⟨_, _, rfl⟩, fun _ _ => rfl, sameBut_refl ..⟩

theorem MovesSettled.trans {u v : State} (h : MovesSettled t s u) (k : MovesSettled t u v) : MovesSettled t s v where
  own := by
    obtain ⟨_, _, hu⟩ := h.own
    obtain ⟨queue, bc, hv⟩ := k.own
    exact ⟨queue, bc, by rw [hv, hu]⟩
  others w hw := (k.others w hw).trans (h.others w hw)
  rest := sameBut_trans h.rest k.rest

theorem updTile_movesSettled {k : Tile → Tile} {queue : List MoveRun} {bc : Vector (BitVec 32) 32}
    (hk : k (getTile s t) = { getTile s t with mover := { (getTile s t).mover with queue := queue }, bc := bc }) :
    MovesSettled t s (updTile t k s) :=
  ⟨⟨queue, bc, (getTile_updTile_same ..).trans hk⟩, fun _ hv => getTile_updTile_other hv .., sameBut_updTile ..⟩

theorem sendSignal_movesSettled (src : Nat) (dst : Fin 128) (i : Nat) : MovesSettled t s (sendSignal src dst i s) :=
  ⟨⟨_, _, rfl⟩, fun _ _ => rfl, sameBut_rfl⟩

/-- Signals go to the tile's own block counters or onto the Weave (R116). -/
theorem moveSignal_movesSettled (d : BitVec 512) (k : Nat) : MovesSettled t s (moveSignal t d k s) := by
  have hl (l : List Nat) : ∀ s, MovesSettled t s (l.foldl (fun s _ => sendSignal t.val (mdDstTile d) (mdBc d).val s) s) := by
    induction l with
    | nil => exact MovesSettled.refl t
    | cons _ l ih => exact fun s => (sendSignal_movesSettled ..).trans (ih _)
  unfold moveSignal
  split
  · exact hl ..
  · exact updTile_movesSettled rfl

theorem dueSignal_movesSettled (due : Prop) [Decidable due] (d : BitVec 512) (k : Nat) :
    MovesSettled t s (if due then moveSignal t d k s else s) := by
  split
  · exact moveSignal_movesSettled ..
  · exact .refl t s

theorem settleMoves_movesSettled (rs : List MoveRun) : ∀ (blocked : Bool) (s : State), MovesSettled t s (settleMoves t rs blocked s) := by
  induction rs with
  | nil => exact fun _ s => .refl t s
  | cons r rs ih =>
    intro blocked s
    rw [settleMoves]
    exact ((dueSignal_movesSettled ..).trans (updTile_movesSettled rfl)).trans (ih ..)

/-! ### A request that ends -/

/-- A tile whose mover has written the data of its request `idx` and forgotten it. -/
def moveWritten (idx : Nat) (q : MoveReq) (a : Nat) (data : Data) (x : Tile) : Tile :=
  { x with
    mem := memWrite x.mem a data, run := x.run.map (ownStores [(a, q.len)]), mover := { x.mover with reqs := dropIdx x.mover.reqs idx },
    counters := { x.counters with moveBytes := addSat x.counters.moveBytes q.len } }

theorem moverDone_ownMemory {idx : Nat} {q : MoveReq} {data : Data} {r : MoveRun} (k : Nat) (hq : (getTile s t).mover.reqs[idx]? = some q)
    (hp : q.phase = .have_ data) (hr : ((getTile s t).mover.queue.find? fun r => r.id == q.move) = some r) (hdst : mdDstSpace r.desc = 0) :
    moverDone (k + 1) t idx s = settleAll t (updTile t (moveWritten idx q (moveDst r.desc q.row q.off) data) s) := by
  simp only [moverDone, hq, hp, hr, moveWrite, hdst, endMoveReq, tileCount, updMover, ownWrite, updTile_updTile]
  rfl

end

theorem moverMoves : Claims.MoverMoves := by
  intro s t r x
  refine ⟨fun hr hroom hfetch hsrc hahead => ?_, fun idx q data hq hp hr hdst => ?_⟩
  · obtain ⟨next, hissue⟩ := issueReq_outstanding (s := s) (t := t) hahead (moveLen r.desc r.row r.off)
      (.have_ (memRead x.mem (moveSrc r.desc r.row r.off) (moveLen r.desc r.row r.off)))
    refine ⟨_, congrArg Outcome.next ((moverIssue_ownMemory hr hroom hfetch hsrc).trans hissue), ?_, ?_, fun v hv => getTile_updTile_other hv ..,
      sameBut_updTile ..⟩ <;> rw [updMover, getTile_updTile_same]
  · obtain ⟨⟨queue, bc, hown⟩, hothers, hrest⟩ :=
      settleMoves_movesSettled (t := t) _ false (updTile t (moveWritten idx q (moveDst r.desc q.row q.off) data) s)
    rw [getTile_updTile_same] at hown
    refine ⟨_, congrArg Outcome.next (moverDone_ownMemory 1 hq hp hr hdst), ?_⟩
    rw [settleAll, hown]
    exact ⟨rfl, rfl, rfl, rfl, rfl, rfl, rfl, fun v hv => (hothers v hv).trans (getTile_updTile_other hv ..),
      sameBut_trans (sameBut_updTile ..) hrest⟩

/-! ### Errors of memory cells -/

/-- A double-bit error poisons its word (R103). -/
theorem memPoison_word (m : Mem) (word : Nat) : memPoison m (64 * word) = { m with poison := setAdd m.poison word } := by
  rw [memPoison, Nat.mul_div_cancel_left word (by decide)]

/-- An error in the memory of a tile that is not fenced is counted, and one of two bits poisons its word (R103). -/
theorem execTmemWriteback_tile {s : State} {t : Fin 128} {word : Nat} (hw : 64 * word < tmemSize) (hf : fenced s t.val = false) (twoBits : Bool) :
    execTmemWriteback (fin t.val) word twoBits s = .next (if twoBits then
        tileCount t (fun c => { c with tmemUe := addSat c.tmemUe 1 }) (updTile t (fun x => { x with mem := memPoison x.mem (64 * word) }) s)
      else tileCount t (fun c => { c with tmemCe := addSat c.tmemCe 1 }) s) := by
  have hval : (fin t.val : Fin 144).val = t.val := Nat.mod_eq_of_lt (by omega)
  have ht : (fin t.val : Fin 128) = t := Fin.ext (Nat.mod_eq_of_lt t.isLt)
  have hin : ¬(64 * word ≥ tmemSize ∨ fenced s t.val = true) := by simp [hw, hf]
  simp only [execTmemWriteback, hval, ht, t.isLt, if_true, if_neg hin]
  rfl

/-- An error in a row store is counted, and one of two bits poisons its word (R103, R206). -/
theorem execTmemWriteback_rowStore (e : Fin 16) {s : State} {word : Nat} (hw : 64 * word < 0x4000000) (twoBits : Bool) :
    execTmemWriteback (fin (128 + e.val)) word twoBits s = .next (if twoBits then
        engCount e (fun c => { c with rstoreUe := addSat c.rstoreUe 1 })
          { s with mem := { s.mem with rowStore := updAt s.mem.rowStore e fun x => memPoison x (64 * word) } }
      else engCount e (fun c => { c with rstoreCe := addSat c.rstoreCe 1 }) s) := by
  have hval : (fin (128 + e.val) : Fin 144).val = 128 + e.val := Nat.mod_eq_of_lt (by omega)
  have he : (fin (128 + e.val - 128) : Fin 16) = e := Fin.ext (by simp only [fin, Fin.ofNat]; omega)
  have hout : ¬128 + e.val < 128 := by omega
  simp only [execTmemWriteback, hval, he, if_neg hout, if_neg (Nat.not_le_of_lt hw)]
  rfl

theorem tileMemoryErrors : Claims.TileMemoryErrors := by
  intro s word
  refine ⟨fun t hw hf => ⟨execTmemWriteback_tile hw hf false, (execTmemWriteback_tile hw hf true).trans ?_⟩,
    fun e hw => ⟨execTmemWriteback_rowStore e hw false, (execTmemWriteback_rowStore e hw true).trans ?_⟩⟩
  · simp only [memPoison_word, if_true]
    exact congrArg Outcome.next (updTile_updTile ..)
  · simp only [memPoison_word, if_true]

/-- Settles O25: the mover's requests, and errors of tile memory and row stores. -/
theorem moverAndTileMemory : Obligations.MoverAndTileMemory := ⟨moverMoves, tileMemoryErrors⟩

end Sys2Proof.Machine
end

section
/-!
SUPPORT. The decision of R162 (O9).
-/
namespace Sys2Proof.Machine

/-- The skip causes stand in bits 0 to 2, and no other bit is set (R162). -/
theorem causeCode_bits (vote nonfinite absurd : Bool) :
    let cause := 4 * b2n vote + b2n nonfinite + 2 * b2n absurd
    let code := BitVec.ofNat 8 cause
    (cause ≠ 0 ↔ code ≠ 0) ∧ bit code 0 = nonfinite ∧ bit code 1 = absurd ∧ bit code 2 = vote ∧ fld code 7 3 = 0 := by
  cases vote <;> cases nonfinite <;> cases absurd <;> decide

section
variable {n : Numerics} {scale : BitVec 32} {t : Totals}

/-- A step skips exactly if it has a cause, and the causes are those of R162. -/
theorem decide162_causes (n : Numerics) (scale : BitVec 32) (t : Totals) :
    let d := decide162 n scale t
    (d.skip = true ↔ d.cause ≠ 0) ∧ bit d.cause 0 = t.nonfinite ∧ bit d.cause 1 = flt n.normAbsurd d.norm ∧ bit d.cause 2 = t.vote ∧
      fld d.cause 7 3 = 0 := by
  obtain ⟨hskip, hbits⟩ := causeCode_bits t.vote t.nonfinite (flt n.normAbsurd (decide162 n scale t).norm)
  exact ⟨decide_eq_true_iff.trans hskip, hbits⟩

/-- The clip factor of a step that skips (R162). -/
theorem decide162_clip_of_skip (h : (decide162 n scale t).skip = true) : (decide162 n scale t).clip = 0 := if_pos (of_decide_eq_true h)

/-- The clip factor of a step that does not skip (R162). -/
theorem decide162_clip_of_commit (h : (decide162 n scale t).skip = false) :
    (decide162 n scale t).clip = if n.maxNorm = 0 then one32 else if fle (decide162 n scale t).norm n.maxNorm then one32
      else fdiv n.maxNorm (decide162 n scale t).norm := if_neg (of_decide_eq_false h)

end

/-- Settles O9: the causes are the bits of one code, and the clip factor follows from whether that is 0. -/
theorem verdictRule : Obligations.VerdictRule := by
  intro n scale t d
  obtain ⟨hskip, hnonfinite, habsurd, hvote, hrest⟩ := decide162_causes n scale t
  refine ⟨rfl, hskip, hnonfinite, habsurd, hvote, hrest, decide162_clip_of_skip, fun h hmax hnorm => ?_, fun h hnone => ?_⟩
  · rw [decide162_clip_of_commit h, if_neg hmax, if_neg (by simp [d, hnorm])]
  · rw [decide162_clip_of_commit h]
    rcases hnone with hmax | hnorm
    · rw [if_pos hmax]
    · rw [if_pos (c := fle _ _ = true) hnorm, ite_self]

end Sys2Proof.Machine
end

section
/-!
SUPPORT. VERDICT messages at their destination, what an exchange does with them, and an exchange that stays silent (R162, R308, R333 to
R335; O41).
-/
namespace Sys2Proof.Machine
open Host

/-! ### A message arrives -/

/-- A packet whose payload agrees with its CRC acts at its destination (R308). -/
theorem arrive_acts {p : Fin 17} {f : Packet → Bool} {s s1 : State} {k : Packet} (h : takePacket p f s = some (k, s1))
    (hcrc : pkCrcOk k = true) (act : Packet → State → State) : arrive p f act s = act k s1 := by
  unfold arrive
  simp only [h, hcrc, if_true]

/-- The message that a VERDICT packet brings (R308, R334). -/
def messageOf (down : Bool) (k : Packet) : VerdictMsg :=
  { group := BitVec.ofNat 16 (pkGroup k), tag := BitVec.ofNat 16 (pkAux k % 65536), node := BitVec.ofNat 15 (pkSrc k), down := down,
    sumsq := BitVec.ofNat 32 (pkBody k 287 256), nonfinite := bit k.hdr 288, vote := bit k.hdr 289 }

/-- A field that fits its word is read back whole. -/
theorem toNat_ofNat_fld {w : Nat} (x : BitVec w) (hi lo : Nat) : (BitVec.ofNat (hi + 1 - lo) (fld x hi lo)).toNat = fld x hi lo := by
  rw [BitVec.toNat_ofNat, fld, Nat.mod_mod]

theorem messageOf_node (down : Bool) (k : Packet) : (messageOf down k).node.toNat = pkSrc k := toNat_ofNat_fld k.hdr 46 32
theorem messageOf_group (down : Bool) (k : Packet) : (messageOf down k).group.toNat = pkGroup k := toNat_ofNat_fld k.hdr 143 128
theorem messageOf_sumsq (down : Bool) (k : Packet) : (messageOf down k).sumsq.toNat = pkBody k 287 256 := toNat_ofNat_fld k.hdr 287 256
theorem messageOf_tag (down : Bool) (k : Packet) : (messageOf down k).tag.toNat = pkAux k % 65536 := by
  rw [messageOf, BitVec.toNat_ofNat, Nat.mod_mod]

/-- The message belongs to the exchange of its group whose step has its tag (R334). -/
theorem forExchange_messageOf {x : Exchange} {k : Packet} (hgroup : x.group.toNat = pkGroup k)
    (htag : x.step.toNat % 65536 = pkAux k % 65536) (down : Bool) : forExchange x down (messageOf down k) = true := by
  have hg : (messageOf down k).group = x.group := BitVec.eq_of_toNat_eq ((messageOf_group down k).trans hgroup.symm)
  have hd : (messageOf down k).down = down := rfl
  simp [forExchange, hg, hd, messageOf_tag, htag]

/-- A message is kept. -/
def keepMsg (m : VerdictMsg) (s : State) : State := { s with links := { s.links with msgs := s.links.msgs ++ [m] } }

section
variable {s : State} {k : Packet} {g : Group} {down : Bool} (hg : findGroup s (pkGroup k) = some g)
  (hsrc : g.members.contains (pkSrc k) = true)
include hg hsrc

/-- A message that no exchange can use yet is kept (R334). -/
theorem verdictIn_keeps (hnone : s.links.exchanges = []) : verdictIn down k s = keepMsg (messageOf down k) s := by
  have hdead : (s.links.exchanges.any fun x => x.done && forExchange x down (messageOf down k)) = false := by rw [hnone]; rfl
  have hlive : (s.links.exchanges.find? fun x => !x.done && forExchange x down (messageOf down k)) = none := by rw [hnone]; rfl
  unfold messageOf at hdead hlive
  unfold verdictIn
  simp only [hg, hsrc, hdead, hlive]
  rfl

/-- The exchange to which a message belongs goes on (R334). -/
theorem verdictIn_pumps {x : Exchange} (hx : s.links.exchanges = [x]) (hdone : x.done = false)
    (hfor : forExchange x down (messageOf down k) = true) :
    verdictIn down k s = pumpVerdict x.step (keepMsg (messageOf down k) s) := by
  have hdead : (s.links.exchanges.any fun x => x.done && forExchange x down (messageOf down k)) = false := by simp [hx, hdone]
  have hlive : (s.links.exchanges.find? fun x => !x.done && forExchange x down (messageOf down k)) = some x := by simp [hx, hdone, hfor]
  unfold messageOf at hdead hlive
  unfold verdictIn
  simp only [hg, hsrc, hdead, hlive]
  rfl

end

/-! ### A message leaves -/

/-- Where a packet without payload goes (R308). -/
theorem mkPacket_dst (s : State) {h : HdrSpec} (htype : h.type < 2 ^ 4) (hvc : h.vc < 2 ^ 2) (hdst : h.dst < 2 ^ 15) :
    pkDst (mkPacket s h []) = h.dst ∧ pkFlow (mkPacket s h []) = h.flow % 256 := by
  have hnode : nodeId s < 2 ^ 16 := s.dict.keep.nodeId.isLt
  have hhops : s.links.hopLimit.toNat < 2 ^ 8 := s.links.hopLimit.isLt
  unfold pkDst pkFlow fld mkPacket
  simp only [BitVec.toNat_ofNat, Nat.shiftRight_eq_div_pow, List.length_nil, show ceilDiv 0 64 = 0 from rfl, show b2n (poisoned []) = 0 from rfl,
    if_true]
  constructor <;> omega

/-- A packet joins those that a port has yet to send. -/
def queueAt (q : Fin 16) (set : PortSet) (k : Packet) (s : State) : State := updPort q (fun x => { x with txq := x.txq ++ [(set, k)] }) s

/-- A packet to another node joins the packets of the port that its route names (R313). -/
theorem sendPacket_queues {s : State} {set : PortSet} {k : Packet} {q : Fin 16} (hother : pkDst k ≠ nodeId s)
    (hroute : routePort s set (pkDst k) (pkFlow k) = some q) : sendPacket set k s = some (queueAt q set k s) := by
  rw [sendPacket, if_neg hother, hroute]; rfl

/-- The header of a VERDICT message (R308, R334). -/
def verdictSpec (x : Exchange) (down : Bool) (node : Nat) (t : Totals) : HdrSpec :=
  { type := 2, vc := 1, dst := node, flow := 0, group := x.group.toNat, kind := b2n down, aux := x.step.toNat % 65536,
    body := t.sumsq.toNat + b2n t.nonfinite * 2 ^ 32 + b2n t.vote * 2 ^ 33 }

/-- A VERDICT message to another node joins the packets of the port that its route names (R313, R334). -/
theorem sendVerdict_queues {s : State} {node : Nat} {q : Fin 16} (hnode : node < 2 ^ 15) (hother : node ≠ nodeId s)
    (hroute : routePort s .inject node 0 = some q) (x : Exchange) (down : Bool) (t : Totals) :
    sendVerdict x down node t s = some (queueAt q .inject (mkPacket s (verdictSpec x down node t) []) s) := by
  obtain ⟨hdst, hflow⟩ := mkPacket_dst s (h := verdictSpec x down node t) (by decide : 2 < 2 ^ 4) (by decide : 1 < 2 ^ 2) hnode
  have hdst : pkDst (mkPacket s (verdictSpec x down node t) []) = node := hdst
  have hflow : pkFlow (mkPacket s (verdictSpec x down node t) []) = 0 := hflow
  have hsend : sendVerdict x down node t s = sendPacket .inject (mkPacket s (verdictSpec x down node t) []) s := rfl
  rw [hsend]
  exact sendPacket_queues (by rwa [hdst]) (by rwa [hdst, hflow])

/-! ### An exchange goes on -/

/-- The totals that a message from the parent brings. -/
def totalsOf (m : VerdictMsg) : Totals := { sumsq := m.sumsq, nonfinite := m.nonfinite, vote := m.vote }

section
variable {s : State} {n : BitVec 64} {x : Exchange} {g : Group} {own : NormTerm}
  (hx : (s.links.exchanges.find? fun x => x.step == n && !x.done) = some x)
  (hg : findGroup s x.group.toNat = some g) (hown : x.own = some own) (hroute : treeRoutable s g = true)
include hx hg hown hroute

/-- The root decides once its children have reported, and sends the totals down (R334, items 4 and 5). -/
theorem pumpVerdict_root (hup : x.upSent = false) (hrank : g.rank = 0) {ms : List VerdictMsg} {v : State}
    (hkids : childTotals s x ((treeChildren g.members.length g.rank).map fun r => g.members.getD r 0) = some ms)
    (hsend : sendVerdicts x true (formTotals own x.vote ms) ((treeChildren g.members.length g.rank).map fun r => g.members.getD r 0)
      (dropMsgs x false s) = some v) : pumpVerdict n s = finishExchange x (formTotals own x.vote ms) v := by
  have hparent : treeParent g.rank = none := by rw [hrank]; rfl
  unfold pumpVerdict
  simp only [hx, hg, hown, hroute, hup, hkids, hparent, hsend, Bool.not_true, Bool.false_eq_true, if_false]

/-- A member passes the totals that it receives on to its children, and applies them (R334, items 4 and 5). -/
theorem pumpVerdict_member (hup : x.upSent = true) {m : VerdictMsg} {v : State} (hm : s.links.msgs.find? (forExchange x true) = some m)
    (hsend : sendVerdicts x true (totalsOf m) ((treeChildren g.members.length g.rank).map fun r => g.members.getD r 0) s = some v) :
    pumpVerdict n s = finishExchange x (totalsOf m) (dropMsgs x true v) := by
  unfold totalsOf at hsend ⊢
  unfold pumpVerdict
  -- The lets stay: without them the kernel compares states field by field.
  simp -zeta -zetaHave only [hx, hg, hown, hroute, hup, hm, Bool.not_true, Bool.false_eq_true, if_false, if_true]
  simp only [hsend]

end

/-- An exchange that is over leaves, and is counted (R334, R335). -/
def leaveExchange (x : Exchange) (s : State) : State :=
  linkCount (fun c => { c with exchanges := addSat c.exchanges 1 }) { s with links := { s.links with
    exchanges := s.links.exchanges.filter fun y => y.step != x.step } }

section
variable {s : State} {x : Exchange} {q : Step} (hq : findStep s x.step = some q) (hstate : q.state = .stOpen) (hvoted : q.voteSent = true)
  (hunstarted : (s.host.cmds.filter fun k => !k.started) = []) (hquiet : Quiet s) (hearly : ∀ e ∈ q.earlies, slotOpcode e.slot = 0x10)
include hq hstate hvoted hunstarted hquiet hearly

/-- The totals reach a step that waits for them: it takes the decision of R162, and the exchange is over (R28, R32, R334, R335). -/
theorem finishExchange_eq (t : Totals) :
    let d := decide162 s.num q.lossScale t
    finishExchange x t s = countDecision d (updRecord q (decidedRecord d) (updStep q.num (decidedStep d) (leaveExchange x s))) := by
  have hleft : findStep (leaveExchange x s) x.step = some q := hq
  have hfinish : finishExchange x t s = deliverDecision q (decide162 s.num q.lossScale t) (leaveExchange x s) := by
    unfold leaveExchange at hleft ⊢
    unfold finishExchange
    simp only [hleft, hstate, hvoted, and_self, if_true]
    rfl
  exact hfinish.trans (deliverDecision_eq (s := leaveExchange x s) hunstarted _ hquiet hearly)

/-- What the end of an exchange leaves. -/
theorem finishExchange_decides (t : Totals) :
    let d := decide162 s.num q.lossScale t
    let u := finishExchange x t s
    (findStep u x.step).map (fun q => (q.state, q.decision)) = some (if d.skip then .decidedSkip else .decidedCommit, some d) ∧
      u.links = (leaveExchange x s).links ∧ SameBut [.train, .links, .num] s u := by
  intro d u
  have hu : u = countDecision d (updRecord q (decidedRecord d) (updStep q.num (decidedStep d) (leaveExchange x s))) :=
    finishExchange_eq hq hstate hvoted hunstarted hquiet hearly t
  have hnum : q.num = x.step := by simpa using List.find?_some hq
  rw [hu]
  refine ⟨?_, rfl, sameBut_rfl⟩
  show (findStep (updStep q.num (decidedStep d) (leaveExchange x s)) x.step).map _ = _
  rw [hnum, findStep_updStep (f := decidedStep d) (fun _ => rfl), show findStep (leaveExchange x s) x.step = some q from hq]
  rfl

end

/-! ### An exchange that stays silent -/

theorem markFailure_links (n : BitVec 64) (phase : Nat) (st : Status) (s : State) : (markFailure n phase st s).1.links = s.links := by
  have habort (st : Status) : (markAbort n st false s).1.links = s.links := by
    unfold markAbort
    split
    · rfl
    · split <;> rfl
  unfold markFailure
  split
  · rfl
  · split
    · rfl
    · split
      · split
        · exact habort st
        · rfl
      · exact habort st
      · split <;> rfl
      · rfl

/-- The endings of commands count nothing on the ports. -/
theorem endCmds_linkCounters (es : List Ending) (s : State) : (endCmds es s).links.counters = s.links.counters :=
  endCmds_rel (R := fun s u => u.links.counters = s.links.counters) (fun _ => rfl) (fun h k => k.trans h)
    (fun _ _ _ _ _ => by unfold retire; split <;> rfl) (fun _ _ => rfl) (fun _ _ => rfl)
    (fun n phase st s => congrArg (fun l => l.counters) (markFailure_links n phase st s)) es s

/-- The failure of an exchange counts nothing on the ports. -/
theorem failExchange_linkCounters (n : BitVec 64) (st : Status) (s : State) : (failExchange n st s).links.counters = s.links.counters := by
  have habort (held : Bool) (u : State) : (abortStep n st held u).links.counters = u.links.counters := by
    refine (endCmds_linkCounters ..).trans ?_
    unfold markAbort
    split
    · rfl
    · split <;> rfl
  unfold failExchange
  exact (habort ..).trans rfl

/-- An exchange that stays silent is counted (R335). -/
def countSilence (s : State) : State := linkCount (fun c => { c with verdictTimeouts := addSat c.verdictTimeouts 1 }) s

/-! ### The VERDICT exchange -/

/-- The exchange of a step in OPEN that stays silent for too long fails, and aborts its step (R45, R335). -/
theorem silentExchange_aborts {s : State} {n : BitVec 64} {x : Exchange} {q : Step}
    (hx : (s.links.exchanges.find? fun x => x.step == n && !x.done) = some x) (hq : findStep s n = some q) (hstate : q.state = .stOpen)
    (hdue : x.dueAt + 1000000 * s.links.collTimeoutMs.toNat ≤ s.now) :
    ∃ u, exec (.verdictTimeout n) s = .next u ∧
      (findStep u n).map (fun p => (p.state, p.abort, p.exchDead)) = some (.aborting, some .linkTimeout, true) ∧
      (∀ y ∈ u.links.exchanges, y.step = n → y.done = true) ∧
      u.links.counters.verdictTimeouts = addSat s.links.counters.verdictTimeouts 1 ∧ u.num = s.num := by
  have hexec : execVerdictTimeout n s = .next (failExchange n .linkTimeout (countSilence s)) := by
    unfold execVerdictTimeout
    simp only [hx, if_pos hdue]
    rfl
  obtain ⟨hstep, hdone, -, hnum⟩ := failExchange_aborts (s := countSilence s) hq hstate .linkTimeout
  refine ⟨_, hexec, ?_, hdone, ?_, hnum⟩
  · simpa [abortKey, Function.comp_def] using congrArg (Option.map fun t => (t.1, t.2.1, t.2.2.1)) hstep
  · rw [failExchange_linkCounters]; rfl

section
variable {s s1 : State} {p : Fin 17} {k : Packet} {g : Group} (hcrc : pkCrcOk k = true) (hg : findGroup s1 (pkGroup k) = some g)
include hcrc hg

/-- A report that no exchange can use yet is kept (R334). -/
theorem report_isKept (htake : takePacket p (isVerdict 0) s = some (k, s1)) (hsrc : g.members.contains (pkSrc k) = true)
    (hnone : s1.links.exchanges = []) : exec (.verdictUpRx p) s = .next (keepMsg (messageOf false k) s1) :=
  congrArg Outcome.next ((arrive_acts htake hcrc _).trans (verdictIn_keeps hg hsrc hnone))

variable {x : Exchange} {q : Step} {own : NormTerm} (hx : s1.links.exchanges = [x]) (hmsgs : s1.links.msgs = []) (hdone : x.done = false)
  (hown : x.own = some own) (hgroup : x.group.toNat = pkGroup k) (htag : x.step.toNat % 65536 = pkAux k % 65536)
  (hq : findStep s1 x.step = some q) (hstate : q.state = .stOpen) (hvoted : q.voteSent = true)
  (hunstarted : (s1.host.cmds.filter fun k => !k.started) = []) (hquiet : Quiet s1) (hearly : ∀ e ∈ q.earlies, slotOpcode e.slot = 0x10)
include hx hmsgs hdone hown hgroup htag hq hstate hvoted hunstarted hquiet hearly

/-- The root of a group of two has its child's report: it decides, and sends the totals to the child (R162, R334). -/
theorem root_decides {port : Fin 16} (htake : takePacket p (isVerdict 0) s = some (k, s1)) (hup : x.upSent = false) (hrank : g.rank = 0)
    (hmembers : g.members = [nodeId s1, pkSrc k]) (hother : pkSrc k ≠ nodeId s1) (hport : routePort s1 .inject (pkSrc k) 0 = some port) :
    let d := decide162 s1.num q.lossScale {
      sumsq := fadd own.sumsq (BitVec.ofNat 32 (pkBody k 287 256))
      nonfinite := own.nonfinite || bit k.hdr 288
      vote := x.vote || bit k.hdr 289 }
    ∃ u, exec (.verdictUpRx p) s = .next u ∧ (findStep u x.step).map (fun q => (q.state, q.decision)) =
        some (if d.skip then .decidedSkip else .decidedCommit, some d) ∧ u.links.exchanges = [] ∧ u.links.msgs = [] ∧
      (getPort u port).txq.length = (getPort s1 port).txq.length + 1 ∧ SameBut [.train, .links, .num] s1 u := by
  intro d
  have hfor := forExchange_messageOf hgroup htag false
  have hnode : pkSrc k < 2 ^ 15 := Nat.mod_lt _ (by decide)
  have hkids : (treeChildren g.members.length g.rank).map (fun r => g.members.getD r 0) = [pkSrc k] := by rw [hmembers, hrank]; rfl
  have hroute : treeRoutable (keepMsg (messageOf false k) s1) g = true := by
    have : treeRoutable (keepMsg (messageOf false k) s1) g = treeRoutable s1 g := rfl
    rw [this, treeRoutable, hmembers, hrank]
    simp [treeParent, treeChildren, hport]
  have htotals : childTotals (keepMsg (messageOf false k) s1) x [pkSrc k] = some [messageOf false k] := by
    simp [childTotals, keepMsg, hmsgs, hfor, messageOf_node]
  obtain ⟨t, ht⟩ : ∃ t, t = formTotals own x.vote [messageOf false k] := ⟨_, rfl⟩
  obtain ⟨v, hv⟩ : ∃ v, v = dropMsgs x false (keepMsg (messageOf false k) s1) := ⟨_, rfl⟩
  obtain ⟨w, hw⟩ : ∃ w, w = queueAt port .inject (mkPacket v (verdictSpec x true (pkSrc k) t) []) v := ⟨_, rfl⟩
  have hsend : sendVerdicts x true t [pkSrc k] v = some w := by
    rw [sendVerdicts, sendVerdict_queues hnode (by rw [hv]; exact hother) (by rw [hv]; exact hport), hw]
    rfl
  have hpump : verdictIn false k s1 = finishExchange x t w := by
    rw [verdictIn_pumps hg (by simp [hmembers]) hx hdone hfor, ht]
    exact pumpVerdict_root (x := x) (g := g) (by simp [keepMsg, hx, hdone]) (hgroup ▸ hg) hown hroute hup hrank (hkids ▸ htotals)
      (by rw [hkids, ← ht, ← hv]; exact hsend)
  obtain ⟨hstep, hlinks, hsame⟩ := finishExchange_decides (s := w) (x := x) (q := q) (by rw [hw, hv]; exact hq) hstate hvoted
    (by rw [hw, hv]; exact hunstarted) (by rw [hw, hv]; exact hquiet) hearly t
  have hnum : w.num = s1.num := by rw [hw, hv]; rfl
  refine ⟨_, congrArg Outcome.next ((arrive_acts htake hcrc _).trans hpump), ?_, ?_, ?_, ?_, ?_⟩
  · rw [hstep, hnum, ht]; rfl
  · rw [hlinks, hw, hv]
    show s1.links.exchanges.filter _ = []
    simp [hx]
  · rw [hlinks, hw, hv]
    show (s1.links.msgs ++ [messageOf false k]).filter _ = []
    simp [hmsgs, hfor]
  · rw [getPort, hlinks]
    show (getPort w port).txq.length = _
    rw [hw, queueAt, getPort_updPort, if_pos rfl, hv, List.length_append]
    rfl
  · exact sameBut_trans (u := w) (by rw [hw, hv]; exact sameBut_rfl) hsame

/-- A member without children receives the totals of its exchange: it takes the decision that they give (R162, R334). -/
theorem member_decides (htake : takePacket p (isVerdict 1) s = some (k, s1)) (hup : x.upSent = true)
    (hleaf : treeChildren g.members.length g.rank = []) (hroute : treeRoutable s1 g = true) (hsrc : g.members.contains (pkSrc k) = true) :
    let d := decide162 s1.num q.lossScale
      { sumsq := BitVec.ofNat 32 (pkBody k 287 256), nonfinite := bit k.hdr 288, vote := bit k.hdr 289 }
    ∃ u, exec (.verdictDownRx p) s = .next u ∧ (findStep u x.step).map (fun q => (q.state, q.decision)) =
        some (if d.skip then .decidedSkip else .decidedCommit, some d) ∧ u.links.exchanges = [] ∧ SameBut [.train, .links, .num] s1 u := by
  intro d
  have hfor := forExchange_messageOf hgroup htag true
  obtain ⟨v, hv⟩ : ∃ v, v = dropMsgs x true (keepMsg (messageOf true k) s1) := ⟨_, rfl⟩
  have hpump : verdictIn true k s1 = finishExchange x (totalsOf (messageOf true k)) v := by
    rw [verdictIn_pumps hg hsrc hx hdone hfor, hv]
    exact pumpVerdict_member (s := keepMsg (messageOf true k) s1) (n := x.step) (x := x) (g := g) (by simp [keepMsg, hx, hdone])
      (hgroup ▸ hg) hown hroute hup (by simp [keepMsg, hmsgs, hfor]) (by rw [hleaf, List.map_nil, sendVerdicts])
  obtain ⟨hstep, hlinks, hsame⟩ := finishExchange_decides (s := v) (x := x) (q := q) (by rw [hv]; exact hq) hstate hvoted
    (by rw [hv]; exact hunstarted) (by rw [hv]; exact hquiet) hearly (totalsOf (messageOf true k))
  refine ⟨_, congrArg Outcome.next ((arrive_acts htake hcrc _).trans hpump), ?_, ?_, ?_⟩
  · rw [hstep, hv]; rfl
  · rw [hlinks, hv]
    show s1.links.exchanges.filter _ = []
    simp [hx]
  · exact sameBut_trans (u := v) (by rw [hv]; exact sameBut_rfl) hsame

end

/-- Settles O41: a report waits for its exchange, the root and a member decide by R162, and a silent exchange fails. -/
theorem verdictMessages : Obligations.VerdictMessages := by
  intro s s1 p k g hcrc
  refine ⟨fun htake hg hsrc hnone => ?_, fun x q own port htake hx hmsgs hdone hup hown hgroup htag hg hrank hmembers hother hport hq hstate
    hvoted hunstarted hquiet hearly => ?_, fun x q own htake hx hmsgs hdone hup hown hgroup htag hg _ hleaf hroute hsrc hq hstate hvoted
    hunstarted hquiet hearly => ?_, fun x q n hx hq hstate hdue => ?_⟩
  · exact ⟨_, messageOf false k, report_isKept hcrc hg htake hsrc hnone, rfl, rfl, messageOf_node .., messageOf_tag .., messageOf_sumsq ..,
      rfl, rfl, sameBut_rfl⟩
  · exact root_decides hcrc hg hx hmsgs hdone hown hgroup htag hq hstate hvoted hunstarted hquiet hearly htake hup hrank hmembers hother hport
  · exact member_decides hcrc hg hx hmsgs hdone hown hgroup htag hq hstate hvoted hunstarted hquiet hearly htake hup hleaf hroute hsrc
  · exact silentExchange_aborts hx hq hstate hdue

end Sys2Proof.Machine
end

section
/-!
SUPPORT. No operation on memory moves the tables and the row engines: a write to a row store changes its memory alone (R173, R273 to R299).
-/
namespace Sys2Proof.Machine

theorem placeWrite_rows (a : Nat) (d : Data) (s : State) : (placeWrite a d s).rows = s.rows := by
  unfold placeWrite
  split <;> rfl

theorem noteOwn_rows (who a n : Nat) (s : State) : (noteOwn who a n s).rows = s.rows := by
  unfold noteOwn
  split
  · split <;> rfl
  · rfl

theorem endReq_rows (id : Nat) (st : Status) (d : Data) (s : State) : (endReq id st d s).rows = s.rows :=
  rows_of_rowSide (endReq_rowSide ..)

theorem postReq_rows (c : AccClass) (who : Nat) (write : Bool) (e : XEntry) (n : Nat) (d : Data) (s : State) :
    (postReq c who write e n d s).1.rows = s.rows := by
  unfold postReq postFor
  extract_lets f id r _ _ s1 fails s2
  clear_value fails
  cases fails with
  | some st => exact endReq_rows ..
  | none =>
    have h2 : s2.rows = s.rows := by
      dsimp only [s2]
      split
      · exact rows_of_rowSide (crossWeave_rowSide ..)
      · rfl
    clear_value s2
    dsimp only
    split
    · split
      · exact (endReq_rows ..).trans ((noteOwn_rows ..).trans ((placeWrite_rows ..).trans h2))
      · exact (endReq_rows ..).trans h2
    · exact (rows_of_rowSide (postStack_rowSide ..)).trans h2
    · exact h2
    · exact (rows_of_rowSide (pumpRemote_rowSide ..)).trans h2

theorem ioPiece_rows (c : AccClass) (who key : Nat) (op : IoOp) (a n : Nat) (d : Data) (s : State) :
    (ioPiece c who key op a n d s).1.rows = s.rows := by
  have hx : (xlateTry who key a s).1.rows = s.rows := rows_of_rowSide (xlateTry_rowSide ..)
  have hhold (p : State × Nat) : (ioHold who key op.write a n p).1.rows = p.1.rows := rfl
  have hfailed (st : Status) : (postFailed who st (xlateTry who key a s).1).1.rows = s.rows := hx
  unfold ioPiece
  split
  · rfl
  · extract_lets x hold
    split
    · exact hx
    · exact (hhold _).trans (hfailed _)
    · split
      · exact (hhold _).trans (hfailed _)
      · split
        · exact (hhold _).trans (hfailed _)
        · exact (hhold _).trans ((postReq_rows ..).trans hx)

theorem foldl_fst_rows {α β : Type} (l : List α) (f : State × β → α → State × β) (h : ∀ a x, (f a x).1.rows = a.1.rows) (a : State × β) :
    (l.foldl f a).1.rows = a.1.rows := by
  induction l generalizing a with
  | nil => rfl
  | cons x l ih => exact (ih _).trans (h a x)

theorem ioAccess_rows (c : AccClass) (who key : Nat) (op : IoOp) (s : State) : (ioAccess c who key op s).1.rows = s.rows := by
  unfold ioAccess
  extract_lets ps r
  refine foldl_fst_rows _ _ (fun a p => ?_) _
  exact ioPiece_rows ..

/-- An operation leaves the tables and the row engines as they are. -/
theorem ioMany_rows (c : AccClass) (who key : Nat) (ops : List IoOp) (s : State) : (ioMany c who key ops s).1.rows = s.rows := by
  unfold ioMany
  extract_lets r
  have hr : r.1.rows = s.rows := by
    refine foldl_fst_rows _ _ (fun a op => ?_) _
    exact ioAccess_rows ..
  clear_value r
  split
  · exact hr
  · exact (rows_of_rowSide (ioForget_rowSide ..)).trans hr

end Sys2Proof.Machine
end

section
/-!
SUPPORT. What an engine holds of a step (R213 to R217), and SCATTER_KEYS_WRITTEN (R211, R213; O30).
-/
namespace Sys2Proof.Machine
open Host

/-! ### What an engine holds of a step -/

theorem engStep_of_rows {s u : State} (h : u.rows = s.rows) (e : Fin 16) (n : BitVec 64) : engStep u e n = engStep s e n := by
  rw [engStep, engStep, getEng, getEng, h]

/-- A change of an engine's step changes what the engine holds of it. -/
theorem engStep_updEngStep {s : State} {e : Fin 16} {n : BitVec 64} {x : EngineStep} (hx : engStep s e n = some x)
    {f : EngineStep → EngineStep} (hf : ∀ x, (f x).step = x.step) : engStep (updEngStep e n f s) e n = some (f x) := by
  have hget : getEng (updEngStep e n f s) e = withStep n f (getEng s e) := getEng_updEng_same ..
  show stepOf n (getEng (updEngStep e n f s) e) = _
  rw [hget, stepOf_withStep hf, show stepOf n (getEng s e) = some x from hx]
  rfl

@[simp] theorem counters_updEngStep (e : Fin 16) (n : BitVec 64) (f : EngineStep → EngineStep) (s : State) :
    (getEng (updEngStep e n f s) e).counters = (getEng s e).counters := by
  rw [updEngStep_eq, getEng_updEng_same]; rfl

@[simp] theorem counters_engCount (e : Fin 16) (f : EngineCounters → EngineCounters) (s : State) :
    (getEng (engCount e f s) e).counters = f (getEng s e).counters := by
  rw [engCount, getEng_updEng_same]

@[simp] theorem engStep_engCount (e : Fin 16) (f : EngineCounters → EngineCounters) (s : State) (n : BitVec 64) :
    engStep (engCount e f s) e n = engStep s e n := engStep_updEng (by exact fun _ => rfl) ..

/-! ### A SCATTER of an engine -/

/-- The SCATTER `cmd` of step `n` on engine `e`. -/
def scatterIn (e : Fin 16) (n : BitVec 64) (cmd : Nat) (s : State) : Option ScatterRun :=
  (engStep s e n).bind fun x => x.scatters.find? fun r => r.cmd == cmd

/-- An engine's step in which the SCATTER `cmd` is changed by `f`. -/
def mapScatter (cmd : Nat) (f : ScatterRun → ScatterRun) (x : EngineStep) : EngineStep :=
  { x with scatters := mapIf (fun r => r.cmd == cmd) f x.scatters }

section
variable {e : Fin 16} {n : BitVec 64} {cmd : Nat} {s : State}

theorem scatterIn_of_engStep {x : EngineStep} (hx : engStep s e n = some x) :
    scatterIn e n cmd s = x.scatters.find? fun r => r.cmd == cmd := by
  rw [scatterIn, hx]; rfl

theorem find_mapScatter (x : EngineStep) {f : ScatterRun → ScatterRun} (hf : ∀ r, (f r).cmd = r.cmd) :
    (mapScatter cmd f x).scatters.find? (fun r => r.cmd == cmd) = (x.scatters.find? fun r => r.cmd == cmd).map f :=
  mapIf_find _ f (by simp [hf]) x.scatters

/-- A SCATTER that has a step to stand in. -/
theorem engStep_of_scatterIn {r : ScatterRun} (h : scatterIn e n cmd s = some r) :
    ∃ x, engStep s e n = some x ∧ (x.scatters.find? fun r => r.cmd == cmd) = some r := Option.bind_eq_some_iff.mp h

/-- A change of a SCATTER. -/
theorem scatterIn_updScatter {r : ScatterRun} (h : scatterIn e n cmd s = some r) {f : ScatterRun → ScatterRun} (hf : ∀ r, (f r).cmd = r.cmd) :
    scatterIn e n cmd (updScatter e n cmd f s) = some (f r) := by
  obtain ⟨x, hx, hr⟩ := engStep_of_scatterIn h
  have hupd : engStep (updScatter e n cmd f s) e n = some (mapScatter cmd f x) :=
    engStep_updEngStep hx (f := mapScatter cmd f) fun _ => rfl
  rw [scatterIn_of_engStep hupd, find_mapScatter x hf, hr]; rfl

/-! ### The keys of a bag -/

/-- A SCATTER whose bag's keys have their places. -/
def keysReady (b : BagKeyList) (r : ScatterRun) : ScatterRun := { r with pos := b.upTo, ready := some b }

/-- The keys of a bag take places in the key area, in their order (R213). -/
theorem placeKeys_eq (e : Fin 16) (n : BitVec 64) (cmd : Nat) (ks : List (BitVec 256)) (missing upTo : Nat) (s : State) :
    ∃ b pos, b.keys.map (fun k => k.word) = ks ∧ b.missing = missing ∧
      placeKeys e n cmd ks missing upTo s = updEng e (fun g => { g with keyPos := pos }) (updScatter e n cmd (keysReady b) s) := by
  unfold placeKeys
  extract_lets area base pos at_ keyed v
  refine ⟨{ keys := keyed, missing := missing, upTo := upTo }, (pos + 32 * ks.length) % max area 32, ?_, rfl, rfl⟩
  have hword : keyed.map (fun k => k.word) = (ks.zip (List.range ks.length)).map Prod.fst := List.map_map ..
  rw [hword, List.map_fst_zip (by simp)]

/-- The SCATTER with its bag's keys placed. -/
theorem scatterIn_placeKeys {r : ScatterRun} (h : scatterIn e n cmd s = some r) (ks : List (BitVec 256)) (missing upTo : Nat) :
    ∃ b, b.keys.map (fun k => k.word) = ks ∧ b.missing = missing ∧
      scatterIn e n cmd (placeKeys e n cmd ks missing upTo s) = some (keysReady b r) := by
  obtain ⟨b, pos, hkeys, hmissing, hplace⟩ := placeKeys_eq e n cmd ks missing upTo s
  refine ⟨b, hkeys, hmissing, ?_⟩
  rw [hplace, scatterIn, engStep_updEng (by exact fun _ => rfl)]
  exact scatterIn_updScatter h fun _ => rfl

/-- An engine's step with the keys of a bag, whose SCATTER goes on to the next. -/
def bagWritten (cmd : Nat) (b : BagKeyList) (x : EngineStep) : EngineStep :=
  mapScatter cmd (fun r => { r with next := r.next + 1, ready := none }) { x with keys := x.keys ++ b.keys }

/-- The counts of a bag's keys (R211). -/
def countKeys (b : BagKeyList) (c : EngineCounters) : EngineCounters :=
  { c with scatterKeys := addSat c.scatterKeys b.keys.length, scatterMissing := addSat c.scatterMissing b.missing }

/-- Keys that have been written stand in their step, and are counted (R211, R213). -/
theorem writeKeys_done {b : BagKeyList} {w : State} (h : writeKeys e n cmd b s = (w, true)) {x : EngineStep} (hx : engStep s e n = some x) :
    engStep w e n = some (bagWritten cmd b x) ∧ (getEng w e).counters = countKeys b (getEng s e).counters := by
  unfold writeKeys at h
  extract_lets r at h
  have hr : r.1.rows = s.rows := ioMany_rows ..
  clear_value r
  split at h
  · cases h
  · cases h
  · next u v _ _ _ =>
    have hu : engStep u e n = some { x with keys := x.keys ++ b.keys } :=
      engStep_updEngStep ((engStep_of_rows hr e n).trans hx) fun _ => rfl
    have hv : engStep v e n = some (bagWritten cmd b x) := engStep_updEngStep hu fun _ => rfl
    have hcount : (getEng v e).counters = (getEng s e).counters := by
      have : (getEng r.1 e).counters = (getEng s e).counters := by rw [getEng, getEng, hr]
      rw [← this]
      exact (counters_updEngStep ..).trans (counters_updEngStep ..)
    obtain rfl := (Prod.mk.inj h).1
    refine ⟨(engStep_engCount ..).trans hv, (counters_engCount ..).trans ?_⟩
    rw [hcount]; rfl

/-! ### The bags of a SCATTER -/

/-- A bag whose keys are known goes on to their writing (R213). -/
theorem scatterBags_places {r : ScatterRun} {s1 : State} {ks : List (BitVec 256)} {missing upTo : Nat} (h : scatterIn e n cmd s = some r)
    (hnext : r.next < (scatterLists r.slot.pay).count) (hstop : r.stop = none) (hready : r.ready = none)
    (hbag : scatterBag e r s = (s1, .ok ks missing upTo)) (m : Nat) :
    scatterBags (m + 1) e n cmd s = scatterBags m e n cmd (placeKeys e n cmd ks missing upTo s1) := by
  unfold scatterIn at h
  rw [scatterBags]
  simp only [h, hstop, hready, hbag, Option.isSome_none, Bool.false_eq_true, or_false, if_neg (Nat.not_le_of_lt hnext)]

/-- A bag whose keys are written gives way to the next (R213). -/
theorem scatterBags_writes {r : ScatterRun} {w : State} {b : BagKeyList} (h : scatterIn e n cmd s = some r)
    (hnext : r.next < (scatterLists r.slot.pay).count) (hstop : r.stop = none) (hready : r.ready = some b)
    (hw : writeKeys e n cmd b s = (w, true)) (m : Nat) : scatterBags (m + 1) e n cmd s = scatterBags m e n cmd w := by
  unfold scatterIn at h
  rw [scatterBags]
  simp only [h, hstop, hready, hw, Option.isSome_none, Bool.false_eq_true, or_false, if_neg (Nat.not_le_of_lt hnext), if_true]

/-- After the last bag nothing is left to do. -/
theorem scatterBags_ends {r : ScatterRun} (h : scatterIn e n cmd s = some r) (hnext : (scatterLists r.slot.pay).count ≤ r.next) (m : Nat) :
    scatterBags m e n cmd s = s := by
  cases m with
  | zero => rfl
  | succ m =>
    unfold scatterIn at h
    rw [scatterBags]
    simp only [h, ge_iff_le, hnext, true_or, if_true]

/-- An engine's step without the SCATTER `cmd`. -/
def withoutScatter (cmd : Nat) (x : EngineStep) : EngineStep := { x with scatters := x.scatters.filter fun y => y.cmd != cmd }

/-- A SCATTER that has worked through its bags without a failure leaves its engine, and its command completes (R213). -/
theorem scatterKeysWritten_completes {r r' : ScatterRun} {v : State} (hnext : nextScatter s e = some (n, r))
    (hbags : scatterBags (2 * (scatterLists r.slot.pay).count + 1) e n r.cmd (startCmd r.cmd s) = v)
    (hr' : scatterIn e n r.cmd v = some r') (hcount : (scatterLists r.slot.pay).count ≤ r'.next) (hstop : r'.stop = none)
    (hfailed : r'.failed = none) :
    exec (.scatterKeysWritten e) s = .next (completeCmd r'.cmd .ok 0 (updEngStep e n (withoutScatter r'.cmd) v)) := by
  unfold scatterIn at hr'
  show execScatterKeysWritten e s = _
  unfold execScatterKeysWritten
  simp only [hnext, hbags, hr', hstop, hfailed, Nat.not_lt_of_le hcount, false_and, if_false]
  rfl

end

theorem keysWritten : Claims.KeysWritten := by
  intro s s1 s2 e n r ks missing upTo b k mine s3 hnext hone hfirst hstop hfailed hnone hstart hbag hmine1 hready hwrite hmine2 hk
  have hcount : 0 < (scatterLists r.slot.pay).count := by omega
  obtain ⟨b', hkeys, hmissing, hmine3⟩ := scatterIn_placeKeys (cmd := r.cmd) hmine1 ks missing upTo
  have hb : b' = b := by
    have : (scatterIn e n r.cmd s3).bind (fun r => r.ready) = some b := hready
    rw [hmine3] at this
    exact Option.some.inj this
  subst hb
  obtain ⟨x, hx, -⟩ := engStep_of_scatterIn hmine3
  have hx : engStep s3 e n = some x := hx
  obtain ⟨hx2, hcounters⟩ := writeKeys_done hwrite hx
  have hbags : scatterBags (2 * (scatterLists r.slot.pay).count + 1) e n r.cmd (startCmd r.cmd s) = s2 := by
    rw [hone, scatterBags_places hstart (by omega) hstop hnone hbag, scatterBags_writes hmine3 (by exact hfirst ▸ hcount) hstop rfl hwrite]
    exact scatterBags_ends hmine2 (by simp [hone]) 1
  have hexec := scatterKeysWritten_completes hnext hbags hmine2 (by simp [hone]) hstop hfailed
  obtain ⟨h, hend, hcomp⟩ := completeCmd_completes (s := updEngStep e n (withoutScatter r.cmd) s2) hk 0
  have hxu : engStep (updEngStep e n (withoutScatter r.cmd) s2) e n = some (withoutScatter r.cmd (bagWritten r.cmd b' x)) :=
    engStep_updEngStep hx2 fun _ => rfl
  have hcu : (getEng (updEngStep e n (withoutScatter r.cmd) s2) e).counters = countKeys b' (getEng s3 e).counters :=
    (counters_updEngStep ..).trans hcounters
  refine ⟨_, hexec.trans (congrArg Outcome.next hend), hcomp, hkeys, ?_, ?_, ?_, ?_, fun f hf => ?_, sameBut_rfl⟩
  · show (engStep (updEngStep e n (withoutScatter r.cmd) s2) e n).map _ = _
    rw [hxu, hx]; rfl
  · show (engStep (updEngStep e n (withoutScatter r.cmd) s2) e n).bind _ = none
    rw [hxu]
    simp [withoutScatter]
  · show (getEng (updEngStep e n (withoutScatter r.cmd) s2) e).counters.scatterMissing = _
    rw [hcu, ← hmissing]; rfl
  · show (getEng (updEngStep e n (withoutScatter r.cmd) s2) e).counters.scatterKeys = _
    rw [hcu, ← hkeys, List.length_map]; rfl
  · exact getEng_updEng_other hf ..

end Sys2Proof.Machine
end

section
/-!
SUPPORT. MERGE_COMPLETE for one key (R215 to R217; O30).
-/
namespace Sys2Proof.Machine
open Host

/-! ### The header of a log entry -/

/-- The header of a log entry, from its fields (R217). -/
def logHeader (row table : Nat) (t2 isNew : Bool) (variant base version step : Nat) : BitVec 256 :=
  BitVec.ofNat 256 (row + table * 2 ^ 32 + b2n t2 * 2 ^ 44 + b2n isNew * 2 ^ 45 + variant * 2 ^ 48 + base * 2 ^ 64 + version * 2 ^ 96 +
    step * 2 ^ 128)

/-- An entry's fields are those its header was made of, and its VALUES bit is clear. -/
theorem logHeader_fields {x : LogEntry} {row table variant base version step : Nat} {t2 isNew : Bool}
    (hx : x.hdr = logHeader row table t2 isNew variant base version step) (hrow : row < 2 ^ 32) (htable : table < 2 ^ 12)
    (hvariant : variant < 2 ^ 8) (hbase : base < 2 ^ 32) (hversion : version < 2 ^ 32) (hstep : step < 2 ^ 64) :
    leRow x = row ∧ leTable x = table ∧ leStep x = step ∧ leNew x = isNew ∧ leValues x = false := by
  have hb (b : Bool) : b2n b < 2 := by cases b <;> decide
  have ht2 := hb t2
  have hnew : b2n isNew = if isNew then 1 else 0 := rfl
  unfold leRow leTable leStep leNew leValues fld bit
  rw [hx, logHeader, BitVec.toNat_ofNat]
  simp only [Nat.shiftRight_eq_div_pow, Nat.testBit_eq_decide_div_mod_eq, hnew]
  refine ⟨by split <;> omega, by split <;> omega, by split <;> omega, ?_, ?_⟩
  · cases isNew <;> simp <;> omega
  · cases isNew <;> simp <;> omega

/-! ### A run becomes an entry -/

/-- The gradient of a run of one key (R215). -/
theorem mergedGrad_one (d : Nat) (k : SortKey) (bs : List Byte) :
    mergedGrad d [(k, bs)] = (List.range d).map fun i =>
      fadd 0 (fmul (BitVec.ofNat 32 (keyF k 191 160)) (gradElem (keyF k 60 59) bs i)) := by
  apply List.ext_getElem
  · simp [mergedGrad]
  · intro i _ _
    simp [mergedGrad]

/-- The entry of a run in a table that is no delta table, before it has its place in the log (R217). -/
def rowEntry (n : BitVec 64) (k : SortKey) (t : TabVer) (key : Nat) (g : List (BitVec 32)) (size : Nat) (t2 : Bool) : LogEntry :=
  { hdr := logHeader (keyF k 31 0) (keyF k 43 32) t2 false (keyF k 199 192) (keyF k 31 0) t.version n.toNat
    body := g.flatMap fun v => bytesOf 4 v, dva := 0, size := size, table := t, keyDva := key, unwritten := true }

/-- A run of a table that is no delta table makes an entry, unless the log lacks the room (R215 to R217). -/
theorem mergeRun_row {s : State} {n : BitVec 64} {k : SortKey} {t : TabVer} {key : Nat} (e : Fin 16) (used room : Nat) {m : Merged}
    (bs : List Byte) (rest : List (SortKey × List Byte)) (bucket : List Byte) (hfull : m.full = false)
    (ht : stepTable s n (keyF k 43 32) = some (t, key)) (hdelta : tdDelta t.desc = false) :
    let g := mergedGrad (tdDim t.desc) ((k, bs) :: rest)
    mergeRun s e n used room m ((k, bs) :: rest, bucket) = { m with full := true } ∨
      ∃ size t2, mergeRun s e n used room m ((k, bs) :: rest, bucket) = { m with
        entries := m.entries ++ [rowEntry n k t key g size t2], norm := g.foldl (fun acc v => ffma v v acc) m.norm
        nonfinite := m.nonfinite || g.any nonFinite32 } := by
  intro g
  unfold mergeRun
  simp only [List.head?_cons, hfull, ht, hdelta, Bool.false_eq_true, if_false]
  split
  · exact .inl rfl
  · exact .inr ⟨_, _, rfl⟩

/-- What forming the entries leaves of a step on its engine, for one run of a table that is no delta table: no entry, or the run's entry with
its gradient's sum of squares (R215 to R217). -/
theorem formEntries_row {s : State} {e : Fin 16} {n : BitVec 64} {x : EngineStep} {k : SortKey} {t : TabVer} {key : Nat} (bs bucket : List Byte)
    (hx : engStep s e n = some x) (ht : stepTable s n (keyF k 43 32) = some (t, key)) (hdelta : tdDelta t.desc = false) :
    let g := mergedGrad (tdDim t.desc) [(k, bs)]
    ∃ y, engStep (formEntries e n [([(k, bs)], bucket)] s) e n = some y ∧ (y.entries = [] ∨ ∃ size t2 dva, y = { x with
      entries := [{ rowEntry n k t key g size t2 with dva := dva }], formed := some false, norm := g.foldl (fun acc v => ffma v v acc) 0
      nonfinite := g.any nonFinite32 }) := by
  intro g
  unfold formEntries
  extract_lets room base start m placed u v
  have hm : m = mergeRun s e n (logUsed (getEng s e)) room start ([(k, bs)], bucket) := rfl
  have hu : engStep u e n = some x := (engStep_updEng (by exact fun _ => rfl) ..).trans hx
  have hv : engStep v e n = some { x with entries := placed.1, formed := some m.full, norm := m.norm, nonfinite := m.nonfinite } :=
    engStep_updEngStep hu fun _ => rfl
  refine ⟨_, (engStep_engCount ..).trans hv, ?_⟩
  rcases mergeRun_row e (logUsed (getEng s e)) room (m := start) bs [] bucket rfl ht hdelta with h | ⟨size, t2, h⟩
  · left
    show (placeEntries base room (getEng s e).logPos m.entries).1 = []
    rw [hm, h]; rfl
  · right
    refine ⟨size, t2, (base + if (getEng s e).logPos + size > room then 0 else (getEng s e).logPos) % 2 ^ 48, ?_⟩
    dsimp only [placed]
    rw [hm, h]
    simp [start, placeEntries, rowEntry, g]

/-! ### The entries are written -/

/-- A step whose entries stand in the log. -/
def entriesWritten (x : EngineStep) : EngineStep := { x with entries := x.entries.map fun y => { y with unwritten := false } }

/-- Entries that have been written are counted, and for no MERGE of the host the step is merged (R214, R217). -/
theorem writeMerged_done {s s2 : State} {e : Fin 16} {n : BitVec 64} {x : EngineStep} {ds : List Data}
    (hw : ioMany .cmd (whoEngine e) (opKey kMerge (2 * n.toNat + 1)) (x.entries.map fun y => ioWrite y.dva (entryData y)) s = (s2, .done ds))
    (hnone : s2.rows.merges = []) :
    writeMerged e n x false s = updEngStep e n markMerged
      (engCount e (fun c => { c with mergedRows := addSat c.mergedRows x.entries.length }) (updEngStep e n entriesWritten s2)) := by
  unfold writeMerged
  simp only [hw]
  exact engineMerged_eq e n hnone

/-- A merge of one key whose reads are done forms its entries and writes them (R215 to R217). -/
theorem mergeComplete_forms {s s1 : State} {e : Fin 16} {n : BitVec 64} {x y : EngineStep} {k : SortKey} {db dk dg : Data}
    (hfind : ((getEng s e).steps.find? fun x => x.sealed && !x.merged && x.scatters.isEmpty) = some x) (hn : x.step = n)
    (hkeys : x.keys = [k]) (hnew : x.formed = none)
    (hr : ioMany .cmd (whoEngine e) (opKey kMerge (2 * n.toNat)) (runReads s n [k]) s = (s1, .done [db, dk, dg]))
    (hb : poisoned db = false) (hk : poisoned dk = false) (hg : poisoned dg = false)
    (hy : engStep (formEntries e n [([(k, dataBytes dg)], dataBytes db)] s1) e n = some y) :
    exec (.mergeComplete e) s =
      .next (writeMerged e n y (y.formed == some true) (formEntries e n [([(k, dataBytes dg)], dataBytes db)] s1)) := by
  have hruns : (keyRuns (sortBy keyOrder x.keys)).flatMap (runReads s n) = runReads s n [k] := by
    rw [hkeys]; exact List.flatMap_singleton ..
  have hdata : runData (keyRuns (sortBy keyOrder x.keys)) [db, dk, dg] = [([(k, dataBytes dg)], dataBytes db)] := by rw [hkeys]; rfl
  have hstep : mergeStep e n x s = writeMerged e n y (y.formed == some true) (formEntries e n [([(k, dataBytes dg)], dataBytes db)] s1) := by
    unfold mergeStep
    simp only [hnew, hruns, hr, hdata, List.any_cons, List.any_nil, hb, hk, hg, Bool.or_false, Bool.false_eq_true, if_false, hy]
  show execMergeComplete e s = _
  unfold execMergeComplete
  simp only [hfind, hn, hstep]
  rfl

theorem keysMerged : Claims.KeysMerged := by
  intro s s1 s2 e n x y k t key db dk dg z s3 hfind hn hkeys hnew hr hb hk hg ht hdelta hversion hx1 hy hz hw hy2 hnone g
  obtain ⟨ds, hw⟩ := hw
  have hgrad : mergedGrad (tdDim t.desc) [(k, dataBytes dg)] = g := mergedGrad_one ..
  obtain ⟨y', hy', hform⟩ := formEntries_row (dataBytes dg) (dataBytes db) hx1 ht hdelta
  obtain rfl : y = y' := Option.some.inj (hy.symm.trans hy')
  rcases hform with hempty | ⟨size, t2, dva, hform⟩
  · rw [hempty] at hz; cases hz
  rw [hgrad] at hform
  have hzrow : z = { rowEntry n k t key g size t2 with dva := dva } := by
    rw [hform] at hz; exact (List.head_eq_of_cons_eq hz).symm
  have hexec := mergeComplete_forms hfind hn hkeys hnew hr hb hk hg hy
  have hwritten := writeMerged_done (x := y) (by rw [hz]; exact hw) hnone
  have hformed : (y.formed == some true) = false := by rw [hform]; rfl
  rw [hformed, hwritten] at hexec
  have hstepu := engStep_updEngStep (e := e) (n := n) (f := markMerged) ((engStep_engCount e
    (fun c => { c with mergedRows := addSat c.mergedRows y.entries.length }) _ n).trans
      (engStep_updEngStep hy2 (f := entriesWritten) fun _ => rfl)) fun _ => rfl
  obtain ⟨hrow, htable, hstep, hnewz, hvalues⟩ := logHeader_fields (x := z) (by rw [hzrow]; rfl) (Nat.mod_lt _ (by decide))
    (Nat.mod_lt _ (by decide)) (Nat.mod_lt _ (by decide)) (Nat.mod_lt _ (by decide)) hversion n.isLt
  refine ⟨_, hexec, ?_, hrow, htable, hstep, hnewz, hvalues, by rw [hzrow]; rfl, ?_, fun f hf => ?_, sameBut_rfl⟩
  · rw [hstepu, hform, hzrow]; rfl
  · rw [counters_updEngStep, counters_engCount, counters_updEngStep, hz]; rfl
  · exact (getEng_updEng_other hf ..).trans ((getEng_updEng_other hf ..).trans (getEng_updEng_other hf ..))

end Sys2Proof.Machine
end

section
/-!
SUPPORT. How an entry is optimised, and ROW_OPTIMISE_START (R158, R221, R222), and with them O30.
-/
namespace Sys2Proof.Machine
open Host

/-! ### An optimised entry -/

/-- A header with the clip factor and VALUES (R217, R222). -/
def optimisedHeader (h : BitVec 256) (clip : BitVec 32) : BitVec 256 := setFld (setFld h 223 192 clip.toNat) 46 46 1

/-- What an optimised entry's header says: its clip factor and VALUES are new, its row, table and step are as before (R217, R222). -/
theorem optimisedHeader_fields (h : BitVec 256) (clip : BitVec 32) :
    let u := optimisedHeader h clip
    bit u 46 = true ∧ BitVec.ofNat 32 (fld u 223 192) = clip ∧ fld u 31 0 = fld h 31 0 ∧ fld u 43 32 = fld h 43 32 ∧
      fld u 191 128 = fld h 191 128 := by
  have hh := h.isLt
  have hclip := clip.isLt
  have hsame (v : Nat) (hv : v = clip.toNat) : BitVec.ofNat 32 v = clip := by rw [hv, BitVec.ofNat_toNat, BitVec.setWidth_eq]
  simp only [optimisedHeader, setFld, fld, bit, BitVec.toNat_ofNat, Nat.shiftRight_eq_div_pow, Nat.testBit_eq_decide_div_mod_eq,
    decide_eq_true_eq]
  exact ⟨by omega, hsame _ (by omega), by omega, by omega, by omega⟩

/-- An entry with a new header and the new values of its row, not yet written to its log (R222). -/
def withValues (hdr : BitVec 256) (body : List Byte) (x : LogEntry) : LogEntry := { x with hdr := hdr, body := body, unwritten := true }

@[simp] theorem withValues_dva (hdr : BitVec 256) (body : List Byte) (x : LogEntry) : (withValues hdr body x).dva = x.dva := rfl
@[simp] theorem withValues_unwritten (hdr : BitVec 256) (body : List Byte) (x : LogEntry) : (withValues hdr body x).unwritten = true := rfl

/-- A record takes bytes (R139, R176). -/
theorem recSize_ne_zero (d : BitVec 512) : recSize d ≠ 0 := by
  have hdim : 16 ≤ tdDim d := by unfold tdDim; omega
  have hrecord (u8 : Bool) : recordBytes u8 (tdDim d) ≠ 0 := by unfold recordBytes ceilDiv; split <;> omega
  unfold recSize
  split
  · exact hrecord true
  · exact hrecord false
  · omega
  · omega

/-- The counts of an entry whose row takes new values (R158, R160, R223). -/
def countRow (n : NewRow) (bursts : Nat) (c : EngineCounters) : EngineCounters :=
  { c with
    rowSat := addSat c.rowSat n.sat, rowFlat := addSat c.rowFlat (b2n n.flat), rowNonfinite := addSat c.rowNonfinite (b2n n.nonfinite)
    updateBursts := addSat c.updateBursts bursts }

section
variable {s s1 : State} {x : LogEntry} (hnew : leNew x = false)
include hnew

/-- An entry takes the new values of its row, from the record, the residual row and the state row as read (R221, R222). -/
theorem optimiseRow_eq {rec res : List Byte} (hrec : rec.length = recSize x.table.desc) (hres : res.length = resSize x.table.desc)
    (e : Fin 16) (clip : BitVec 32) (before : List LogEntry) (st : List Byte) (s : State) :
    let v := { s with free := s.free + 1 }
    let n := newRow v x clip rec res st (Config.freeNat s.free)
    optimiseRow e clip before x (rec ++ (res ++ st)) s = (engCount e (countRow n (readBursts s before x)) v,
      withValues (optimisedHeader x.hdr clip) (n.record ++ n.res ++ n.state) x) := by
  intro v n
  have hrecord : (rec ++ (res ++ st)).take (recSize x.table.desc) = rec := List.take_left' hrec
  have hresidual : ((rec ++ (res ++ st)).drop (recSize x.table.desc)).take (resSize x.table.desc) = res := by
    rw [List.drop_left' hrec, List.take_left' hres]
  have hstate : (rec ++ (res ++ st)).drop (recSize x.table.desc + resSize x.table.desc) = st := by
    rw [← List.drop_drop, List.drop_left' hrec, List.drop_left' hres]
  unfold optimiseRow
  simp only [rowPlanes, List.map_cons, List.getD_cons_zero, List.getD_cons_succ, hnew, Bool.false_eq_true, if_false, hrecord, hresidual,
    hstate]
  rfl

/-- An entry that is read with all planes of its row is optimised (R222). -/
theorem optimiseEntry_done (hplanes : ∀ p ∈ rowPlanes s x, p.2 ≠ 0) {e : Fin 16} {ds : List Data}
    (hr : ioMany .cmd (whoEngine e) (entryKey x 0) (ioRead x.dva (32 + x.body.length) :: (rowPlanes s x).map fun p => ioRead p.1 p.2) s =
      (s1, .done ds)) (hclean : ds.any poisoned = false) (clip : BitVec 32) (before : List LogEntry) :
    let o := optimiseRow e clip before x ((ds.drop 1).flatMap dataBytes) s1
    optimiseEntry e clip before x s = (o.1, .ok o.2) := by
  intro o
  have hall : (rowPlanes s x).filter (fun p => p.2 ≠ 0) = rowPlanes s x := List.filter_eq_self.mpr fun p hp => by simp [hplanes p hp]
  unfold optimiseEntry
  simp only [hnew, Bool.false_eq_true, if_false, hall, hr, hclean]
  rfl

end

theorem entriesOptimised : Claims.EntriesOptimised := by
  intro s s1 e clip before x d0 dr ds dt d hnew hres hstate hdr hds hr h0 hr' hs' ht'
  have hplanes : ∀ p ∈ rowPlanes s x, p.2 ≠ 0 := by
    intro p hp
    simp only [rowPlanes, List.mem_cons, List.not_mem_nil, or_false] at hp
    rcases hp with rfl | rfl | rfl
    · exact recSize_ne_zero d
    · exact hres
    · exact hstate
  have hlength (a : Data) : (dataBytes a).length = a.length := List.length_map ..
  have hentry := optimiseEntry_done hnew hplanes hr (by simp [h0, hr', hs', ht']) clip before
  have hbytes : ([d0, dr, ds, dt].drop 1).flatMap dataBytes = dataBytes dr ++ (dataBytes ds ++ dataBytes dt) := by simp
  rw [hbytes, optimiseRow_eq hnew ((hlength dr).trans hdr) ((hlength ds).trans hds)] at hentry
  obtain ⟨hvalues, hclip, hrow, htable, hstep⟩ := optimisedHeader_fields x.hdr clip
  refine ⟨_, _, hentry, ⟨rfl, ?_⟩, hvalues, hclip, hrow, htable, hstep, withValues_dva .., withValues_unwritten .., sameBut_rfl⟩
  rw [counters_engCount]; rfl

/-! ### ROW_OPTIMISE_START -/

/-- A command that ends with a success completes, and nothing beside the host interface moves. -/
theorem completeCmd_completes_of_fine {s : State} {id : Nat} {k : Cmd} {st : Status} (hk : findCmd s id = some k) (h : fine st = true)
    (detail : Nat) : ∃ h, completeCmd id st detail s = { s with host := h } ∧ Completes k st detail s { s with host := h } := by
  have hid : k.id = id := by simpa using List.find?_some hk
  cases hredo : k.redo with
  | false => exact ⟨_, completeCmd_fine hk hredo h detail, by rw [hid], by rw [hredo]; rfl⟩
  | true =>
    exact ⟨_, (completeCmd_eq_retire detail hk (.inl h)).trans (if_pos hredo), by rw [hid], by rw [hredo]; exact (List.append_nil _).symm⟩

/-- Which entry is worked on next is the row engines' alone. -/
theorem nextToOptimise_of_rows {s u : State} (h : u.rows = s.rows) (n : BitVec 64) (mask : BitVec 16) :
    nextToOptimise u n mask = nextToOptimise s n mask := by
  simp only [nextToOptimise, engStep_of_rows h]

/-- A ROW_OPTIMISE that is over leaves. -/
def withoutOptimise (cmd : Nat) (s : State) : State :=
  { s with rows := { s.rows with optimises := s.rows.optimises.filter fun x => x.cmd != cmd } }

/-- A ROW_OPTIMISE notes whether it has found an entry. -/
def noteFound (cmd : Nat) (found : Bool) (s : State) : State :=
  { s with rows := { s.rows with optimises := mapIf (fun x => x.cmd == cmd) (fun x => { x with found := found }) s.rows.optimises } }

/-- A ROW_OPTIMISE whose entries are all optimised completes (R222). -/
theorem rowOptimiseStart_completes {s s2 : State} {n : BitVec 64} {o : OptCmd} {p : Step} {k : Cmd}
    (ho : (s.rows.optimises.find? fun o => o.step == n) = some o) (hp : findStep s n = some p) (hk : findCmd s o.cmd = some k)
    (hbegin : mayBegin s k.slot k.step = true) (hdecided : p.decision.isSome = true) (hstate : p.state = .decidedCommit)
    (hearlier : earlierOpen s n = false) :
    let found := o.found || (nextToOptimise s n o.mask).isSome
    let s1 := noteFound o.cmd found (startCmd o.cmd s)
    optimiseAll (entryCount s1 n + 1) n o.mask (stepClip p) s1 = (s2, none) →
    exec (.rowOptimiseStart n) s = .next (completeCmd o.cmd (if found then .ok else .okNoOp) 0 (withoutOptimise o.cmd s2)) := by
  intro found s1 hall
  have hfound : (o.found || (nextToOptimise (startCmd o.cmd s) n o.mask).isSome) = found := by
    rw [nextToOptimise_of_rows (rows_of_rowSide (startCmd_rowSide ..))]
  have hnone : p.decision.isNone = false := by simpa using hdecided
  unfold s1 noteFound at hall
  show execRowOptimiseStart n s = _
  unfold execRowOptimiseStart
  simp only [ho, hp, hk, hbegin, hnone, hstate, hearlier, hfound, hall]
  rfl

theorem rowsOptimised : Claims.RowsOptimised := by
  intro s s1 s2 n o p k ho hp hk hbegin hdecided hstate hearlier hs1 hall hk2
  have hnote : s1 = noteFound o.cmd (o.found || (nextToOptimise s n o.mask).isSome) (startCmd o.cmd s) := by
    rw [hs1, noteFound, rows_of_rowSide (startCmd_rowSide ..)]
  rw [hnote] at hall
  have hexec := rowOptimiseStart_completes ho hp hk hbegin hdecided hstate hearlier hall
  obtain ⟨h, hend, hcomp⟩ := completeCmd_completes_of_fine (s := withoutOptimise o.cmd s2) hk2
    (st := if o.found || (nextToOptimise s n o.mask).isSome then .ok else .okNoOp) (by split <;> rfl) 0
  refine ⟨_, hexec.trans (congrArg Outcome.next hend), hcomp, fun x hx => ?_, rfl, sameBut_rfl⟩
  have := (List.mem_filter.mp hx).2
  simpa using this

/-- Settles O30: the keys of a bag, the entry of a run, and the new values of an entry, each up to the end of its command. -/
theorem entriesMade : Obligations.EntriesMade := ⟨keysWritten, keysMerged, rowsOptimised, entriesOptimised⟩

end Sys2Proof.Machine
end

section
/-!
SUPPORT. The cores, threads and GATHERs of a row engine: what a change of one of them leaves of the others (R172, R181, R188).
-/
namespace Sys2Proof.Machine

/-! ### Cores and their threads -/

section
variable (e : Fin 16) (c : Fin 4) (s : State)

theorem getEng_updCore_same (f : Core → Core) :
    getEng (updCore e c f s) e = { getEng s e with cores := updAt (getEng s e).cores c f } := getEng_updEng_same ..

theorem getCore_updCore_same (f : Core → Core) : getCore (updCore e c f s) e c = f (getCore s e c) := by
  rw [getCore, getEng_updCore_same]; exact updAt_same ..

theorem updCore_self {e : Fin 16} {c : Fin 4} {f : Core → Core} {s : State} (h : f (getCore s e c) = getCore s e c) : updCore e c f s = s :=
  updEng_self (congrArg (fun x => { getEng s e with cores := x }) (updAt_self _ _ _ h))

theorem updCore_updCore (f g : Core → Core) : updCore e c f (updCore e c g s) = updCore e c (fun k => f (g k)) s := by
  simp [updCore, updEng, updAt]

theorem getCore_updCore_other {d : Fin 4} (h : d ≠ c) (f : Core → Core) : getCore (updCore e c f s) e d = getCore s e d := by
  rw [getCore, getEng_updCore_same]; exact updAt_other _ h f

theorem getCore_updThread (i : Fin 16) (f : BagThread → BagThread) :
    getCore (updThread e c i f s) e c =
      { getCore s e c with threads := updAt (getCore s e c).threads i fun t => t.map f } := getCore_updCore_same ..

/-- A change that leaves an engine's cores alone leaves each of them alone. -/
theorem getCore_updEng {f : Engine → Engine} (h : (f (getEng s e)).cores = (getEng s e).cores) :
    getCore (updEng e f s) e c = getCore s e c := by
  rw [getCore, getEng_updEng_same, h]; rfl

end

theorem thread_updThread (e : Fin 16) (c : Fin 4) (i : Fin 16) (f : BagThread → BagThread) (s : State) :
    (getCore (updThread e c i f s) e c).threads[i] = (getCore s e c).threads[i].map f := by
  rw [getCore_updThread]; exact updAt_same ..

@[simp] theorem getCore_engCount (e : Fin 16) (c : Fin 4) (f : EngineCounters → EngineCounters) (s : State) :
    getCore (engCount e f s) e c = getCore s e c := getCore_updEng _ _ _ rfl

/-! ### GATHERs -/

/-- A GATHER changed by `f`, as its engine's queue holds it. -/
theorem findGather_updGather (e : Fin 16) {cmd : Nat} {f : GatherRun → GatherRun} (hf : ∀ g, g.cmd = cmd → (f g).cmd = cmd) (s : State) :
    findGather (getEng (updGather e cmd f s) e) cmd = (findGather (getEng s e) cmd).map f := by
  rw [updGather, getEng_updEng_same]
  unfold findGather
  dsimp only
  induction (getEng s e).queue with
  | nil => rfl
  | cons x xs ih =>
    cases x with
    | refresh r => simpa using ih
    | gather g =>
      by_cases h : g.cmd = cmd
      · simp [h, hf g h]
      · simpa [h] using ih

/-- Which GATHER a command is depends on the engine's queue alone. -/
theorem findGather_of_queue {g h : Engine} (hq : g.queue = h.queue) (cmd : Nat) : findGather g cmd = findGather h cmd := by
  rw [findGather, findGather, hq]

end Sys2Proof.Machine
end

section
/-!
SUPPORT. Bags, probes and waiting requests of the row engines (O27).
-/
namespace Sys2Proof.Machine

/-! ### BAG_DISPATCH -/

/-- The next bag of a GATHER has been dispatched. -/
def bagTaken (g : GatherRun) : GatherRun := { g with next := g.next + 1 }

/-- A bag `t` of the GATHER `cmd` takes thread `i` of core `c`. -/
def giveBag (e : Fin 16) (c : Fin 4) (i : Fin 16) (cmd : Nat) (t : BagThread) (s : State) : State :=
  updCore e c (fun x => { x with threads := x.threads.set i (some t) })
    (updEng e (fun x => { x with nextReady := x.nextReady + 1 }) (updGather e cmd bagTaken s))

theorem execBagDispatch_gives {s s' : State} {e : Fin 16} {g : GatherRun} {c : Fin 4} {i : Fin 16} {a b : Nat} {f : Option Status} {x : Bool}
    (hg : nextGather (getEng s e).queue = some g) (hpick : pickThread (getEng s e) = some (c, i)) (hmay : bagMayStart s g = true)
    (hfence : (gToTile g.slot.pay && fenced s (gOutTile g.slot.pay).val) = false)
    (hrange : bagRange e g (startCmd g.cmd s) = (s', .ok (a, b, f, x))) :
    execBagDispatch e s = .next (giveBag e c i g.cmd (newBag g (getEng s e).nextReady a b f x) s') := by
  have hfence' : (gToTile g.slot.pay && fenced (startCmd g.cmd s) (gOutTile g.slot.pay).val) = false := by
    rw [fenced, startCmd_dict]; exact hfence
  rw [← getEng_of_rowSide (startCmd_rowSide g.cmd s)]
  simp only [execBagDispatch, hg, hpick, hmay, hfence', hrange]
  rfl

section
variable (e : Fin 16) (c : Fin 4) (i : Fin 16) (cmd : Nat) (t : BagThread) (s : State)

theorem thread_giveBag : (getCore (giveBag e c i cmd t s) e c).threads[i] = some t := by
  rw [giveBag, getCore_updCore_same]; exact Vector.getElem_set_self ..

theorem findGather_giveBag :
    findGather (getEng (giveBag e c i cmd t s) e) cmd = (findGather (getEng s e) cmd).map bagTaken := by
  rw [giveBag, getEng_updCore_same, getEng_updEng_same]
  exact findGather_updGather (f := bagTaken) e (fun _ h => h) s

theorem getCore_giveBag_other {d : Fin 4} (h : d ≠ c) : getCore (giveBag e c i cmd t s) e d = getCore s e d := by
  rw [giveBag, getCore_updCore_other _ _ _ h, getCore_updEng _ _ _ (by rfl), updGather, getCore_updEng _ _ _ (by rfl)]

theorem getEng_giveBag_other {f : Fin 16} (h : f ≠ e) : getEng (giveBag e c i cmd t s) f = getEng s f := by
  rw [giveBag, updCore, getEng_updEng_other h, getEng_updEng_other h, updGather, getEng_updEng_other h]

end

/-! ### PROBE -/

/-- The counters of an engine after a hit (R189). -/
def hitCounted (staging : Bool) (k : EngineCounters) : EngineCounters :=
  if staging then { k with stagingHits := addSat k.stagingHits 1 } else { k with emberHits := addSat k.emberHits 1 }

section
variable (e : Fin 16) (c : Fin 4) (g : GatherRun) (staging : Bool) (set way : Nat) (s : State)

/-- A hit moves the hits of its core, a counter, and the tags. -/
theorem countHit_eq : ∃ (hits : Nat) (m : Vector Mem 16), countHit e c g staging set way s =
    { updCore e c (fun k => { k with hits := hits }) (engCount e (hitCounted staging) s) with mem := { s.mem with rowStore := m } } := by
  cases staging with
  | true =>
    exact ⟨(getCore s e c).hits, s.mem.rowStore, (updCore_self (s := engCount e (hitCounted true) s) (by rw [getCore_engCount])).symm⟩
  | false =>
    unfold countHit
    extract_lets s1 n s2
    rw [if_neg (by decide)]
    split
    · exact ⟨n, s.mem.rowStore, rfl⟩
    · exact ⟨n, _, rfl⟩

theorem threads_countHit : (getCore (countHit e c g staging set way s) e c).threads = (getCore s e c).threads := by
  obtain ⟨hits, m, h⟩ := countHit_eq e c g staging set way s
  rw [h]
  have hcore := getCore_updCore_same e c (engCount e (hitCounted staging) s) fun k => { k with hits := hits }
  rw [getCore_engCount] at hcore
  exact (congrArg Core.threads hcore).trans rfl

theorem counters_countHit : (getEng (countHit e c g staging set way s) e).counters = hitCounted staging (getEng s e).counters := by
  obtain ⟨hits, m, h⟩ := countHit_eq e c g staging set way s
  rw [h]
  have heng := getEng_updCore_same e c (engCount e (hitCounted staging) s) fun k => { k with hits := hits }
  exact (congrArg Engine.counters heng).trans (counters_engCount ..)

theorem getEng_countHit_other {f : Fin 16} (hf : f ≠ e) : getEng (countHit e c g staging set way s) f = getEng s f := by
  obtain ⟨hits, m, h⟩ := countHit_eq e c g staging set way s
  rw [h]
  exact (getEng_updEng_other hf ..).trans (getEng_updEng_other hf ..)

theorem sameBut_countHit : SameBut [.rows, .mem] s (countHit e c g staging set way s) := by
  obtain ⟨hits, m, h⟩ := countHit_eq e c g staging set way s
  rw [h]
  exact sameBut_rfl

end

/-- The row that a hit brings: the whole record, poolable at once (R189). -/
def hitRow (s : State) (e : Fin 16) (part : Nat × Bool) (w : BitVec 32) (tv : TabVer) (row : Nat) (d : Data) : PendRow :=
  { freshRow s e part w with desc := tv.desc, dva := recAddr tv.desc row, record := d, order := some (getEng s e).nextOrder }

/-- A probed row `r` joins its thread, which goes on to its next part (R184, R189). -/
def joinRow (e : Fin 16) (c : Fin 4) (i : Fin 16) (deltaEn : Bool) (part : Nat × Bool) (r : PendRow) (s : State) : State :=
  updThread e c i (fun t => addRow r (advancePart deltaEn false false part t)) (countDelta e part.2 (useRow e s))

section
variable (e : Fin 16) (c : Fin 4) (i : Fin 16) (deltaEn : Bool) (part : Nat × Bool) (r : PendRow) (s : State)

theorem thread_joinRow : (getCore (joinRow e c i deltaEn part r s) e c).threads[i] =
    (getCore s e c).threads[i].map fun t => addRow r (advancePart deltaEn false false part t) := by
  rw [joinRow, thread_updThread, countDelta, getCore_engCount, useRow, getCore_updEng _ _ _ (by rfl)]

theorem counters_joinRow : (getEng (joinRow e c i deltaEn part r s) e).counters =
    { (getEng s e).counters with deltaRows := addSat (getEng s e).counters.deltaRows (b2n part.2) } := by
  rw [joinRow, updThread, getEng_updCore_same, countDelta, counters_engCount, useRow, getEng_updEng_same]

theorem getEng_joinRow_other {f : Fin 16} (h : f ≠ e) : getEng (joinRow e c i deltaEn part r s) f = getEng s f := by
  rw [joinRow, updThread, updCore, getEng_updEng_other h, countDelta, engCount, getEng_updEng_other h, useRow, getEng_updEng_other h]

end

/-- The stage of a core is settled before its probe (R189, R190). -/
def stageSettled (e : Fin 16) (c : Fin 4) (s : State) : State :=
  updEng e (fun g => { g with cores := updAt g.cores c (settleStage g.nextReady), nextReady := g.nextReady + 1 }) s

/-- The record of a row that ember or staging holds (R195). -/
def heldRecord (m : Mem) (tv : TabVer) (staging : Bool) (set way : Nat) : Data :=
  memRead m (if staging then stagingData (tagUnit (tagAt m set way)) else emberData (tagUnit (tagAt m set way))) (recSize tv.desc)

theorem applyProbe_hits {s : State} {e : Fin 16} {c : Fin 4} {i : Fin 16} {g : GatherRun} {t : BagThread} {part : Nat × Bool} {w : BitVec 32}
    {tv : TabVer} {row set way : Nat} {staging : Bool} (hd : poisoned (heldRecord s.mem.rowStore[e] tv staging set way) = false) :
    applyProbe e c i g t false false part w (.hit tv row staging set way) s =
      joinRow e c i (gDelta g.slot.pay) part
        (hitRow (countHit e c g staging set way s) e part w tv row (heldRecord s.mem.rowStore[e] tv staging set way))
        (countHit e c g staging set way s) := by
  unfold applyProbe
  extract_lets dEn after
  dsimp only
  exact if_neg (by rw [← heldRecord, hd]; decide)

/-- A probe, not a shadow probe and of a part not met before, that hits a record without poison. -/
theorem execProbe_hits {s s' : State} {e : Fin 16} {c : Fin 4} {i : Fin 16} {t : BagThread} {g : GatherRun} {tv : TabVer} {row set way : Nat}
    {staging : Bool} {w : BitVec 32} (hstage : (getCore (stageSettled e c s) e c).stage = some i)
    (ht : (getCore (stageSettled e c s) e c).threads[i] = some t) (hshadow : (getCore (stageSettled e c s) e c).shadow = none)
    (hretry : t.retry = []) (hg : findGather (getEng (stageSettled e c s) e) t.cmd = some g)
    (hprobe : probePart e g t t.next (stageSettled e c s) = (s', .hit tv row staging set way, w))
    (hd : poisoned (heldRecord s'.mem.rowStore[e] tv staging set way) = false) :
    execProbe e c s = .next (joinRow e c i (gDelta g.slot.pay) t.next
      (hitRow (countHit e c g staging set way s') e t.next w tv row (heldRecord s'.mem.rowStore[e] tv staging set way))
      (countHit e c g staging set way s')) := by
  unfold execProbe
  extract_lets v k shadow
  have hstage : k.stage = some i := hstage
  have ht : k.threads[i] = some t := ht
  have hshadow : shadow = false := congrArg Option.isSome hshadow
  have hg : findGather (getEng v e) t.cmd = some g := hg
  have hprobe : probePart e g t t.next v = _ := hprobe
  clear_value shadow k v
  simp only [hstage, ht, hg, hshadow, hretry, List.isEmpty_nil, Bool.not_true, Bool.and_false, Bool.false_eq_true, if_false, hprobe]
  exact congrArg Host.Outcome.next (applyProbe_hits hd)

/-! ### WAIT_LIST_RELEASE -/

/-- The entry of a read that reaches its channel: it sees the memory where it is among the 64 (R273, R277). -/
def readEntry (id a n : Nat) (s : State) : ChanEntry :=
  { id := id, pa := a, len := n, write := false, part := false, arrived := s.now, taken := decide ((channelEntries s a).length < 64),
    data := if decide ((channelEntries s a).length < 64) then memRead s.mem.t1 a n else [] }

/-- The entries of a channel once one more has come. -/
theorem channelEntries_append {s : State} {x : ChanEntry} :
    channelEntries (updStacks (fun y => { y with queue := y.queue ++ [x] }) s) x.pa =
      if (channelEntries s x.pa).length < 64 then channelEntries s x.pa ++ [x] else channelEntries s x.pa := by
  have hself : sameChannel x.pa x.pa = true := by simp [sameChannel]
  simp only [channelEntries, updStacks, List.filter_append, List.filter_cons, hself, if_true, List.filter_nil, List.length_take]
  generalize s.mem.stackCtl.queue.filter (fun e => sameChannel e.pa x.pa) = l
  split
  · rw [List.take_of_length_le (by simp; omega), List.take_of_length_le (by omega)]
  · rw [List.take_append_of_le_length (by omega)]

/-- Where the last element alone is selected, it alone changes. -/
theorem mapIf_append_last {α : Type} {p : α → Bool} {f : α → α} {l : List α} {x : α} (hl : ∀ y ∈ l, p y = false) (hx : p x = true) :
    mapIf p f (l ++ [x]) = l ++ [f x] := by
  have hsame : l.map (fun y => if p y then f y else y) = l := by
    rw [List.map_congr_left (g := id) (fun y hy => by simp [hl y hy]), List.map_id]
  simp [mapIf, hsame, hx]

/-- A read that takes its place sees what the memory holds there, outside the session record (R277). -/
theorem takeEntry_read {s : State} {x : ChanEntry} (hwrite : x.write = false) (hrecord : meetsRecord s x.pa x.len = false) :
    takeEntry x s = updStacks (fun y => { y with
      queue := mapIf (fun z => z.id == x.id) (fun z => { z with taken := true, data := memRead s.mem.t1 x.pa x.len }) y.queue }) s := by
  have hread : readStack x.pa x.len s = (s, memRead s.mem.t1 x.pa x.len) := if_pos (by rw [hrecord]; rfl)
  unfold takeEntry
  rw [hwrite, hread]
  rfl

/-- A read that reaches its channel, in which none waits for room, takes its place there if the 64 leave one (R277). -/
theorem postStack_read {s : State} {id a n : Nat} (hrecord : meetsRecord s a n = false) (htaken : ∀ x ∈ channelEntries s a, x.taken = true)
    (hfresh : ∀ x ∈ s.mem.stackCtl.queue, x.id ≠ id) :
    postStack id a n false [] s = updStacks (fun x => { x with queue := x.queue ++ [readEntry id a n s] }) s := by
  have hnone : (channelEntries s a).find? (fun e => !e.taken) = none := by simpa using htaken
  unfold postStack takeNext
  extract_lets part x
  rw [channelEntries_append (x := x)]
  by_cases hroom : (channelEntries s a).length < 64
  · have hmark := mapIf_append_last (p := fun y : ChanEntry => y.id == x.id)
      (f := fun y => { y with taken := true, data := memRead s.mem.t1 a n }) (fun y hy => by simpa using hfresh y hy) (beq_self_eq_true x.id)
    have hentry : readEntry id a n s = { x with taken := true, data := memRead s.mem.t1 a n } := by simp [readEntry, hroom, x, part]
    rw [if_pos (by exact hroom), List.find?_append, hnone, hentry]
    refine (takeEntry_read (x := x) rfl (by exact hrecord)).trans ?_
    exact congrArg (fun q => updStacks (fun y => { y with queue := q }) s) hmark
  · rw [if_neg (by exact hroom), hnone]
    simp [readEntry, hroom, x, part]

/-- A read of T1 that waits in its channel for its requester (R277). -/
def stackRead (who : Nat) (x : XEntry) (n : Nat) (s : State) : MReq :=
  { id := s.mem.nextId, who := who, write := false, tier := 1, pa := x.pa, node := x.node, len := n, data := [], act := none, state := .waiting }

/-- A unit's read of T1 stands in its channel, under the next number. -/
def readPosted (who : Nat) (x : XEntry) (n : Nat) (s : State) : State :=
  { s with mem := { s.mem with
      nextId := s.mem.nextId + 1
      requests := s.mem.requests ++ [stackRead who x n s]
      stackCtl := { s.mem.stackCtl with queue := s.mem.stackCtl.queue ++ [readEntry s.mem.nextId x.pa n s] } } }

/-- A unit's read of T1 that nothing forbids reaches its channel (R277, R281). -/
theorem postReq_stackRead {s : State} {x : XEntry} {n : Nat} (who : Nat) (htier : x.tier = 1)
    (haccess : accessFails s .cmd x.pa n false = none) (hrecord : meetsRecord s x.pa n = false)
    (htaken : ∀ y ∈ channelEntries s x.pa, y.taken = true) (hfresh : ∀ y ∈ s.mem.stackCtl.queue, y.id ≠ s.mem.nextId) :
    postReq .cmd who false x n [] s = (readPosted who x n s, s.mem.nextId) := by
  unfold postReq postFor
  extract_lets f id r m1 m2 s1 fails s2
  have hfails : fails = none := by
    show (if x.tier = 3 then none else if x.tier = 2 ∧ _ then some Status.addressRange else accessFails s .cmd x.pa n false) = none
    rw [htier]; exact haccess
  have hr : r = stackRead who x n s := by rw [stackRead, ← htier]; rfl
  have hpost : postStack id x.pa n false [] s1 = readPosted who x n s := by
    rw [postStack_read (by exact hrecord) (by exact htaken) (by exact hfresh), readPosted, ← hr]
    rfl
  rw [hfails, htier]
  exact congrArg (·, id) hpost

/-- A core whose waiting request has left under a number. -/
def requestLeft (r : RowReq) (id : Nat) (k : Core) : Core :=
  { k with waits := dropFirst (fun x => x == r) k.waits, slots := k.slots ++ [{ r with req := some id }] }

/-- Which rows have pieces to issue depends on the threads alone. -/
theorem unissued_of_threads {j k : Core} (h : j.threads = k.threads) : unissued j = unissued k := by rw [unissued, unissued, h]

/-- A core's waiting request leaves for its channel (R193, R277). -/
theorem execWaitListRelease_sends {s : State} {e : Fin 16} {c : Fin 4} {r : RowReq} (hr : leavable (getCore s e c) = some r)
    (hrest : unissued (getCore s e c) = []) (htier : r.entry.tier = 1) (haccess : accessFails s .cmd r.entry.pa r.len false = none)
    (hrecord : meetsRecord s r.entry.pa r.len = false) (htaken : ∀ x ∈ channelEntries s r.entry.pa, x.taken = true)
    (hfresh : ∀ x ∈ s.mem.stackCtl.queue, x.id ≠ s.mem.nextId) :
    execWaitListRelease e c s =
      .next (updCore e c (requestLeft r s.mem.nextId) (readPosted (whoEngine e) r.entry r.len s)) := by
  let v := updCore e c (fun k => { k with waits := dropFirst (fun x => x == r) k.waits }) s
  have hpost : postReq .cmd (whoEngine e) false r.entry r.len [] v = (readPosted (whoEngine e) r.entry r.len v, s.mem.nextId) :=
    postReq_stackRead _ htier haccess hrecord htaken hfresh
  have hsend : sendRow e c r v = updCore e c (requestLeft r s.mem.nextId) (readPosted (whoEngine e) r.entry r.len s) := by
    rw [sendRow, hpost]
    exact updCore_updCore (s := readPosted (whoEngine e) r.entry r.len s) ..
  have hdone : unissued (getCore (updCore e c (requestLeft r s.mem.nextId) (readPosted (whoEngine e) r.entry r.len s)) e c) = [] := by
    rw [getCore_updCore_same]
    exact (unissued_of_threads rfl).trans hrest
  unfold execWaitListRelease
  rw [hr]
  extract_lets s1
  have hs1 : s1 = updCore e c (requestLeft r s.mem.nextId) (readPosted (whoEngine e) r.entry r.len s) := hsend
  rw [hs1, hdone]
  rfl

end Sys2Proof.Machine
namespace Sys2Proof
open Machine

-- Within `Machine` the name `bagsRun` is the model's own.
/-- Settles O27: a bag on its thread, a row that a probe finds, and a request on its way to its channel. -/
theorem bagsRun : Obligations.BagsRun := by
  intro s s' e g c i p
  refine ⟨fun a b f x hg hpick hmay hfence hrange => ?_, ?_, fun r hr hrest htier haccess hrecord htaken hfresh => ?_⟩
  · exact ⟨_, _, execBagDispatch_gives hg hpick hmay hfence hrange, thread_giveBag .., rfl, rfl, rfl, rfl, rfl, rfl, rfl, rfl,
      findGather_giveBag .., fun _ hd => getCore_giveBag_other _ _ _ _ _ _ hd, fun _ hf => getEng_giveBag_other _ _ _ _ _ _ hf, sameBut_rfl⟩
  · intro t tv row staging set way w s1 k m d hstage ht hshadow hretry hg hprobe hd ht'
    let r := hitRow (countHit e c g staging set way s') e t.next w tv row d
    refine ⟨_, addRow r (advancePart (gDelta p) false false t.next t), execProbe_hits hstage ht hshadow hretry hg hprobe hd, ?_, ?_, rfl,
      ⟨r, rfl, rfl, rfl, rfl, rfl, rfl, rfl⟩, ?_, ?_,
      fun f hf => (getEng_joinRow_other _ _ _ _ _ _ _ hf).trans (getEng_countHit_other _ _ _ _ _ _ _ hf),
      sameBut_trans (sameBut_countHit ..) sameBut_rfl⟩
    · rw [thread_joinRow, threads_countHit, ht']
      rfl
    · simp only [addRow, advancePart, Bool.false_eq_true, if_false, Bool.not_false, Bool.and_true]
    · rw [counters_joinRow, counters_countHit]
      cases staging <;> rfl
    · rw [counters_joinRow, counters_countHit]
      cases staging <;> rfl
  · have hcore := getCore_updCore_same e c (readPosted (whoEngine e) r.entry r.len s) (requestLeft r s.mem.nextId)
    exact ⟨_, execWaitListRelease_sends hr hrest htier haccess hrecord htaken hfresh, (congrArg Core.waits hcore).trans rfl,
      (congrArg Core.slots hcore).trans rfl, (congrArg Core.threads hcore).trans rfl, rfl, rfl, fun _ hf => getEng_updEng_other hf .., sameBut_rfl⟩

end Sys2Proof
end

section
/-!
SUPPORT. A piece of a row that arrives (R191, R203), and the counter that the second part of O28 says it leaves alone.
-/
namespace Sys2Proof.Machine

/-- Request `id` in slot `idx` of a core has returned: its slot and its number are free. -/
def pieceBack (e : Fin 16) (c : Fin 4) (idx id : Nat) (s : State) : State :=
  updEng e (fun g => { g with nextOrder := g.nextOrder + 1 }) (forgetReq id (updCore e c (fun k => { k with slots := dropIdx k.slots idx }) s))

theorem getEng_pieceBack (e : Fin 16) (c : Fin 4) (idx id : Nat) (s : State) : getEng (pieceBack e c idx id s) e = { getEng s e with
    nextOrder := (getEng s e).nextOrder + 1, cores := updAt (getEng s e).cores c fun k => { k with slots := dropIdx k.slots idx } } := by
  rw [pieceBack, getEng_updEng_same, getEng_of_rowSide (forgetReq_rowSide ..), getEng_updCore_same]

section
variable {s : State} {e : Fin 16} {c : Fin 4} {i : Fin 16} {idx id : Nat} {r : RowReq} {st : Status} {d : Data} {t : BagThread} {x : PendRow}
  {g : GatherRun} (hr : (getCore s e c).slots[idx]? = some r) (hid : r.req = some id) (hend : reqEnded s id = some (st, d))
  (hfine : fine st = true) (hclean : poisoned d = false) (hrow : rowOwner (getCore s e c) r.row = some (i, t, x))
  (hg : findGather (getEng s e) t.cmd = some g)
include hr hid hend hfine hclean hrow hg

/-- A piece without error reaches its row, and counts where it is the last of a delta row that is not read again (R184, R191, R203). -/
theorem execRowPieceArrive_arrives : execRowPieceArrive e c idx s =
    .next (updThread e c i (takePiece g (getEng s e).nextOrder r st d)
      (countDelta e (x.delta && x.bucket.isNone && x.missing == 1 && !x.again) (pieceBack e c idx id s))) := by
  have hg' : findGather (getEng (pieceBack e c idx id s) e) t.cmd = some g := by
    rw [← hg]
    exact findGather_of_queue ((congrArg Engine.queue (getEng_pieceBack ..)).trans rfl) _
  have horder : (getEng (forgetReq id (updCore e c (fun k => { k with slots := dropIdx k.slots idx }) s)) e).nextOrder =
      (getEng s e).nextOrder := by
    rw [getEng_of_rowSide (forgetReq_rowSide ..), getEng_updCore_same]
  unfold execRowPieceArrive
  extract_lets k
  have hr : k.slots[idx]? = some r := hr
  have hrow : rowOwner k r.row = some (i, t, x) := hrow
  clear_value k
  simp only [hr, hid, Option.bind_some, hend, Option.getD_some, hrow, horder, hfine, hclean]
  unfold pieceBack at hg'
  simp only [hg', Bool.and_true, Bool.not_false]
  rfl

/-- A row that is read again counts no delta row; but the sum with 0 saturates too (R99, R203). -/
theorem rowPieceArrive_again (hagain : x.again = true) : ∃ u, exec (.rowPieceArrive e c idx) s = .next u ∧
    (getEng u e).counters.deltaRows = min (getEng s e).counters.deltaRows u64Max := by
  refine ⟨_, execRowPieceArrive_arrives hr hid hend hfine hclean hrow hg, ?_⟩
  have hcount : (getEng (pieceBack e c idx id s) e).counters = (getEng s e).counters :=
    (congrArg Engine.counters (getEng_pieceBack ..)).trans rfl
  rw [updThread, getEng_updCore_same, countDelta, counters_engCount, hcount, hagain, Bool.not_true, Bool.and_false]
  rfl

end

/-! ### A counter beyond its largest value -/

/-- A GATHER on engine 0. -/
def gatherRunning : GatherRun :=
  { cmd := 0, slot := { hdr := 0x21, pay := 0 }, step := none, desc := { desc := 0, version := 0 }, delta := none, keyDva := none, p0 := 0, p1 := 1,
    next := 1, ended := 0, outputs := 0, beyond := [], signalled := 0, stop := none, unwritten := none, failed := none, xorder := 0,
    ahead := false, hitShift := 0, missShift := 0, ringDva := 0, ringEntries := 0 }

/-- A row of 64 bytes that was updated while its one piece was read. -/
def rowUpdated : PendRow :=
  { id := 0, pos := 0, delta := false, zero := false, bucket := none, again := true, desc := 0, dva := 0,
    record := List.replicate 64 (0, false), toIssue := [], missing := 1, weight := 0, order := none, taken := 0 }

/-- The bag of that row. -/
def bagOfRow : BagThread := { newBag gatherRunning 0 0 1 none false with next := (1, false), rows := [rowUpdated] }

/-- The request for its piece. -/
def pieceAsked : RowReq :=
  { row := 0, off := 0, len := 64, entry := { pa := 0, tier := 1, write := false, runahead := false, node := 0 }, bank := none, outside := false,
    req := some 0 }

/-- The request that has brought it. -/
def pieceRead : MReq :=
  { id := 0, who := whoEngine 0, write := false, tier := 1, pa := 0, node := 0, len := 64, data := [], act := none,
    state := .ended .ok (List.replicate 64 (1, false)) }

/-- An engine whose delta rows are counted to one more than a counter of 64 bits holds. No run of the module counts that far (R99), but the
statement does not exclude it. -/
def counterBeyond : State :=
  { State.reset with
    mem := { MemSys.reset with requests := [pieceRead] }
    rows := { Rows.reset with engines := Rows.reset.engines.set 0 { Engine.reset with
      queue := [.gather gatherRunning]
      cores := Engine.reset.cores.set 0 { Core.reset with threads := Core.reset.threads.set 0 (some bagOfRow), slots := [pieceAsked] }
      counters := { EngineCounters.zero with deltaRows := u64Max + 1 } } } }

theorem deltaRows_counterBeyond : (getEng counterBeyond 0).counters.deltaRows = u64Max + 1 := rfl

theorem rowOwner_counterBeyond : rowOwner (getCore counterBeyond 0 0) pieceAsked.row = some (0, bagOfRow, rowUpdated) := by decide +kernel

/-- Refutes O28: its second part says that a row to be read again leaves the count of delta rows as it is. In `counterBeyond` the count
lies beyond the largest value, and the saturating addition of 0 brings it back. -/
theorem not_rowsArriveAndPool : ¬ Obligations.RowsArriveAndPool := by
  unfold Obligations.RowsArriveAndPool
  intro h
  obtain ⟨-, hAgain, -⟩ := h counterBeyond 0 0 0
  have hend : reqEnded counterBeyond 0 = some (.ok, List.replicate 64 (1, false)) := rfl
  have hgather : findGather (getEng counterBeyond 0) bagOfRow.cmd = some gatherRunning := rfl
  obtain ⟨u, hu, -, hsame, -⟩ := hAgain 0 pieceAsked 0 .ok _ bagOfRow rowUpdated gatherRunning rfl rfl hend rfl (by decide)
    rowOwner_counterBeyond hgather rfl rfl (by decide +kernel)
  obtain ⟨v, hv, hmin⟩ :=
    rowPieceArrive_again (c := 0) (idx := 0) (r := pieceAsked) rfl rfl hend rfl (by decide) rowOwner_counterBeyond hgather rfl
  obtain rfl : v = u := Host.Outcome.next.inj (hv.symm.trans hu)
  rw [hmin, deltaRows_counterBeyond] at hsame
  exact absurd hsame (Nat.ne_of_lt (Nat.lt_succ_of_le (Nat.min_le_right ..)))

end Sys2Proof.Machine
end

section
/-!
SUPPORT. An engine applies the entries of the step that commits (R222, R224; the first two parts of O31).
-/
namespace Sys2Proof.Machine
open Host

/-! ### An entry on its way to its row -/

/-- Taking new values moves an engine's counts of rows and bursts, and the entry keeps its place in the log, where those values are still to be
written (R221 to R223). -/
theorem optimiseRow_shape (e : Fin 16) (clip : BitVec 32) (before : List LogEntry) (x : LogEntry) (bytes : List Byte) (s : State) :
    ∃ n k hdr body, optimiseRow e clip before x bytes s = (engCount e (countRow n k) (takeFree s).1, withValues hdr body x) :=
  ⟨_, _, _, _, rfl⟩

/-- The new values of an entry that has been optimised are not in its log yet (R222). -/
theorem optimiseEntry_unwritten {s u : State} {e : Fin 16} {clip : BitVec 32} {before : List LogEntry} {x y : LogEntry}
    (h : optimiseEntry e clip before x s = (u, .ok y)) : y.unwritten = true := by
  unfold optimiseEntry at h
  extract_lets rows r at h
  split at h
  · cases h
  · cases h
  · next ds _ =>
    split at h
    · cases h
    · obtain rfl : _ = y := EntryRes.ok.inj (Prod.mk.inj h).2
      obtain ⟨n, k, hdr, body, hshape⟩ := optimiseRow_shape e clip before x ((ds.drop 1).flatMap dataBytes) r.1
      rw [hshape]
      rfl

section
variable {s s1 s2 : State} {e : Fin 16} {n : BitVec 64} {i : Nat} {clip : BitVec 32} {before : List LogEntry} {y z v : LogEntry}

/-- An entry whose new values stand in its log needs no more work. -/
theorem optimiseOne_written (hvalues : leValues y = true) (hwritten : y.unwritten = false) :
    optimiseOne e n i clip before y s = (s, .ok y) := by
  simp [optimiseOne, hvalues, hwritten]

/-- An entry without VALUES is optimised, and its new values are written to its log (R222). -/
theorem optimiseOne_stores (hvalues : leValues y = false) (ho : optimiseEntry e clip before y s = (s1, .ok z))
    (hs : storeEntry e z (setEntry e n i z s1) = (s2, .ok v)) : optimiseOne e n i clip before y s = (setEntry e n i v s2, .ok v) := by
  simp [optimiseOne, hvalues, ho, optimiseEntry_unwritten ho, hs]

end

/-! ### The entry is applied -/

/-- A step of which one more entry is applied. -/
def oneApplied (x : EngineStep) : EngineStep := { x with applied := x.applied + 1 }

/-- An engine has applied its next entry of step `n` (R224). -/
def entryApplied (e : Fin 16) (n : BitVec 64) (s : State) : State :=
  engCount e (fun c => { c with updateRows := addSat c.updateRows 1 }) (updEngStep e n oneApplied s)

/-- An entry that is optimised and whose row is written is applied (R224). -/
theorem rowApplyEntry_applies {s s1 s2 : State} {e : Fin 16} {p : Step} {x : EngineStep} {before : List LogEntry} {y z w : LogEntry}
    (hp : applyingStep s = some p) (hx : engStep s e p.num = some x) (hy : entryAt x x.applied = some (before, y))
    (ho : optimiseOne e p.num x.applied (stepClip p) before y s = (s1, .ok z)) (hz : applyNewRow e before.head? z s1 = (s2, .ok w)) :
    exec (.rowApplyEntry e) s = .next (entryApplied e p.num s2) := by
  show execRowApplyEntry e s = _
  simp only [execRowApplyEntry, hp, hx, hy, ho, hz]
  rfl

/-- What a further applied entry moves: the step's count of them on its engine, and the engine's count of rows. -/
theorem entryApplied_spec {s : State} {e : Fin 16} {n : BitVec 64} (h : (engStep s e n).isSome = true) :
    (engStep (entryApplied e n s) e n).map (fun x => x.applied) = (engStep s e n).map (fun x => x.applied + 1) ∧
    (engStep (entryApplied e n s) e n).map (fun x => x.entries) = (engStep s e n).map (fun x => x.entries) ∧
    (getEng (entryApplied e n s) e).counters.updateRows = addSat (getEng s e).counters.updateRows 1 ∧
    (∀ f, f ≠ e → getEng (entryApplied e n s) f = getEng s f) ∧ SameBut [.rows] s (entryApplied e n s) := by
  obtain ⟨x, hx⟩ := Option.isSome_iff_exists.mp h
  have hu : engStep (entryApplied e n s) e n = some (oneApplied x) :=
    (engStep_engCount ..).trans (engStep_updEngStep hx (f := oneApplied) fun _ => rfl)
  refine ⟨?_, ?_, ?_, fun f hf => ?_, sameBut_rfl⟩
  · rw [hu, hx]; rfl
  · rw [hu, hx]; rfl
  · rw [entryApplied, counters_engCount, counters_updEngStep]
  · exact (getEng_updEng_other hf ..).trans (getEng_updEng_other hf ..)

end Sys2Proof.Machine
end

section
/-!
SUPPORT. Drains of one deferred entry, in a batch and ahead of it (R225, R229, R231; O31).
-/
namespace Sys2Proof.Machine
open Host

/-! ### A row that has been written goes through to its copies -/

/-- What the drains and the deferred log are to an engine: its entries, its drains, the rows that probes want, and its count. -/
def deferSide (g : Engine) : List LogEntry × List Drain × List (Nat × Nat) × Nat :=
  (g.deferred, g.drains, g.forwards, g.counters.deferApplied)

theorem deferSide_inj {g h : Engine} (hside : deferSide g = deferSide h) :
    g.deferred = h.deferred ∧ g.drains = h.drains ∧ g.forwards = h.forwards ∧ g.counters.deferApplied = h.counters.deferApplied := by
  simpa [deferSide] using hside

theorem deferSide_updEng {f : Engine → Engine} (hf : ∀ g, deferSide (f g) = deferSide g) (e : Fin 16) (s : State) (e' : Fin 16) :
    deferSide (getEng (updEng e f s) e') = deferSide (getEng s e') := by
  rw [getEng_updEng]
  split
  · exact hf _
  · rfl

theorem deferred_updEng {f : Engine → Engine} (hf : ∀ g, (f g).deferred = g.deferred) (e : Fin 16) (s : State) (e' : Fin 16) :
    (getEng (updEng e f s) e').deferred = (getEng s e').deferred := by
  rw [getEng_updEng]
  split
  · exact hf _
  · rfl

/-- A write-through moves row stores and what reads rows, and of the deferred logs nothing (R225). -/
theorem writeThrough_deferSide (table row version : Nat) (record : Data) (s : State) :
    SameBut [.rows, .mem] s (writeThrough table row version record s) ∧
      ∀ e, deferSide (getEng (writeThrough table row version record s) e) = deferSide (getEng s e) := by
  unfold writeThrough
  extract_lets again install one
  have hone (s : State) (f : Fin 16) : SameBut [.rows, .mem] s (one s f) ∧ ∀ e, deferSide (getEng (one s f) e) = deferSide (getEng s e) := by
    exact ⟨sameBut_rfl, fun e => (deferSide_updEng (by exact fun _ => rfl) ..).trans (deferSide_updEng (by exact fun _ => rfl) ..)⟩
  clear_value one
  generalize List.finRange 16 = l
  induction l generalizing s with
  | nil => exact ⟨sameBut_refl .., fun _ => rfl⟩
  | cons f l ih =>
    obtain ⟨hsame, hside⟩ := ih (one s f)
    exact ⟨sameBut_trans (hone s f).1 hsame, fun e => (hside e).trans ((hone s f).2 e)⟩

/-- So does the row of an entry that has been written (R223, R225). -/
theorem rowWritten_deferSide (e : Fin 16) (prev : Option LogEntry) (x : LogEntry) (s : State) :
    SameBut [.rows, .mem] s (rowWritten e prev x s) ∧ ∀ f, deferSide (getEng (rowWritten e prev x s) f) = deferSide (getEng s f) := by
  unfold rowWritten
  extract_lets s'
  have h' : SameBut [.rows, .mem] s s' ∧ ∀ f, deferSide (getEng s' f) = deferSide (getEng s f) :=
    ⟨sameBut_rfl, deferSide_updEng (by exact fun _ => rfl) e s⟩
  clear_value s'
  obtain ⟨hsame, hside⟩ := writeThrough_deferSide (leTable x) (leRow x) x.table.version
    (clean (planeBytes ((rowPlanes s x).map fun p => p.2) x 0)) s'
  exact ⟨sameBut_trans h'.1 hsame, fun f => (hside f).trans (h'.2 f)⟩

/-! ### A drain of one entry -/

/-- The drain `n` of the one entry `x`, as it begins. -/
def rowDrain (s : State) (e : Fin 16) (n : Nat) (x : LogEntry) : Drain :=
  { n := n, entries := [x], windows := drainWindows s e [x], read := false }

/-- An engine begins to drain the one entry `x`. -/
def drainBegun (e : Fin 16) (n : Nat) (x : LogEntry) (s : State) : State :=
  updEng e (fun g => { g with drains := g.drains ++ [rowDrain s e n x] }) s

/-- An engine whose drain `n`, of the entry `x`, is over: the entry is counted and leaves the deferred log (R229). -/
def drainOver (n : Nat) (x : LogEntry) (g : Engine) : Engine :=
  { g with
    deferred := g.deferred.filter fun y => !([x].any fun x => x.dva == y.dva), drains := g.drains.filter fun d => d.n != n
    counters := { g.counters with deferApplied := addSat g.counters.deferApplied 1 } }

/-- The drain `n` of the one entry `x`, whose row has gone through to its copies, is over (R225, R229). -/
def drainEnded (e : Fin 16) (n : Nat) (x : LogEntry) (s : State) : State :=
  settleForwards (updEng e (drainOver n x) s)

section
variable {s s1 s2 : State} {e : Fin 16} {n : Nat} {x y : LogEntry}

/-- A drain of the one entry that it may take begins (R229). -/
theorem startDrain_one (hmay : mayTake s e x = true) (hnone : (getEng s e).drains = []) : startDrain e n [x] s = drainBegun e n x s := by
  have hfind : findDrain s e n = none := by rw [findDrain, hnone]; rfl
  have horder : drainOrder ([x].filter (mayTake s e)) = [x] := by rw [List.filter_singleton, hmay]; rfl
  unfold startDrain
  rw [horder, hfind]
  rfl

theorem drains_drainBegun (hnone : (getEng s e).drains = []) : (getEng (drainBegun e n x s) e).drains = [rowDrain s e n x] := by
  rw [drainBegun, getEng_updEng_same, hnone]; rfl

theorem getEng_of_rows {s u : State} (h : u.rows = s.rows) (e : Fin 16) : getEng u e = getEng s e := by rw [getEng, getEng, h]

/-- A drain that has read its entry holds the row's new values. -/
def entryRead (y : LogEntry) (d : Drain) : Drain := { d with entries := [y], read := true }

/-- The memory that the windows of a drain, as read, give (R229). -/
def windowMem (d : Drain) (ds : List Data) : Mem := (d.windows.zip ds).foldl (fun m w => memWrite m w.1.1 w.2) Mem.empty

/-- The entry of a drain with the new values of its row, from what the drain has read (R221, R229). -/
def drainedRow (e : Fin 16) (d : Drain) (x : LogEntry) (ds : List Data) (s : State) : State × LogEntry :=
  optimiseRow e (leClip x) [] x ((rowPlanes s x).flatMap fun p => dataBytes (memRead (windowMem d ds) p.1 p.2)) s

/-- A drain that has nothing to wait for reads and then writes (R229). -/
theorem runDrain_through {u : State} {d d' : Drain} {a b : List Data} (hd : findDrain s e n = some d) (hnew : d.read = false)
    (hread : readDrain e d s = (s1, .done a)) (hd' : findDrain s1 e n = some d') (hwrite : writeDrain e d' s1 = (u, .done b)) :
    runDrain e n s = (u, .done b) := by
  unfold runDrain
  simp [hd, hnew, hread, hd', hwrite]

/-- A drain that has read its one entry and its row has the row's new values (R221, R229). -/
theorem readDrain_row {ds : List Data}
    (hread : ioMany .cmd (whoEngine e) (drainKey n 0)
      (((rowDrain s e n x).windows.map fun w => (ioRead w.1 w.2).one) ++ [ioRead x.dva (32 + x.body.length)]) s1 = (s2, .done ds))
    (hclean : ds.any poisoned = false) :
    readDrain e (rowDrain s e n x) s1 =
      (updDrain e n (entryRead (drainedRow e (rowDrain s e n x) x ds s2).2) (drainedRow e (rowDrain s e n x) x ds s2).1, .done []) := by
  unfold readDrain
  extract_lets ops r
  have hr : r = (s2, .done ds) := hread
  rw [hr]
  simp only [hclean, Bool.false_eq_true, if_false]
  rfl

/-- A drain that has written its one row is over (R229). -/
theorem writeDrain_row {d : Drain} {es : List Data} (hd : d.entries = [y]) (hn : d.n = n)
    (hwrite : ioMany .cmd (whoEngine e) (drainKey n 1) (rowWrites s y) s = (s2, .done es)) :
    writeDrain e d s = (drainEnded e n y (rowWritten e none y s2), .done []) := by
  obtain ⟨m, entries, windows, read⟩ := d
  obtain rfl : entries = [y] := hd
  obtain rfl : m = n := hn
  unfold writeDrain
  extract_lets last r
  have hr : r = (s2, .done es) := (congrArg (fun ops => ioMany .cmd (whoEngine e) (drainKey m 1) ops s) (List.flatMap_singleton ..)).trans hwrite
  clear_value r
  subst hr
  exact Prod.ext (congrArg settleForwards (updEng_updEng ..)) rfl

theorem drainedRow_shape (d : Drain) (ds : List Data) (s : State) :
    ∃ k c hdr body, drainedRow e d x ds s = (engCount e (countRow k c) (takeFree s).1, withValues hdr body x) := optimiseRow_shape ..

/-- The new values of a drained row stand in the entry's own place. -/
theorem drainedRow_dva {d : Drain} {ds : List Data} {s : State} : (drainedRow e d x ds s).2.dva = x.dva := by
  obtain ⟨k, c, hdr, body, h⟩ := drainedRow_shape (e := e) (x := x) d ds s
  rw [h]
  rfl

/-- What new values of a drained row leave of the engines: only its counts of rows move. -/
theorem deferSide_drainedRow {d : Drain} {ds : List Data} {s : State} (f : Fin 16) :
    deferSide (getEng (drainedRow e d x ds s).1 f) = deferSide (getEng s f) := by
  obtain ⟨k, c, hdr, body, h⟩ := drainedRow_shape (e := e) (x := x) d ds s
  rw [h]
  exact deferSide_updEng (by exact fun _ => rfl) ..

/-- A drain of one entry that reads its entry and its row, and writes the row's new values, comes to its end; its accesses leave the logs of
the engines as they were (R221, R229). -/
theorem drainsRow_ends (hnone : (getEng s e).drains = []) (h : Claims.DrainsRow s s1 s2 e n x y) :
    (runDrain e n (drainBegun e n x s)).1 = drainEnded e n y (rowWritten e none y s2) ∧ y.dva = x.dva ∧
      (∀ f, (getEng s2 f).deferred = (getEng s f).deferred) ∧ ∃ d, (getEng s2 e).drains = [d] ∧ d.n = n := by
  obtain ⟨ds, es, hread, hclean, hvalues, hwrite⟩ := h
  let d := rowDrain s e n x
  have hd : (getEng (drainBegun e n x s) e).drains = [d] := drains_drainBegun hnone
  have hfind : findDrain (drainBegun e n x s) e n = some d := by rw [findDrain, hd]; simp [d, rowDrain]
  have hv : (drainedRow e d x ds s1).2 = y := hvalues
  let s3 := updDrain e n (entryRead y) (drainedRow e d x ds s1).1
  have hwrite : ioMany .cmd (whoEngine e) (drainKey n 1) (rowWrites s3 y) s3 = (s2, .done es) := hwrite
  have hrows1 : s1.rows = (drainBegun e n x s).rows := (congrArg (fun r => r.1.rows) hread).symm.trans (ioMany_rows ..)
  have hrows2 : s2.rows = s3.rows := (congrArg (fun r => r.1.rows) hwrite).symm.trans (ioMany_rows ..)
  have hread3 : readDrain e d (drainBegun e n x s) = (s3, .done []) := by
    exact (readDrain_row (s1 := drainBegun e n x s) hread hclean).trans (by rw [hv])
  have hside (f : Fin 16) : deferSide (getEng (drainedRow e d x ds s1).1 f) = deferSide (getEng (drainBegun e n x s) f) :=
    (deferSide_drainedRow f).trans (congrArg deferSide (getEng_of_rows hrows1 f))
  have hdrains : (getEng (drainedRow e d x ds s1).1 e).drains = [d] := (congrArg (fun p => p.2.1) (hside e)).trans hd
  have hdrains3 : (getEng s3 e).drains = [entryRead y d] := by
    refine (congrArg (fun g => g.drains) (getEng_updEng_same ..)).trans ?_
    rw [hdrains]
    simp [mapIf, d, rowDrain]
  have hfind3 : findDrain s3 e n = some (entryRead y d) := by rw [findDrain, hdrains3]; simp [entryRead, d, rowDrain]
  refine ⟨?_, ?_, fun f => ?_, entryRead y d, ?_, rfl⟩
  · exact congrArg Prod.fst (runDrain_through hfind rfl hread3 hfind3 (writeDrain_row (d := entryRead y d) rfl rfl hwrite))
  · exact (congrArg LogEntry.dva hv).symm.trans drainedRow_dva
  · calc (getEng s2 f).deferred
      _ = (getEng s3 f).deferred := congrArg Engine.deferred (getEng_of_rows hrows2 f)
      _ = (getEng (drainedRow e d x ds s1).1 f).deferred := deferred_updEng (by exact fun _ => rfl) ..
      _ = (getEng (drainBegun e n x s) f).deferred := congrArg Prod.fst (hside f)
      _ = (getEng s f).deferred := deferred_updEng (by exact fun _ => rfl) ..
  · rw [getEng_of_rows hrows2, hdrains3]

end

/-! ### The end of a drain -/

/-- The rows that probes want are the engines' alone. -/
theorem settleForwards_eq (s : State) : ∃ engines, settleForwards s = { s with rows := { s.rows with engines := engines } } := by
  unfold settleForwards
  extract_lets settled free
  exact ⟨_, foldl_updEng free s⟩

/-- Rows without deferred entries are wanted no longer; the engines' logs and counts stay (R231). -/
theorem getEng_settleForwards (s : State) (f : Fin 16) : ∃ cores, getEng (settleForwards s) f = { getEng s f with
    forwards := (getEng s f).forwards.filter fun r => !(deferredOn s r.1 r.2).isEmpty, cores := cores } := by
  unfold settleForwards
  extract_lets settled free
  rw [foldl_updEng]
  exact ⟨_, (Vector.getElem_map ..).trans rfl⟩

/-- A row without entries in any deferred log is wanted no longer (R231). -/
theorem settleForwards_releases {s : State} {table row : Nat} (h : ∀ f, (getEng s f).deferred = []) (f : Fin 16) :
    (table, row) ∉ (getEng (settleForwards s) f).forwards := by
  have hnone : deferredOn s table row = [] := List.filter_eq_nil_iff.mpr fun e _ => by simp [h e]
  obtain ⟨cores, hf⟩ := getEng_settleForwards s f
  rw [hf]
  simp [hnone]

section
variable {s : State} {e : Fin 16} {n : Nat} {x y : LogEntry} {d : Drain}

/-- What the end of a drain of one entry moves of the engines: the entry is counted and leaves its log, and the drain is over (R229). -/
theorem drainEnded_engine (hx : (getEng s e).deferred = [x]) (hdva : y.dva = x.dva) (hd : (getEng s e).drains = [d]) (hn : d.n = n) :
    (getEng (drainEnded e n y s) e).deferred = [] ∧ (getEng (drainEnded e n y s) e).drains = [] ∧
      (getEng (drainEnded e n y s) e).counters.deferApplied = addSat (getEng s e).counters.deferApplied 1 := by
  obtain ⟨cores, hu⟩ := getEng_settleForwards (updEng e (drainOver n y) s) e
  rw [drainEnded, hu, getEng_updEng_same]
  exact ⟨by simp [drainOver, hx, hdva], by simp [drainOver, hd, hn], rfl⟩

/-- The end of a drain of one entry, and what it keeps (R229). -/
theorem drainEnded_settled {v : State} (hsame : SameBut [.rows, .mem] s v) (hx : (getEng v e).deferred = [x]) (hdva : y.dva = x.dva)
    (hd : (getEng v e).drains = [d]) (hn : d.n = n) {c : Nat} (hc : (getEng v e).counters.deferApplied = c) :
    (getEng (drainEnded e n y v) e).deferred = [] ∧ (getEng (drainEnded e n y v) e).drains = [] ∧
      (getEng (drainEnded e n y v) e).counters.deferApplied = addSat c 1 ∧
      (drainEnded e n y v).mem = v.mem ∧ SameBut [.rows, .mem] s (drainEnded e n y v) := by
  obtain ⟨hlog, hdrains, hcount⟩ := drainEnded_engine hx hdva hd hn
  obtain ⟨engines, hsettle⟩ := settleForwards_eq (updEng e (drainOver n y) v)
  refine ⟨hlog, hdrains, hc ▸ hcount, (congrArg State.mem hsettle).trans rfl, sameBut_trans hsame ?_⟩
  rw [drainEnded, hsettle]
  exact sameBut_rfl

/-- A row whose only entry has been drained is wanted no longer (R231). -/
theorem drainEnded_releases {table row : Nat} (hx : (getEng s e).deferred = [x]) (hdva : y.dva = x.dva)
    (hothers : ∀ f, f ≠ e → (getEng s f).deferred = []) (f : Fin 16) :
    (table, row) ∉ (getEng (drainEnded e n y s) f).forwards := by
  refine settleForwards_releases (fun g => ?_) f
  by_cases hg : g = e
  · subst hg
    rw [getEng_updEng_same]
    simp [drainOver, hx, hdva]
  · rw [getEng_updEng_other hg, hothers g hg]

end

end Sys2Proof.Machine
end

section
/-!
SUPPORT. The engines apply their entries (O31): those of the step that commits (R222, R224), and deferred ones (R229, R231).
-/
namespace Sys2Proof.Machine
open Host

section
variable {s s2 u : State} {e : Fin 16} {n : Nat} {x y : LogEntry}

/-- A row that goes through leaves the deferred log and the drains of an engine. -/
theorem rowWritten_log (f : Fin 16) : (getEng (rowWritten e none y s) f).deferred = (getEng s f).deferred ∧
    (getEng (rowWritten e none y s) f).drains = (getEng s f).drains ∧
    (getEng (rowWritten e none y s) f).counters.deferApplied = (getEng s f).counters.deferApplied := by
  obtain ⟨hlog, hdrains, -, hcount⟩ := deferSide_inj ((rowWritten_deferSide e none y s).2 f)
  exact ⟨hlog, hdrains, hcount⟩

/-- A batch that takes the one deferred entry drains it (R229). -/
theorem deferDrainBatch_drains (hdrains : drains s = true) (hx : (getEng s e).deferred = [x]) (hnone : (getEng s e).drains = [])
    (hbatch : 0 < s.rows.obj.deferBatch.toNat) (hmay : mayTake s e x = true) :
    exec (.deferDrainBatch e) s = .next (runDrain e 0 (drainBegun e 0 x s)).1 := by
  have htake : [x].take s.rows.obj.deferBatch.toNat = [x] := List.take_of_length_le hbatch
  have hbegun : drains (drainBegun e 0 x s) = true := hdrains
  show execDeferDrainBatch e s = _
  simp [execDeferDrainBatch, hdrains, hnone, hx, htake, startDrain_one hmay hnone, drains_drainBegun hnone, hbegun, go, rowDrain]

/-- A probe of a row with one deferred entry drains it ahead of the batch (R231). -/
theorem deferForward_drains {table : Fin 4096} {row : Nat} (hdrains : drains s = true)
    (hwanted : ∃ f, (table.val, row) ∈ (getEng s f).forwards) (hx : (getEng s e).deferred = [x]) (hnone : (getEng s e).drains = [])
    (htable : leTable x = table.val) (hrow : leRow x = row) (hmay : mayTake s e x = true) :
    exec (.deferForward e table row) s =
      .next (runDrain e (1 + 2 * (table.val + 4096 * row)) (drainBegun e (1 + 2 * (table.val + 4096 * row)) x s)).1 := by
  have hany : ((List.finRange 16).any fun f => (getEng s f).forwards.contains (table.val, row)) = true := by simpa using hwanted
  show execDeferForward e table row s = _
  simp only [execDeferForward, hany, hdrains, hx]
  simp [htable, hrow, startDrain_one hmay hnone, go]

end

/-- Settles O31: an entry that is optimised and applied moves only counts; a drain of one entry runs through and takes it from its log. -/
theorem entriesApplied : Obligations.EntriesApplied := by
  unfold Obligations.EntriesApplied
  intro s s1 s2 s3 e
  refine ⟨?_, ?_, ?_, ?_⟩
  · intro p x before y z hp hx hy hvalues hwritten hz hsome
    exact ⟨_, rowApplyEntry_applies hp hx hy (optimiseOne_written hvalues hwritten) hz, entryApplied_spec hsome⟩
  · intro p x before y z v w hp hx hy hvalues ho hv hw hsome
    obtain ⟨happlied, hentries, hcount, -, hsame⟩ := entryApplied_spec hsome
    exact ⟨_, rowApplyEntry_applies hp hx hy (optimiseOne_stores hvalues ho hv) hw, happlied, hentries, hcount, hsame⟩
  · intro x y hdrains hx hnone hbatch hmay hrow
    obtain ⟨hrun, hdva, hdeferred, d, hd, hn⟩ := drainsRow_ends hnone hrow
    obtain ⟨hlog, hunder, hcount⟩ := rowWritten_log (e := e) (s := s2) (y := y) e
    exact ⟨_, (deferDrainBatch_drains hdrains hx hnone hbatch hmay).trans (congrArg _ hrun),
      drainEnded_settled (rowWritten_deferSide ..).1 (hlog.trans ((hdeferred e).trans hx)) hdva (hunder.trans hd) hn hcount⟩
  · intro table row x y hdrains hwanted hx hnone htable hrow hmay hdrained hothers
    obtain ⟨hrun, hdva, hdeferred, d, hd, hn⟩ := drainsRow_ends hnone hdrained
    obtain ⟨hlog, hunder, hcount⟩ := rowWritten_log (e := e) (s := s2) (y := y) e
    have hx2 := hlog.trans ((hdeferred e).trans hx)
    obtain ⟨hempty, -, -, hmem, hsame⟩ := drainEnded_settled (rowWritten_deferSide ..).1 hx2 hdva (hunder.trans hd) hn hcount
    exact ⟨_, (deferForward_drains hdrains hwanted hx hnone htable hrow hmay).trans (congrArg _ hrun), hempty,
      drainEnded_releases hx2 hdva fun f hf => (rowWritten_log f).1.trans (hothers f hf), hmem, hsame⟩

end Sys2Proof.Machine
end

section
/-!
SUPPORT. Export of a record (R241, R242; the first part of O32).
-/
namespace Sys2Proof.Machine
open Host

/-- Whether entries of a table that an EXPORT reads are still deferred (R242). -/
def exportDeferred (x : ExportRun) (s : State) : Bool :=
  match x.table with
  | some t => (List.finRange 16).any fun e => (getEng s e).deferred.any fun y => leTable y == tdId t.desc
  | none => false

/-- The payload that an EXPORT has captured. -/
def withPayload (d : Data) (x : ExportRun) : ExportRun := { x with data := some d }

/-- Payload and header of an EXPORT are written. -/
def exportWritten (x : ExportRun) : ExportRun := { x with written := true }

section
variable {s s1 s2 : State} {x : ExportRun} {cmd : Nat} {d : Data} {ds es : List Data}

theorem exportDeferred_of_rows {u : State} (h : u.rows = s.rows) : exportDeferred x u = exportDeferred x s := by
  simp only [exportDeferred, getEng, h]

/-- The EXPORT that EXPORT_CAPTURE finds is the command's own. -/
theorem exportFound_cmd (hx : (s.rows.exports.find? fun y => y.cmd == cmd && !y.written) = some x) : x.cmd = cmd := by
  have hfound : (x.cmd == cmd && !x.written) = true := List.find?_some (p := fun y : ExportRun => y.cmd == cmd && !y.written) hx
  simpa using (Bool.and_eq_true_iff.mp hfound).1

/-- An EXPORT whose payload and header are taken is written (R241). -/
theorem writeExport_writes (h : ioMany .cmd whoFront (exportKey x.cmd 1) [ioWrite ((fld x.slot.pay 303 256 + 128) % 2 ^ 48) d,
    ioWrite (fld x.slot.pay 303 256) (clean (exportHeader s x (dataBytes d)))] s = (s1, .done ds)) :
    writeExport x d s = updExport x.cmd exportWritten s1 := by
  unfold writeExport
  extract_lets dest w
  have hw : w = (s1, .done ds) := h
  rw [hw]
  rfl

/-- With no entry of its table deferred, an EXPORT that may begin captures its shard and writes it (R241, R242). -/
theorem exportCapture_writes (hx : (s.rows.exports.find? fun y => y.cmd == cmd && !y.written) = some x)
    (hwaits : (x.step.map (earlierOpen s)).getD false = false) (hbegin : mayBegin s x.slot x.step = true) (hdata : x.data = none)
    (hnone : exportDeferred x s = false) (hread : captureExport x (startCmd cmd s) = (s1, .done ds)) (hclean : ds.any poisoned = false)
    (hwrite : ioMany .cmd whoFront (exportKey cmd 1) [ioWrite ((fld x.slot.pay 303 256 + 128) % 2 ^ 48) ds.flatten,
      ioWrite (fld x.slot.pay 303 256) (clean (exportHeader (updExport cmd (withPayload ds.flatten) s1) x (dataBytes ds.flatten)))]
        (updExport cmd (withPayload ds.flatten) s1) = (s2, .done es)) :
    exec (.exportCapture cmd) s = .next (updExport cmd exportWritten s2) := by
  have hcmd := exportFound_cmd hx
  have hwritten := writeExport_writes (x := x) (hcmd.symm ▸ hwrite)
  show go _ = _
  refine congrArg Outcome.next ?_
  split
  · next h => cases hx.symm.trans h
  next y hy =>
  obtain rfl : x = y := Option.some.inj (hx.symm.trans hy)
  extract_lets waits s0 table has r c
  have hw : waits = false := by
    subst waits
    cases hstep : x.step with
    | none => rfl
    | some n => rw [hstep] at hwaits; exact hwaits
  have hhas : has s0 = false := by
    refine Eq.trans ?_ ((exportDeferred_of_rows (startCmd_rows (s := s) (id := cmd)) (x := x)).trans hnone)
    simp only [has, table, exportDeferred]
    cases x.table <;> rfl
  have hr : r = (s0, none) := if_neg (by simp [hhas])
  have hc : c = (s1, .done ds) := by rw [← hread]; show captureExport x r.1 = _; rw [hr]
  rw [hw, hbegin, hdata, hc, hr, hhas]
  simp only [Bool.not_true, Bool.or_self, Bool.false_eq_true, if_false, hclean]
  exact hcmd ▸ hwritten

/-- With COMMITTED written, an EXPORT completes (R241). -/
theorem exportCommit_completes {k : Cmd} (hx : (s.rows.exports.find? fun y => y.cmd == k.id && y.written) = some x)
    (hwrite : ioMany .cmd whoFront (exportKey k.id 2) [ioWrite ((fld x.slot.pay 303 256 + 100) % 2 ^ 48) [(1, false)]] s = (s1, .done ds))
    (hk : findCmd s1 k.id = some k) :
    ∃ u, exec (.exportCommit k.id) s = .next u ∧ Completes k .ok 0 s1 u ∧ (∀ y ∈ u.rows.exports, y.cmd ≠ k.id) ∧ SameBut [.rows, .host] s1 u := by
  have hexec : exec (.exportCommit k.id) s = .next (endExport k.id .ok s1) := by
    show execExportCommit k.id s = _
    unfold execExportCommit
    rw [hx]
    dsimp only
    rw [show clean [1] = [((1 : Byte), false)] from rfl, hwrite]
    rfl
  obtain ⟨h, hend, hcomp⟩ := completeCmd_completes
    (s := { s1 with rows := { s1.rows with exports := s1.rows.exports.filter fun x => x.cmd != k.id } }) hk 0
  exact ⟨_, hexec.trans (congrArg Outcome.next hend), hcomp, by simp, sameBut_rfl⟩

end

theorem recordsExported : Claims.RecordsExported := by
  intro s s1 s2 x k
  refine ⟨?_, ?_, ?_⟩
  · intro d hx hwaits hbegin htable hdata hd hclean dest s0 ⟨es, hwrite⟩
    have hread : captureExport x (startCmd k.id s) = (startCmd k.id s, .done [d]) := by
      obtain ⟨tr, hstart⟩ := startCmd_eq k.id s
      rw [← hd, captureExport, htable, hstart]
      rfl
    exact ⟨_, exportCapture_writes hx hwaits hbegin hdata (by simp [exportDeferred, htable]) hread (by simpa using hclean)
      (by rw [List.flatten_singleton]; exact hwrite), rfl, sameBut_rfl⟩
  · intro t ds hx hwaits hbegin htable hdata hnone hread hclean dest s0 ⟨es, hwrite⟩
    have hcmd := exportFound_cmd hx
    exact ⟨_, exportCapture_writes hx hwaits hbegin hdata (by simpa [exportDeferred, htable] using hnone)
      (by rw [captureExport, htable, hcmd]; exact hread) hclean hwrite, rfl, sameBut_rfl⟩
  · intro hx ⟨ds, hwrite⟩ hk
    exact exportCommit_completes hx hwrite hk

end Sys2Proof.Machine
end

section
/-!
SUPPORT. A command that starts as it enters and whose work is done at once (R29, R36, R361), and IMPORT of a dense record (R243; O32).
-/
namespace Sys2Proof.Machine
open Host

section
variable {s s' w : State} {q : Fin 64} {c : Slot} {info : List Nat} {op d : Nat} {r : OpRule}
  {effect : Cmd → State → State × Option (Status × Nat)}

/-- A command as it has entered and started. -/
def startedNow (info : List Nat) (q : Fin 64) (c : Slot) (s : State) : State := startCmd s.host.nextCmd (enterCmd info q c s).1

/-- What a command that enters and starts moves (R36, R363). -/
theorem startedNow_eq (info : List Nat) (q : Fin 64) (c : Slot) (s : State) :
    ∃ h k tr, startedNow info q c s = { s with host := h, clk := k, train := tr } := by
  obtain ⟨h, k, he⟩ := enterCmd_eq info q c s
  obtain ⟨tr, ht⟩ := startCmd_eq s.host.nextCmd (enterCmd info q c s).1
  rw [startedNow, ht, he]
  exact ⟨_, _, _, rfl⟩

/-- A command of no step leaves the steps as they are, as it starts. -/
theorem startedNow_of_noStep (h1 : slotOpcode c ≠ 1) (h2 : slotOpcode c ≠ 2) (hfree : findCmd s s.host.nextCmd = none) (hstep : slotStep s c = none) :
    ∃ h k, startedNow info q c s = { s with host := h, clk := k } := by
  obtain ⟨h, k, he⟩ := enterCmd_eq info q c s
  rw [startedNow, startCmd_of_step_none (findCmd_enterCmd hfree info q c) (by rw [enterCmd_snd h1 h2]; exact hstep), he]
  exact ⟨_, _, rfl⟩

/-- A command whose work is done at once, and leaves the host interface and the clocks as it found them, completes with what it has done. -/
theorem runsAtOnce_effect (h : Passes r.check op q c info s s') (h1 : op ≠ 1) (h2 : op ≠ 2) (hr : r.effect = runAtOnce effect)
    (hb : mayBegin s' c (slotStep s' c) = true) (heff : effect (newCmd info q c s') (startedNow info q c s') = (w, some (.ok, d)))
    (hhost : w.host = (startedNow info q c s').host) (hclk : w.clk = (startedNow info q c s').clk) :
    ∃ host, go (commandAtHead op r q c s) = .next { w with host := host } ∧ AtOnce q c info d s' { w with host := host } := by
  obtain ⟨hreach, -, -, hfree⟩ := id h
  have ho := reachesHead_opcode hreach
  obtain ⟨t, ht, he⟩ := enters h h1 h2
  obtain ⟨tr, hstart⟩ := startCmd_entered (ho ▸ h1) (ho ▸ h2) ht hfree
  have hnow : startedNow info q c s' = startCmd s'.host.nextCmd t := by rw [startedNow, ← ht.1]
  have hbegin : mayBegin t c (slotStep s' c) = true := (ht.mayBegin _).trans hb
  obtain ⟨host, hend, hat⟩ := atOnce_completeCmd (v := w) (info := info) (q := q) (c := c) (k := { newCmd info q c s' with started := true })
    hfree rfl rfl rfl rfl (by rw [hhost, hnow, hstart, ← ht.1]) (by rw [hclk, hnow, hstart, ← ht.1]) d
  refine ⟨host, ?_, hat⟩
  have hwork : runAtOnce effect (newCmd info q c s') t = completeCmd s'.host.nextCmd .ok d w := by
    rw [hnow] at heff
    simp only [runAtOnce, newCmd, hbegin, Bool.not_true, Bool.false_eq_true, if_false]
    simp only [newCmd] at heff
    rw [heff]
  rw [he, hr, hwork, hend]

end

/-! ### IMPORT of a dense record -/

/-- An IMPORT that is admitted has no step (R243). -/
theorem importCheck_slotNoStep {s s' : State} {q : Fin 64} {c : Slot} {info : List Nat}
    (h : importCheck q c s = (s', .accept) ∧ info = [] ∨ importCheck q c s = (s', .admitWith info)) : slotNoStep c = true := by
  by_contra hstep
  have hrefused : importCheck q c s = (s, .refuse .stateConflict 0) := if_pos (by simp [hstep])
  simp [hrefused] at h

/-- What an imported record sets beside its payload: LAST_COMMITTED_STEP, and no restore is due any longer (R243). -/
theorem importDone_eq (p : BitVec 1536) (h : List Byte) (s : State) : importDone p h s = { s with
    train := { s.train with lastCommitted := if bit p 2 then BitVec.ofNat 64 (hdrF h 127 64) else s.train.lastCommitted }
    rows := { s.rows with obj := { s.rows.obj with restoreRequired := s.rows.obj.restoreRequired && !bit p 3 } } } := by
  unfold importDone
  cases bit p 2 <;> cases bit p 3 <;> simp [updRowObj]

/-- The tile's memory with the payload of a dense record in the live copy (R243). -/
def withDense (s : State) (p : BitVec 1536) (bytes : List Byte) (x : Tile) : Tile :=
  { x with mem := memWrite x.mem (liveCopy (shardOf s (fld p 38 32) (fld p 45 40))) (clean bytes) }

theorem recordsImported : Claims.RecordsImported := by
  intro s s' q c info hpass hdense hbegin t bs
  obtain ⟨hreach, hcheck, -, hfree⟩ := id hpass
  have hop := reachesHead_opcode hreach
  have hstep : slotStep s' c = none := if_pos (importCheck_slotNoStep hcheck)
  obtain ⟨h, k, hnow⟩ := startedNow_of_noStep (info := info) (q := q) (hop ▸ by decide) (hop ▸ by decide) hfree hstep
  have heff : importEffect (newCmd info q c s') (startedNow info q c s') =
      (importDone c.pay (bs.take 128) (updTile t (withDense s' c.pay (bs.drop 128)) { s' with host := h, clk := k }), some (.ok, 0)) := by
    have hd : xDense (newCmd info q c s').slot.pay = true := by simp [xDense, newCmd, hdense]
    rw [importEffect, if_pos hd, hnow]
    rfl
  rw [importDone_eq] at heff
  obtain ⟨host, hgo, hat⟩ := runsAtOnce_effect (r := importRule) hpass (by decide) (by decide) rfl hbegin heff (by rw [hnow]; rfl) (by rw [hnow]; rfl)
  refine ⟨_, hgo, hat, fun v => ?_, rfl, rfl, rfl, sameBut_rfl⟩
  calc getTile _ v
    _ = getTile (updTile t (withDense s' c.pay (bs.drop 128)) s') v := rfl
    _ = _ := by
      rw [getTile_updTile]
      split
      · next hv => rw [hv]; rfl
      · rfl

/-- Settles O32: an EXPORT writes what it has captured and completes; a dense import is done as it enters. -/
theorem recordsMove : Obligations.RecordsMove := ⟨recordsExported, recordsImported⟩

end Sys2Proof.Machine
end

section
/-!
SUPPORT. GROUP_SET and COLLECTIVE enter (R321, R326, R327; the first part of O42).
-/
namespace Sys2Proof.Machine
open Host

/-- The descriptor that a COLLECTIVE becomes (R327, R337). -/
def newColl (k : Cmd) (g : Group) (s : State) : Coll :=
  { cmd := k.id, slot := k.slot, group := g.id, seq := g.seq, step := k.step, started := false, running := false, lastRx := s.now, src := [],
    ins := [], outs := [], plan := k.info.map planEntry, norm := none, scratch := false, result := none, written := false, writes := [], refetches := [],
    poison := none, audited := publishes k.slot && s.rows.obj.replicaAudit == 1, audits := [] }

/-- The link layer with a new descriptor at its unit, the group's sequence number used (R327). -/
def withColl (u : Fin 4) (g : Group) (c : Coll) (l : Links) : Links :=
  { l with
    groups := mapIf (fun x => x.id == g.id) (fun x => { x with seq := x.seq + 1 }) l.groups
    units := updAt l.units u fun x => { x with queue := x.queue ++ [c] } }

/-- A descriptor joins its unit, and beside that a step may await its norm partial and a table its broadcast (R327, R332, R337). -/
theorem collectiveAdmit_eq {k : Cmd} {s : State} {g : Group} (hg : findGroup s (kGroup k.slot.pay) = some g) :
    ∃ tr rows, collectiveAdmit k s = { s with links := withColl (kUnit k.slot.pay) g (newColl k g s) s.links, train := tr, rows := rows } := by
  unfold collectiveAdmit
  extract_lets p
  split
  · next h => cases hg.symm.trans h
  next x hx =>
  obtain rfl : g = x := Option.some.inj (hg.symm.trans hx)
  extract_lets c s1 s2 s3
  have h3 : ∃ tr, s3 = { s with links := withColl (kUnit p) g c s.links, train := tr } := by
    subst s3
    split
    · split
      · exact ⟨_, rfl⟩
      · exact ⟨_, rfl⟩
    · exact ⟨_, rfl⟩
  clear_value s3
  obtain ⟨tr, rfl⟩ := h3
  split
  · exact ⟨_, _, rfl⟩
  · exact ⟨_, _, rfl⟩

theorem mapIf_group_id (id : BitVec 12) (f : Group → Group) (l : List Group) :
    mapIf (fun x => x.id == id) f l = l.map fun x => if x.id = id then f x else x := by
  simp [mapIf]

/-- A group is set, or defined no longer where its list is empty (R322). -/
theorem setGroup_links (p : BitVec 1536) (members : List Nat) (s : State) : (setGroup p members s).links = { s.links with
    groups := (s.links.groups.filter fun g => g.id.toNat != fld p 11 0) ++
      if members = [] then [] else [{ id := BitVec.ofNat 12 (fld p 11 0), members := members, rank := fld p 46 32, seq := 0 }] } := by
  cases members <;> simp [setGroup]

theorem collectivesQueue : Claims.CollectivesQueue := by
  intro s s' q c info
  refine ⟨fun hpass hbegin => ?_, fun g hpass hg => ?_⟩
  · obtain ⟨h, k, tr, hnow⟩ := startedNow_eq info q c s'
    obtain ⟨host, hgo, hat⟩ := runsAtOnce_effect (r := groupSetRule) hpass (by decide) (by decide)
      (effect := fun k s => (setGroup k.slot.pay k.info s, some (.ok, 0))) rfl hbegin rfl rfl rfl
    refine ⟨_, hgo, hat, ?_, rfl, ?_⟩
    · exact (setGroup_links c.pay info _).trans (by rw [hnow])
    · rw [hnow]
      exact sameBut_rfl
  · obtain ⟨v, hv, he⟩ := enters (r := collectiveRule) hpass (by decide) (by decide)
    obtain ⟨h, k, hvs⟩ := id hv.2
    have hgroup : findGroup v (kGroup (newCmd info q c s').slot.pay) = some g := by rw [hvs]; exact hg
    obtain ⟨tr, rows, hadmit⟩ := collectiveAdmit_eq hgroup
    have heff : collectiveRule.effect (newCmd info q c s') v = _ := hadmit
    rw [heff] at he
    have hlinks : v.links = s'.links := by rw [hvs]
    refine ⟨_, newColl (newCmd info q c s') g v, he, hv.entered rfl rfl, ?_, rfl, rfl, rfl, fun w hw => ?_, ?_, hv.sameBut sameBut_rfl (by simp)⟩
    · exact (congrArg CollUnit.queue (updAt_same ..)).trans (congrArg (fun l : Links => l.units[kUnit c.pay].queue ++ [_]) hlinks)
    · exact (updAt_other _ hw _).trans (congrArg (fun l : Links => l.units[w]) hlinks)
    · exact (mapIf_group_id ..).trans (congrArg (fun l : Links => l.groups.map _) hlinks)

end Sys2Proof.Machine
end

section
/-!
SUPPORT. Descriptors at their unit: what changes one, and one at rest (R323, R328, R341; O42).
-/
namespace Sys2Proof.Machine
open Host

section
variable {s u : State} {v : Fin 4} {cmd : Nat} {c : Coll}

/-! ### A descriptor that changes -/

theorem findColl_cmd (h : findColl s v cmd = some c) : c.cmd = cmd := by simpa using List.find?_some h

theorem findColl_of_links (h : u.links = s.links) (v : Fin 4) (cmd : Nat) : findColl u v cmd = findColl s v cmd := by simp only [findColl, h]

/-- A descriptor that has changed is the changed one. -/
theorem findColl_updColl (h : findColl s v cmd = some c) {f : Coll → Coll} (hf : ∀ c, (f c).cmd = c.cmd) :
    findColl (updColl v cmd f s) v cmd = some (f c) := by
  have hunit : (updColl v cmd f s).links.units[v].queue = mapIf (fun c => c.cmd == cmd) f s.links.units[v].queue :=
    congrArg CollUnit.queue (updAt_same ..)
  rw [findColl, hunit, mapIf_find _ _ (fun x => by rw [hf])]
  exact congrArg (Option.map f) h

theorem collNodes_of_groups (h : u.links.groups = s.links.groups) (c : Coll) : collNodes u c = collNodes s c := by
  simp only [collNodes, findGroup, h]

/-! ### A descriptor at rest -/

/-- An entry that is not copied out of the staging buffer stays as it is. -/
theorem copyShard_of_notCopying {e : PlanEntry} (h : ∀ half d, e.state ≠ .copying half d) : copyShard v cmd s e = s := by
  unfold copyShard
  cases hstate : e.state with
  | copying half d => exact absurd hstate (h half d)
  | _ => cases findColl s v cmd <;> rfl

theorem foldl_copyShard_of_notCopying {l : List PlanEntry} (h : ∀ e ∈ l, ∀ half d, e.state ≠ .copying half d) : l.foldl (copyShard v cmd) s = s := by
  induction l with
  | nil => rfl
  | cons e l ih =>
    rw [List.foldl_cons, copyShard_of_notCopying (h e (by simp))]
    exact ih fun x hx => h x (by simp [hx])

/-- A running PERMUTE with nothing under way stays as it is (R341). -/
theorem collWork_of_rests (h : findColl s v cmd = some c) (hrun : c.running = true) (hop : kOp c.slot.pay = 4) (hrests : CollRests c) :
    collWork v cmd s = s := by
  obtain ⟨hwrites, hrefetches, haudits, -, hplan⟩ := hrests
  have hprogress : collProgress v cmd s = s := by simp [collProgress, h, hop]
  have hnow : planNow s v cmd = c.plan := by rw [planNow, h]; rfl
  have hasked : c.plan.filter (fun e => e.asked) = [] := List.filter_eq_nil_iff.mpr fun e he => by simp [(hplan e he).1]
  have hplanned : planProgress v cmd s = s := by
    simp [planProgress, h, hwrites, hnow, hasked, foldl_copyShard_of_notCopying fun e he => (hplan e he).2]
  have hclose : closeAudit v cmd s = s := by simp [closeAudit, h, haudits]
  unfold collWork
  simp only [h, hrun, if_true, hprogress, hplanned, Option.map_some, Option.getD_some, hrefetches, List.foldl_nil, hclose, ite_self]

/-! ### What a descriptor has waited for -/

theorem orphanReq_nobody_t1 (id : Nat) (s : State) : (orphanReq .nobody id s).mem.t1 = s.mem.t1 := by
  unfold orphanReq
  split
  · rfl
  · split <;> rfl

/-- What an operation's end forgets is none of T1's data. -/
theorem ioForget_memory (who key : Nat) (s : State) : ∃ m, ioForget who key s = { s with mem := m } ∧ m.t1 = s.mem.t1 := by
  obtain ⟨m, hm⟩ := ioForget_eq who key s
  have hl (l : List IoPiece) : ∀ s : State, (l.foldl (fun s p => orphanReq .nobody p.req s) s).mem.t1 = s.mem.t1 := by
    induction l with
    | nil => exact fun _ => rfl
    | cons p l ih => exact fun s => (ih _).trans (orphanReq_nobody_t1 p.req s)
  refine ⟨m, hm, (congrArg (fun s : State => s.mem.t1) hm).symm.trans ?_⟩
  unfold ioForget
  exact hl ..

/-- A descriptor that ends forgets its accesses, and nothing of T1's data (R328). -/
theorem forgetColl_memory (v : Fin 4) (c : Coll) (s : State) : ∃ m, forgetColl v c s = { s with mem := m } ∧ m.t1 = s.mem.t1 := by
  have hl (l : List Nat) : ∀ s : State, ∃ m, l.foldl (fun s k => ioForget (whoUnit v) k s) s = { s with mem := m } ∧ m.t1 = s.mem.t1 := by
    induction l with
    | nil => exact fun s => ⟨s.mem, rfl, rfl⟩
    | cons k l ih =>
      intro s
      obtain ⟨m, hm, ht⟩ := ioForget_memory (whoUnit v) k s
      obtain ⟨m', hm', ht'⟩ := ih (ioForget (whoUnit v) k s)
      rw [hm] at hm' ht'
      rw [List.foldl_cons, hm]
      exact ⟨m', hm', ht'.trans ht⟩
  unfold forgetColl
  exact hl ..

end

end Sys2Proof.Machine
end

section
/-!
SUPPORT. A PERMUTE starts, and a descriptor ends (R328, R343; O42).
-/
namespace Sys2Proof.Machine
open Host

/-! ### A PERMUTE starts -/

/-- A read of no bytes is over at once. -/
theorem ioMany_readNothing (cl : AccClass) (who key a : Nat) (s : State) :
    ioMany cl who key [(ioRead a 0).own] s = (ioForget who key s, .done [[]]) := rfl

/-- A descriptor as its start leaves it. -/
def collStarted (now : Nat) (c : Coll) : Coll := { c with started := true, lastRx := now }

/-- A descriptor whose source of no bytes has come (R325, R328). -/
def collRunning (s : State) (c : Coll) : Coll :=
  { c with running := true, src := [], poison := sourcePoison c [], audits := auditShards s c }

section
variable {s : State} {v : Fin 4} {idx : Nat} {c : Coll} {k : Cmd}

/-- A descriptor that started but does not run yet goes on as one that runs, once its source has come. -/
theorem collWork_of_readSource {t : State} {cmd : Nat} {c' : Coll} (h : findColl s v cmd = some c) (hstarted : c.started = true)
    (hrun : c.running = false) (hread : readSource v c s = t) (h' : findColl t v cmd = some c') (hstarted' : c'.started = true)
    (hrun' : c'.running = true) : collWork v cmd s = collWork v cmd t := by
  unfold collWork
  simp only [h, h', hstarted, hstarted', hrun, hrun', hread]
  rfl

/-- The source of a PERMUTE is nothing. -/
theorem sourceBytes_of_permute (hop : kOp c.slot.pay = 4) (s : State) : sourceBytes s c = 0 := if_pos (.inl hop)

theorem readSource_of_permute (hop : kOp c.slot.pay = 4) (s : State) :
    readSource v c s = updColl v c.cmd (collRunning s) (ioForget (whoUnit v) (collKey c 0) s) := by
  unfold readSource
  rw [sourceBytes_of_permute hop, ioMany_readNothing]
  rfl

/-- A command of no step that starts is marked. -/
theorem findCmd_startCmd {id : Nat} (hk : findCmd s id = some k) (hstep : k.step = none) :
    findCmd (startCmd id s) id = some { k with started := true } := by
  rw [startCmd_of_step_none hk hstep]
  exact (mapIf_find (fun c : Cmd => c.id == id) (fun c => { c with started := true }) (fun _ => rfl) _).trans (congrArg _ hk)

/-- A PERMUTE that starts runs at once, and rests (R328, R341). -/
theorem permute_starts (hidx : (s.links.units[v]).queue[idx]? = some c) (hc : findColl s v c.cmd = some c) (hid : k.id = c.cmd)
    (hk : findCmd s k.id = some k) (hstep : k.step = none) (hstarted : c.started = false) (hrun : c.running = false)
    (hbc : bit c.slot.pay 19 = true → fld c.slot.pay 575 544 ≤ (bcOf s (fin (fld c.slot.pay 534 528)) (fin (fld c.slot.pay 540 536))).toNat)
    (hstart : startable s v c = true) (hop : kOp c.slot.pay = 4) (hrests : CollRests c) :
    ∃ u c', exec (.collDescriptorStart v idx) s = .next u ∧ findColl u v c.cmd = some c' ∧ c'.started = true ∧ c'.running = true ∧
      c'.lastRx = s.now ∧ c'.plan = c.plan ∧ c'.ins = c.ins ∧ (findCmd u k.id).map (fun k => k.started) = some true ∧
      u.mem.t1 = s.mem.t1 ∧ SameBut [.links, .host, .mem] s u := by
  have hstartCmd := startCmd_of_step_none hk hstep
  rw [hid] at hstartCmd
  let t0 := updColl v c.cmd (collStarted s.now) (startCmd c.cmd s)
  have ht0 : findColl t0 v c.cmd = some (collStarted s.now c) :=
    findColl_updColl ((findColl_of_links (by rw [hstartCmd]) v c.cmd).trans hc) fun _ => rfl
  obtain ⟨m, hm, hmt⟩ := ioForget_memory (whoUnit v) (collKey c 0) t0
  let c' := collRunning t0 (collStarted s.now c)
  have hread : readSource v (collStarted s.now c) t0 = updColl v c.cmd (collRunning t0) { t0 with mem := m } := by
    rw [← hm]; exact readSource_of_permute (c := collStarted s.now c) hop t0
  have hu : findColl (updColl v c.cmd (collRunning t0) { t0 with mem := m }) v c.cmd = some c' := findColl_updColl ht0 fun _ => rfl
  obtain ⟨hwrites, hrefetches, -, haudited, hplan⟩ := hrests
  have hrests' : CollRests c' := ⟨hwrites, hrefetches, if_neg (by simp [collStarted, haudited]), haudited, hplan⟩
  have hwork := (collWork_of_readSource ht0 rfl hrun hread hu rfl rfl).trans (collWork_of_rests hu rfl hop hrests')
  have hexec : exec (.collDescriptorStart v idx) s = .next (collWork v c.cmd t0) := by
    show execCollDescriptorStart v idx s = _
    have hwaits : (bit c.slot.pay 19 && decide ((bcOf s (fin (fld c.slot.pay 534 528)) (fin (fld c.slot.pay 540 536))).toNat <
        fld c.slot.pay 575 544)) = false := by
      simpa using hbc
    simp only [execCollDescriptorStart, hidx, hwaits, hstart, hstarted, go]
    rfl
  refine ⟨_, c', hexec.trans (congrArg Outcome.next hwork), hu, rfl, rfl, rfl, rfl, rfl, ?_, hmt.trans ?_, ?_⟩
  · have hfound : findCmd t0 c.cmd = some { k with started := true } := by
      show findCmd (startCmd c.cmd s) c.cmd = _
      exact findCmd_startCmd (hid ▸ hk) hstep
    rw [hid]
    exact congrArg _ hfound
  · show (startCmd c.cmd s).mem.t1 = _
    rw [hstartCmd]
  · show SameBut _ s (updColl v c.cmd (collRunning t0) { updColl v c.cmd (collStarted s.now) (startCmd c.cmd s) with mem := m })
    rw [hstartCmd]
    exact sameBut_rfl

end

end Sys2Proof.Machine
end

section
/-!
SUPPORT. A descriptor ends: it completes, or its peer is silent (R328, R343, R344; O42).
-/
namespace Sys2Proof.Machine
open Host

/-! ### The end of a descriptor -/

/-- A command that leaves is in flight no longer. -/
theorem cmds_left {k : Cmd} {id : Nat} (hid : k.id = id) (s : State) :
    (leaveCmds id s).host.cmds = s.host.cmds.filter fun x => x.id ≠ k.id := by rw [hid]; rfl

/-- A command of no step completes as it ends, however it ends, and nothing beside the host interface moves (R359). -/
theorem completeCmd_completes_of_noStep {s : State} {id : Nat} {k : Cmd} (hk : findCmd s id = some k) (hstep : k.step = none)
    (hw : ofWalker k.slot = false) (st : Status) (detail : Nat) :
    ∃ h, completeCmd id st detail s = { s with host := h } ∧ Completes k st detail s { s with host := h } := by
  have hid : k.id = id := by simpa using List.find?_some hk
  rw [completeCmd_eq_retire detail hk (.inr ⟨hstep, hw⟩), retire]
  cases hredo : k.redo with
  | false => exact ⟨_, rfl, cmds_left hid s, by rw [hredo]; rfl⟩
  | true => exact ⟨_, rfl, cmds_left hid s, by rw [hredo]; exact (List.append_nil _).symm⟩

/-- The link layer once the descriptor of a command has left its unit. -/
def withoutColl (v : Fin 4) (cmd : Nat) (l : Links) : Links :=
  { l with
    units := updAt l.units v fun x => { x with queue := x.queue.filter fun y => y.cmd != cmd }
    unitCounters := { l.unitCounters with descriptors := bump l.unitCounters.descriptors v 1 } }

section
variable {s : State} {v : Fin 4} {idx : Nat} {c : Coll} {k : Cmd}

theorem findColl_withoutColl {u : State} {l : Links} (h : u.links = withoutColl v c.cmd l) : findColl u v c.cmd = none := by
  have hunit : u.links.units[v].queue = (l.units[v].queue).filter fun y => y.cmd != c.cmd := by
    rw [h]; exact congrArg CollUnit.queue (updAt_same ..)
  rw [findColl, hunit, List.find?_eq_none]
  intro x hx
  simpa using (List.mem_filter.mp hx).2

/-- A descriptor of no step that is no replica leaves its unit as it ends, and its command completes (R328). -/
theorem endColl_ends (hstep : c.step = none) (hreplica : kReplica c.slot.pay = false) (hk : findCmd s c.cmd = some k) (hkstep : k.step = none)
    (hw : ofWalker k.slot = false) (st : Status) (detail : Nat) : ∃ h m, m.t1 = s.mem.t1 ∧
      endColl v c st detail s = { s with host := h, mem := m, links := withoutColl v c.cmd s.links } ∧
      Completes k st detail s { s with host := h, mem := m, links := withoutColl v c.cmd s.links } := by
  have hnorm : settleNorm c s = s := by rw [settleNorm, hstep]
  have hsettled : settleReplica c st s = s := if_neg (by simp [hreplica])
  obtain ⟨m, hm, ht⟩ := forgetColl_memory v c s
  obtain ⟨h, hend, hcomp⟩ := completeCmd_completes_of_noStep (s := { s with mem := m, links := withoutColl v c.cmd s.links }) hk hkstep hw st detail
  refine ⟨h, m, ht, ?_, hcomp⟩
  rw [endColl, hnorm, hsettled, hm]
  exact hend

/-! ### A PERMUTE completes -/

/-- A PERMUTE whose plan is done completes, with a signal where it is asked for (R328, R342). -/
theorem permute_completes (hidx : (s.links.units[v]).queue[idx]? = some c) (hc : findColl s v c.cmd = some c) (hid : k.id = c.cmd)
    (hk : findCmd s k.id = some k) (hopcode : slotOpcode k.slot = 0x41) (hkstep : k.step = none) (hstep : c.step = none)
    (hrun : c.running = true) (hop : kOp c.slot.pay = 4) (hdone : planDone c.plan = true)
    (hreplica : kReplica c.slot.pay = false) (hrests : CollRests c) :
    ∃ u, exec (.collDescriptorComplete v idx) s = .next u ∧
      (findColl u v c.cmd = none ∧ u.mem.t1 = s.mem.t1 ∧ u.links.unitCounters.descriptors = bump s.links.unitCounters.descriptors v 1) ∧
      Completes k (c.poison.getD .ok) 0 s u ∧ u.tile.tiles = s.tile.tiles ∧
      u.tile.weave.packets.length = s.tile.weave.packets.length + (if bit c.slot.pay 18 = true then 1 else 0) ∧
      SameBut [.links, .host, .tile, .mem] s u := by
  have hfailed : auditFailed c = false := by simp [auditFailed, hrests.2.2.1]
  have hfinished : collFinished s c = true := (if_pos hop).trans hdone
  let signalled := if bit c.slot.pay 18 then
    sendSignal (whoUnit v) (fin (fld c.slot.pay 518 512)) (fld c.slot.pay 524 520) s else s
  have hexec : exec (.collDescriptorComplete v idx) s = .next (endColl v c (c.poison.getD .ok) 0 signalled) := by
    show execCollDescriptorComplete v idx s = _
    simp only [execCollDescriptorComplete, hidx, collWork_of_rests hc hrun hop hrests, hc, hrun, hfailed, hfinished, go]
    rfl
  obtain ⟨w, hw, hwlen⟩ : ∃ w : Weave, signalled = { s with tile := { s.tile with weave := w } } ∧
      w.packets.length = s.tile.weave.packets.length + (if bit c.slot.pay 18 = true then 1 else 0) := by
    cases hbit : bit c.slot.pay 18 with
    | false => exact ⟨s.tile.weave, if_neg (by simp [hbit]), rfl⟩
    | true => exact ⟨_, if_pos hbit, List.length_append⟩
  rw [hw] at hexec
  obtain ⟨h, m, ht, hend, hcomp⟩ := endColl_ends (s := { s with tile := { s.tile with weave := w } }) (v := v) hstep hreplica (hid ▸ hk) hkstep
    (by simp [ofWalker, hopcode]) (c.poison.getD .ok) 0
  exact ⟨_, hexec.trans (congrArg Outcome.next hend), ⟨findColl_withoutColl rfl, ht, rfl⟩, hcomp, rfl, hwlen, sameBut_rfl⟩

/-! ### A silent peer -/

/-- A packet of this module is sent where its route can be had. -/
def injected (pk : Packet) (s : State) : State × Bool :=
  ((sendPacket .inject pk s).map fun u => (u, true)).getD (s, false)

/-- The header of a COLL_CTRL packet of a descriptor to a node (R308). -/
def ctrlSpec (c : Coll) (kind node status body : Nat) : HdrSpec :=
  { type := 2, vc := 1, dst := node, flow := 0, group := c.group.toNat, seq := c.seq.toNat, status := status, kind := kind, body := body }

theorem sendCtrl_eq (c : Coll) (kind rank status body : Nat) (payload : Data) (s : State) : sendCtrl c kind rank status body payload s =
    injected (mkPacket s (ctrlSpec c kind ((collNodes s c).getD rank 0) status body) payload) s := by
  -- `mkPacket` stays folded: the kernel would evaluate the packet's header.
  obtain ⟨f, hf⟩ : ∃ f, f = sendCtrl := ⟨_, rfl⟩
  obtain ⟨mk, hmk⟩ : ∃ mk, mk = mkPacket := ⟨_, rfl⟩
  rw [← hf, ← hmk]
  delta sendCtrl at hf
  rw [← hmk] at hf
  subst hf
  unfold injected ctrlSpec
  dsimp only
  generalize sendPacket .inject _ s = sent
  cases sent <;> rfl

/-- What a packet that is sent leaves of the link layer: the units and their counters. -/
theorem injected_links (pk : Packet) (s : State) :
    ∃ l, (injected pk s).1 = { s with links := l } ∧ l.units = s.links.units ∧ l.unitCounters = s.links.unitCounters := by
  unfold injected
  cases hu : sendPacket .inject pk s with
  | none => exact ⟨_, rfl, rfl, rfl⟩
  | some u =>
    unfold sendPacket at hu
    split at hu
    · obtain rfl := Option.some.inj hu
      exact ⟨_, rfl, rfl, rfl⟩
    · obtain ⟨q, -, rfl⟩ := Option.map_eq_some_iff.mp hu
      exact ⟨_, rfl, rfl, rfl⟩

/-- So do the ABORTs that a failing descriptor sends (R344). -/
theorem sendAborts_links (c : Coll) (at_ : Option Nat) (status : Nat) (s : State) :
    ∃ l, sendAborts c at_ status s = { s with links := l } ∧ l.units = s.links.units ∧ l.unitCounters = s.links.unitCounters := by
  unfold sendAborts
  generalize collPeers s c = ranks
  induction ranks generalizing s with
  | nil => exact ⟨_, rfl, rfl, rfl⟩
  | cons a ranks ih =>
    rw [List.foldl_cons, sendCtrl_eq]
    obtain ⟨l, hl, hunits, hcounters⟩ :=
      injected_links (mkPacket s (ctrlSpec c 3 ((collNodes s c).getD a 0) (if at_ = some a then status else 0) 0) []) s
    obtain ⟨l', hl', hunits', hcounters'⟩ := ih { s with links := l }
    rw [hl]
    exact ⟨l', hl', hunits'.trans hunits, hcounters'.trans hcounters⟩

/-- A descriptor whose peer has been silent for too long ends with LINK_TIMEOUT (R343). -/
theorem collTimeout_ends {a : Nat} (hidx : (s.links.units[v]).queue[idx]? = some c) (hid : k.id = c.cmd) (hk : findCmd s k.id = some k)
    (hopcode : slotOpcode k.slot = 0x41) (hkstep : k.step = none) (hstep : c.step = none) (hstarted : c.started = true)
    (hwaits : waitsFor s c = some a) (hlate : c.lastRx + 1000000 * s.links.collTimeoutMs.toNat ≤ s.now) (hreplica : kReplica c.slot.pay = false) :
    ∃ u, exec (.collTimeout v idx) s = .next u ∧
      (findColl u v c.cmd = none ∧ u.mem.t1 = s.mem.t1 ∧ u.links.unitCounters.descriptors = bump s.links.unitCounters.descriptors v 1) ∧
      Completes k .linkTimeout a s u ∧ u.links.unitCounters.timeout = bump s.links.unitCounters.timeout v 1 ∧ SameBut [.links, .host, .mem] s u := by
  have hexec : exec (.collTimeout v idx) s =
      .next (failColl v c .linkTimeout a (collCount (fun n => { n with timeout := bump n.timeout v 1 }) s)) := by
    show execCollTimeout v idx s = _
    simp only [execCollTimeout, hidx, hwaits, hstarted, hlate, go]
    rfl
  obtain ⟨l, hl, -, hcounters⟩ := sendAborts_links c none 0 (collCount (fun n => { n with timeout := bump n.timeout v 1 }) s)
  have hcounters : l.unitCounters = { s.links.unitCounters with timeout := bump s.links.unitCounters.timeout v 1 } := hcounters
  obtain ⟨h, m, ht, hend, hcomp⟩ := endColl_ends (s := { s with links := l }) (v := v) hstep hreplica (hid ▸ hk) hkstep (by simp [ofWalker, hopcode])
    .linkTimeout a
  have hfail : failColl v c .linkTimeout a (collCount (fun n => { n with timeout := bump n.timeout v 1 }) s) =
      endColl v c .linkTimeout a { s with links := l } := congrArg (endColl v c .linkTimeout a) hl
  refine ⟨_, hexec.trans (congrArg Outcome.next (hfail.trans hend)), ⟨findColl_withoutColl rfl, ht, ?_⟩, hcomp, ?_, sameBut_rfl⟩
  · show bump l.unitCounters.descriptors v 1 = _
    rw [hcounters]
  · exact congrArg CollCounters.timeout hcounters

end

end Sys2Proof.Machine
end

section
/-!
SUPPORT. What a descriptor sends to a rank, and the receives and copies of a PERMUTE that begin (R308, R341; O42).
-/
namespace Sys2Proof.Machine
open Host

/-! ### The header of a packet -/

/-- Where a packet of 2 KiB at most goes (R308). -/
theorem mkPacket_route (s : State) {h : HdrSpec} {payload : Data} (htype : h.type < 2 ^ 4) (hvc : h.vc < 2 ^ 2) (hdst : h.dst < 2 ^ 15)
    (hpayload : payload.length ≤ 2048) : pkDst (mkPacket s h payload) = h.dst ∧ pkFlow (mkPacket s h payload) = h.flow % 256 := by
  have hnode : nodeId s < 2 ^ 16 := s.dict.keep.nodeId.isLt
  have hhops : s.links.hopLimit.toNat < 2 ^ 8 := s.links.hopLimit.isLt
  have hpoison : b2n (poisoned payload) ≤ 1 := by unfold b2n; split <;> omega
  have hflits : ceilDiv payload.length 64 ≤ 32 := by unfold ceilDiv; omega
  unfold pkDst pkFlow fld mkPacket
  simp only [BitVec.toNat_ofNat, Nat.shiftRight_eq_div_pow]
  generalize ceilDiv payload.length 64 = n at hflits
  generalize (if n = 0 then 0 else _) = crc
  constructor <;> omega

/-- What a packet is whose fields fit (R308). -/
theorem mkPacket_kind (s : State) {h : HdrSpec} {payload : Data} (htype : h.type < 2 ^ 4) (hvc : h.vc < 2 ^ 2) (hdst : h.dst < 2 ^ 15)
    (haddr : h.addr < 2 ^ 48) (htag : h.tag < 2 ^ 16) (hgroup : h.group < 2 ^ 16) (hseq : h.seq < 2 ^ 32) (hstatus : h.status < 2 ^ 8)
    (hkind : h.kind < 2 ^ 8) (hpayload : payload.length ≤ 2048) :
    pkType (mkPacket s h payload) = h.type ∧ pkKind (mkPacket s h payload) = h.kind := by
  have hnode : nodeId s < 2 ^ 16 := s.dict.keep.nodeId.isLt
  have hhops : s.links.hopLimit.toNat < 2 ^ 8 := s.links.hopLimit.isLt
  have hpoison : b2n (poisoned payload) ≤ 1 := by unfold b2n; split <;> omega
  have hflits : ceilDiv payload.length 64 ≤ 32 := by unfold ceilDiv; omega
  unfold pkType pkKind fld mkPacket
  simp only [BitVec.toNat_ofNat, Nat.shiftRight_eq_div_pow]
  generalize ceilDiv payload.length 64 = n at hflits
  generalize (if n = 0 then 0 else _) = crc
  constructor <;> omega

/-! ### A packet to a rank -/

section
variable {s : State} {v : Fin 4} {idx : Nat} {c : Coll} {e : PlanEntry} {port : Fin 16}

/-- A packet to another node joins those of its route's port. -/
theorem injected_queues {pk : Packet} {node flow : Nat} (hdst : pkDst pk = node) (hflow : pkFlow pk = flow) (hother : node ≠ nodeId s)
    (hroute : routePort s .inject node flow = some port) : injected pk s = (queueAt port .inject pk s, true) := by
  rw [injected, sendPacket_queues (by rwa [hdst]) (by rw [hdst, hflow]; exact hroute)]
  rfl

theorem getPort_queueAt (q : Fin 16) (set : PortSet) (pk : Packet) (s : State) :
    (getPort (queueAt q set pk s) q).txq = (getPort s q).txq ++ [(set, pk)] := by
  rw [queueAt, getPort_updPort, if_pos rfl]

/-- A COLL_CTRL packet to another node joins those of its route's port (R308, R313). -/
theorem sendCtrl_queues {rank : Nat} {payload : Data} (hother : (collNodes s c).getD rank 0 ≠ nodeId s)
    (hnode : (collNodes s c).getD rank 0 < 2 ^ 15) (hroute : routePort s .inject ((collNodes s c).getD rank 0) 0 = some port)
    {kind status : Nat} (hkind : kind < 2 ^ 8) (hstatus : status < 2 ^ 8) (hpayload : payload.length ≤ 2048) (body : Nat) :
    ∃ pk, sendCtrl c kind rank status body payload s = (queueAt port .inject pk s, true) ∧ pkType pk = 2 ∧ pkKind pk = kind ∧
      (payload = [] → pk.pay = []) := by
  let h := ctrlSpec c kind ((collNodes s c).getD rank 0) status body
  obtain ⟨hdst, hflow⟩ := mkPacket_route s (h := h) (payload := payload) (by decide : 2 < 2 ^ 4) (by decide : 1 < 2 ^ 2) hnode hpayload
  obtain ⟨htype, hk⟩ := mkPacket_kind s (h := h) (payload := payload) (by decide : 2 < 2 ^ 4) (by decide : 1 < 2 ^ 2) hnode
    (by decide : 0 < 2 ^ 48) (by decide : 0 < 2 ^ 16) (Nat.lt_trans c.group.isLt (by decide)) c.seq.isLt hstatus hkind hpayload
  refine ⟨mkPacket s h payload, (sendCtrl_eq ..).trans (injected_queues hdst hflow hother hroute), htype, hk, fun hempty => ?_⟩
  rw [hempty]
  rfl

/-! ### A receive begins -/

theorem findColl_updPlan {cmd : Nat} (h : findColl s v cmd = some c) (recv : Bool) (peer shard : Nat) (f : PlanEntry → PlanEntry) :
    findColl (updPlan v cmd recv peer shard f s) v cmd =
      some { c with plan := mapIf (fun e => e.recv == recv && e.peer == peer && e.shard == shard) f c.plan } :=
  findColl_updColl h fun _ => rfl

/-- A receive that can start asks its peer for the shard (R341). -/
theorem permuteReceive_starts {st : RecvState} (hidx : (s.links.units[v]).queue[idx]? = some c) (hc : findColl s v c.cmd = some c)
    (hrun : c.running = true) (hroom : (c.plan.filter inFlightRecv).length < 8)
    (he : (c.plan.findSome? fun e => (startState c.slot.pay c.plan e).map fun st => (e, st)) = some (e, st))
    (hother : (collNodes s c).getD e.peer 0 ≠ nodeId s) (hnode : (collNodes s c).getD e.peer 0 < 2 ^ 15)
    (hroute : routePort s .inject ((collNodes s c).getD e.peer 0) 0 = some port) :
    ∃ u c' pk, exec (.permuteReceiveStart v idx) s = .next u ∧ findColl u v c.cmd = some c' ∧
      c'.plan = mapIf (fun x => x.recv && x.peer == e.peer && x.shard == e.shard) (fun x => { x with state := st }) c.plan ∧
      (getPort u port).txq = (getPort s port).txq ++ [(.inject, pk)] ∧ pk.pay = [] ∧ SameBut [.links] s u := by
  let begun := updPlan v c.cmd true e.peer e.shard (fun e => { e with state := st }) s
  let counted := if st = .direct then begun else collCount (fun n => { n with staged := bump n.staged v 1 }) begun
  obtain ⟨n, hn⟩ : ∃ n, counted = { begun with links := { begun.links with unitCounters := n } } := by
    by_cases hst : st = .direct
    · exact ⟨_, if_pos hst⟩
    · exact ⟨_, if_neg hst⟩
  obtain ⟨pk, hsend, -, -, hpay⟩ := sendCtrl_queues (s := { begun with links := { begun.links with unitCounters := n } }) (c := c) (payload := [])
    hother hnode hroute (by decide : 2 < 2 ^ 8) (by decide : 0 < 2 ^ 8) (by decide) (e.shard + e.bytes * 2 ^ 32)
  have hexec : exec (.permuteReceiveStart v idx) s = .next (if (sendCtrl c 2 e.peer 0 (e.shard + e.bytes * 2 ^ 32) [] counted).2 then
      (sendCtrl c 2 e.peer 0 (e.shard + e.bytes * 2 ^ 32) [] counted).1 else
      failColl v c .peerUnreachable e.peer (sendCtrl c 2 e.peer 0 (e.shard + e.bytes * 2 ^ 32) [] counted).1) := by
    show execPermuteReceiveStart v idx s = _
    simp only [execPermuteReceiveStart, hidx, hrun, Nat.not_le.mpr hroom, he, go, Bool.not_true, decide_false, Bool.or_self,
      Bool.false_eq_true, if_false]
    rfl
  rw [hn, hsend, if_pos rfl] at hexec
  refine ⟨_, _, pk, hexec, findColl_updPlan hc true e.peer e.shard _, ?_, getPort_queueAt .., hpay rfl, sameBut_rfl⟩
  simp only [beq_true]

/-- A staged shard whose range is free begins to be copied, and the descriptor goes on (R341). -/
theorem permuteStageCopy_begins {h : Fin 2} (hidx : (s.links.units[v]).queue[idx]? = some c)
    (he : (c.plan.findSome? fun e => match e.state with
      | .stagedFull h => if rangeFree c.plan e then some (e, h) else none | _ => none) = some (e, h)) :
    exec (.permuteStageCopy v idx) s = .next (collWork v c.cmd (updColl v c.cmd (fun c => { c with
      plan := mapIf (fun x => x.recv && x.peer == e.peer && x.shard == e.shard) (fun x => { x with state := .copying h none }) c.plan }) s)) := by
  show execPermuteStageCopy v idx s = _
  unfold execPermuteStageCopy
  extract_lets full
  have hfull : (fun e => (full e).bind fun h => if rangeFree c.plan e then some (e, h) else none) =
      fun e => match e.state with | .stagedFull h => if rangeFree c.plan e then some (e, h) else none | _ => none := by
    funext ⟨peer, recv, shard, bytes, dva, state, asked, pulled, got⟩
    cases state <;> rfl
  rw [hidx]
  dsimp only
  rw [hfull, he]
  simp only [updPlan, beq_true, go]

end

end Sys2Proof.Machine
end

section
/-!
SUPPORT. The audit of a published shard (R238, R239; O42).
-/
namespace Sys2Proof.Machine
open Host

/-- The audit of the shard of a rank changed by `f`. -/
def withAudit (rank : Nat) (f : AuditShard → AuditShard) (c : Coll) : Coll := { c with audits := mapIf (fun a => a.owner == rank) f c.audits }

/-- A packet of TYPE 2 and a KIND has joined those of a port. -/
def SentKind (port : Fin 16) (kind : Nat) (s t : State) : Prop :=
  ∃ pk, (getPort t port).txq = (getPort s port).txq ++ [(.inject, pk)] ∧ pkType pk = 2 ∧ pkKind pk = kind

/-- An audit of a descriptor has changed. -/
def NotedAudit (v : Fin 4) (c : Coll) (rank : Nat) (f : AuditShard → AuditShard) (t : State) : Prop :=
  (findColl t v c.cmd).map (fun c => c.audits) = some (mapIf (fun a => a.owner == rank) f c.audits)

section
variable {s : State} {v : Fin 4} {idx rank : Nat} {c : Coll} {a : AuditShard} {d h : Data} {port : Fin 16}

/-- The descriptor notes something of a shard and tells a rank, on a state that differs in the row engines. -/
theorem audit_tells (hc : findColl s v c.cmd = some c) (hother : (collNodes s c).getD rank 0 ≠ nodeId s)
    (hnode : (collNodes s c).getD rank 0 < 2 ^ 15) (hroute : routePort s .inject ((collNodes s c).getD rank 0) 0 = some port)
    {kind : Nat} (hkind : kind < 2 ^ 8) {payload : Data} (hpayload : payload.length ≤ 2048) (f : AuditShard → AuditShard) (rows : Rows) :
    ∃ t, sendCtrl c kind rank 0 0 payload (updColl v c.cmd (withAudit rank f) { s with rows := rows }) = (t, true) ∧
      SentKind port kind s t ∧ NotedAudit v c rank f t ∧ t.rows = rows ∧ SameBut [.links, .rows] s t ∧
      SameBut [.links] { s with rows := rows } t := by
  obtain ⟨pk, hsend, htype, hk, -⟩ := sendCtrl_queues (s := updColl v c.cmd (withAudit rank f) { s with rows := rows }) (c := c) (payload := payload)
    hother hnode hroute hkind (by decide : 0 < 2 ^ 8) hpayload 0
  have hnoted : findColl (updColl v c.cmd (withAudit rank f) { s with rows := rows }) v c.cmd = some (withAudit rank f c) :=
    findColl_updColl hc fun _ => rfl
  exact ⟨_, hsend, ⟨pk, getPort_queueAt .., htype, hk⟩, congrArg (Option.map Coll.audits) hnoted, rfl, sameBut_rfl, sameBut_rfl⟩

/-- A shard that agrees with its hash is reported to its owner (R238). -/
theorem replicaHashCheck_reports (hidx : (s.links.units[v]).queue[idx]? = some c) (hc : findColl s v c.cmd = some c)
    (ha : (c.audits.find? fun a => a.owner == rank && a.ok.isNone) = some a) (hd : gBlock (viewOf s c) none rank = some d)
    (hh : gHash (viewOf s c) none rank = some h) (hother : (collNodes s c).getD rank 0 ≠ nodeId s)
    (hnode : (collNodes s c).getD rank 0 < 2 ^ 15) (hroute : routePort s .inject ((collNodes s c).getD rank 0) 0 = some port)
    (hagree : sha256 (dataBytes d) = dataBytes h) :
    ∃ t, exec (.replicaHashCheck v idx rank) s = .next (collWork v c.cmd t) ∧ SentKind port 4 s t ∧
      NotedAudit v c rank (fun a => { a with ok := some true }) t ∧ SameBut [.links] s t := by
  obtain ⟨t, hsend, hsent, hnoted, -, -, hsame⟩ := audit_tells hc hother hnode hroute (kind := 4) (by decide)
    (payload := auditData rank true false) (by simp [auditData, clean, leBytes]) (fun a => { a with ok := some true }) s.rows
  refine ⟨t, ?_, hsent, hnoted, hsame⟩
  have hreport : reportShard v c rank true s = collWork v c.cmd t := by
    unfold reportShard
    have hsend : sendCtrl c 4 rank 0 0 (auditData rank true false)
        (updColl v c.cmd (withAudit rank fun a => { a with ok := some true }) s) = (t, true) := hsend
    unfold withAudit at hsend
    dsimp only
    rw [hsend, if_pos rfl]
  show execReplicaHashCheck v idx rank s = _
  simp only [execReplicaHashCheck, hidx, ha, hd, hh, hagree, if_true, hreport, go]

/-- A shard that disagrees with its hash is fetched again, as long as tries are left (R239). -/
theorem replicaHashCheck_refetches (hidx : (s.links.units[v]).queue[idx]? = some c) (hc : findColl s v c.cmd = some c)
    (ha : (c.audits.find? fun a => a.owner == rank && a.ok.isNone) = some a) (hd : gBlock (viewOf s c) none rank = some d)
    (hh : gHash (viewOf s c) none rank = some h) (hother : (collNodes s c).getD rank 0 ≠ nodeId s)
    (hnode : (collNodes s c).getD rank 0 < 2 ^ 15) (hroute : routePort s .inject ((collNodes s c).getD rank 0) 0 = some port)
    (hdiffer : sha256 (dataBytes d) ≠ dataBytes h) (htries : a.tries < s.rows.obj.refetchLimit.toNat) :
    ∃ u, exec (.replicaHashCheck v idx rank) s = .next u ∧ SentKind port 5 s u ∧
      NotedAudit v c rank (fun a => { a with tries := a.tries + 1 }) u ∧
      u.rows.obj = { s.rows.obj with
        replicaMismatch := addSat s.rows.obj.replicaMismatch 1, replicaRefetch := addSat s.rows.obj.replicaRefetch 1 } ∧
      SameBut [.links, .rows] s u := by
  obtain ⟨t, hsend, hsent, hnoted, hrows, hsame, -⟩ := audit_tells hc hother hnode hroute (kind := 5) (by decide)
    (payload := clean (leBytes 4 (a.tries + 1))) (by simp [clean, leBytes]) (fun a => { a with tries := a.tries + 1 })
    { s.rows with obj := { s.rows.obj with
        replicaMismatch := addSat s.rows.obj.replicaMismatch 1, replicaRefetch := addSat s.rows.obj.replicaRefetch 1 } }
  refine ⟨t, ?_, hsent, hnoted, congrArg Rows.obj hrows, hsame⟩
  unfold withAudit at hsend
  show execReplicaHashCheck v idx rank s = _
  unfold execReplicaHashCheck
  simp only [hidx, ha, hd, hh, if_neg hdiffer, updRowObj, htries, if_true, go, hsend]

end

end Sys2Proof.Machine
end

section
/-!
SUPPORT. The running of a descriptor (R238, R328, R338, R341 to R343; the second part of O42).
-/
namespace Sys2Proof.Machine
open Host

theorem collectivesRun : Claims.CollectivesRun := by
  intro s v idx c k hidx hc hid hk hopcode hkstep hstep p node gone
  refine ⟨?_, ?_, ?_, ?_, ?_, ?_⟩
  · intro hstarted hrun hbc hstart hop hrests
    exact permute_starts hidx hc hid hk hkstep hstarted hrun hbc hstart hop hrests
  · intro _ hrun hop hdone hreplica hrests
    exact permute_completes hidx hc hid hk hopcode hkstep hstep hrun hop hdone hreplica hrests
  · intro a hstarted hwaits hlate hreplica
    exact collTimeout_ends hidx hid hk hopcode hkstep hstep hstarted hwaits hlate hreplica
  · intro e st port hrun hroom he hother hnode hroute
    exact permuteReceive_starts hidx hc hrun hroom he hother hnode hroute
  · intro e h he
    exact permuteStageCopy_begins hidx he
  · intro a d h rank ha hd hh port hother hnode hroute sent noted
    exact ⟨replicaHashCheck_reports hidx hc ha hd hh hother hnode hroute, replicaHashCheck_refetches hidx hc ha hd hh hother hnode hroute⟩

end Sys2Proof.Machine
end

section
/-!
SUPPORT. What an operation on memory moves: requests, the memories that they write, and what carries them. The clock, the dictionary with the
module's own node number, and the tables and row engines stay (R173, R273 to R299, R313).
-/
namespace Sys2Proof.Machine

/-- An operation on memory moves these parts at most. -/
def MovedByIo (s u : State) : Prop := SameBut [.free, .train, .host, .mem, .tile, .links, .hist, .out] s u

section
variable {s u w : State}

theorem MovedByIo.refl (s : State) : MovedByIo s s := sameBut_refl ..

theorem MovedByIo.trans (h : MovedByIo s u) (h' : MovedByIo u w) : MovedByIo s w := sameBut_trans h h'

theorem MovedByIo.dict (h : MovedByIo s u) : u.dict = s.dict := h.2 .dict (by decide)

theorem foldl_movedByIo {α : Type} (l : List α) (f : State → α → State) (h : ∀ s x, MovedByIo s (f s x)) (s : State) :
    MovedByIo s (l.foldl f s) := by
  induction l generalizing s with
  | nil => exact .refl s
  | cons x l ih => exact (h s x).trans (ih _)

theorem foldl_fst_movedByIo {α β : Type} (l : List α) (f : State × β → α → State × β) (h : ∀ a x, MovedByIo a.1 (f a x).1) (a : State × β) :
    MovedByIo a.1 (l.foldl f a).1 := by
  induction l generalizing a with
  | nil => exact .refl a.1
  | cons x l ih => exact (h a x).trans (ih _)

end

/-! ### The end of a request -/

theorem crossWeave_movedByIo (who tier a n : Nat) (write : Bool) (s : State) : MovedByIo s (crossWeave who tier a n write s) := by
  have hmesh (src dst : MeshPort) : MovedByIo s (countMesh src dst n s) :=
    foldl_movedByIo _ _ (fun s r => by split <;> exact sameBut_rfl) s
  unfold crossWeave
  split
  · exact .refl s
  · split
    · split <;> exact hmesh ..
    · exact .refl s

theorem sendPacket_movedByIo {set : PortSet} {p : Packet} {s u : State} (h : sendPacket set p s = some u) : MovedByIo s u :=
  sameBut_weaken (sendPacket_portsStay h).1 (by decide)

theorem sendOrDrop_movedByIo (p : Packet) (s : State) : MovedByIo s (sendOrDrop p s) := by
  unfold sendOrDrop
  split
  · exact sendPacket_movedByIo ‹_›
  · exact sameBut_rfl

theorem answerBar2_movedByIo (group parts : Nat) (s : State) : MovedByIo s (answerBar2 group parts s) := by
  unfold answerBar2
  extract_lets ps
  split
  · split <;> exact sameBut_rfl
  · exact .refl s

theorem forwardOn_movedByIo (key hub : Nat) (s : State) : MovedByIo s (forwardOn key hub s) := by
  unfold forwardOn
  extract_lets ps
  split
  · extract_lets s1 st
    split
    · split <;> exact sameBut_rfl
    · exact sameBut_rfl
  · exact .refl s

theorem runAct_movedByIo (r : MReq) (act : ReqAct) (st : Status) (d : Data) (s : State) : MovedByIo s (runAct r act st d s) := by
  have hforget : MovedByIo s (forgetReq r.id s) := sameBut_rfl
  cases act with
  | nobody => exact hforget
  | remote node flow tag => exact hforget.trans (sendOrDrop_movedByIo ..)
  | bar2 group parts => exact answerBar2_movedByIo ..
  | forward key => exact forwardOn_movedByIo ..
  | ahead => unfold runAct; dsimp only; split <;> exact sameBut_rfl
  | record => unfold runAct; dsimp only; split <;> exact sameBut_rfl

theorem endReq_movedByIo (id : Nat) (st : Status) (d : Data) (s : State) : MovedByIo s (endReq id st d s) := by
  unfold endReq
  split
  · exact .refl s
  · extract_lets s1 s2
    have h2 : MovedByIo s s2 := by
      subst s2
      split
      · exact MovedByIo.trans (u := s1) sameBut_rfl (crossWeave_movedByIo ..)
      · exact sameBut_rfl
    split
    · exact h2.trans (runAct_movedByIo ..)
    · exact h2

theorem orphanReq_movedByIo (act : ReqAct) (id : Nat) (s : State) : MovedByIo s (orphanReq act id s) := by
  unfold orphanReq
  split
  · exact .refl s
  · split
    · exact runAct_movedByIo ..
    · exact sameBut_rfl

/-! ### A request that is posted -/

theorem takeEntry_movedByIo (e : ChanEntry) (s : State) : MovedByIo s (takeEntry e s) := by
  have hread : MovedByIo s (readStack e.pa e.len s).1 := by unfold readStack; dsimp only; split <;> exact sameBut_rfl
  unfold takeEntry
  extract_lets mark
  split
  · exact MovedByIo.trans (by exact sameBut_rfl) (endReq_movedByIo ..)
  · exact hread.trans sameBut_rfl

theorem postStack_movedByIo (id a n : Nat) (write : Bool) (d : Data) (s : State) : MovedByIo s (postStack id a n write d s) := by
  unfold postStack takeNext
  extract_lets part e
  split
  · exact MovedByIo.trans (u := updStacks (fun x => { x with queue := x.queue ++ [e] }) s) sameBut_rfl (takeEntry_movedByIo ..)
  · exact sameBut_rfl

theorem sendRemote_movedByIo (u : Fin 4) (r : MReq) (s : State) : MovedByIo s (sendRemote u r s) := by
  -- `mkPacket` stays folded: the kernel would evaluate the packet's header.
  obtain ⟨f, hf⟩ : ∃ f, f = sendRemote := ⟨_, rfl⟩
  obtain ⟨mk, hmk⟩ : ∃ mk, mk = mkPacket := ⟨_, rfl⟩
  rw [← hf]
  delta sendRemote at hf
  rw [← hmk] at hf
  subst hf
  dsimp only
  split
  · exact endReq_movedByIo ..
  · exact MovedByIo.trans (sendPacket_movedByIo ‹_›) sameBut_rfl

theorem pumpRemote_movedByIo (u : Fin 4) (s : State) : MovedByIo s (pumpRemote u s) := by
  refine MovedByIo.trans (by exact sameBut_rfl) (foldl_movedByIo _ _ (fun s id => ?_) _)
  split
  · exact sendRemote_movedByIo ..
  · exact .refl s

theorem placeWrite_movedByIo (a : Nat) (d : Data) (s : State) : MovedByIo s (placeWrite a d s) := by
  unfold placeWrite
  split <;> exact sameBut_rfl

theorem noteOwn_movedByIo (who a n : Nat) (s : State) : MovedByIo s (noteOwn who a n s) := by
  unfold noteOwn
  split
  · split <;> exact sameBut_rfl
  · exact .refl s

theorem postReq_movedByIo (c : AccClass) (who : Nat) (write : Bool) (e : XEntry) (n : Nat) (d : Data) (s : State) :
    MovedByIo s (postReq c who write e n d s).1 := by
  unfold postReq postFor
  extract_lets f id r _ _ s1 fails s2
  have h1 : MovedByIo s s1 := sameBut_rfl
  clear_value fails
  cases fails with
  | some st => exact h1.trans (endReq_movedByIo ..)
  | none =>
    have h2 : MovedByIo s s2 := by
      dsimp only [s2]
      split
      · exact h1.trans (crossWeave_movedByIo ..)
      · exact h1
    clear_value s2
    dsimp only
    split
    · split
      · exact ((h2.trans (placeWrite_movedByIo ..)).trans (noteOwn_movedByIo ..)).trans (endReq_movedByIo ..)
      · exact h2.trans (endReq_movedByIo ..)
    · exact h2.trans (postStack_movedByIo ..)
    · exact h2.trans sameBut_rfl
    · exact MovedByIo.trans (h2.trans sameBut_rfl) (pumpRemote_movedByIo ..)

/-! ### An operation -/

theorem xlateTry_movedByIo (who key dva : Nat) (s : State) : MovedByIo s (xlateTry who key dva s).1 := by
  unfold xlateTry
  extract_lets q page w
  split
  · exact sameBut_rfl
  · split
    · exact sameBut_rfl
    · split
      · exact sameBut_rfl
      · split <;> exact sameBut_rfl

theorem ioPiece_movedByIo (c : AccClass) (who key : Nat) (op : IoOp) (a n : Nat) (d : Data) (s : State) :
    MovedByIo s (ioPiece c who key op a n d s).1 := by
  have hx := xlateTry_movedByIo who key a s
  have hhold (p : State × Nat) : MovedByIo p.1 (ioHold who key op.write a n p).1 := sameBut_rfl
  have hfailed (st : Status) : MovedByIo s (postFailed who st (xlateTry who key a s).1).1 := hx.trans sameBut_rfl
  unfold ioPiece
  split
  · exact .refl s
  · extract_lets x hold
    split
    · exact hx
    · exact (hfailed _).trans (hhold _)
    · split
      · exact (hfailed _).trans (hhold _)
      · split
        · exact (hfailed _).trans (hhold _)
        · exact (hx.trans (postReq_movedByIo ..)).trans (hhold _)

theorem ioAccess_movedByIo (c : AccClass) (who key : Nat) (op : IoOp) (s : State) : MovedByIo s (ioAccess c who key op s).1 := by
  unfold ioAccess
  extract_lets ps r
  refine foldl_fst_movedByIo _ _ (fun a p => ?_) (s, IoRes.done [])
  exact ioPiece_movedByIo ..

/-- An operation on memory moves requests, memories and what carries them. -/
theorem ioMany_movedByIo (c : AccClass) (who key : Nat) (ops : List IoOp) (s : State) : MovedByIo s (ioMany c who key ops s).1 := by
  unfold ioMany
  extract_lets r
  have hr : MovedByIo s r.1 := by
    refine foldl_fst_movedByIo _ _ (fun a op => ?_) (s, IoRes.done [])
    exact ioAccess_movedByIo ..
  clear_value r
  split
  · exact hr
  · obtain ⟨m, hm⟩ := ioForget_eq who key r.1
    rw [hm]
    exact hr.trans sameBut_rfl

end Sys2Proof.Machine
end

section
/-!
SUPPORT. Data of a descriptor leave for a rank (R308, R313, R341; O42).
-/
namespace Sys2Proof.Machine
open Host

/-! ### The pieces of an access -/

theorem granules_le (k a n : Nat) : ∀ x ∈ granules k a n, x.2 ≤ 2048 := by
  induction k generalizing a n with
  | zero => intro x hx; cases hx
  | succ k ih =>
    intro x hx
    unfold granules at hx
    split at hx
    · cases hx
    · rcases List.mem_cons.mp hx with rfl | hx
      · exact (Nat.min_le_right ..).trans (Nat.sub_le ..)
      · exact ih _ _ x hx

theorem pieces_le {a n : Nat} : ∀ x ∈ pieces a n, x.2 ≤ 2048 := granules_le _ _ _

theorem length_dslice (d : Data) (off n : Nat) : (dslice d off n).length = n := by
  unfold dslice
  extract_lets part
  have : part.length ≤ n := List.length_take_le ..
  simp only [List.length_append, List.length_replicate]
  omega

/-! ### Packets that have left -/

/-- `n` packets have joined those of port `port`; the units, the groups, the routes and what the ports are stay. -/
structure Sent (port : Fin 16) (n : Nat) (s t : State) : Prop where
  same : SameBut [.links] s t
  units : t.links.units = s.links.units
  groups : t.links.groups = s.links.groups
  routes : t.links.routes = s.links.routes
  states : ∀ p, (getPort t p).state = (getPort s p).state
  queued : (getPort t port).txq.length = (getPort s port).txq.length + n

section
variable {s t u : State} {port : Fin 16} {n m : Nat}

theorem Sent.refl (port : Fin 16) (s : State) : Sent port 0 s s := ⟨sameBut_refl .., rfl, rfl, rfl, fun _ => rfl, rfl⟩

theorem Sent.trans (h : Sent port n s t) (h' : Sent port m t u) : Sent port (n + m) s u :=
  ⟨sameBut_trans h.same h'.same, h'.units.trans h.units, h'.groups.trans h.groups, h'.routes.trans h.routes,
    fun p => (h'.states p).trans (h.states p), by rw [h'.queued, h.queued]; omega⟩

theorem sent_collCount (port : Fin 16) (f : CollCounters → CollCounters) (s : State) : Sent port 0 s (collCount f s) :=
  ⟨sameBut_rfl, rfl, rfl, rfl, fun _ => rfl, rfl⟩

theorem sent_queueAt (port : Fin 16) (pk : Packet) (s : State) : Sent port 1 s (queueAt port .inject pk s) := by
  refine ⟨sameBut_rfl, rfl, rfl, rfl, fun p => ?_, ?_⟩
  · rw [queueAt, getPort_updPort]
    split <;> rfl
  · rw [getPort_queueAt, List.length_append]
    rfl

theorem nodeId_of_dict (h : t.dict = s.dict) : nodeId t = nodeId s := by rw [nodeId, h, nodeId]

/-- A route depends on the routing tables, the node's own number and the states of the ports (R313). -/
theorem routePort_of_same (hdict : t.dict = s.dict) (hroutes : t.links.routes = s.links.routes)
    (hstates : ∀ p, (getPort t p).state = (getPort s p).state) (set : PortSet) (d flow : Nat) : routePort t set d flow = routePort s set d flow := by
  have hactive : activePorts t = activePorts s := by
    have hp (p : Fin 16) : t.links.ports[p].state = s.links.ports[p].state := hstates p
    simp only [activePorts, hp]
  have hentry : routeEntry t set d = routeEntry s set d := by simp only [routeEntry, hroutes, nodeId_of_dict hdict]
  simp only [routePort, hactive, hentry]

theorem Sent.nodeId (h : Sent port n s t) : nodeId t = Machine.nodeId s := nodeId_of_dict (h.same.2 .dict (by decide))

theorem Sent.routePort (h : Sent port n s t) (set : PortSet) (d flow : Nat) : routePort t set d flow = Machine.routePort s set d flow :=
  routePort_of_same (h.same.2 .dict (by decide)) h.routes h.states set d flow

theorem Sent.findColl (h : Sent port n s t) (v : Fin 4) (cmd : Nat) : findColl t v cmd = Machine.findColl s v cmd := by
  simp only [Machine.findColl, h.units]

end

/-! ### The data of a stream -/

/-- The header of a COLL_DATA packet of a descriptor to a node (R308, R327). -/
def dataSpec (c : Coll) (node off : Nat) (first : Bool) (x : Nat × Nat) : HdrSpec :=
  { type := 1, vc := 0, dst := node, flow := x.1 / 2048, addr := x.1, group := c.group.toNat, seq := c.seq.toNat,
    aux := if first ∧ x.1 = off then collDigest c.slot.pay else 0 }

/-- One packet of a descriptor's data leaves and is counted, unless one before it could not. -/
def sendPiece (v : Fin 4) (c : Coll) (node off : Nat) (first : Bool) (d : Data) (acc : State × Bool) (x : Nat × Nat) : State × Bool :=
  if !acc.2 then acc
  else
    let k := mkPacket acc.1 (dataSpec c node off first x) (dslice d (x.1 - off) x.2)
    let r := injected k acc.1
    if r.2 then (collCount (fun n => { n with txBytes := bump n.txBytes v (64 * k.pay.length) }) r.1, true) else (acc.1, false)

theorem sendData_eq (v : Fin 4) (c : Coll) (rank off : Nat) (first : Bool) (d : Data) (s : State) :
    sendData v c rank off first d s =
      (pieces off d.length).foldl (sendPiece v c ((collNodes s c).getD rank 0) off first d) (s, true) := by
  -- `mkPacket` stays folded: the kernel would evaluate the packet's header.
  obtain ⟨f, hf⟩ : ∃ f, f = sendData := ⟨_, rfl⟩
  obtain ⟨g, hg⟩ : ∃ g, g = sendPiece := ⟨_, rfl⟩
  obtain ⟨mk, hmk⟩ : ∃ mk, mk = mkPacket := ⟨_, rfl⟩
  rw [← hf, ← hg]
  delta sendData at hf
  delta sendPiece at hg
  rw [← hmk] at hf hg
  subst hf hg
  dsimp only
  congr 1
  funext acc x
  unfold injected dataSpec
  generalize sendPacket .inject _ acc.1 = sent
  cases sent <;> rfl

section
variable {s : State} {v : Fin 4} {c : Coll} {port : Fin 16} {node : Nat}

/-- A packet of a descriptor's data to another node joins those of its route's port. -/
theorem sendPiece_sent (hother : node ≠ nodeId s) (hnode : node < 2 ^ 15) (hroute : ∀ f, routePort s .inject node f = some port)
    (off : Nat) (first : Bool) (d : Data) {x : Nat × Nat} (hx : x.2 ≤ 2048) :
    ∃ t, sendPiece v c node off first d (s, true) x = (t, true) ∧ Sent port 1 s t := by
  unfold sendPiece
  extract_lets k r
  have hk : pkDst k = node ∧ pkFlow k = (x.1 / 2048) % 256 := mkPacket_route s (h := dataSpec c node off first x) (by decide : 1 < 2 ^ 4)
    (by decide : 0 < 2 ^ 2) hnode (by rw [length_dslice]; exact hx)
  have hr : r = (queueAt port .inject k s, true) := injected_queues hk.1 hk.2 hother (hroute _)
  clear_value k r
  subst hr
  exact ⟨_, rfl, (sent_queueAt port k s).trans (sent_collCount ..)⟩

theorem foldl_sendPiece_sent (hother : node ≠ nodeId s) (hnode : node < 2 ^ 15) (hroute : ∀ f, routePort s .inject node f = some port)
    (off : Nat) (first : Bool) (d : Data) {l : List (Nat × Nat)} (hl : ∀ x ∈ l, x.2 ≤ 2048) :
    ∃ t, l.foldl (sendPiece v c node off first d) (s, true) = (t, true) ∧ Sent port l.length s t := by
  induction l generalizing s with
  | nil => exact ⟨s, rfl, Sent.refl port s⟩
  | cons x l ih =>
    obtain ⟨t, ht, hsent⟩ := sendPiece_sent (v := v) (c := c) hother hnode hroute off first d (hl x (by simp))
    obtain ⟨u, hu, hmore⟩ := ih (s := t) (by rwa [hsent.nodeId]) (fun f => (hsent.routePort ..).trans (hroute f)) fun y hy => hl y (by simp [hy])
    refine ⟨u, ?_, ?_⟩
    · rw [List.foldl_cons, ht, hu]
    · rw [List.length_cons, Nat.add_comm]
      exact hsent.trans hmore

/-- Data of a descriptor to another node join the packets of its route's port, one for each piece (R308, R327). -/
theorem sendData_sent {rank : Nat} (hother : (collNodes s c).getD rank 0 ≠ nodeId s) (hnode : (collNodes s c).getD rank 0 < 2 ^ 15)
    (hroute : ∀ f, routePort s .inject ((collNodes s c).getD rank 0) f = some port) (off : Nat) (first : Bool) (d : Data) :
    ∃ t, sendData v c rank off first d s = (t, true) ∧ Sent port (pieces off d.length).length s t := by
  rw [sendData_eq]
  exact foldl_sendPiece_sent hother hnode hroute off first d pieces_le

end

end Sys2Proof.Machine
end

section
/-!
SUPPORT. A PERMUTE goes on with one entry of its plan (R341; O42).
-/
namespace Sys2Proof.Machine
open Host

/-! ### One entry of a plan -/

/-- What tells an entry from the others of a plan. -/
def sameEntry (e x : PlanEntry) : Bool := x.recv == e.recv && x.peer == e.peer && x.shard == e.shard

/-- Entry `e` stands in a plan between those of `l1` and those of `l2`, and is the only one of its kind there. -/
structure OnlyEntry (e : PlanEntry) (l1 l2 plan : List PlanEntry) : Prop where
  plan_eq : plan = l1 ++ e :: l2
  others : ∀ x ∈ l1 ++ l2, sameEntry e x = false

section
variable {e : PlanEntry} {l1 l2 plan : List PlanEntry}

theorem sameEntry_self (e : PlanEntry) : sameEntry e e = true := by simp [sameEntry]

theorem onlyEntry_of_filter (h : plan.filter (sameEntry e) = [e]) : ∃ l1 l2, OnlyEntry e l1 l2 plan := by
  obtain ⟨l1, l2, hplan, hl1, -, hl2⟩ := List.filter_eq_cons_iff.mp h
  refine ⟨l1, l2, hplan, fun x hx => ?_⟩
  rcases List.mem_append.mp hx with hx | hx
  · simpa using hl1 x hx
  · simpa using List.filter_eq_nil_iff.mp hl2 x hx

theorem OnlyEntry.ne (h : OnlyEntry e l1 l2 plan) {x : PlanEntry} (hx : x ∈ l1 ++ l2) : x ≠ e := by
  rintro rfl
  simpa [sameEntry_self] using h.others x hx

theorem OnlyEntry.mem (h : OnlyEntry e l1 l2 plan) {x : PlanEntry} (hx : x ∈ l1 ++ l2) : x ∈ plan := by
  rw [h.plan_eq]
  rcases List.mem_append.mp hx with hx | hx
  · exact List.mem_append_left _ hx
  · exact List.mem_append_right _ (List.mem_cons_of_mem _ hx)

theorem map_of_fixed {f : PlanEntry → PlanEntry} (he : ∀ x ∈ l1 ++ l2, f x = x) : (l1 ++ e :: l2).map f = l1 ++ f e :: l2 := by
  have h1 : l1.map f = l1 := (List.map_congr_left fun x hx => he x (List.mem_append_left _ hx)).trans (List.map_id _)
  have h2 : l2.map f = l2 := (List.map_congr_left fun x hx => he x (List.mem_append_right _ hx)).trans (List.map_id _)
  rw [List.map_append, List.map_cons, h1, h2]

/-- A change of the entries of its kind changes the one entry. -/
theorem OnlyEntry.mapIf (h : OnlyEntry e l1 l2 plan) (f : PlanEntry → PlanEntry) : mapIf (sameEntry e) f plan = l1 ++ f e :: l2 := by
  rw [h.plan_eq]
  refine (map_of_fixed fun x hx => if_neg (by simp [h.others x hx])).trans ?_
  rw [if_pos (sameEntry_self e)]

theorem OnlyEntry.map (h : OnlyEntry e l1 l2 plan) (f : PlanEntry → PlanEntry) :
    (plan.map fun x => if x = e then f x else x) = l1 ++ f e :: l2 := by
  rw [h.plan_eq]
  refine (map_of_fixed fun x hx => if_neg (h.ne hx)).trans ?_
  rw [if_pos rfl]

theorem OnlyEntry.find (h : OnlyEntry e l1 l2 plan) : plan.find? (sameEntry e) = some e := by
  rw [h.plan_eq, List.find?_append, List.find?_eq_none.mpr fun x hx => by simp [h.others x (List.mem_append_left _ hx)]]
  simp [sameEntry_self]

end

/-! ### A PERMUTE goes on -/

/-- Nothing of an entry is under way: no PULL is to be served, and it is not copied out of the staging buffer. -/
def EntryRests (x : PlanEntry) : Prop := x.asked = false ∧ ∀ h d, x.state ≠ .copying h d

section
variable {s t u : State} {v : Fin 4} {cmd idx : Nat} {c c' : Coll} {e : PlanEntry} {l1 l2 : List PlanEntry}

theorem planNow_of (h : findColl s v cmd = some c) : planNow s v cmd = c.plan := by rw [planNow, h]; rfl

/-- Among entries that rest, the copies of a plan are those of one entry (R341). -/
theorem foldl_copyShard_one (h : ∀ x ∈ l1 ++ l2, EntryRests x) :
    (l1 ++ e :: l2).foldl (copyShard v cmd) s = copyShard v cmd s e := by
  rw [List.foldl_append, List.foldl_cons,
    foldl_copyShard_of_notCopying fun x hx => (h x (List.mem_append_left _ hx)).2,
    foldl_copyShard_of_notCopying fun x hx => (h x (List.mem_append_right _ hx)).2]

/-- Of a plan whose other entries rest, one entry may be asked for. -/
theorem filter_asked (h : ∀ x ∈ l1 ++ l2, EntryRests x) : (l1 ++ e :: l2).filter (fun x => x.asked) = if e.asked then [e] else [] := by
  have h1 : l1.filter (fun x => x.asked) = [] := List.filter_eq_nil_iff.mpr fun x hx => by simp [(h x (List.mem_append_left _ hx)).1]
  have h2 : l2.filter (fun x => x.asked) = [] := List.filter_eq_nil_iff.mpr fun x hx => by simp [(h x (List.mem_append_right _ hx)).1]
  rw [List.filter_append, List.filter_cons, h1, h2]
  rfl

/-- A running PERMUTE without refetches and audits goes on with its plan alone (R341). -/
theorem permute_goesOn (hidx : (s.links.units[v]).queue[idx]? = some c) (hc : findColl s v c.cmd = some c) (hstarted : c.started = true)
    (hrun : c.running = true) (hop : kOp c.slot.pay = 4) (hplan : planProgress v c.cmd s = u) (hu : findColl u v c.cmd = some c')
    (hrefetches : c'.refetches = []) (haudits : c'.audits = []) : exec (.collDescriptorStart v idx) s = .next u := by
  have hprogress : collProgress v c.cmd s = s := by simp [collProgress, hc, hop]
  have hclose : closeAudit v c.cmd u = u := by simp [closeAudit, hu, haudits]
  have hwork : collWork v c.cmd s = u := by
    unfold collWork
    simp only [hc, hstarted, hrun, Bool.not_true, Bool.false_eq_true, if_false, if_true, hprogress, hplan, hu, Option.map_some, Option.getD_some,
      hrefetches, List.foldl_nil, hclose]
  show execCollDescriptorStart v idx s = _
  simp only [execCollDescriptorStart, hidx, hstarted, if_true, hwork, go]

/-- The progress of a plan, stage after stage. -/
theorem planProgress_eq {s1 s2 s3 : State} (hc : findColl s v cmd = some c) (hwrites : c.writes.foldl (writeShard v cmd) s = s1)
    (hpulls : ((planNow s1 v cmd).filter fun e => e.asked).foldl (servePull v cmd) s1 = s2)
    (hread : (planNow s2 v cmd).foldl (copyShard v cmd) s2 = s3) :
    planProgress v cmd s = (planNow s3 v cmd).foldl (copyShard v cmd) s3 := by
  unfold planProgress
  simp only [hc, Option.map_some, Option.getD_some, hwrites, hpulls, hread]

end

end Sys2Proof.Machine
end

section
/-!
SUPPORT. What a PERMUTE does with one entry that is under way: a shard is sent, data are written, a staged shard is copied (R341; O42).
-/
namespace Sys2Proof.Machine
open Host

section
variable {s t u : State} {v : Fin 4} {cmd : Nat} {c : Coll} {e : PlanEntry} {l1 l2 : List PlanEntry} {d : Data}

/-- An entry whose kind is its own in its plan has changed. -/
theorem findColl_updEntry (hc : findColl s v cmd = some c) (honly : OnlyEntry e l1 l2 c.plan) {recv : Bool} (hrecv : e.recv = recv)
    (f : PlanEntry → PlanEntry) : findColl (updPlan v cmd recv e.peer e.shard f s) v cmd = some { c with plan := l1 ++ f e :: l2 } := by
  subst hrecv
  rw [findColl_updPlan hc]
  exact congrArg (fun plan => some { c with plan := plan }) (honly.mapIf f)

/-! ### A shard that a PULL asked for -/

/-- An entry whose PULL is served. -/
def unasked (e : PlanEntry) : PlanEntry := { e with asked := false }

/-- A descriptor notes poison of what it has read. -/
def sourceRead (d : Data) (c : Coll) : Coll := { c with poison := c.poison.orElse fun _ => sourcePoison c d }

/-- A shard has been read for a PULL. -/
def pullRead (v : Fin 4) (cmd : Nat) (e : PlanEntry) (d : Data) (s : State) : State :=
  updPlan v cmd false e.peer e.shard unasked (updColl v cmd (sourceRead d) s)

theorem servePull_sends (hc : findColl s v cmd = some c)
    (hread : ioMany .own (whoUnit v) (shardKey c 4 (shardNum false e.peer e.shard)) [(ioRead e.dva e.bytes).own] s = (t, .done [d]))
    (hsend : sendData v c e.peer (e.shard * 2 ^ 32) true d (pullRead v cmd e d t) = (u, true)) : servePull v cmd s e = u := by
  unfold servePull
  unfold pullRead at hsend
  simp only [hc, hread, List.flatten_singleton]
  have hsend' : sendData v c e.peer (e.shard * 2 ^ 32) true d (updPlan v cmd false e.peer e.shard (fun e => { e with asked := false })
      (updColl v cmd (fun c => { c with poison := c.poison.orElse fun _ => sourcePoison c d }) t)) = (u, true) := hsend
  rw [hsend', if_pos rfl]

/-! ### Data of a shard -/

/-- A descriptor has written data of a shard. -/
def wroteData (x : ShardWrite) (c : Coll) : Coll :=
  { c with
    writes := dropFirst (fun y => y == x) c.writes, poison := c.poison.orElse fun _ => if poisoned x.data then some .dataPoison else none }

/-- An entry of which `n` bytes more have been written: it is whole if that makes up what `e` lacks. -/
def gotMore (e : PlanEntry) (n : Nat) (y : PlanEntry) : PlanEntry :=
  { y with got := y.got + n, state := if e.got + n ≥ e.bytes then recvWhole y.state else y.state }

/-- A shard that is being received is not copied next, whole or not. -/
theorem gotMore_notCopying {p : BitVec 1536} {base : Nat} (hat : recvAt p e = some base) (n : Nat) (h : Fin 2) (d : Option Data) :
    (gotMore e n e).state ≠ .copying h d := by
  unfold recvAt at hat
  unfold gotMore
  dsimp only
  cases hstate : e.state <;> simp_all [recvWhole] <;> split <;> simp

/-- What `shardWritten` notes of a shard of which data have been written. -/
def shardNoted (v : Fin 4) (c : Coll) (e : PlanEntry) (x : ShardWrite) (s : State) : State :=
  updPlan v c.cmd true x.peer x.shard (gotMore e x.data.length) (updColl v c.cmd (wroteData x) s)

/-- A shard that is whole is acknowledged (R341). -/
theorem shardWritten_whole {x : ShardWrite} (hwhole : e.got + x.data.length ≥ e.bytes)
    (hsend : sendCtrl c 2 x.peer 0 x.shard [] (shardNoted v c e x s) = (t, true)) : shardWritten v c e x s = t := by
  unfold shardWritten
  unfold shardNoted wroteData gotMore at hsend
  simp only [hwhole, if_true] at hsend ⊢
  rw [hsend, if_pos rfl]

theorem shardWritten_part {x : ShardWrite} (hpart : ¬ e.got + x.data.length ≥ e.bytes) : shardWritten v c e x s = shardNoted v c e x s := if_neg hpart

/-- A shard of which data have been written is acknowledged to another node once it is whole (R341). -/
theorem shardWritten_sent {x : ShardWrite} {port : Fin 16} (hother : (collNodes s c).getD x.peer 0 ≠ nodeId s)
    (hnode : (collNodes s c).getD x.peer 0 < 2 ^ 15) (hroute : routePort s .inject ((collNodes s c).getD x.peer 0) 0 = some port) :
    ∃ u, shardWritten v c e x s = u ∧ Sent port (if e.got + x.data.length ≥ e.bytes then 1 else 0) (shardNoted v c e x s) u := by
  by_cases hwhole : e.got + x.data.length ≥ e.bytes
  · obtain ⟨pk, hsend, -⟩ := sendCtrl_queues (s := shardNoted v c e x s) (c := c) (payload := []) hother hnode hroute (by decide : 2 < 2 ^ 8)
      (by decide : 0 < 2 ^ 8) (by decide) x.shard
    rw [if_pos hwhole]
    exact ⟨_, shardWritten_whole hwhole hsend, sent_queueAt ..⟩
  · rw [if_neg hwhole]
    exact ⟨_, shardWritten_part hwhole, Sent.refl ..⟩

theorem writeShard_writes {x : ShardWrite} {base : Nat} (hc : findColl s v cmd = some c) (he : recvEntry c x.peer x.shard = some e)
    (hat : recvAt c.slot.pay e = some base)
    (hwrite : ioMany .own (whoUnit v) (shardKey c 5 (shardNum true x.peer x.shard + 2 ^ 40 * x.off)) [(ioWrite (base + x.off) x.data).own] s =
      (t, .done [[]])) : writeShard v cmd s x = shardWritten v c e x t := by
  unfold writeShard
  simp only [hc, he, hat, hwrite]

/-! ### A staged shard -/

theorem copyShard_reads {h : Fin 2} (hc : findColl s v cmd = some c) (hstate : e.state = .copying h none)
    (hread : ioMany .own (whoUnit v) (shardKey c 6 (shardNum true e.peer e.shard)) [(ioRead (stagingHalf c.slot.pay h.val).1 e.bytes).own] s =
      (t, .done [d])) :
    copyShard v cmd s e = updPlan v cmd true e.peer e.shard (fun e => { e with state := .copying h (some d) }) t := by
  unfold copyShard
  simp only [hc, hstate, hread, List.flatten_singleton]

theorem copyShard_writes {h : Fin 2} {ds : List Data} (hc : findColl s v cmd = some c) (hstate : e.state = .copying h (some d))
    (hwrite : ioMany .own (whoUnit v) (shardKey c 7 (shardNum true e.peer e.shard)) [(ioWrite e.dva d).own] s = (t, .done ds)) :
    copyShard v cmd s e = updPlan v cmd true e.peer e.shard (fun e => { e with state := .done }) t := by
  unfold copyShard
  simp only [hc, hstate, hwrite]

theorem copyShard_waits {h : Fin 2} (hc : findColl s v cmd = some c) (hstate : e.state = .copying h (some d))
    (hwrite : ioMany .own (whoUnit v) (shardKey c 7 (shardNum true e.peer e.shard)) [(ioWrite e.dva d).own] s = (t, .wait)) :
    copyShard v cmd s e = t := by
  unfold copyShard
  simp only [hc, hstate, hwrite]

end

end Sys2Proof.Machine
end

section
/-!
SUPPORT. The four ways in which a running PERMUTE goes on with an entry (R341; the third part of O42).
-/
namespace Sys2Proof.Machine
open Host

section
variable {s s2 : State} {v : Fin 4} {idx : Nat} {c : Coll} {e : PlanEntry} {port : Fin 16} {l1 l2 : List PlanEntry}
  (hidx : (s.links.units[v]).queue[idx]? = some c) (hc : findColl s v c.cmd = some c) (hstarted : c.started = true)
  (hrun : c.running = true) (hop : kOp c.slot.pay = 4) (hrefetches : c.refetches = []) (haudits : c.audits = []) (hlinks : s2.links = s.links)
  (honly : OnlyEntry e l1 l2 c.plan) (hrests : ∀ x ∈ l1 ++ l2, EntryRests x)

/-- An access that leaves the links as they are leaves the routes (R313). -/
theorem routePort_of_access {cl : AccClass} {who key : Nat} {ops : List IoOp} {r : IoRes} (hacc : ioMany cl who key ops s = (s2, r))
    (hlinks : s2.links = s.links) (d f : Nat) : nodeId s2 = nodeId s ∧ routePort s2 .inject d f = routePort s .inject d f := by
  have hmoved := ioMany_movedByIo cl who key ops s
  rw [hacc] at hmoved
  have hdict : s2.dict = s.dict := hmoved.dict
  exact ⟨nodeId_of_dict hdict, routePort_of_same hdict (by rw [hlinks]) (fun p => by simp only [getPort, hlinks]) ..⟩

/-- With its other entries at rest, a plan in which nothing is under way stays as it is. -/
theorem copies_rest {f : PlanEntry} {plan : List PlanEntry} (hplan : plan = l1 ++ f :: l2) (hrests : ∀ x ∈ l1 ++ l2, EntryRests x)
    (hf : ∀ h d, f.state ≠ .copying h d) (t : State) : plan.foldl (copyShard v c.cmd) t = t := by
  rw [hplan, foldl_copyShard_one hrests, copyShard_of_notCopying hf]

/-- With its other entries at rest and no PULL to be served, a plan sends nothing. -/
theorem pulls_rest {f : PlanEntry} (hnow : planNow s v c.cmd = l1 ++ f :: l2) (hrests : ∀ x ∈ l1 ++ l2, EntryRests x) (hf : f.asked = false) :
    ((planNow s v c.cmd).filter fun e => e.asked).foldl (servePull v c.cmd) s = s := by
  rw [hnow, filter_asked hrests, if_neg (by simp [hf])]
  rfl

include hidx hc hstarted hrun hop hrefetches haudits hlinks honly hrests

/-- A shard that a PULL asked for leaves once it has been read. -/
theorem permute_sends {d : Data} (hother : (collNodes s c).getD e.peer 0 ≠ nodeId s) (hnode : (collNodes s c).getD e.peer 0 < 2 ^ 15)
    (hroute : ∀ f, routePort s .inject ((collNodes s c).getD e.peer 0) f = some port) (hwrites : c.writes = []) (hrecv : e.recv = false)
    (hasked : e.asked = true) (hstate : ∀ h d, e.state ≠ .copying h d)
    (hread : ioMany .own (whoUnit v) (shardKey c 4 (shardNum false e.peer e.shard)) [(ioRead e.dva e.bytes).own] s = (s2, .done [d])) :
    ∃ u, exec (.collDescriptorStart v idx) s = .next u ∧
      (getPort u port).txq.length = (getPort s port).txq.length + (pieces (e.shard * 2 ^ 32) d.length).length ∧
      (findColl u v c.cmd).map (fun c => c.plan) = some (c.plan.map fun x => if x = e then unasked x else x) ∧ u.mem = s2.mem ∧
      SameBut [.links] s2 u := by
  have hroute2 (f : Nat) := routePort_of_access hread hlinks ((collNodes s c).getD e.peer 0) f
  have hnodes : collNodes s2 c = collNodes s c := collNodes_of_groups (by rw [hlinks]) c
  have hc2 : findColl s2 v c.cmd = some c := (findColl_of_links hlinks ..).trans hc
  obtain ⟨u, hsend, hsent⟩ := sendData_sent (s := pullRead v c.cmd e d s2) (v := v) (c := c) (port := port) (rank := e.peer)
    (by rw [← hnodes, ← (hroute2 0).1] at hother; exact hother) (by rw [← hnodes] at hnode; exact hnode)
    (fun f => by
      have h := (hroute2 f).2.trans (hroute f)
      rw [← hnodes] at h
      exact h)
    (e.shard * 2 ^ 32) true d
  have hu : findColl u v c.cmd = some { sourceRead d c with plan := l1 ++ unasked e :: l2 } :=
    (hsent.findColl v c.cmd).trans
      (findColl_updEntry (c := sourceRead d c) (findColl_updColl (f := sourceRead d) hc2 fun _ => rfl) honly hrecv unasked)
  have hpulls : ((planNow s v c.cmd).filter fun e => e.asked).foldl (servePull v c.cmd) s = u := by
    rw [planNow_of hc, honly.plan_eq, filter_asked hrests, if_pos hasked]
    exact servePull_sends hc hread hsend
  have hcopies (t : State) : (planNow u v c.cmd).foldl (copyShard v c.cmd) t = t :=
    copies_rest ((planNow_of hu).trans rfl) hrests (f := unasked e) hstate t
  have hplan : planProgress v c.cmd s = u :=
    (planProgress_eq hc (by rw [hwrites]; rfl) hpulls (hcopies u)).trans (hcopies u)
  refine ⟨u, permute_goesOn hidx hc hstarted hrun hop hplan hu hrefetches haudits, ?_, ?_, ?_, ?_⟩
  · rw [hsent.queued]
    show s2.links.ports[port].txq.length + _ = _
    rw [hlinks]
    rfl
  · rw [hu, honly.map]
    rfl
  · exact hsent.same.2 .mem (by decide)
  · exact sameBut_trans (u := pullRead v c.cmd e d s2) sameBut_rfl hsent.same

/-- Data of a shard are written where its entry says, and a shard that is whole is acknowledged. -/
theorem permute_writes {x : ShardWrite} {base : Nat} (hother : (collNodes s c).getD e.peer 0 ≠ nodeId s)
    (hnode : (collNodes s c).getD e.peer 0 < 2 ^ 15) (hroute : ∀ f, routePort s .inject ((collNodes s c).getD e.peer 0) f = some port)
    (hwrites : c.writes = [x]) (hpeer : x.peer = e.peer) (hshard : x.shard = e.shard) (hrecv : e.recv = true) (hasked : e.asked = false)
    (hat : recvAt c.slot.pay e = some base)
    (hwrite : ioMany .own (whoUnit v) (shardKey c 5 (shardNum true x.peer x.shard + 2 ^ 40 * x.off)) [(ioWrite (base + x.off) x.data).own] s =
      (s2, .done [[]])) :
    ∃ u, exec (.collDescriptorStart v idx) s = .next u ∧
      (getPort u port).txq.length = (getPort s port).txq.length + (if e.got + x.data.length ≥ e.bytes then 1 else 0) ∧ u.mem = s2.mem ∧
      (findColl u v c.cmd).map (fun c => (c.writes, c.plan)) =
        some ([], c.plan.map fun y => if y = e then gotMore e x.data.length y else y) ∧ SameBut [.links] s2 u := by
  have hroute2 := routePort_of_access hwrite hlinks ((collNodes s c).getD e.peer 0) 0
  have hnodes : collNodes s2 c = collNodes s c := collNodes_of_groups (by rw [hlinks]) c
  have hc2 : findColl s2 v c.cmd = some c := (findColl_of_links hlinks ..).trans hc
  obtain ⟨u, hwritten, hsent⟩ := shardWritten_sent (s := s2) (v := v) (c := c) (e := e) (x := x) (port := port)
    (by rw [hnodes, hpeer, hroute2.1]; exact hother) (by rw [hnodes, hpeer]; exact hnode)
    (by rw [hnodes, hpeer, hroute2.2]; exact hroute 0)
  have hnoted : findColl (shardNoted v c e x s2) v c.cmd = some { wroteData x c with plan := l1 ++ gotMore e x.data.length e :: l2 } := by
    rw [shardNoted, hpeer, hshard]
    exact findColl_updEntry (c := wroteData x c) (findColl_updColl (f := wroteData x) hc2 fun _ => rfl) honly hrecv (gotMore e x.data.length)
  have hu := (hsent.findColl v c.cmd).trans hnoted
  have hentry : recvEntry c x.peer x.shard = some e := by
    have hkind : (fun y : PlanEntry => y.recv && y.peer == e.peer && y.shard == e.shard) = sameEntry e := by
      funext y
      simp [sameEntry, hrecv]
    rw [recvEntry, hpeer, hshard, hkind, honly.find]
  have hstage : c.writes.foldl (writeShard v c.cmd) s = u := by
    rw [hwrites]
    exact (writeShard_writes hc hentry hat hwrite).trans hwritten
  have hnow : planNow u v c.cmd = l1 ++ gotMore e x.data.length e :: l2 := (planNow_of hu).trans rfl
  have hpulls := pulls_rest hnow hrests hasked
  have hcopies := copies_rest (v := v) (c := c) hnow hrests (gotMore_notCopying hat _) u
  have hplan : planProgress v c.cmd s = u := (planProgress_eq hc hstage hpulls hcopies).trans hcopies
  refine ⟨u, permute_goesOn hidx hc hstarted hrun hop hplan hu hrefetches haudits, ?_, ?_, ?_, ?_⟩
  · rw [hsent.queued]
    show s2.links.ports[port].txq.length + _ = _
    rw [hlinks]
    rfl
  · exact hsent.same.2 .mem (by decide)
  · rw [hu, honly.map]
    simp [wroteData, hwrites, dropFirst]
  · exact sameBut_trans (u := shardNoted v c e x s2) sameBut_rfl hsent.same

/-- A staged shard that has been read out of its half is written to its range. -/
theorem permute_copies {h : Fin 2} {d : Data} (hwrites : c.writes = []) (hrecv : e.recv = true) (hasked : e.asked = false)
    (hstate : e.state = .copying h (some d))
    (hwrite : ioMany .own (whoUnit v) (shardKey c 7 (shardNum true e.peer e.shard)) [(ioWrite e.dva d).own] s = (s2, .done [[]])) :
    ∃ u, exec (.collDescriptorStart v idx) s = .next u ∧ u.mem = s2.mem ∧ SameBut [.links] s2 u ∧
      (findColl u v c.cmd).map (fun c => c.plan) = some (c.plan.map fun x => if x = e then { x with state := .done } else x) := by
  have hc2 : findColl s2 v c.cmd = some c := (findColl_of_links hlinks ..).trans hc
  let u := updPlan v c.cmd true e.peer e.shard (fun e => { e with state := .done }) s2
  have hu : findColl u v c.cmd = some { c with plan := l1 ++ { e with state := .done } :: l2 } := findColl_updEntry hc2 honly hrecv _
  have hpulls := pulls_rest ((planNow_of hc).trans honly.plan_eq) hrests hasked
  have hcopy : (planNow s v c.cmd).foldl (copyShard v c.cmd) s = u := by
    rw [planNow_of hc, honly.plan_eq, foldl_copyShard_one hrests]
    exact copyShard_writes hc hstate hwrite
  have hplan : planProgress v c.cmd s = u := (planProgress_eq hc (by rw [hwrites]; rfl) hpulls hcopy).trans
    (copies_rest ((planNow_of hu).trans rfl) hrests (f := { e with state := .done }) (by simp) u)
  refine ⟨u, permute_goesOn hidx hc hstarted hrun hop hplan hu hrefetches haudits, rfl, sameBut_rfl, ?_⟩
  rw [hu, honly.map]
  rfl

/-- A staged shard is read out of its half, and its range is written next. -/
theorem permute_readsHalf {h : Fin 2} {d : Data} {s3 : State} (hwrites : c.writes = []) (hrecv : e.recv = true) (hasked : e.asked = false)
    (hstate : e.state = .copying h none)
    (hread : ioMany .own (whoUnit v) (shardKey c 6 (shardNum true e.peer e.shard)) [(ioRead (stagingHalf c.slot.pay h.val).1 e.bytes).own] s =
      (s2, .done [d]))
    (hwrite : ioMany .own (whoUnit v) (shardKey c 7 (shardNum true e.peer e.shard)) [(ioWrite e.dva d).own]
      (updPlan v c.cmd true e.peer e.shard (fun e => { e with state := .copying h (some d) }) s2) = (s3, .wait))
    (hlinks3 : s3.links = (updPlan v c.cmd true e.peer e.shard (fun e => { e with state := .copying h (some d) }) s2).links) :
    exec (.collDescriptorStart v idx) s = .next s3 := by
  have hc2 : findColl s2 v c.cmd = some c := (findColl_of_links hlinks ..).trans hc
  let held := updPlan v c.cmd true e.peer e.shard (fun e => { e with state := .copying h (some d) }) s2
  have hheld : findColl held v c.cmd = some { c with plan := l1 ++ { e with state := .copying h (some d) } :: l2 } :=
    findColl_updEntry hc2 honly hrecv _
  have hpulls := pulls_rest ((planNow_of hc).trans honly.plan_eq) hrests hasked
  have hcopy : (planNow s v c.cmd).foldl (copyShard v c.cmd) s = held := by
    rw [planNow_of hc, honly.plan_eq, foldl_copyShard_one hrests]
    exact copyShard_reads hc hstate hread
  have hplan : planProgress v c.cmd s = s3 := by
    refine (planProgress_eq hc (by rw [hwrites]; rfl) hpulls hcopy).trans ?_
    rw [planNow_of hheld]
    refine (foldl_copyShard_one hrests).trans ?_
    exact copyShard_waits (e := { e with state := .copying h (some d) }) hheld rfl hwrite
  exact permute_goesOn hidx hc hstarted hrun hop hplan ((findColl_of_links hlinks3 ..).trans hheld) hrefetches haudits

end
theorem permutesGoOn : Claims.PermutesGoOn := by
  intro s s2 v idx c e port hidx hc hstarted hrun hop hrefetches haudits hlinks hfilter node hother hnode hroute others plan queued acc
  obtain ⟨l1, l2, honly⟩ := onlyEntry_of_filter hfilter
  have hrests (h : others) : ∀ x ∈ l1 ++ l2, EntryRests x := fun x hx => h x (honly.mem hx) (honly.ne hx)
  refine ⟨?_, ?_, ?_, ?_⟩
  · intro d hothers hwrites hrecv hasked
      hstate hread
    exact permute_sends hidx hc hstarted hrun hop hrefetches haudits hlinks honly (hrests hothers) hother hnode hroute hwrites hrecv hasked
      hstate hread
  · intro x base hothers hwrites hx hrecv hasked hat hwrite
    obtain ⟨hpeer, hshard⟩ := Prod.mk.inj hx
    exact permute_writes hidx hc hstarted hrun hop hrefetches haudits hlinks honly (hrests hothers) hother hnode hroute hwrites hpeer hshard hrecv
      hasked hat hwrite
  · intro h d hothers hwrites hrecv hasked hstate hwrite
    exact permute_copies hidx hc hstarted hrun hop hrefetches haudits hlinks honly (hrests hothers) hwrites hrecv hasked hstate hwrite
  · intro h d s3 hothers hwrites hrecv hasked hstate hread held hwrite hlinks3
    exact permute_readsHalf hidx hc hstarted hrun hop hrefetches haudits hlinks honly (hrests hothers) hwrites hrecv hasked hstate
      hread hwrite hlinks3

/-- Settles O42: the commands enter, descriptors start, end and are audited, and a running PERMUTE goes on entry by entry. -/
theorem collectiveDescriptors : Obligations.CollectiveDescriptors := ⟨collectivesQueue, collectivesRun, permutesGoOn⟩

end Sys2Proof.Machine
end
